-- ==== Sys2Proof/Word.lean ====
section
/-! DEFINITION. The word types of the KZ9600 (R6, R7). -/

namespace Sys2Proof

/-- A BAR0 register (R7). -/
abbrev Word := BitVec 32

/-- One byte of a frame, a record or a buffer. -/
abbrev Byte := BitVec 8

end Sys2Proof
end

