-- ==== Sys2Proof/Syntax.lean ====
section
/-! DEFINITION. The commands of the block: one constructor of `Instr` for each row of spec/opcode_table.json, and the
plain data that the rows carry. A command is one whole step of the part, sent from outside: a host access, a ring
operation, a radio or air event, a pin, a supply, or the end of something that takes time. -/

namespace Sys2Proof

/-- The access paths to BAR0 (R365). -/
inductive Path where
  | host | debug
  deriving DecidableEq, Repr

/-- A 64-byte submission descriptor as its sixteen dwords (R334). -/
structure Desc where
  dw0 : Word
  dw1 : Word
  dw2 : Word
  dw3 : Word
  dw4 : Word
  dw5 : Word
  dw6 : Word
  dw7 : Word
  dw8 : Word
  dw9 : Word
  dw10 : Word
  dw11 : Word
  dw12 : Word
  dw13 : Word
  dw14 : Word
  dw15 : Word
  deriving DecidableEq, Repr

/-- What host memory does for one command (R341): the input bytes it returns (`none`: the read failed), and whether
its output writes succeed. -/
structure HostMem where
  inp : Option (List Byte)
  outOk : Bool
  deriving DecidableEq, Repr

/-- What the outside shows at one beat boundary: the bits of the I and V modulators at each modulator clock of the beat that
ends, oldest first, as MTR_CFG.EDGE samples them (R209, R211), the bank supplies in 10 mV and die temperatures (R88, R93), and
the PTM master time of the boundary (R324). -/
structure BeatIn where
  bits : List (Bool × Bool)
  vdrv : List Nat
  temp : List Int
  ptmNs : BitVec 64
  deriving DecidableEq, Repr

/-- One 96-bit reply as the demodulator sees it (R112): the bits whose first and second half carry energy (reply bit 0 is
bit 95), the load-transition times of its first 8 bits in 1/64 cycle from cycle 0 of the frame (R115), and ΔZ in
0.1 mΩ (R86). -/
structure RawReply where
  first : BitVec 96
  second : BitVec 96
  stamps : List Int
  dR : Int
  dX : Int
  deriving DecidableEq, Repr

/-- What a channel measures in one exchange: its reply slots, whether the paired write would fall in the last 20 µs of
the beat (R35), and the electrical results of R84 with the carrier that the tank phase asks for (R72). -/
structure AirResult where
  slots : List RawReply
  late : Bool
  zre : Int
  zim : Int
  ipk : BitVec 12
  theta : BitVec 8
  wantFtw : Nat
  deriving DecidableEq, Repr

/-- What calibration measures on one channel (R76, R79). -/
structure CalResult where
  resonance : Bool
  fRes : Nat
  rTank : BitVec 16
  q10 : BitVec 16
  lnH : Nat
  grpdly : BitVec 12
  noise : BitVec 16
  ipk : BitVec 12
  theta : BitVec 8
  zre : Int
  zim : Int
  deriving DecidableEq, Repr

/-- The channel faults of R94, in the bit order of LFC_n_FAULT. -/
inductive ChFault where
  | opn | short | overcurrent | detune | senseClip | gangImb | crc | supply
  deriving DecidableEq, Repr

/-- The polder faults of R43 that have no row of their own. -/
inductive PldFault where
  | memUe | pageErr | selfTest
  deriving DecidableEq, Repr

/-- The release lanes. -/
inductive LaneId where
  | a | b
  deriving DecidableEq, Repr

/-- Why a lane is dead (R201): no alive edge, or one switch's readback disagrees. -/
inductive LaneCause where
  | noEdge
  | stuck (sluice : Fin 4)
  deriving DecidableEq, Repr

/-- The supplies of R380. -/
inductive Supply where
  | vaon | vana | vrf | vfl | vio | vcore
  | vdrv (bank : Fin 4)
  deriving DecidableEq, Repr

/-- The wake sources of R392. -/
inductive WakeSrc where
  | hostLink | wakeIn | uhf | driveHold | rtc | rstN
  | tamp (pin : Fin 4)
  deriving DecidableEq, Repr

/-- A received telegram: LEN, TYPE, PAYLOAD and CRC as received (R170), and the RSSI in dBm of its preamble on each aerial
(R164). -/
structure Telegram where
  bytes : List Byte
  rssiA : BitVec 8
  rssiB : BitVec 8
  deriving DecidableEq, Repr

/-- What the device measures of a range exchange: its own phase of each tone in 1/65536 turn, already corrected (R182),
`none` where it measured no tone; in tone order 0, 1, … -/
structure RangeMeas where
  phase : List (Option Int)
  deriving DecidableEq, Repr

/-- A calibration of the synthesiser (R161): whether it succeeds, and the die temperature in °C. -/
structure RadioCal where
  good : Bool
  temp : Int
  deriving DecidableEq, Repr

/-- The flash writes whose end completes a command (R375, R228, R346). -/
inductive FlashOp where
  | configCommit | ledgerTopup | imageLoad
  deriving DecidableEq, Repr

/-- What reaches the device through the TAP (R276). -/
inductive TapOp where
  | bypass | idcode | samplePreload | extest
  | readDbgStatus | readGlbId
  | barRead (off : BitVec 16)
  | barWrite (off : BitVec 16) (v : Word)
  | flashRead (area : Fin 7) (addr : Nat)
  | flashWrite (area : Fin 7) (addr : Nat) (v : Byte)
  | keeperHalt | keeperResume | keeperStep
  | keeperRead (addr : Nat)
  | keeperWrite (addr : Nat) (v : Byte)
  | testMode
  deriving DecidableEq, Repr

/-- The areas of the flash main array, in the order of R241. -/
inductive FlashArea where
  | firmware | config | registry | counterRing | retirement | checkpoints | journal
  deriving DecidableEq, Repr

inductive Instr where
  -- host commands of the rings (R342)
  | nop (sq : Fin 16) (m : HostMem)
  | snapshot (sq : Fin 16) (m : HostMem)
  | sweep (sq : Fin 16) (m : HostMem)
  | authToken (sq : Fin 16) (m : HostMem)
  | locate (sq : Fin 16) (m : HostMem)
  | enrol (sq : Fin 16) (m : HostMem)
  | rekeyToken (sq : Fin 16) (m : HostMem)
  | calChannel (sq : Fin 16) (m : HostMem)
  | radioTx (sq : Fin 16) (m : HostMem)
  | radioRxWindow (sq : Fin 16) (m : HostMem)
  | range (sq : Fin 16) (m : HostMem)
  | sluiceSet (sq : Fin 16) (m : HostMem)
  | sluiceStatus (sq : Fin 16) (m : HostMem)
  | safeWithdraw (sq : Fin 16) (m : HostMem)
  | ledgerTopup (sq : Fin 16) (m : HostMem)
  | ledgerQuery (sq : Fin 16) (m : HostMem)
  | ledgerCheckpoint (sq : Fin 16) (m : HostMem)
  | journalRead (sq : Fin 16) (m : HostMem)
  | cipherCmac (sq : Fin 16) (m : HostMem)
  | cipherCtr (sq : Fin 16) (m : HostMem)
  | ccmSeal (sq : Fin 16) (m : HostMem)
  | ccmOpen (sq : Fin 16) (m : HostMem)
  | keyDerive (sq : Fin 16) (m : HostMem)
  | keyInvalidate (sq : Fin 16) (m : HostMem)
  | keyInfo (sq : Fin 16) (m : HostMem)
  | keyImport (sq : Fin 16) (m : HostMem)
  | rngGet (sq : Fin 16) (m : HostMem)
  | configStageImage (sq : Fin 16) (m : HostMem)
  | configCommit (sq : Fin 16) (m : HostMem)
  | polderCtl (sq : Fin 16) (m : HostMem)
  | imageLoad (sq : Fin 16) (m : HostMem)
  | restart (sq : Fin 16) (m : HostMem)
  | lifecycleAdvance (sq : Fin 16) (m : HostMem)
  | debugUnlock (sq : Fin 16) (m : HostMem)
  -- doorbells and the fetcher
  | sqTailDoorbell (sq : Fin 16) (v : Word)
  | cqHeadDoorbell (cq : Fin 16) (v : Word)
  | eqHeadDoorbell (v : Word)
  | descriptorFetch (ds : List (Option Desc))
  -- register writes with rows of their own
  | sqEnable (sq : Fin 16) (v : Word)
  | sqDisable (sq : Fin 16) (v : Word)
  | cqEnable (cq : Fin 16) (v : Word)
  | cqDisable (cq : Fin 16) (v : Word)
  | eqEnable (v : Word)
  | eqDisable (v : Word)
  | qHoldWrite (v : Word)
  | cfgHold (on : Bool)
  | cfgDiscard
  | cfgSealRefWrite (v : Word)
  | sleepRequest
  | hibernateRequest
  | ptmCapture
  | rlRead (path : Path) (off : BitVec 16)
  | poweredOffAccess (path : Path) (off : BitVec 16) (write : Bool)
  | registerWrite (path : Path) (off : BitVec 16) (v : Word) (be : BitVec 4)
  | interruptTimerExpiry (q : Fin 17)
  -- the boundary and what falls at boundaries
  | beatBoundary (b : BeatIn)
  | sealReload
  | sealReloadLimit
  | sealGraceExpiry
  | leaseExpiry (n : Fin 4)
  | verificationAgeOut (ch : Fin 96)
  | tokenAgeOut (reg : Fin 4096)
  | toleranceExpiry (ch : Fin 96)
  | leveeDeferLimit (ch : Fin 96)
  -- LF
  | uplinkReply (ch : Fin 96) (r : AirResult)
  | calibrationCommit (ch : Fin 96)
  | channelFault (ch : Fin 96) (f : ChFault)
  | faultRetry (ch : Fin 96)
  | channelRetirement (ch : Fin 96)
  | bankReady (b : Fin 4)
  | bankSupplyFault (b : Fin 4) (vdrv : Nat)
  | bankTemperatureChange (b : Fin 4) (temp : Int)
  | bankLinkFrameError (b : Fin 4) (retx : Fin 4) (undelivered : Bool)
  | bankLinkRetirement (b : Fin 4)
  | polderAckTimeout (p : Fin 5)
  | polderFault (p : Fin 5) (k : PldFault)
  | polderFailover (p : Fin 5)
  | polderFaultSelfTestDone (p : Fin 5) (pass : Bool)
  | polderStartSelfTestDone (p : Fin 5) (pass : Bool)
  | spareSelfTest (pass : Bool)
  | polderFcntClear (p : Fin 5)
  | rebalance
  | channelMoveWhenIdle (ch : Fin 96)
  | migrationRestart (ch : Fin 96)
  | nextPassStart (p : Fin 5)
  -- lanes and sluices
  | laneDeath (l : LaneId) (c : LaneCause)
  | laneReturn (l : LaneId)
  | laneRejoin (l : LaneId)
  | laneDownTimeout (l : LaneId)
  | sluiceStageTrip (n : Fin 4) (thermal : Bool)
  | sluiceOutputFaulted (n : Fin 4)
  | sluiceOpenLoad (n : Fin 4)
  | driveHoldChange (level : Bool)
  | tamperChange (idx : Fin 4) (level : Bool)
  -- meter, ledger, journal
  | voucherApply
  | meterInputFault (vInput : Bool) (faulted : Bool)
  | counterRecordPeriodic
  | meterSummaryPeriod
  | journalSeal
  | journalChainCatchup
  | dailyCheckpoint
  | journalCompaction
  | journalRoll
  -- supplies, reset, start
  | supplyWarning (x : Supply) (bits : List (Bool × Bool))
  | supplyUndervoltage (x : Supply)
  | por
  | rstNAssert (lowUs : Nat) (taken : Bool)
  | rstNRelease
  | optionLoadDone (aOk bOk : Bool)
  | armatureLoadDone (ticketOk : Bool)
  | keeperBoot (aOk bOk : Bool)
  | configImageLoad (aOk bOk : Bool)
  | domainSwitchOn (d : Fin 17)
  | domainReady (d : Fin 17)
  | domainSwitchOff (d : Fin 17)
  | startComplete
  | startWatchdog
  | keeperWatchdog
  | keeperRestartDone
  | functionReset
  | busMasterEnableChange (on : Bool)
  | linkSpeedChange (gen3 : Bool)
  | vcoreRampCheck (reached : Bool)
  | ptmDialogue (valid : Bool)
  | dozeEntry
  | dozeExit
  | powerDownEntry
  | wake (src : WakeSrc)
  | wakeInPattern (gapUs : Nat) (pulseUs : Nat)
  | uhfSniff (preamble : Bool)
  | devWake (t : Telegram)
  | rtcAlarm
  | aonClockSwitch
  | aonCrystalFail
  -- radio
  | radioActivityStart (lock : Bool) (clear : Bool)
  | synthLockTimeout
  | synthLockLost (tone : Option (Fin 64))
  | radioCalibration (e : Fin 8) (r : RadioCal)
  | coexGrantTimeout
  | coexGntRise
  | coexGntFall
  | lbtRetry (clear : Bool)
  | dutyBinRoll
  | locReply (t : Telegram)
  | locatePollRoundEnd (collided : Nat)
  | rangeReport (t : Telegram) (m : RangeMeas)
  | rangeReportTimeout
  | accessTelegram (t : Telegram)
  | hostTelegramRx (t : Telegram)
  | rxWindowEnd
  | radioRetirement
  -- cipher, keys, registry
  | cipherMismatch (agree : Bool)
  | cipherKatDone (aOk bOk agree : Bool)
  | maskReseed
  | patinaPass (onTime : Bool)
  | keyRamError (idx : Fin 256)
  | nodeUsageLimit (idx : Fin 256)
  | usesMarkRaise (idx : Fin 256)
  | instanceMarkRaise (idx : Fin 256)
  | sessResRaise (idx : Fin 4096)
  | rekeyConfirm (idx : Fin 4096)
  | registryChangeApply
  -- entropy
  | entropyWindowEnd (srcB : Bool) (bits : BitVec 1024)
  | entropyWarmupTimeout
  | softReseedLimit
  | hardReseedLimit
  | entropyWaitTimeout
  -- life-cycle and debug
  | advanceClose
  | advanceCommit
  | advanceDestroy
  | advanceInstall
  | advanceResume
  | debugOpen
  | debugWindowEnd
  -- the rest
  | retirementTableSwap
  | supplyRecovery (x : Supply)
  | perstDeassert
  | linkL0Reached
  | wakeSignalTimeout
  | entryWaitExpiry
  | sniffSyncTimeout
  | calibrationDone (ch : Fin 96) (r : CalResult)
  | flashWriteDone (op : FlashOp) (ok : Bool)
  | jtagTapAccess (op : TapOp)
  | pcieConfigAccess (reg : Fin 1024) (write : Option Word)
  | msixTableWrite (vec : Fin 32) (dw : Fin 4) (v : Word)
  deriving DecidableEq, Repr

end Sys2Proof
end

