-- ==== Sys2Proof/Config.lean ====
section
/-! DEFINITION. What one part fixes (fuses, ROM) and the free values: constants with no body, so that no proof can
see what they are.

Marked choices (log entries): DESIGN CHOICE 3, 30, 55, 75; PRESUMED 11. -/

namespace Sys2Proof.Config

/-- The fused 64-bit DEVICE_UID (R247). -/
opaque deviceUid : BitVec 64

/-- The fused 256-bit device secret (R247). -/
opaque deviceSecret : BitVec 256

/-- GLB_INFO.STEPPING, from the fuses (R431). -/
opaque stepping : BitVec 8

/-- GLB_INFO.GRADE, from the fuses: true on the KZ9600-SQ (R431). -/
opaque gradeSq : Bool

/-- The conditioner's fixed 128-bit ROM key (R312). -/
opaque conditionerKey : BitVec 128

/-- PCIe configuration dwords that the manual leaves to the base specifications (R321, R322). -/
opaque pcieConfigDword : Nat → BitVec 32

/-- A value the manual leaves open, named by the use count of the machine (log entry 3). -/
opaque freeWord : Nat → BitVec 32

/-- A stretch of modulator bits of the I and V inputs that no command brings (R211, R391): a free value as `freeWord`. -/
opaque freeBits : Nat → List (Bool × Bool)

/-- Bytes of keeper memory, as the debug port reads them (R276): by address. -/
opaque keeperByte : Nat → BitVec 8

/-- Bytes of flash that the manual does not lay out, as the debug port reads them (R276): by area and address. -/
opaque flashByte : Nat → Nat → BitVec 8

end Sys2Proof.Config
end

