-- ==== Sys2Proof/Machine/State.lean ====
section
/-! DEFINITION. The state of the KZ9600, as plain data: every register, table, queue, counter, mode and pin the manual gives
the part, unit by unit, with `State.reset`, and the reasons a step can stop. Sparse tables (`SMap`) list only the keys
whose value differs from the table's default, keys rising.

Marked choices (log entries): DESIGN CHOICE 1, 3, 4, 10; DEDUCED 82; PRESUMED 11, 91. -/

namespace Sys2Proof.Machine

open Sys2Proof

/-- A sparse table: keys strictly rising, no entry equal to the table's default. -/
abbrev SMap (α : Type) := List (Nat × α)

/-- The status codes of R358. -/
inductive Status where
  | ok | okRetried | okMigrated
  | noResponse | collision | authFail | timingBoundFail | couplingMismatch | duplicate | foreignToken | rangeInconsistent
  | channelRetired | channelFaultTransient | leveeDeferred
  | synthNotReady | regLimit | coexDenied
  | keyInvalid | keyUsageExhausted | tagMismatch | dikeViolation
  | lengthErr | addrErr | opcodeUnsupported | queueDisabled
  | entropyTimeout
  | voucherReplay | voucherBad | creditExhausted
  | lifecycleDenied | debugDenied
  | abortedStop | busySpillway
  deriving DecidableEq, Repr

/-- A long operation's progress register (R377). -/
structure Progress where
  progress : Nat
  position : Nat
  active : Bool
  deriving DecidableEq, Repr

def Progress.idle : Progress := ⟨0, 0, false⟩

/-! ### Clock -/

/-- BEAT_COUNT (R31), model time in µs since POR at the last boundary, the RTC as 10⁻⁶ ticks of 1/32 768 s (PWR_RTC), the
model's own counter of free values drawn (log entry 3), and the beat whose boundary has been carried out (log entry 82). -/
structure Clock where
  beat : BitVec 64
  nowUs : Nat
  rtcMicroTicks : Nat
  fresh : Nat
  acted : BitVec 64
  deriving DecidableEq, Repr

def Clock.reset : Clock := ⟨0, 0, 0, 0, 0⟩

/-! ### Configuration and register access -/

/-- The staging set, the active values, the config seal (R362 to R376) and the access-path shadows (R365). `vals` lists
the RWS registers whose active value differs from the reset value; `rdata` is the word the last read returned. -/
structure CfgState where
  vals : SMap Word
  staged : SMap Word
  /-- Offsets that the staged image brought, with the index of its command (R376). -/
  imageSet : List Nat
  imageUid : Option Nat
  meterPend : SMap Word
  hold : Bool
  stageLost : Bool
  basicDrop : Bool
  basicDropAddr : BitVec 16
  dirty : Bool
  dirtyUs : Nat
  noImage : Bool
  reloaded : Bool
  sealFault : Bool
  imageSel : Nat
  imgSeq : Word
  sealRef : Word
  sealLive : Word
  /-- The values read so far in the seal pass that runs, oldest first. -/
  sealRead : List Word
  sealClean : Bool
  sealComparing : Bool
  sealMismatch : Bool
  /-- A reload took place and no clean comparing pass has matched since (R370, step 4). -/
  sealAfterReload : Bool
  sealFirstRef : Bool
  reloads : Nat
  upsetCount : Nat
  upsetAddr : BitVec 16
  reloadDue : Bool
  excluded : List Nat
  /-- Registers that run from the ECC-protected shadow (R372). -/
  eccShadow : List Nat
  enrolProg : Progress
  imgProg : Progress
  optProg : Progress
  /-- Shadows of the RH words: key = offset, plus 0x10000 for the debug path. -/
  rlShadow : SMap Word
  rdata : Word
  deriving DecidableEq, Repr

def CfgState.reset : CfgState :=
  { vals := [], staged := [], imageSet := [], imageUid := none, meterPend := [], hold := false, stageLost := false,
    basicDrop := false, basicDropAddr := 0, dirty := false, dirtyUs := 0, noImage := false, reloaded := false,
    sealFault := false, imageSel := 2, imgSeq := 0, sealRef := 0, sealLive := 0, sealRead := [], sealClean := false,
    sealComparing := false, sealMismatch := false, sealAfterReload := false, sealFirstRef := false, reloads := 0,
    upsetCount := 0, upsetAddr := 0, reloadDue := false, excluded := [], eccShadow := [], enrolProg := .idle,
    imgProg := .idle, optProg := .idle, rlShadow := [], rdata := 0 }

/-! ### Rings -/

inductive SqState where
  | disabled | active | draining | error
  deriving DecidableEq, Repr

/-- A submission queue (Q_SQn, R328 to R331). `size` is the SIZE field. -/
structure Sq where
  base : BitVec 64
  size : Nat
  cq : Nat
  burst : Nat
  head : Nat
  tail : Nat
  st : SqState
  deriving DecidableEq, Repr

def Sq.reset : Sq := ⟨0, 0, 0, 0, 0, 0, .disabled⟩

/-- A completion (R335); `noirq` is its command's NOIRQ (R357). -/
structure Completion where
  cmdId : BitVec 16
  status : Status
  result : Word
  beatStamp : Word
  sqId : Nat
  noirq : Bool
  deriving DecidableEq, Repr

/-- A completion queue (Q_CQn, R332) with its holding buffer and its interrupt moderation (R357). -/
structure Cq where
  base : BitVec 64
  size : Nat
  vector : Nat
  ien : Bool
  cnt : Nat
  time : Nat
  head : Nat
  tail : Nat
  phase : Bool
  active : Bool
  held : List Completion
  counted : Nat
  timer : Bool
  deriving DecidableEq, Repr

def Cq.reset : Cq := ⟨0, 0, 0, false, 1, 0, 0, 0, true, false, [], 0, false⟩

/-- An event (R337) before it takes its place in the EQ. -/
structure Event where
  code : BitVec 16
  source : BitVec 8
  detail : BitVec 64
  beat : Word
  deriving DecidableEq, Repr

/-- The event queue (Q_EQ, R333). -/
structure Eq where
  base : BitVec 64
  size : Nat
  vector : Nat
  ien : Bool
  cnt : Nat
  time : Nat
  head : Nat
  tail : Nat
  phase : Bool
  active : Bool
  overflow : Bool
  mask : BitVec 14
  dropped : Nat
  lost : Bool
  counted : Nat
  timer : Bool
  deriving DecidableEq, Repr

def Eq.reset : Eq := ⟨0, 0, 0, false, 1, 0, 0, 0, true, false, false, 0x3FFF, 0, false, 0, false⟩

/-- What the device writes to host memory or sends, in order of issue (R332, R333, R351, R356). -/
inductive BusOut where
  | data (addr : BitVec 64) (bytes : List Byte)
  | completion (addr : BitVec 64) (cq : Nat) (index : Nat) (phase : Bool) (sqHead : Nat) (c : Completion)
  | event (addr : BitVec 64) (index : Nat) (phase : Bool) (lost : Bool) (e : Event)
  | msix (vector : Nat) (addr : BitVec 64) (data : Word)
  | ltr (us : Nat)
  | ptmRequest
  deriving DecidableEq, Repr

/-- One output record of a command, with what R153 needs of it. `key` orders the records. -/
structure Rec where
  key : Nat
  status : Option Status
  good : Bool
  foreign : Bool
  retried : Bool
  migrated : Bool
  beat : BitVec 64
  bytes : List Byte
  deriving DecidableEq, Repr

inductive CmdState where
  /-- Accepted, waiting for what it needs (R349, R352). -/
  | waiting
  /-- Running: its work is under way. -/
  | running
  deriving DecidableEq, Repr

/-- A fetched command that has not completed; `left`, `count`, `flag` and `bytes` are its own working values. A command that a
function reset left running has `sq` 16: it ends without output and completion (R354). -/
structure Cmd where
  uid : Nat
  sq : Nat
  desc : Desc
  st : CmdState
  fetchBeat : BitVec 64
  /-- Model time of the boundary before the fetch, µs. -/
  fetchUs : Nat
  outOk : Bool
  recs : List Rec
  /-- Transactions, channels or requests still open. -/
  left : Nat
  count : Nat
  flag : Bool
  bytes : List Byte
  /-- Every check has passed: the queue votes for the command's domains (R349). -/
  voted : Bool
  deriving DecidableEq, Repr

/-- The ring engine, the PCIe function as far as the manual gives it, and the PTM registers. -/
structure Ring where
  sqs : SMap Sq
  cqs : SMap Cq
  eq : Eq
  cmds : List Cmd
  nextUid : Nat
  /-- The SQ served last (R331). -/
  turn : Nat
  dbRange : Bool
  dbDisabled : Bool
  cfgBusy : Bool
  cfgBad : Bool
  fetchErr : Bool
  errSq : Nat
  errCq : Nat
  errEq : Bool
  holdVotes : BitVec 17
  fetched : Nat
  posted : Nat
  out : List BusOut
  /-- Writes that wait while Bus Master Enable is 0 (R354). -/
  heldOut : List BusOut
  bme : Bool
  memEn : Bool
  d3hot : Bool
  gen3 : Bool
  linkUp : Bool
  /-- MSI-X: masked vectors, pending bits, address and data per vector (R356). -/
  msixMask : BitVec 32
  pba : BitVec 32
  msixCtl : BitVec 2
  msixAddr : SMap (BitVec 64)
  msixData : SMap Word
  pcieRegs : SMap Word
  ptmAuto : Bool
  ptmCtxValid : Bool
  ptmPairValid : Bool
  ptmCapture : Bool
  ptmB : BitVec 64
  ptmT : BitVec 64
  /-- Latency tolerance last reported, µs; 0 before the first report (R323). -/
  ltr : Nat
  /-- Accesses held during a keeper restart (R24, R327, R364), oldest first: doorbell offset or 0x10000 + register. -/
  deferred : List (Nat × Word)
  /-- Events and completions that wait for the end of a keeper restart (R24), oldest first; a completion with its CQ. -/
  restartEv : List Event
  restartCp : List (Nat × Completion)
  heldWake : Bool
  deriving DecidableEq, Repr

def Ring.reset : Ring :=
  { sqs := [], cqs := [], eq := .reset, cmds := [], nextUid := 1, turn := 15, dbRange := false, dbDisabled := false,
    cfgBusy := false, cfgBad := false, fetchErr := false, errSq := 0, errCq := 0, errEq := false, holdVotes := 0,
    fetched := 0, posted := 0, out := [], heldOut := [], bme := false, memEn := false, d3hot := false, gen3 := false,
    linkUp := false, msixMask := 0xFFFFFFFF#32, pba := 0, msixCtl := 0, msixAddr := [], msixData := [], pcieRegs := [],
    ptmAuto := false, ptmCtxValid := false, ptmPairValid := false, ptmCapture := false, ptmB := 0, ptmT := 0,
    ltr := 0, deferred := [], restartEv := [], restartCp := [], heldWake := false }

/-! ### LF channels, polders and banks -/

/-- A calibration record (R76, R79). -/
structure Cal where
  valid : Bool
  fRes : Nat
  rTank : BitVec 16
  q10 : BitVec 12
  lnH : Nat
  grpdly : BitVec 12
  noise : BitVec 16
  deriving DecidableEq, Repr

def Cal.none : Cal := ⟨false, 0, 0, 0, 0, 0, 0⟩

/-- A place of AUTO or FIXED placement (R48): a polder, a pass counted from 1, and one of the 24 positions of a pass; position
24 stands for none (of an inactive channel) or for any (of a place asked for). -/
structure Place where
  pol : Nat
  pass : Nat
  pos : Nat
  deriving DecidableEq, Repr

/-- The work a command asks of one channel. -/
inductive JobKind where
  | sweep | addressed | discover | enrolSlot | enrolKey | rekey | unlock
  | cal (level : Nat) (commit : Bool) (reinstate : Bool)
  | loc (lead : Bool)
  deriving DecidableEq, Repr

/-- What one transaction sends (R108), or the calibration steps of R76, or the LF part of R125. -/
inductive Frame where
  | auth | ident (q : Nat) | readInfo | rekey | cal | loc
  deriving DecidableEq, Repr

/-- The phase of a transaction (R465). -/
inductive TxPhase where
  | queued | waitNonce | waitAdmit | onAir | quiet | faultWait
  deriving DecidableEq, Repr

/-- What a coil does from a carrier cycle on (R101, R124, R125): bridge off, full carrier or reduced carrier. -/
inductive Drive where
  | off | full | reduced
  deriving DecidableEq, Repr

/-- The electrical results of an attempt (R84), with the carrier that the tank phase asks for (R72; `none`: no such estimate). -/
structure Meas where
  zre : Int
  zim : Int
  ipk : BitVec 12
  theta : BitVec 8
  want : Option Nat
  deriving DecidableEq, Repr

/-- The settings a transaction takes at its start and holds (R69, R100). -/
structure TxSet where
  ftw : Nat
  target : Nat
  slow : Bool
  role : Nat
  tbofs : Int
  tbTol : Nat
  csTol : Nat
  csFloor : Nat
  win : Nat
  freq : Nat
  sense : Word
  tune : Word
  deriving DecidableEq, Repr

def TxSet.none : TxSet := ⟨0, 0, false, 0, 0, 0, 0, 0, 0, 0, 0, 0⟩

/-- The states of a registry entry (R132). -/
inductive RegState where
  | free | active | pending | exhausted
  deriving DecidableEq, Repr

/-- A registry entry (R132) with its session counter (R140). -/
structure RegEntry where
  id : BitVec 64
  kind : Nat
  st : RegState
  pend : Bool
  fleet : Nat
  gen : BitVec 16
  pendGen : BitVec 16
  roles : BitVec 4
  sess : Nat
  sessRes : Nat
  model : BitVec 16
  slot : Option Nat
  wseq : Nat
  deriving DecidableEq, Repr

def RegEntry.free : RegEntry := ⟨0, 0, .free, false, 0, 0, 0, 0, 0, 0, 0, none, 0⟩

/-- The work of one command on one channel: the transaction in progress and what the sequence has collected. -/
structure Job where
  uid : Nat
  kind : JobKind
  prio : Nat
  /-- The polder the descriptor names (R47). -/
  pol : Option Nat
  /-- Instance of the fleet node at the start (R139). -/
  keyInst : Nat
  /-- Index of the transaction within the sequence of the kind. -/
  step : Nat
  frame : Frame
  phase : TxPhase
  startUs : Nat
  startBeat : BitVec 64
  /-- Challenge, seed or NONCE of the attempt, most significant byte first. -/
  nonce : Nat
  nonceReady : Bool
  defers : Nat
  /-- Levee reservation held: die dissipation in nW and VDRV current in nA (R88). -/
  resv : Option (Nat × Nat)
  set : TxSet
  /-- What the attempt drives: the start cycle of each stretch, in cycles of its carrier from the attempt's first (R101). -/
  wave : List (Nat × Drive)
  /-- What the attempt has measured, once its replies are in. -/
  meas : Option Meas
  retries : Nat
  restarts : Nat
  attempts : Nat
  /-- Channel faults of this transaction's attempts, in the layout of LFC_n_FAULT. -/
  faults : BitVec 8
  hardSeen : Bool
  /-- No start before this time (R51) or this boundary (R95). -/
  notBeforeUs : Nat
  notBeforeBeat : BitVec 64
  reg : Nat
  entry : RegEntry
  /-- Result held over the boundary by R35. -/
  heldReply : Option AirResult
  q : Nat
  repolls : Nat
  collision : Bool
  found : List (BitVec 64)
  toAuth : List Nat
  /-- Enrolment: GEN and MODEL of the INFO reply, ID found, ΔZ and start samples. -/
  gen : BitVec 16
  model : BitVec 16
  foundId : BitVec 64
  zs : List (Int × Int)
  ts : List Int
  deriving DecidableEq, Repr

/-- One LF channel (LFC_n, AIR_TB_m, R68). -/
structure Chan where
  epoch : BitVec 16
  place : Option Place
  moveTo : Option Place
  faultFlags : BitVec 8
  consec : Nat
  crcCnt : Nat
  hardCnt : Nat
  retired : Bool
  retireDue : Bool
  wrDropped : Bool
  detuneWarn : Bool
  retries : Nat
  ftrack : Nat
  zre : Int
  zim : Int
  ipk : BitVec 12
  theta : BitVec 8
  cal : Cal
  calDue : Option Cal
  lastOutcome : Option Status
  lastBeat : BitVec 64
  jobs : List Job
  lastDev : Int
  csDev : Nat
  sigStale : Bool
  gap : Nat
  deriving DecidableEq, Repr

def Chan.reset : Chan :=
  { epoch := 0, place := none, moveTo := none, faultFlags := 0, consec := 0, crcCnt := 0, hardCnt := 0, retired := false,
    retireDue := false, wrDropped := false, detuneWarn := false, retries := 0, ftrack := 0x400000, zre := 0, zim := 0,
    ipk := 0, theta := 0, cal := .none, calDue := none, lastOutcome := none, lastBeat := 0, jobs := [], lastDev := 0,
    csDev := 0, sigStale := false, gap := 0 }

/-- The polder states of R41. -/
inductive PolState where
  | off | stopped | starting | running | stopping | spare | faulted | retired
  deriving DecidableEq, Repr

/-- One polder (PLD_n, R41, R43, R55 to R59, R416). -/
structure Polder where
  st : PolState
  fault : BitVec 4
  fcnt : Nat
  lastFaultUs : Nat
  failoverDue : Bool
  /-- Fault in the beat that runs: the beat counts as unserved (R425). -/
  unserved : Bool
  cmdUid : Option Nat
  makeSpare : Bool
  stopNow : Bool
  stopDue : Bool
  /-- A start or a MAKE_SPARE has passed its self-test: its state changes at the next boundary (R55, R58). -/
  upDue : Bool
  /-- Where a stopping polder's channels go (R56). -/
  heir : Option Nat
  deriving DecidableEq, Repr

def Polder.reset : Polder := ⟨.off, 0, 0, 0, false, false, none, false, false, false, false, none⟩

/-- One bank die (PLD_BANKb_STAT, FLT_LINK_ERR_b; R92, R93, R417). -/
structure Bank where
  vdrv : Nat
  temp : Int
  ready : Bool
  uv : Bool
  ov : Bool
  otDefer : Bool
  otOff : Bool
  linkRetired : Bool
  retx : Nat
  errBeats : Nat
  errNow : Bool
  deriving DecidableEq, Repr

def Bank.reset : Bank := ⟨0, 0, false, false, false, false, false, false, 0, 0, false⟩

structure Lf where
  chans : SMap Chan
  pols : SMap Polder
  banks : SMap Bank
  spare : Option Nat
  auto : Bool
  fixedLimit : Bool
  wrDropped : Bool
  migrateStale : Nat
  migrations : Nat
  restarts : Nat
  defers : Nat
  refused : Nat
  tbFails : Nat
  csFails : Nat
  collisions : Nat
  foreign : Nat
  authOk : Nat
  authFails : Nat
  rekeys : Nat
  calProg : Progress
  rebalUid : Option Nat
  rebalDue : Bool
  /-- Reservations of ended transactions with the beat of the end, held until the first boundary after it (R88). -/
  ended : List (BitVec 64 × Nat × Nat)
  /-- Moves made at the boundary in progress: channel, source and destination polder (R40, R54). -/
  moved : List (Nat × Nat × Nat)
  deriving DecidableEq, Repr

def Lf.reset : Lf :=
  { chans := [], pols := [], banks := [], spare := none, auto := false, fixedLimit := false, wrDropped := false,
    migrateStale := 0, migrations := 0, restarts := 0, defers := 0, refused := 0, tbFails := 0, csFails := 0,
    collisions := 0, foreign := 0, authOk := 0, authFails := 0, rekeys := 0, calProg := .idle, rebalUid := none,
    rebalDue := false, ended := [], moved := [] }

/-! ### Registry -/

/-- A slot record (R133). -/
structure SlotRec where
  reg : Nat
  sigValid : Bool
  dr : Int
  dx : Int
  ofs : Int
  ftw : Nat
  beat : BitVec 64
  deriving DecidableEq, Repr

/-- A change of the registry that waits for R135: entries and slot records to write (`none`: clear), slots whose table state
follows (`true`: to UNVERIFIED, `false`: to UNENROLLED, `none`: MISMATCH cleared only), the journal action (8: MODEL alone, not
journalled) and the command that completes with it. -/
structure RegChange where
  entries : List (Nat × RegEntry)
  recs : List (Nat × Option SlotRec)
  slotFx : List (Nat × Option Bool)
  action : Nat
  reg : Nat
  source : Nat
  uid : Nat
  journalled : Bool
  deriving DecidableEq, Repr

structure Tok where
  reg : SMap RegEntry
  recs : SMap SlotRec
  changes : List RegChange
  deriving DecidableEq, Repr

def Tok.reset : Tok := ⟨[], [], []⟩

/-! ### Lanes and sluices -/

/-- The slot states of R146. -/
inductive SlotState where
  | unenrolled | unverified | verified | duplicate | unverifiable
  deriving DecidableEq, Repr

/-- One lane's entry for one slot (R146), with the time its age counts from (R193). -/
structure SlotEnt where
  st : SlotState
  mismatch : Bool
  cause : BitVec 16
  lastOk : BitVec 64
  okUs : Nat
  deriving DecidableEq, Repr

def SlotEnt.reset : SlotEnt := ⟨.unenrolled, false, 0, 0, 0⟩

/-- A validated-token entry (R149). -/
structure TokEnt where
  reg : Nat
  roles : BitVec 4
  src : Nat
  beat : BitVec 64
  us : Nat
  deriving DecidableEq, Repr

/-- One lane's view of one sluice (R195). -/
structure LaneSl where
  released : Bool
  leftUs : Nat
  ended : Bool
  policy : Bool
  hard : Bool
  cause : Nat
  counted : Nat
  tolerated : Nat
  deriving DecidableEq, Repr

def LaneSl.reset : LaneSl := ⟨false, 0, false, false, false, 0, 0, 0⟩

inductive LaneState where
  | active | shadow | dead | off
  deriving DecidableEq, Repr

structure Lane where
  st : LaneState
  slots : SMap SlotEnt
  toks : List TokEnt
  sl : SMap LaneSl
  downSinceUs : Nat
  down1s : Bool
  /-- Returned with no ACTIVE partner: becomes ACTIVE at the next boundary (R202). -/
  fresh : Bool
  deriving DecidableEq, Repr

/-- One sluice's arming, latch and output stage (SLU_n_STATUS, R194, R198, R206). -/
structure SluOut where
  armed : Bool
  latched : Bool
  faulted : Bool
  tripped : Bool
  failedRetries : Nat
  openLoad : Bool
  overcurrent : Bool
  overtemp : Bool
  swStuck : Bool
  takeA : Bool
  takeB : Bool
  changeBeat : BitVec 64
  deriving DecidableEq, Repr

def SluOut.reset : SluOut := ⟨false, false, false, false, 0, false, false, false, false, false, false, 0⟩

/-- A pending PREPARE of SAFE_WITHDRAW (R199). -/
structure Prepare where
  code : Word
  mask : BitVec 4
  us : Nat
  deriving DecidableEq, Repr

structure Slus where
  a : Lane
  b : Lane
  outs : SMap SluOut
  armDue : BitVec 4
  disarmDue : BitVec 4
  faultClrDue : BitVec 4
  setUids : List Nat
  withdrawDue : BitVec 4
  prepare : Option Prepare
  dhold : Bool
  tampPin : BitVec 4
  tampActive : BitVec 4
  /-- TAMP activations whose boundary has not come (R208). -/
  tampNew : BitVec 4
  disagree : Bool
  disagreeCnt : Nat
  changes : Nat
  /-- Retired slots whose toleration runs (R191, R423): its age in µs when it was last set, and the time of that. -/
  tol : SMap (Nat × Nat)
  deriving DecidableEq, Repr

def Slus.reset : Slus :=
  { a := ⟨.active, [], [], [], 0, false, false⟩, b := ⟨.off, [], [], [], 0, false, false⟩, outs := [], armDue := 0,
    disarmDue := 0, faultClrDue := 0, setUids := [], withdrawDue := 0, prepare := none, dhold := false, tampPin := 0,
    tampActive := 0, tampNew := 0, disagree := false, disagreeCnt := 0, changes := 0, tol := [] }

/-! ### Radio -/

/-- The radio activities (R163): a host telegram, the reply slots of a LOCATE, a POLL with the slots after it, a range
exchange, and the opening of a receive window. -/
inductive RadKind where
  | tx | locate | poll | range | window
  deriving DecidableEq, Repr

/-- Where a started activity stands (R167): awaiting lock and grant, listening before talk, or under way. -/
inductive RadPhase where
  | lock | lbt | running
  deriving DecidableEq, Repr

/-- A radio activity: its command, kind and priority, what it sends, on which channel, aerial (2: by diversity), rate and
power, and the device time on air it plans (R167). -/
structure RadAct where
  uid : Nat
  kind : RadKind
  prio : Nat
  chan : Nat
  rate : Nat
  ant : Nat
  pwr : Int
  coexPrio : Bool
  airUs : Nat
  polder : Nat
  reg : Nat
  nt : Nat
  /-- Generation of the key's last telegram (R180). -/
  gen : BitVec 16
  inLoc : Bool
  inWin : Bool
  /-- RNONCE or POLL seed, the bits it has, and whether the generator has delivered it (R314). -/
  seed : Nat
  seedBits : Nat
  seedReady : Bool
  phase : RadPhase
  startUs : Nat
  lbtTries : Nat
  clamped : Bool
  /-- Tones that were not emitted or not measured (R162). -/
  dead : List Nat
  /-- Index of the window record that a range run under it belongs to (R188). -/
  recIdx : Nat
  /-- The telegram sent, preamble to CRC (R170); empty before. -/
  sent : List Byte
  deriving DecidableEq, Repr

/-- A key's last telegram (R164, R180). -/
structure Heard where
  reg : Nat
  us : Nat
  gen : BitVec 16
  antB : Bool
  rssi : BitVec 8
  deriving DecidableEq, Repr

/-- A key of a LOCATE or of a RANGE with its record of R178 so far. -/
structure Located where
  id : BitVec 64
  reg : Nat
  status : Status
  foreign : Bool
  terr : Nat
  kind : Nat
  reports : List Byte
  rssi : BitVec 8
  antB : Bool
  beat : BitVec 64
  rangeRun : Bool
  rangeStatus : Status
  validated : Bool
  beyond : Bool
  noHmin : Bool
  dist : Int
  rms : Nat
  split : Nat
  tones : Nat
  nt : Nat
  rangeBeat : BitVec 64
  deriving DecidableEq, Repr

/-- A LOCATE that holds the radio (R163, R175). -/
structure LocSess where
  uid : Nat
  nonce : BitVec 32
  ncoil : Nat
  q : Nat
  repolls : Nat
  collision : Bool
  found : List Located
  /-- TOKEN_IDs of the keys that found no room in `found` (R175). -/
  extra : List (BitVec 64)
  /-- Registry indices of the located keys still to be ranged. -/
  toRange : List Nat
  polder : Nat
  retried : Bool
  migrated : Bool
  deriving DecidableEq, Repr

/-- An open receive window (R188). -/
structure Win where
  uid : Nat
  prio : Nat
  endUs : Nat
  autorange : Bool
  polder : Nat
  cap : Nat
  /-- ANT: 0 or 1, or 2 by diversity. -/
  ant : Nat
  deriving DecidableEq, Repr

structure Radio where
  lock : Bool
  antB : Bool
  clamped : Bool
  rssi : BitVec 8
  cnt : SMap Nat
  /-- Transmitted µs: key = 64 × entry + bin, bin 0 the current one (R168). -/
  bins : SMap Nat
  heard : List Heard
  waiting : List RadAct
  cur : Option RadAct
  loc : Option LocSess
  win : Option Win
  retired : Bool
  gnt : Bool
  req : Bool
  prio : Bool
  /-- Entries calibrated since power-up. -/
  calDone : BitVec 8
  /-- Die temperature in °C at each entry's last calibration (R161). -/
  calTemp : SMap Int
  /-- The sniff of SLEEP: off, listening, or preamble found (R189). -/
  sniffing : Bool
  preamble : Bool
  /-- RAD_WAKE and RAD_WAKE_CODE as copied into AON at SLEEP entry. -/
  wakeCfg : Word
  wakeCode : Word
  deriving DecidableEq, Repr

def Radio.reset : Radio :=
  { lock := false, antB := false, clamped := false, rssi := 0, cnt := [], bins := [], heard := [], waiting := [], cur := none,
    loc := none, win := none, retired := false, gnt := false, req := false, prio := false, calDone := 0, calTemp := [], sniffing := false,
    preamble := false, wakeCfg := 0, wakeCode := 0 }

/-! ### Meter and ledger -/

structure Meter where
  /-- An input that shows no transition (R212). -/
  iStuck : Bool
  vStuck : Bool
  iFault : Bool
  vFault : Bool
  /-- An input was faulted at some sample of the interval that runs (R212). -/
  faulted : Bool
  iOvr : Bool
  vOvr : Bool
  aDis : Nat
  aChg : Nat
  eDis : BitVec 64
  eChg : BitVec 64
  /-- Fallback remainder, W·µs (R214). -/
  fbRem : Nat
  pLast : Int
  faultBeats : Nat
  /-- Part of the beat in progress that last gasps have closed, µs (R213). -/
  gaspUs : Nat
  /-- The modulator bits of the I and V inputs that the decimators still weigh, newest first, and the modulator clocks since
  their last output (R211). -/
  hist : List (Bool × Bool)
  phase : Nat
  deriving DecidableEq, Repr

def Meter.reset : Meter := ⟨false, false, false, false, false, false, false, 0, 0, 0, 0, 0, 0, 0, 0, [], 0⟩

/-- The buckets of R218. -/
structure Buckets where
  balance : Int
  reserved : Int
  consumed : Int
  settled : Int
  accepted : Int
  deriving DecidableEq, Repr

def Buckets.zero : Buckets := ⟨0, 0, 0, 0, 0⟩

inductive LdgState where
  | off | active | parked | closing | closed
  deriving DecidableEq, Repr

/-- A voucher that passed checks 1 to 5, or the status it was refused with (R227). -/
structure Voucher where
  type : Nat
  serial : Nat
  lgen : BitVec 16
  amount : Nat
  ref : Word
  refused : Option Status
  deriving DecidableEq, Repr

/-- A counter record (R229). -/
structure CounterRec where
  rseq : Nat
  kind : Nat
  st : LdgState
  lgen : BitVec 16
  beat : BitVec 64
  bkt : Buckets
  eDis : BitVec 64
  eChg : BitVec 64
  aDis : Nat
  aChg : Nat
  billRes : Nat
  h : Nat
  map : BitVec 1024
  seq : Nat
  kgen : BitVec 16
  faultBeats : Nat
  svcUs : Nat
  fbRem : Nat
  deriving DecidableEq, Repr

structure Ledger where
  st : LdgState
  /-- The two counter copies (R223). -/
  cA : Buckets
  cB : Buckets
  billRes : Nat
  h : Nat
  map : BitVec 1024
  lgen : BitVec 16
  lowArmed : Bool
  minArmed : Bool
  odArmed : Bool
  odPeak : Int
  consErr : Bool
  copyFix : Bool
  loss : Bool
  vAccepted : Nat
  vRefused : Nat
  lastVoucherBeat : BitVec 64
  /-- Vouchers due at the next boundary, with their command (R228). -/
  due : List (Nat × Voucher)
  svcUs : Nat
  lastPeriodicUs : Nat
  lastSummaryUs : Nat
  sumEDis : BitVec 64
  sumEChg : BitVec 64
  sumFaults : Nat
  rseq : Nat
  periodFaults : Nat
  periodVouchers : Nat
  nextDailyUs : Nat
  ckptBeat : BitVec 64
  deriving DecidableEq, Repr

def Ledger.reset : Ledger :=
  { st := .off, cA := .zero, cB := .zero, billRes := 0, h := 0, map := 0, lgen := 0, lowArmed := true, minArmed := true,
    odArmed := true, odPeak := 0, consErr := false, copyFix := false, loss := false, vAccepted := 0, vRefused := 0,
    lastVoucherBeat := 0, due := [], svcUs := 0, lastPeriodicUs := 0, lastSummaryUs := 0, sumEDis := 0, sumEChg := 0,
    sumFaults := 0, rseq := 0, periodFaults := 0, periodVouchers := 0, nextDailyUs := 86400000000,
    ckptBeat := 0 }

/-- A journal record (R233): payload is bytes 20 to 47; `chain` is `none` while the CHAIN field is erased (R467). -/
structure JRec where
  seq : Nat
  kgen : BitVec 16
  beat : BitVec 64
  type : Nat
  source : Nat
  flags : Byte
  payload : List Byte
  chain : Option (BitVec 128)
  /-- The command whose outcomes a SLOT_BATCH record merges. -/
  uid : Nat
  deriving DecidableEq, Repr

/-- A checkpoint (R237) with its 256 bytes. -/
structure Ckpt where
  number : Nat
  type : Nat
  lastSeq : Nat
  beat : BitVec 64
  tag : BitVec 128
  bytes : List Byte
  weekly : Bool
  deriving DecidableEq, Repr

/-- The journal: the staging buffer of R25, and what the keeper knows of the chain. -/
structure Journal where
  isOpen : Bool
  staged : List JRec
  nextSeq : Nat
  kgen : BitVec 16
  sealedSeq : Nat
  sealedKgen : BitVec 16
  sealedChain : BitVec 128
  /-- CHAIN or TAG that the next record sealed continues from. -/
  prevChain : BitVec 128
  firstUncovered : Nat
  firstUncoveredKgen : BitVec 16
  prevTag : BitVec 128
  rollDue : Option Nat
  compactPlanned : Nat
  prog : Progress
  ckptNext : Nat
  deriving DecidableEq, Repr

def Journal.reset : Journal :=
  { isOpen := false, staged := [], nextSeq := 1, kgen := 0, sealedSeq := 0, sealedKgen := 0, sealedChain := 0, prevChain := 0,
    firstUncovered := 1, firstUncoveredKgen := 0, prevTag := 0, rollDue := none, compactPlanned := 0, prog := .idle,
    ckptNext := 0 }

/-! ### Keys, life-cycle, debug -/

inductive NodeState where
  | free | active | retired | invalid
  deriving DecidableEq, Repr

/-- An armature node (R250 to R252) with its key value. -/
structure Node where
  inst : Nat
  parent : BitVec 32
  level : Nat
  type : Nat
  st : NodeState
  big : Bool
  loaded : Bool
  persistent : Bool
  owner : BitVec 8
  fslot : Option Nat
  gen : BitVec 16
  label : BitVec 128
  uses : Nat
  limit : Nat
  beat : BitVec 64
  key : BitVec 256
  /-- Masked with the device-secret value until the first patina pass after the DRBG is ready (R256). -/
  secretMask : Bool
  deriving DecidableEq, Repr

def Node.free : Node := ⟨0, 0, 0, 0, .free, false, false, false, 0, none, 0, 0, 0, 0, 0, 0, false⟩

structure Keys where
  nodes : SMap Node
  /-- Highest instance number each index has taken. -/
  inst : SMap Nat
  /-- The USES and instance marks of the key store (R250, R255). -/
  usesMark : SMap Nat
  instMark : SMap Nat
  /-- Highest generation derived under a parent handle with a label (R254). -/
  gens : List (BitVec 32 × BitVec 128 × Nat)
  ready : Bool
  plinth : Bool
  iseq : Word
  retired : Nat
  invalidated : Nat
  patinaLate : Nat
  prog : Progress
  deriving DecidableEq, Repr

def Keys.reset : Keys := ⟨[], [], [], [], [], false, false, 0, 0, 0, 0, .idle⟩

/-- A transition ticket (R267). -/
structure Ticket where
  frm : Nat
  dest : Nat
  uid : BitVec 64
  disposition : Nat
  keepRegistry : Bool
  pseed : BitVec 256
  tag : BitVec 128
  deriving DecidableEq, Repr

/-- An advance in progress (R269): its command (0 when resumed), ticket, phase, and whether a chain was open at its start. -/
structure Advance where
  uid : Nat
  ticket : Ticket
  phase : Nat
  ledgerWasActive : Bool
  closeDone : Bool
  deriving DecidableEq, Repr

inductive DbgState where
  | locked | authOpen | opn
  deriving DecidableEq, Repr

/-- The instructions of IEEE 1149.1 that R276 names. -/
inductive TapInst where
  | bypass | idcode | samplePreload | extest
  deriving DecidableEq, Repr

structure Life where
  /-- Fuse row: bits 0 to 4 the pairs of FACTORY to RMA, bit 5 the secret lock (R265). -/
  fuses : BitVec 6
  adv : Option Advance
  prog : Progress
  optFixed : Bool
  noTicket : Bool
  dbg : DbgState
  dbgEndUs : Nat
  dbgToken : BitVec 64
  dbgFails : Nat
  dbgFailUs : Nat
  dbgOpens : Nat
  dbgLastClose : Nat
  /-- A passed unlock that opens at the next boundary: state, token and window (R274). -/
  dbgDue : Option (DbgState × BitVec 64 × Nat)
  dbgDueUid : Nat
  keeperHalted : Bool
  testMode : Bool
  /-- The instruction of IEEE 1149.1 in force, and the keeper memory that the debug port wrote (R276). -/
  tapInst : TapInst
  keeperMem : SMap Byte
  deriving DecidableEq, Repr

def Life.reset : Life :=
  { fuses := 0, adv := none, prog := .idle, optFixed := false, noTicket := false, dbg := .locked, dbgEndUs := 0, dbgToken := 0,
    dbgFails := 0, dbgFailUs := 0, dbgOpens := 0, dbgLastClose := 0, dbgDue := none, dbgDueUid := 0, keeperHalted := false,
    testMode := false, tapInst := .idcode, keeperMem := [] }

/-! ### Cipher engine and entropy -/

inductive CipMode where
  | dual | single | failed | kat
  deriving DecidableEq, Repr

/-- What has come in over the air and is judged once a key and the engine can be used: the replies of an exchange, a LOC_REPLY,
a RANGE_REPORT, an ACCESS telegram. -/
inductive HeldMsg where
  | air (ch : Nat) (r : AirResult)
  | locReply (t : Telegram)
  | rangeReport (t : Telegram) (m : RangeMeas)
  | access (t : Telegram)
  deriving DecidableEq, Repr

structure Cipher where
  mode : CipMode
  retA : Bool
  retB : Bool
  maskSeeded : Bool
  cmpTransient : Nat
  katRuns : Nat
  dike : Nat
  zeroed : Nat
  blocks : Nat
  /-- The known-answer test of a start runs (R285, R418). -/
  startKat : Bool
  /-- Replies and telegrams that wait for the engine or for the armature, in their order (R256, R285). -/
  held : List HeldMsg
  deriving DecidableEq, Repr

def Cipher.reset : Cipher := ⟨.dual, false, false, false, 0, 0, 0, 0, 0, false, []⟩

inductive EntState where
  | off | warmup | ready | starved
  deriving DecidableEq, Repr

/-- Who waits for the generator (R314, R316): a channel's transaction or a command, by class. -/
inductive Waiter where
  | chan (ch : Nat)
  | cmd (uid : Nat)
  deriving DecidableEq, Repr

/-- A waiting request: class 0 polders, 1 keeper, 2 life-cycle and debug, 3 host. -/
structure WaitReq where
  cls : Nat
  who : Waiter
  bits : Nat
  us : Nat
  deriving DecidableEq, Repr

structure Entropy where
  st : EntState
  aPass : Bool
  bPass : Bool
  pool : List (BitVec 128)
  /-- Windows tested since the domain came on (R312). -/
  winOn : Nat
  windows : Nat
  failRep : Nat
  failApt : Nat
  timeouts : Nat
  reseeds : Nat
  biasA : BitVec 16
  biasB : BitVec 16
  corrA : BitVec 16
  corrB : BitVec 16
  /-- Length and value of each source's current run (R309). -/
  runA : Nat × Bool
  runB : Nat × Bool
  key : BitVec 256
  v : BitVec 128
  reqs : Nat
  seedUs : Nat
  powerUps : Nat
  credited : Nat
  prog : Progress
  waiting : List WaitReq
  deriving DecidableEq, Repr

def Entropy.reset : Entropy :=
  { st := .off, aPass := false, bPass := false, pool := [], winOn := 0, windows := 0, failRep := 0, failApt := 0, timeouts := 0,
    reseeds := 0, biasA := 0, biasB := 0, corrA := 0, corrB := 0, runA := (0, false), runB := (0, false), key := 0, v := 0,
    reqs := 0, seedUs := 0, powerUps := 0, credited := 0, prog := .idle, waiting := [] }

/-! ### Power, reset, start -/

inductive Phase where
  | aonInit | optLoad | boot | starting | started | spillway
  deriving DecidableEq, Repr

inductive PwrState where
  | run | doze | sleep | hibernate
  deriving DecidableEq, Repr

/-- A domain's power (PWR_DOM_n, R383, R384). -/
structure Dom where
  on : Bool
  ready : Bool
  idle : Nat
  deriving DecidableEq, Repr

def Dom.off : Dom := ⟨false, false, 0⟩

structure Power where
  phase : Phase
  st : PwrState
  spillCause : Nat
  imageB : Bool
  rom : Bool
  keeperRunning : Bool
  aonXtal : Bool
  vio3v3 : Bool
  refuse : Nat
  doms : SMap Dom
  /-- Votes of the start sequence, and of AON wake logic (R383). -/
  startVotes : BitVec 17
  plEff : Nat
  plTarget : Nat
  ramp : Bool
  rampFail : Bool
  vsel : Nat
  wakeCause : BitVec 7
  wakeTamp : BitVec 4
  wakeFrom : Nat
  rstCause : BitVec 11
  rstHist : BitVec 11
  /-- Causes gathered for the start that follows the reset in force (R398). -/
  rstPend : BitVec 11
  porHeld : Bool
  rstHeld : Bool
  /-- Supplies above their rising threshold: bits 0 to 4 VANA, VRF, VFL, VIO, VCORE, 5 to 8 VDRV0 to VDRV3, 9 VAON. -/
  supplyOk : BitVec 10
  vaonWarn : Bool
  vflWarn : Bool
  vcoreWarn : Bool
  alarm : Word
  /-- SLEEP or HIBERNATE request to be judged, and the entry under way (R390, R391). -/
  req : Nat
  entering : Nat
  idleBounds : Nat
  wakePulses : Nat
  wakeSignal : Bool
  perst : Bool
  /-- PWR_OPT. -/
  optA : Bool
  optB : Bool
  optUsed : Nat
  floor : Nat
  /-- T_C has passed: the domains of R400 may switch on. -/
  tc : Bool
  /-- Records of a start that wait until METER is on and a chain is open: type, source and payload. -/
  startRecs : List (Nat × Nat × List Byte)
  deriving DecidableEq, Repr

def Power.reset : Power :=
  { phase := .aonInit, st := .run, spillCause := 0, imageB := false, rom := false, keeperRunning := false, aonXtal := false,
    vio3v3 := false, refuse := 0, doms := [(0, ⟨true, true, 0⟩)], startVotes := 0, plEff := 2, plTarget := 2, ramp := false,
    rampFail := false, vsel := 2, wakeCause := 0, wakeTamp := 0, wakeFrom := 0, rstCause := 1, rstHist := 1, rstPend := 1,
    porHeld := false, rstHeld := false, supplyOk := 0x200, vaonWarn := false, vflWarn := false, vcoreWarn := false, alarm := 0,
    req := 0, entering := 0, idleBounds := 0, wakePulses := 0, wakeSignal := false, perst := true,
    optA := false, optB := false, optUsed := 2, floor := 0, tc := false, startRecs := [] }

/-! ### Faults and flash -/

/-- A retirement-table entry (R422). -/
structure RetEntry where
  cls : Nat
  idx : Nat
  reinstated : Bool
  cause : Byte
  beat : BitVec 64
  svcUs : Nat
  eseq : Nat
  deriving DecidableEq, Repr

structure Faults where
  offAddr : BitVec 16
  offDom : Nat
  offCnt : Nat
  /-- Domains whose EV_DOMAIN_OFF_ACCESS was posted in this beat (R379). -/
  offPosted : BitVec 17
  radConsec : Nat
  radTotal : Nat
  gapMax : Nat
  stops : Nat
  wdt : Nat
  switches : Nat
  flashCe : Nat
  flashUe : Nat
  /-- Retirements that wait for step 2 of the next boundary: (class, index, cause). -/
  retireDue : List (Nat × Nat × Byte)
  /-- Table entries that wait for the keeper (R420). -/
  logDue : List RetEntry
  /-- A keeper restart is in progress (R23), with the commands that complete after it. -/
  restarting : Bool
  restartUids : List Nat
  deriving DecidableEq, Repr

def Faults.reset : Faults := ⟨0, 0, 0, 0, 0, 0, 0, 0, 0, 0, 0, 0, [], [], false, []⟩

/-- A configuration image in flash (R373). -/
structure ConfigImage where
  seq : Nat
  chk : Word
  entries : List (Nat × Word)
  deriving DecidableEq, Repr

/-- A keeper image in flash: VERSION and body length (R408). -/
structure KeeperImage where
  version : Nat
  len : Nat
  valid : Bool
  deriving DecidableEq, Repr

/-- A BAND entry of the option bytes (R406). -/
structure Band where
  fLow : Nat
  fHigh : Nat
  en : Bool
  lbt : Bool
  pmax : Int
  duty : Nat
  deriving DecidableEq, Repr

/-- The option bytes (R406). -/
structure Options where
  oseq : Nat
  lcCode : Nat
  debugLock : Nat
  fsThresh : Nat
  bootPolicy : BitVec 8
  ssvid : BitVec 16
  ssid : BitVec 16
  profile : Nat
  chStep : Nat
  chBase : Nat
  chMask : BitVec 64
  bands : List Band
  deriving DecidableEq, Repr

/-- The option bytes at shipment: the ETSI profile of R166 with its channels, FS_THRESH 4 (R406). -/
def Options.shipped : Options :=
  { oseq := 1, lcCode := 0, debugLock := 0, fsThresh := 4, bootPolicy := 0, ssvid := 0x1E5D, ssid := 0, profile := 1,
    chStep := 100, chBase := 863100, chMask := 0xFFFFFFFFFFFFFFFF#64,
    bands := [⟨868000, 868600, true, false, 28, 100⟩, ⟨863000, 870000, true, false, 28, 10⟩] }

/-- The restrictive values of R407. -/
def Options.restrictive : Options :=
  { oseq := 0, lcCode := 0, debugLock := 2, fsThresh := 0, bootPolicy := 0, ssvid := 0x1E5D, ssid := 0, profile := 0,
    chStep := 0, chBase := 0, chMask := 0, bands := [] }

/-- The flash die: what each area of R241 and the option sector hold. -/
structure Flash where
  optA : Options
  optB : Options
  /-- The AON option shadows that the loader filled (R405). -/
  opts : Options
  imgA : Option ConfigImage
  imgB : Option ConfigImage
  kimgA : KeeperImage
  kimgB : KeeperImage
  lastActivatedB : Bool
  highVersion : Nat
  failedStarts : Nat
  reg : SMap RegEntry
  recs : SMap SlotRec
  cals : SMap Cal
  /-- The newest counter record, and the earlier ones of the ring, newest first (R229). -/
  counter : Option CounterRec
  ring : List CounterRec
  journal : List JRec
  /-- Records that compaction has erased before the first of `journal`: the place of that one in the area (R239, R241). -/
  jrnBase : Nat
  /-- Places, counted from the first ever, whose loss by a flash error is journalled (R236). -/
  jrnLost : List Nat
  ckpts : List Ckpt
  /-- Key store: imported nodes, ticket of the current state and the unfinished one (R249, R251). -/
  keyStore : SMap Node
  ticket : Option Ticket
  newTicket : Option Ticket
  retBank : Nat
  retLog : List RetEntry
  /-- Writes under way: the captured configuration of CONFIG_COMMIT and its command; LEDGER_TOPUP commands whose counter
  record is being written; the image being loaded. -/
  commitCap : Option (Nat × BitVec 64 × List (Nat × Word))
  topupUids : List (Nat × BitVec 64)
  imageJob : Option (Nat × KeeperImage × Bool)
  /-- The bytes that the debug port wrote in OPEN (R276), at `area + 8 * address`. -/
  dbgBytes : SMap Byte
  /-- Words of the main array that SECDED corrects, and those that it cannot: area and word within it (R18, R414). -/
  weak : List (Nat × Nat)
  bad : List (Nat × Nat)
  deriving DecidableEq, Repr

def Flash.reset : Flash :=
  { optA := .shipped, optB := .shipped, opts := .restrictive, imgA := none, imgB := none, kimgA := ⟨1, 1048512, true⟩,
    kimgB := ⟨1, 1048512, true⟩, lastActivatedB := false, highVersion := 1, failedStarts := 0, reg := [], recs := [],
    cals := [], counter := none, ring := [], journal := [], jrnBase := 0, jrnLost := [], ckpts := [], keyStore := [], ticket := none,
    newTicket := none, retBank := 0, retLog := [], commitCap := none, topupUids := [], imageJob := none, dbgBytes := [], weak := [],
    bad := [] }

/-! ### The whole machine -/

/-- The state of the block, and the queue of commands that wait, first in first out. -/
structure State where
  pending : List Instr
  clk : Clock
  cfg : CfgState
  ring : Ring
  lf : Lf
  tok : Tok
  slu : Slus
  rad : Radio
  mtr : Meter
  ldg : Ledger
  jrn : Journal
  key : Keys
  lcy : Life
  cip : Cipher
  ent : Entropy
  pwr : Power
  flt : Faults
  fl : Flash
  deriving DecidableEq, Repr

/-- A shipped part right after power-on reset, before its supplies have been judged: PHASE is AON_INIT, the life-cycle is
BLANK, every register holds its reset value, no queue is enabled (R397, R399, R430, R464). -/
def State.reset : State :=
  { pending := [], clk := .reset, cfg := .reset, ring := .reset, lf := .reset, tok := .reset, slu := .reset, rad := .reset,
    mtr := .reset, ldg := .reset, jrn := .reset, key := .reset, lcy := .reset, cip := .reset, ent := .reset, pwr := .reset,
    flt := .reset, fl := .reset }

/-- Reasons a step faults. There are none: every command of this block has an effect that the manual gives, and a command
whose condition does not hold changes nothing (log entry 1). -/
inductive Fault where
  deriving DecidableEq, Repr

/-- Reasons a step is refused. -/
inductive Refusal where
  /-- Raised by `exec` alone, for a command whose meaning is not written; safe: the machine stops where the hardware goes
  on. -/
  | notModelled (mnemonic : String)
  deriving DecidableEq, Repr

end Sys2Proof.Machine
end

