-- ==== Sys2Proof/Machine/Ops.lean ====
section
/-! DEFINITION. Shared operations: sparse tables, bit fields and byte orders, rounding, random draws, status and event codes,
the posting of completions, events and interrupts (R332, R333, R357), and the staging of journal records (R25, R234).

Marked choices (log entries): DESIGN CHOICE 3, 30, 81, 87, 90; DEDUCED 17, 19, 60; PRESUMED 80. -/

namespace Sys2Proof.Machine

open Sys2Proof

/-- What every meaning of this block answers: the next state. -/
abbrev Out := Host.Outcome State Fault Refusal

/-! ### Sparse tables -/

/-- The value at `k`; `d` where `k` is not listed. -/
def smGet {α : Type} : SMap α → Nat → α → α
  | [], _, d => d
  | (i, v) :: m, k, d => if i = k then v else smGet m k d

/-- The entry at `k`, where one is listed. -/
def smFind {α : Type} : SMap α → Nat → Option α
  | [], _ => none
  | (i, v) :: m, k => if i = k then some v else smFind m k

/-- Drops what is listed at `k`. -/
def smDel {α : Type} : SMap α → Nat → SMap α
  | [], _ => []
  | (i, v) :: m, k => if i = k then smDel m k else (i, v) :: smDel m k

/-- Puts the entry `(k, v)` in its place. -/
def smIns {α : Type} : SMap α → Nat → α → SMap α
  | [], k, v => [(k, v)]
  | (i, w) :: m, k, v => if i = k then (k, v) :: m else if k < i then (k, v) :: (i, w) :: m else (i, w) :: smIns m k v

/-- Sets the value at `k`, keeping the canonical form: the default is not listed. -/
def smPut {α : Type} [DecidableEq α] (m : SMap α) (k : Nat) (v d : α) : SMap α :=
  if v = d then smDel m k else smIns m k v

/-- The canonical form: keys strictly rising from `lo`, no entry equal to the default. -/
def smWf {α : Type} [DecidableEq α] (d : α) : Nat → SMap α → Bool
  | _, [] => true
  | lo, (i, v) :: m => decide (lo ≤ i) && decide (v ≠ d) && smWf d (i + 1) m

/-! ### Bits, bytes and numbers -/

/-- Bits [lo + n − 1 : lo] of a word as a number. -/
def fld (w : Word) (lo n : Nat) : Nat := (w.toNat >>> lo) % 2 ^ n

/-- Bit `i` of a word. -/
def bitOf (w : Word) (i : Nat) : Bool := w.getLsbD i

/-- A word with bits [lo + n − 1 : lo] replaced by `v`. -/
def setFld (w : Word) (lo n v : Nat) : Word :=
  BitVec.ofNat 32 (w.toNat - (fld w lo n <<< lo) + (v % 2 ^ n) <<< lo)

/-- 1 for true, 0 for false. -/
def b2n (b : Bool) : Nat := if b then 1 else 0

/-- `n` as `k` bytes, least significant first. -/
def leBytes : Nat → Nat → List Byte
  | _, 0 => []
  | n, k + 1 => BitVec.ofNat 8 n :: leBytes (n / 256) k

/-- The number that bytes spell, least significant first. -/
def leNat : List Byte → Nat
  | [] => 0
  | b :: t => b.toNat + 256 * leNat t

/-- `n` as `k` bytes, most significant first. -/
def beBytes (n k : Nat) : List Byte := (leBytes n k).reverse

/-- The two's complement of `i` in `n` bits, as a number. -/
def wrapInt (n : Nat) (i : Int) : Nat := (i % (2 : Int) ^ n).toNat

/-- The low `n` bits of `v`, read as two's complement. -/
def sgn (n v : Nat) : Int :=
  let w := v % 2 ^ n
  if 2 * w < 2 ^ n then (w : Int) else (w : Int) - (2 : Int) ^ n

/-- `k` bytes of the list from byte `i`. -/
def slice (l : List Byte) (i k : Nat) : List Byte := (l.drop i).take k

/-- The little-endian number in `k` bytes from byte `i`. -/
def leAt (l : List Byte) (i k : Nat) : Nat := leNat (slice l i k)

/-- `l` cut or zero-filled to `n` bytes. -/
def padTo (n : Nat) (l : List Byte) : List Byte := l.take n ++ List.replicate (n - l.length) 0#8

/-- A record of `n` zero bytes with fields laid in: (first byte, bytes). -/
def layBytes (n : Nat) (fs : List (Nat × List Byte)) : List Byte :=
  fs.foldl (fun acc f => acc.take f.1 ++ f.2.take (n - f.1) ++ acc.drop (f.1 + f.2.length)) (List.replicate n 0#8)

/-- `a / b` to the nearest integer, an exact half away from zero (R4). -/
def rdiv (a : Int) (b : Nat) : Int :=
  if 0 ≤ a then (2 * a + b) / (2 * b) else -((2 * -a + b) / (2 * b))

/-- A saturating 32-bit, 16-bit or 8-bit counter. -/
def sat (bits n : Nat) : Nat := if n < 2 ^ bits then n else 2 ^ bits - 1

def clampInt (lo hi v : Int) : Int := if v < lo then lo else if hi < v then hi else v

/-- Integer square root: the largest r with r·r ≤ n, one result bit per unit of `fuel`. -/
def isqrtGo (n : Nat) : Nat → Nat → Nat
  | 0, r => r
  | k + 1, r => if (r + 2 ^ k) * (r + 2 ^ k) ≤ n then isqrtGo n k (r + 2 ^ k) else isqrtGo n k r

def isqrt (n : Nat) : Nat := isqrtGo n (n.log2 / 2 + 1) 0

/-- The bits of `m` below `n`, as a list of indices. -/
def bitList (m n : Nat) : List Nat := (List.range n).filter (fun i => m.testBit i)

/-- The number whose set bits are the listed indices. -/
def bitMask (l : List Nat) : Nat := l.foldl (fun a i => a ||| 2 ^ i) 0

def popCount (m n : Nat) : Nat := (bitList m n).length

def optB {α : Type} (o : Option α) : Bool := match o with | some _ => true | none => false

/-- Replaces list element `i`. -/
def setAt {α : Type} : List α → Nat → α → List α
  | [], _, _ => []
  | _ :: t, 0, v => v :: t
  | a :: t, n + 1, v => a :: setAt t n v

/-! ### Status codes (R358) -/

def statusCode : Status → Nat
  | .ok => 0x0000 | .okRetried => 0x0001 | .okMigrated => 0x0002
  | .noResponse => 0x0100 | .collision => 0x0101 | .authFail => 0x0102 | .timingBoundFail => 0x0103
  | .couplingMismatch => 0x0104 | .duplicate => 0x0105 | .foreignToken => 0x0106 | .rangeInconsistent => 0x0107
  | .channelRetired => 0x0200 | .channelFaultTransient => 0x0201 | .leveeDeferred => 0x0202
  | .synthNotReady => 0x0300 | .regLimit => 0x0301 | .coexDenied => 0x0302
  | .keyInvalid => 0x0400 | .keyUsageExhausted => 0x0401 | .tagMismatch => 0x0402 | .dikeViolation => 0x0403
  | .lengthErr => 0x0500 | .addrErr => 0x0501 | .opcodeUnsupported => 0x0502 | .queueDisabled => 0x0503
  | .entropyTimeout => 0x0601
  | .voucherReplay => 0x0700 | .voucherBad => 0x0701 | .creditExhausted => 0x0702
  | .lifecycleDenied => 0x0800 | .debugDenied => 0x0801
  | .abortedStop => 0x0900 | .busySpillway => 0x0901

/-- The statuses that report success. -/
def Status.isOk : Status → Bool
  | .ok | .okRetried | .okMigrated => true
  | _ => false

/-! ### Free values -/

/-- Draws a value the manual leaves open (log entry 3). -/
def drawFree (s : State) : Word × State :=
  (Config.freeWord s.clk.fresh, { s with clk := { s.clk with fresh := s.clk.fresh + 1 } })

/-- Draws a stretch of modulator bits that no command brings (log entry 30). -/
def drawBits (s : State) : List (Bool × Bool) × State :=
  (Config.freeBits s.clk.fresh, { s with clk := { s.clk with fresh := s.clk.fresh + 1 } })

/-! ### Beat -/

/-- The low word of BEAT_COUNT, as every stamp carries it. -/
def beat32 (s : State) : Word := s.clk.beat.setWidth 32

/-! ### Table views -/

def getSq (s : State) (n : Nat) : Sq := smGet s.ring.sqs n Sq.reset
def setSq (s : State) (n : Nat) (q : Sq) : State :=
  { s with ring := { s.ring with sqs := smPut s.ring.sqs n q Sq.reset } }
def getCq (s : State) (n : Nat) : Cq := smGet s.ring.cqs n Cq.reset
def setCq (s : State) (n : Nat) (q : Cq) : State :=
  { s with ring := { s.ring with cqs := smPut s.ring.cqs n q Cq.reset } }
def getChan (s : State) (n : Nat) : Chan := smGet s.lf.chans n Chan.reset
def setChan (s : State) (n : Nat) (c : Chan) : State :=
  { s with lf := { s.lf with chans := smPut s.lf.chans n c Chan.reset } }
def modChan (s : State) (n : Nat) (f : Chan → Chan) : State := setChan s n (f (getChan s n))
def getPol (s : State) (n : Nat) : Polder := smGet s.lf.pols n Polder.reset
def setPol (s : State) (n : Nat) (p : Polder) : State :=
  { s with lf := { s.lf with pols := smPut s.lf.pols n p Polder.reset } }
def modPol (s : State) (n : Nat) (f : Polder → Polder) : State := setPol s n (f (getPol s n))
def getBank (s : State) (n : Nat) : Bank := smGet s.lf.banks n Bank.reset
def setBank (s : State) (n : Nat) (b : Bank) : State :=
  { s with lf := { s.lf with banks := smPut s.lf.banks n b Bank.reset } }
def getReg (s : State) (n : Nat) : RegEntry := smGet s.tok.reg n RegEntry.free
def setReg (s : State) (n : Nat) (e : RegEntry) : State :=
  { s with tok := { s.tok with reg := smPut s.tok.reg n e RegEntry.free } }
def getNode (s : State) (n : Nat) : Node := smGet s.key.nodes n Node.free
def setNode (s : State) (n : Nat) (e : Node) : State :=
  { s with key := { s.key with nodes := smPut s.key.nodes n e Node.free } }
def getDom (s : State) (n : Nat) : Dom := smGet s.pwr.doms n Dom.off
def setDom (s : State) (n : Nat) (d : Dom) : State :=
  { s with pwr := { s.pwr with doms := smPut s.pwr.doms n d Dom.off } }
def getOut (s : State) (n : Nat) : SluOut := smGet s.slu.outs n SluOut.reset
def setOut (s : State) (n : Nat) (o : SluOut) : State :=
  { s with slu := { s.slu with outs := smPut s.slu.outs n o SluOut.reset } }
def getLane (s : State) : LaneId → Lane
  | .a => s.slu.a
  | .b => s.slu.b
def setLane (s : State) (l : LaneId) (x : Lane) : State :=
  match l with
  | .a => { s with slu := { s.slu with a := x } }
  | .b => { s with slu := { s.slu with b := x } }
def laneSl (l : Lane) (n : Nat) : LaneSl := smGet l.sl n LaneSl.reset
def setLaneSl (l : Lane) (n : Nat) (x : LaneSl) : Lane := { l with sl := smPut l.sl n x LaneSl.reset }

/-- Spillway mode (R412). -/
def inSpillway (s : State) : Bool := decide (s.pwr.phase = .spillway)

/-- A domain is powered and ready (R379, R383). -/
def domReady (s : State) (n : Nat) : Bool := (getDom s n).on && (getDom s n).ready

/-- The domain numbers of R26. -/
def dAON : Nat := 0
def dSLUICE : Nat := 1
def dKEEPER : Nat := 2
def dLINK : Nat := 3
def dCIPHER : Nat := 4
def dENTROPY : Nat := 5
def dRADIO : Nat := 6
def dMETER : Nat := 7
def dPOLDER (p : Nat) : Nat := 8 + p
def dBANK (b : Nat) : Nat := 13 + b

/-! ### What leaves for the host -/

/-- Sends or, while Bus Master Enable is 0, holds one output (R354). -/
def emit (s : State) (o : BusOut) : State :=
  if s.ring.bme then { s with ring := { s.ring with out := s.ring.out ++ [o] } }
  else { s with ring := { s.ring with heldOut := s.ring.heldOut ++ [o] } }

/-- The MSI-X message of a vector: nothing while MSI-X is disabled, the PBA bit while it is masked (R356). -/
def sendVector (s : State) (v : Nat) : State :=
  if !s.ring.msixCtl.getLsbD 0 then s
  else if s.ring.msixCtl.getLsbD 1 || s.ring.msixMask.getLsbD v then
    { s with ring := { s.ring with pba := s.ring.pba ||| BitVec.ofNat 32 (2 ^ v) } }
  else emit s (.msix v (smGet s.ring.msixAddr v 0) (smGet s.ring.msixData v 0))

/-- A queue has `n` entries counted since its last message: the moderation of R357 sends now, or (`false`) waits. -/
def irqDue (ien : Bool) (cnt time counted : Nat) : Bool :=
  ien && decide (0 < counted) && (decide (max cnt 1 ≤ counted) || decide (time = 0))

/-- Sends the vector of a CQ whose condition of R357 is met; starts the timer otherwise. -/
def cqIrq (s : State) (n : Nat) : State :=
  let q := getCq s n
  if irqDue q.ien q.cnt q.time q.counted then
    sendVector (setCq s n { q with counted := 0, timer := false }) q.vector
  else setCq s n { q with timer := decide (0 < q.counted) }

def eqIrq (s : State) : State :=
  let q := s.ring.eq
  if irqDue q.ien q.cnt q.time q.counted then
    sendVector { s with ring := { s.ring with eq := { q with counted := 0, timer := false } } } q.vector
  else { s with ring := { s.ring with eq := { q with timer := decide (0 < q.counted) } } }

/-- A new bit in Q_ERR sends the EQ's vector once (R356). -/
def errVector (s : State) (isNew : Bool) : State :=
  if isNew && s.ring.eq.ien then sendVector s s.ring.eq.vector else s

/-- Number of entries of a ring (R328). -/
def ringSize (size : Nat) : Nat := 2 ^ (size + 4)

/-- A structure in host memory: its dwords little-endian, dword 0 at the lowest address (R7). -/
def dwordBytes (l : List Nat) : List Byte := l.flatMap fun w => leBytes w 4

/-- A completion as its 16 bytes (R335). -/
def completionBytes (phase : Bool) (sqHead : Nat) (c : Completion) : List Byte :=
  dwordBytes [c.cmdId.toNat + statusCode c.status * 2 ^ 16, c.result.toNat, c.beatStamp.toNat,
    sqHead % 2 ^ 12 + c.sqId * 2 ^ 12 + b2n phase * 2 ^ 31]

/-- An event as its 16 bytes (R337). -/
def eventBytes (phase lost : Bool) (e : Event) : List Byte :=
  dwordBytes [e.code.toNat + e.source.toNat * 2 ^ 16 + b2n lost * 2 ^ 30 + b2n phase * 2 ^ 31, e.detail.toNat % 2 ^ 32,
    e.detail.toNat / 2 ^ 32, e.beat.toNat]

/-- What an output of the ring engine writes to host memory: address and bytes. -/
def BusOut.bytes : BusOut → Option (BitVec 64 × List Byte)
  | .data a l => some (a, l)
  | .completion a _ _ phase sqHead c => some (a, completionBytes phase sqHead c)
  | .event a _ phase lost e => some (a, eventBytes phase lost e)
  | .msix _ a d => some (a, dwordBytes [d.toNat])
  | .ltr _ => none
  | .ptmRequest => none

/-- Entries written and not released. -/
def unreleased (size head tail : Nat) : Nat := (tail + ringSize size - head) % ringSize size

/-- Writes one completion at the CQ's tail (R332). -/
def writeCompletion (s : State) (n : Nat) (c : Completion) : State :=
  let q := getCq s n
  let addr := q.base + BitVec.ofNat 64 (16 * q.tail)
  let last := decide (q.tail + 1 = ringSize q.size)
  let s1 := emit s (.completion addr n q.tail q.phase (getSq s c.sqId).head c)
  let s2 := setCq s1 n { q with tail := if last then 0 else q.tail + 1, phase := if last then !q.phase else q.phase,
                                counted := if c.noirq then q.counted else q.counted + 1 }
  let s3 := { s2 with ring := { s2.ring with posted := sat 32 (s2.ring.posted + 1) } }
  if c.noirq then s3 else cqIrq s3 n

/-- Posts a completion to a CQ: held while the ring is full or earlier completions are held (R332), waiting for the keeper
during a restart (R24); nothing where the CQ is not ACTIVE any more (R354). -/
def postCompletion (s : State) (n : Nat) (c : Completion) : State :=
  let q := getCq s n
  if !q.active then s
  else if s.flt.restarting then { s with ring := { s.ring with restartCp := s.ring.restartCp ++ [(n, c)] } }
  else if q.held.isEmpty && decide (unreleased q.size q.head q.tail + 1 < ringSize q.size) then writeCompletion s n c
  else setCq s n { q with held := q.held ++ [c] }

/-- Writes held completions while the ring has room. -/
def drainHeld : Nat → State → Nat → State
  | 0, s, _ => s
  | k + 1, s, n =>
    let q := getCq s n
    match q.held with
    | [] => s
    | c :: rest =>
      if unreleased q.size q.head q.tail + 1 < ringSize q.size then
        drainHeld k (writeCompletion (setCq s n { q with held := rest }) n c) n
      else s

/-- Event codes (R359): the offset from 0x0100. -/
def evChannelRetired : Nat := 0
def evPolderMigrated : Nat := 1
def evConfigUpset : Nat := 2
def evEntropyFail : Nat := 3
def evSluiceChange : Nat := 4
def evTamper : Nat := 5
def evCreditLow : Nat := 6
def evProgress : Nat := 7
def evLifecycle : Nat := 8
def evForeignToken : Nat := 9
def evDomainOffAccess : Nat := 10
def evUnitRetired : Nat := 11
def evWake : Nat := 12
def evJournalRoll : Nat := 13

/-- SOURCE values (R360). -/
def srcChannel (c : Nat) : Nat := c
def srcPolder (p : Nat) : Nat := 0x60 + p
def srcSluice (n : Nat) : Nat := 0x68 + n
def srcTamp (i : Nat) : Nat := 0x6C + i
def srcLedger : Nat := 0x70
def srcSeal : Nat := 0x71
def srcEntropy : Nat := 0x72
def srcCipher : Nat := 0x73
def srcLife : Nat := 0x74
def srcPower : Nat := 0x75
def srcKeeper : Nat := 0x76
def srcJournal : Nat := 0x77
def srcKey : Nat := 0x78
def srcRadio : Nat := 0x80
def srcBankLink (b : Nat) : Nat := 0x88 + b

/-- Writes an event at the EQ's tail, or discards and counts it (R333). -/
def writeEvent (s : State) (e : Event) : State :=
  let q := s.ring.eq
  let idx := e.code.toNat - 0x0100
  if q.active && q.mask.getLsbD idx && decide (unreleased q.size q.head q.tail + 1 < ringSize q.size) then
    let last := decide (q.tail + 1 = ringSize q.size)
    let s1 := emit s (.event (q.base + BitVec.ofNat 64 (16 * q.tail)) q.tail q.phase q.lost e)
    eqIrq { s1 with ring := { s1.ring with eq := { q with tail := if last then 0 else q.tail + 1,
                                                          phase := if last then !q.phase else q.phase,
                                                          lost := false, counted := q.counted + 1 } } }
  else { s with ring := { s.ring with eq := { q with dropped := sat 32 (q.dropped + 1), overflow := true, lost := true } } }

/-- Posts an event stamped with `beat`; it waits for the keeper during a restart (R24). -/
def postEventAt (s : State) (idx src : Nat) (detail : Nat) (beat : Word) : State :=
  let e : Event := ⟨BitVec.ofNat 16 (0x0100 + idx), BitVec.ofNat 8 src, BitVec.ofNat 64 detail, beat⟩
  if s.flt.restarting then { s with ring := { s.ring with restartEv := s.ring.restartEv ++ [e] } } else writeEvent s e

def postEvent (s : State) (idx src detail : Nat) : State := postEventAt s idx src detail (beat32 s)

/-- Posts EV_PROGRESS when an update of a progress register reaches or passes a multiple of 100 (R377). -/
def postProgress (s : State) (op src old new pos : Nat) : State :=
  if old / 100 < new / 100 then postEvent s evProgress src (op + new * 2 ^ 8 + pos * 2 ^ 32) else s

/-! ### Life-cycle -/

/-- State code: 0 BLANK, 1 FACTORY, 2 TRACTION, 3 SECOND_LIFE, 4 RECYCLED, 5 RMA. -/
def lcState (s : State) : Nat :=
  if s.lcy.fuses.getLsbD 4 then 5 else if s.lcy.fuses.getLsbD 3 then 4 else if s.lcy.fuses.getLsbD 2 then 3
  else if s.lcy.fuses.getLsbD 1 then 2 else if s.lcy.fuses.getLsbD 0 then 1 else 0

/-- A chain was open when the advance began: FROM is FACTORY, TRACTION or SECOND_LIFE. -/
def chainFrom (t : Ticket) : Bool := decide (1 ≤ t.frm) && decide (t.frm ≤ 3)

/-- The life-cycle has a ledger and an open chain: in an unfinished advance as at its beginning (R217, R234, R270). -/
def chainLife (s : State) : Bool :=
  match s.fl.newTicket with
  | some t => chainFrom t
  | none => decide (1 ≤ lcState s) && decide (lcState s ≤ 3)

/-! ### Journal staging -/

/-- A 28-byte payload from its fields, numbered by the record's byte offsets (R235). -/
def payload (fs : List (Nat × List Byte)) : List Byte := layBytes 28 (fs.map fun f => (f.1 - 20, f.2))

/-- Records that the staging buffer holds (R25). -/
def stagingCap : Nat := 2048

/-- Stages a record while a chain is open: it takes the next SEQ (R234). The buffer cannot fill (R25): a record that
found it full would find no room (log entry 87). -/
def stageRec (s : State) (type source : Nat) (beat : BitVec 64) (pl : List Byte) (uid : Nat) : State :=
  if !s.jrn.isOpen ∨ stagingCap ≤ s.jrn.staged.length then s
  else
    let r : JRec := { seq := s.jrn.nextSeq, kgen := s.jrn.kgen, beat := beat, type := type, source := source,
                      flags := if s.flt.restarting then 1#8 else 0#8, payload := pl, chain := none, uid := uid }
    { s with jrn := { s.jrn with staged := s.jrn.staged ++ [r], nextSeq := s.jrn.nextSeq + 1 } }

def stage (s : State) (type source : Nat) (fs : List (Nat × List Byte)) : State :=
  stageRec s type source s.clk.beat (payload fs) 0

/-- The device writes a stretch of an area of flash: what the debug port had written there is gone, and its words are sound again
(R276, R414). -/
def flashRenew (s : State) (area off n : Nat) : State :=
  { s with fl := { s.fl with
      dbgBytes := s.fl.dbgBytes.filter (fun p => !(p.1 % 8 == area && decide (off ≤ p.1 / 8) && decide (p.1 / 8 < off + n))),
      weak := s.fl.weak.filter (fun p => !(p.1 == area && decide (off < 8 * p.2 + 8) && decide (8 * p.2 < off + n))),
      bad := s.fl.bad.filter (fun p => !(p.1 == area && decide (off < 8 * p.2 + 8) && decide (8 * p.2 < off + n))) } }

/-- Stages a record that a start may bring: it waits until METER is on and the chain is open again, where one will be. -/
def stageSoon (s : State) (type source : Nat) (fs : List (Nat × List Byte)) : State :=
  if s.jrn.isOpen ∨ s.pwr.phase = .started then stage s type source fs
  else if !chainLife s then s
  else { s with pwr := { s.pwr with startRecs := s.pwr.startRecs ++ [(type, source, payload fs)] } }

/-- The record of SLOT_BATCH that a further channel joins: same beat, outcome and command, still staged. -/
def batchJoins (r : JRec) (beat : BitVec 64) (uid code : Nat) : Bool :=
  r.type == 0x20 && r.beat == beat && r.uid == uid && leAt r.payload 0 2 == code

/-- Merges a channel into a SLOT_BATCH record: the mask and the lowest-numbered polder (R235). -/
def batchMerge (r : JRec) (source ch : Nat) : JRec :=
  let m := leAt r.payload 2 12 ||| 2 ^ ch
  { r with source := min r.source source, payload := r.payload.take 2 ++ leBytes m 12 ++ r.payload.drop 14 }

def batchInto : List JRec → BitVec 64 → Nat → Nat → Nat → Nat → Option (List JRec)
  | [], _, _, _, _, _ => none
  | r :: t, beat, uid, code, source, ch =>
    if batchJoins r beat uid code then some (batchMerge r source ch :: t)
    else (batchInto t beat uid code source ch).map (r :: ·)

/-- A final outcome that R159 journals: one SLOT_BATCH record per beat, outcome and command (R235). -/
def stageBatch (s : State) (uid cmdId polder ch : Nat) (st : Status) : State :=
  match batchInto s.jrn.staged s.clk.beat uid (statusCode st) (3 + polder) ch with
  | some l => { s with jrn := { s.jrn with staged := l } }
  | none => stageRec s 0x20 (3 + polder) s.clk.beat
      (payload [(20, leBytes (statusCode st) 2), (22, leBytes (2 ^ ch) 12), (34, leBytes cmdId 2)]) uid

/-! ### Commands in hand -/

def findCmd (s : State) (uid : Nat) : Option Cmd := s.ring.cmds.find? (fun c => c.uid == uid)

def putCmd (s : State) (c : Cmd) : State :=
  { s with ring := { s.ring with cmds := s.ring.cmds.map (fun x => if x.uid == c.uid then c else x) } }

def dropCmd (s : State) (uid : Nat) : State :=
  { s with ring := { s.ring with cmds := s.ring.cmds.filter (fun x => !(x.uid == uid)) } }

/-- A DRAINING SQ with no command left is DISABLED (R330). -/
def settleSq (s : State) (n : Nat) : State :=
  let q := getSq s n
  if q.st = .draining && !(s.ring.cmds.any fun c => c.sq == n) then
    setSq s n { q with st := .disabled }
  else s

/-- One stop more in FLT_STOPS.COUNT (R425). -/
def countStop (s : State) : State := { s with flt := { s.flt with stops := sat 16 (s.flt.stops + 1) } }

end Sys2Proof.Machine
end

