-- ==== Sys2Proof/Machine/Crypto.lean ====
section
/-! DEFINITION. The cryptographic functions the manual names by standard: AES-128 and AES-256 (FIPS 197), CMAC (R296), CTR (R295),
CCM (R297), the KDF of R248, the CTR_DRBG of R313, the CRC-16 of R106 and CRC-32C. Bytes are numbers below 256. -/

namespace Sys2Proof.Machine

open Sys2Proof

/-! ### AES -/

def sboxTable : List Nat :=
  [99, 124, 119, 123, 242, 107, 111, 197, 48, 1, 103, 43, 254, 215, 171, 118] ++
  [202, 130, 201, 125, 250, 89, 71, 240, 173, 212, 162, 175, 156, 164, 114, 192] ++
  [183, 253, 147, 38, 54, 63, 247, 204, 52, 165, 229, 241, 113, 216, 49, 21] ++
  [4, 199, 35, 195, 24, 150, 5, 154, 7, 18, 128, 226, 235, 39, 178, 117] ++
  [9, 131, 44, 26, 27, 110, 90, 160, 82, 59, 214, 179, 41, 227, 47, 132] ++
  [83, 209, 0, 237, 32, 252, 177, 91, 106, 203, 190, 57, 74, 76, 88, 207] ++
  [208, 239, 170, 251, 67, 77, 51, 133, 69, 249, 2, 127, 80, 60, 159, 168] ++
  [81, 163, 64, 143, 146, 157, 56, 245, 188, 182, 218, 33, 16, 255, 243, 210] ++
  [205, 12, 19, 236, 95, 151, 68, 23, 196, 167, 126, 61, 100, 93, 25, 115] ++
  [96, 129, 79, 220, 34, 42, 144, 136, 70, 238, 184, 20, 222, 94, 11, 219] ++
  [224, 50, 58, 10, 73, 6, 36, 92, 194, 211, 172, 98, 145, 149, 228, 121] ++
  [231, 200, 55, 109, 141, 213, 78, 169, 108, 86, 244, 234, 101, 122, 174, 8] ++
  [186, 120, 37, 46, 28, 166, 180, 198, 232, 221, 116, 31, 75, 189, 139, 138] ++
  [112, 62, 181, 102, 72, 3, 246, 14, 97, 53, 87, 185, 134, 193, 29, 158] ++
  [225, 248, 152, 17, 105, 217, 142, 148, 155, 30, 135, 233, 206, 85, 40, 223] ++
  [140, 161, 137, 13, 191, 230, 66, 104, 65, 153, 45, 15, 176, 84, 187, 22]

def sbox (n : Nat) : Nat := sboxTable.getD n 0

def xtime (n : Nat) : Nat := if n < 128 then 2 * n else (2 * n) ^^^ 0x11B

def xorL (a b : List Nat) : List Nat := List.zipWith (· ^^^ ·) a b

/-- Expanded key words, newest first; `i` is the index of the next word, `nk` the key length in words. -/
def expandGo (nk : Nat) : Nat → Nat → Nat → List (List Nat) → List (List Nat)
  | 0, _, _, ws => ws
  | k + 1, i, rc, ws =>
    let prev := ws.getD 0 []
    let back := ws.getD (nk - 1) []
    let t :=
      if i % nk = 0 then
        match (prev.drop 1 ++ prev.take 1).map sbox with
        | b :: r => (b ^^^ rc) :: r
        | [] => []
      else if 6 < nk ∧ i % nk = 4 then prev.map sbox
      else prev
    expandGo nk k (i + 1) (if i % nk = 0 then xtime rc else rc) (xorL back t :: ws)

def chunksGo (n : Nat) : Nat → List Nat → List (List Nat)
  | 0, _ => []
  | k + 1, l => l.take n :: chunksGo n k (l.drop n)

/-- `l` cut into pieces of `n`, the last one possibly shorter. -/
def chunks (n : Nat) (l : List Nat) : List (List Nat) := chunksGo n ((l.length + n - 1) / n) l

/-- Round keys of a 16-byte or 32-byte key. -/
def expandKey (key : List Nat) : List (List Nat) :=
  let nk := key.length / 4
  let ws := expandGo nk (4 * (nk + 7) - nk) nk 1 (chunks 4 key).reverse
  chunks 16 ws.reverse.flatten

def shiftRows (b : List Nat) : List Nat :=
  [0, 5, 10, 15, 4, 9, 14, 3, 8, 13, 2, 7, 12, 1, 6, 11].map fun i => b.getD i 0

def mixCol (c : List Nat) : List Nat :=
  let a := c.getD 0 0
  let b := c.getD 1 0
  let d := c.getD 2 0
  let e := c.getD 3 0
  [xtime a ^^^ (xtime b ^^^ b) ^^^ d ^^^ e, a ^^^ xtime b ^^^ (xtime d ^^^ d) ^^^ e,
   a ^^^ b ^^^ xtime d ^^^ (xtime e ^^^ e), (xtime a ^^^ a) ^^^ b ^^^ d ^^^ xtime e]

def aesRounds : List (List Nat) → List Nat → List Nat
  | [], b => b
  | [k], b => xorL (shiftRows (b.map sbox)) k
  | k :: ks, b => aesRounds ks (xorL ((chunks 4 (shiftRows (b.map sbox))).flatMap mixCol) k)

/-- AES encryption of one block under expanded round keys. -/
def aesWith (ks : List (List Nat)) (b : List Nat) : List Nat :=
  match ks with
  | [] => b
  | k :: rest => aesRounds rest (xorL b k)

/-! ### Numbers and byte strings -/

/-- The number of a byte string, byte 0 most significant. -/
def beN (l : List Nat) : Nat := l.foldl (fun a b => 256 * a + b % 256) 0

/-- `n` as `k` bytes, byte 0 most significant. -/
def nBe : Nat → Nat → List Nat
  | _, 0 => []
  | n, k + 1 => nBe (n / 256) k ++ [n % 256]

def toN (l : List Byte) : List Nat := l.map (·.toNat)
def ofN (l : List Nat) : List Byte := l.map (BitVec.ofNat 8)

/-- The bytes of an ASCII label. -/
def ascii (t : String) : List Nat := t.toList.map Char.toNat

/-! ### CMAC, CTR, CCM -/

def dbl128 (n : Nat) : Nat := if n < 2 ^ 127 then 2 * n else ((2 * n) % 2 ^ 128) ^^^ 0x87

def cbcMac (ks : List (List Nat)) : List (List Nat) → List Nat → List Nat
  | [], x => x
  | b :: t, x => cbcMac ks t (aesWith ks (xorL x b))

/-- AES-CMAC (R296): 16 bytes. -/
def cmac (key msg : List Nat) : List Nat :=
  let ks := expandKey key
  let k1 := dbl128 (beN (aesWith ks (List.replicate 16 0)))
  let n := (msg.length + 15) / 16
  let full := decide (0 < msg.length) && decide (msg.length % 16 = 0)
  let body := chunks 16 (msg.take (16 * (n - 1)))
  let rest := msg.drop (16 * (n - 1))
  let last := if full then xorL rest (nBe k1 16)
    else xorL (rest ++ 0x80 :: List.replicate (15 - rest.length) 0) (nBe (dbl128 k1) 16)
  cbcMac ks (body ++ [last]) (List.replicate 16 0)

/-- Counter block `i` of R295. -/
def ctrBlock (icb : List Nat) (i : Nat) : List Nat := icb.take 8 ++ nBe ((beN (icb.drop 8) + i) % 2 ^ 64) 8

def ctrGo (ks : List (List Nat)) (icb : List Nat) : List (List Nat) → Nat → List Nat
  | [], _ => []
  | b :: t, i => xorL b (aesWith ks (ctrBlock icb i)) ++ ctrGo ks icb t (i + 1)

/-- CTR (R295). -/
def ctr (key icb data : List Nat) : List Nat := ctrGo (expandKey key) icb (chunks 16 data) 0

def pad16 (l : List Nat) : List Nat := l ++ List.replicate ((16 - l.length % 16) % 16) 0

/-- The formatted first blocks of CCM (R297): B_0 and the associated data with its length. -/
def ccmHead (nonce aad : List Nat) (plen t : Nat) : List Nat :=
  let q := 15 - nonce.length
  let flags := (if aad.isEmpty then 0 else 64) + 8 * ((t - 2) / 2) + (q - 1)
  let a := if aad.isEmpty then []
    else if aad.length < 2 ^ 16 - 2 ^ 8 then pad16 (nBe aad.length 2 ++ aad)
    else pad16 (0xFF :: 0xFE :: nBe aad.length 4 ++ aad)
  (flags :: nonce) ++ nBe plen q ++ a

/-- CCM counter block `i`. -/
def ccmCtr (nonce : List Nat) (i : Nat) : List Nat := (14 - nonce.length) :: nonce ++ nBe i (15 - nonce.length)

def ccmStream (ks : List (List Nat)) (nonce : List Nat) : List (List Nat) → Nat → List Nat
  | [], _ => []
  | b :: t, i => xorL b (aesWith ks (ccmCtr nonce i)) ++ ccmStream ks nonce t (i + 1)

def ccmTag (ks : List (List Nat)) (nonce aad pt : List Nat) (t : Nat) : List Nat :=
  let mac := cbcMac ks (chunks 16 (ccmHead nonce aad pt.length t ++ pad16 pt)) (List.replicate 16 0)
  (xorL mac (aesWith ks (ccmCtr nonce 0))).take t

/-- CCM encryption: ciphertext and tag. -/
def ccmSealBytes (key nonce aad pt : List Nat) (t : Nat) : List Nat × List Nat :=
  let ks := expandKey key
  (ccmStream ks nonce (chunks 16 pt) 1, ccmTag ks nonce aad pt t)

/-- CCM decryption: plaintext where the tag verifies. -/
def ccmOpenBytes (key nonce aad ct tag : List Nat) : Option (List Nat) :=
  let ks := expandKey key
  let pt := ccmStream ks nonce (chunks 16 ct) 1
  if ccmTag ks nonce aad pt tag.length = tag then some pt else none

/-! ### Key derivation (R248) -/

def kdfCall (key label ctx : List Nat) (big : Bool) (i : Nat) : List Nat :=
  cmac key (i :: label ++ 0 :: ctx ++ (if big then [1, 0] else [0, 128]))

/-- An AES-128 (16 bytes) or AES-256 (32 bytes) key. -/
def kdf (key label ctx : List Nat) (big : Bool) : List Nat :=
  if big then kdfCall key label ctx big 1 ++ kdfCall key label ctx big 2 else kdfCall key label ctx big 1

/-! ### CTR_DRBG (R313) -/

/-- `n` blocks from (key, V), and the new V. -/
def drbgBlocks (ks : List (List Nat)) : Nat → Nat → List Nat
  | 0, _ => []
  | n + 1, v => aesWith ks (nBe ((v + 1) % 2 ^ 128) 16) ++ drbgBlocks ks n ((v + 1) % 2 ^ 128)

/-- The update function: the next key and V from 48 bytes. -/
def drbgUpdate (key : List Nat) (v : Nat) (data : List Nat) : List Nat × Nat :=
  let t := xorL (drbgBlocks (expandKey key) 3 v) data
  (t.take 32, beN (t.drop 32))

/-- Generates `n` bytes. -/
def drbgGenerate (key : List Nat) (v n : Nat) : List Nat × List Nat × Nat :=
  let blocks := (n + 15) / 16
  let out := drbgBlocks (expandKey key) blocks v
  let r := drbgUpdate key ((v + blocks) % 2 ^ 128) (List.replicate 48 0)
  (out.take n, r.1, r.2)

/-! ### CRCs -/

def crc16Byte (c b : Nat) : Nat :=
  (List.range 8).foldl (fun a _ => if a < 2 ^ 15 then 2 * a else ((2 * a) % 2 ^ 16) ^^^ 0x1021) (c ^^^ (b * 256))

/-- The CRC-16 of R106 and R170 over bytes in transmission order. -/
def crc16 (l : List Nat) : Nat := l.foldl crc16Byte 0xFFFF

def crc32cByte (c b : Nat) : Nat :=
  (List.range 8).foldl (fun a _ => if a % 2 = 1 then (a / 2) ^^^ 0x82F63B78 else a / 2) (c ^^^ b)

/-- CRC-32C. -/
def crc32c (l : List Nat) : Nat := l.foldl crc32cByte 0xFFFFFFFF ^^^ 0xFFFFFFFF

/-- CRC-32C over words, each as four little-endian bytes (R368, R216). -/
def crcWords (l : List Word) : Word := BitVec.ofNat 32 (crc32c (l.flatMap fun w => toN (leBytes w.toNat 4)))

/-! ### The keys of the device (R136, R225, R247 to R249) -/

/-- K_dev (R247). -/
def devKey : List Nat :=
  kdf (nBe Config.deviceSecret.toNat 32) (ascii "KZ DEVICE ROOT 1") (nBe Config.deviceUid.toNat 8) true

/-- The plinth of a state from its ticket's PSEED (R249). -/
def plinthKey (state : Nat) (pseed : List Nat) : List Nat :=
  kdf devKey (ascii "KZ PLINTH KEY V1") (nBe Config.deviceUid.toNat 8 ++ state :: pseed) true

/-- K_tk of a transition (R267). -/
def ticketKey (frm dest : Nat) : List Nat :=
  kdf devKey (ascii "KZ TICKET MAC K1") (nBe Config.deviceUid.toNat 8 ++ [frm, dest]) false

end Sys2Proof.Machine
end

