-- ==== Sys2Proof/Machine/RegTable.lean ====
section
/-! DEFINITION. The staged registers (RWS): their offsets, fields, listed values, reset values and derived values at the basic
level (R9, R366, R432 to R444). -/

namespace Sys2Proof.Machine

open Sys2Proof

/-- The staged registers. -/
inductive RReg where
  | beatCtl | pldCfg (n : Nat) | pldPlace | pldAssign (i : Nat) | leveeCfg | lfRetry
  | lfcCtl (n : Nat) | lfcFreq (n : Nat) | lfcIdrive (n : Nat) | lfcSense (n : Nat) | lfcTune (n : Nat)
  | airWake | airCfg (n : Nat) | airCh (m : Nat) | authCfg
  | radCtl | radCoex | radRangeCfg | radRangeLim | radRangeOfs | radWake | radWakeCode
  | sluPol (n : Nat) | sluLease (n : Nat) | vper | quorum | qmask (i : Nat) | tokenWin | creditMin | tampCfg | safeCfg
  | mtrCfg | scaleI | scaleV | keM | trimI | trimV | fallback | ldgCfg | ldgLow
  | cipCfg | entCfg | patina | dbgCfg | pwrCfg | wakeEn | plReq | sealCfg | user (i : Nat) | fltPld | fltLink
  deriving DecidableEq, Repr

/-- BAR0 offset of a staged register. -/
def offOf : RReg → Nat
  | .beatCtl => 0x0400 | .pldCfg n => 0x1004 + 0x100 * n | .pldPlace => 0x1800 | .pldAssign i => 0x1840 + 4 * i
  | .leveeCfg => 0x1A00 | .lfRetry => 0x1A10
  | .lfcCtl n => 0x2000 + 0x40 * n | .lfcFreq n => 0x2004 + 0x40 * n | .lfcIdrive n => 0x2008 + 0x40 * n
  | .lfcSense n => 0x200C + 0x40 * n | .lfcTune n => 0x2010 + 0x40 * n
  | .airWake => 0x3800 | .airCfg n => 0x3810 + 4 * n | .airCh m => 0x3900 + 4 * m | .authCfg => 0x3F10
  | .radCtl => 0x4000 | .radCoex => 0x4008 | .radRangeCfg => 0x400C | .radRangeLim => 0x4010 | .radRangeOfs => 0x4014
  | .radWake => 0x4018 | .radWakeCode => 0x401C
  | .sluPol n => 0x4800 + 0x10 * n | .sluLease n => 0x4804 + 0x10 * n | .vper => 0x4840 | .quorum => 0x4844
  | .qmask i => 0x4848 + 4 * i | .tokenWin => 0x4854 | .creditMin => 0x4858 | .tampCfg => 0x485C | .safeCfg => 0x4868
  | .mtrCfg => 0x5000 | .scaleI => 0x5004 | .scaleV => 0x5008 | .keM => 0x500C | .trimI => 0x5010 | .trimV => 0x5014
  | .fallback => 0x5018 | .ldgCfg => 0x5080 | .ldgLow => 0x5084
  | .cipCfg => 0x5800 | .entCfg => 0x6000 | .patina => 0x6404 | .dbgCfg => 0x6844
  | .pwrCfg => 0x7008 | .wakeEn => 0x700C | .plReq => 0x7010 | .sealCfg => 0x7810 | .user i => 0x7900 + 4 * i
  | .fltPld => 0x8018 | .fltLink => 0x8020

/-- Instance index of `off` in an array of `cnt` registers at `base`, `step` apart. -/
def inst (off base step cnt : Nat) : Option Nat :=
  if base ≤ off ∧ off < base + step * cnt ∧ (off - base) % step = 0 then some ((off - base) / step) else none

/-- The staged register at a BAR0 offset. -/
def regOf (off : Nat) : Option RReg :=
  if off = 0x0400 then some .beatCtl
  else if off < 0x1800 then (inst off 0x1004 0x100 5).map .pldCfg
  else if off < 0x2000 then
    if off = 0x1800 then some .pldPlace else if off = 0x1A00 then some .leveeCfg else if off = 0x1A10 then some .lfRetry
    else (inst off 0x1840 4 12).map .pldAssign
  else if off < 0x3800 then
    let n := (off - 0x2000) / 0x40
    match (off - 0x2000) % 0x40 with
    | 0x00 => some (.lfcCtl n) | 0x04 => some (.lfcFreq n) | 0x08 => some (.lfcIdrive n) | 0x0C => some (.lfcSense n)
    | 0x10 => some (.lfcTune n) | _ => none
  else if off < 0x4000 then
    if off = 0x3800 then some .airWake else if off = 0x3F10 then some .authCfg
    else if off < 0x3900 then (inst off 0x3810 4 5).map .airCfg else (inst off 0x3900 4 96).map .airCh
  else if off < 0x4800 then
    match off with
    | 0x4000 => some .radCtl | 0x4008 => some .radCoex | 0x400C => some .radRangeCfg | 0x4010 => some .radRangeLim
    | 0x4014 => some .radRangeOfs | 0x4018 => some .radWake | 0x401C => some .radWakeCode | _ => none
  else if off < 0x5000 then
    match off with
    | 0x4840 => some .vper | 0x4844 => some .quorum | 0x4848 => some (.qmask 0) | 0x484C => some (.qmask 1)
    | 0x4850 => some (.qmask 2) | 0x4854 => some .tokenWin | 0x4858 => some .creditMin | 0x485C => some .tampCfg
    | 0x4868 => some .safeCfg
    | _ => match inst off 0x4800 0x10 4 with
      | some n => some (.sluPol n)
      | none => (inst off 0x4804 0x10 4).map .sluLease
  else
    match off with
    | 0x5000 => some .mtrCfg | 0x5004 => some .scaleI | 0x5008 => some .scaleV | 0x500C => some .keM
    | 0x5010 => some .trimI | 0x5014 => some .trimV | 0x5018 => some .fallback | 0x5080 => some .ldgCfg
    | 0x5084 => some .ldgLow | 0x5800 => some .cipCfg | 0x6000 => some .entCfg | 0x6404 => some .patina
    | 0x6844 => some .dbgCfg | 0x7008 => some .pwrCfg | 0x700C => some .wakeEn | 0x7010 => some .plReq
    | 0x7810 => some .sealCfg | 0x8018 => some .fltPld | 0x8020 => some .fltLink
    | _ => (inst off 0x7900 4 128).map .user

/-- Reset value (R432 to R443). -/
def regReset : RReg → Word
  | .beatCtl => 0x00000000 | .pldCfg _ => 0x00008300 | .pldPlace => 0x00000444 | .pldAssign _ => 0
  | .leveeCfg => 0x403C0190 | .lfRetry => 0x00000402
  | .lfcCtl _ => 0x00000004 | .lfcFreq _ => 0x00400000 | .lfcIdrive _ => 0x000000C8 | .lfcSense _ => 0x00000220
  | .lfcTune _ => 0x00021E0A
  | .airWake => 0 | .airCfg _ => 0x140C0200 | .airCh _ => 0 | .authCfg => 0x00000018
  | .radCtl => 0x001C0004 | .radCoex => 0x00023200 | .radRangeCfg => 0x23202800 | .radRangeLim => 0x00281E0A
  | .radRangeOfs => 0 | .radWake => 0x00000319 | .radWakeCode => 0
  | .sluPol _ => 0x00000178 | .sluLease _ => 0x0000003C | .vper => 0x0000001E | .quorum => 0x00000060
  | .qmask _ => 0xFFFFFFFF | .tokenWin => 0x0000003C | .creditMin => 0 | .tampCfg => 0x000A0F0F | .safeCfg => 0x00000005
  | .mtrCfg => 0x4A000900 | .scaleI => 0x00186A00 | .scaleV => 0x000F4240 | .keM => 0xB60B60B6 | .trimI => 0 | .trimV => 0
  | .fallback => 0 | .ldgCfg => 0x00143C00 | .ldgLow => 0x00004E20
  | .cipCfg => 0x000A0000 | .entCfg => 0x00640A00 | .patina => 0x00000032 | .dbgCfg => 0x0000001E
  | .pwrCfg => 0x00140801 | .wakeEn => 0x0000001B | .plReq => 0x00000002 | .sealCfg => 0x0000000A | .user _ => 0
  | .fltPld => 0x00001803 | .fltLink => 0x00000808

/-- Reset value at an offset; 0 where no staged register lies. -/
def resetAt (off : Nat) : Word :=
  match regOf off with
  | some r => regReset r
  | none => 0

/-- The sealed set with no unit retired, in ascending offset order (R444): 763 registers. -/
def sealedOffs : List Nat :=
  [0x0400] ++ (List.range 5).map (fun n => 0x1004 + 0x100 * n) ++ [0x1800, 0x1A00, 0x1A10] ++
  (List.range 96).flatMap (fun n => (List.range 5).map fun j => 0x2000 + 0x40 * n + 4 * j) ++
  [0x3800] ++ (List.range 5).map (fun n => 0x3810 + 4 * n) ++ (List.range 96).map (fun m => 0x3900 + 4 * m) ++ [0x3F10] ++
  [0x4000, 0x4008, 0x400C, 0x4010, 0x4014, 0x4018, 0x401C] ++
  (List.range 4).flatMap (fun n => [0x4800 + 0x10 * n, 0x4804 + 0x10 * n]) ++
  [0x4840, 0x4844, 0x4848, 0x484C, 0x4850, 0x4854, 0x4858, 0x485C, 0x4868] ++
  [0x5000, 0x5004, 0x5008, 0x500C, 0x5010, 0x5014, 0x5018, 0x5080, 0x5084] ++
  [0x5800, 0x6000, 0x6404, 0x6844, 0x7008, 0x700C, 0x7010, 0x7810] ++ (List.range 128).map (fun i => 0x7900 + 4 * i) ++
  [0x8018, 0x8020]

/-- Every staged register but PLD_ASSIGN is sealed. -/
def isSealed : RReg → Bool
  | .pldAssign _ => false
  | _ => true

/-- A field of a staged register: place, the values listed, whether it is an expert field (R366), and whether step 1 of
R362 applies it. -/
structure Fld where
  lo : Nat
  w : Nat
  ok : Nat → Bool
  expert : Bool := false
  first : Bool := false

def anyVal : Nat → Bool := fun _ => true
def rng (a b : Nat) : Nat → Bool := fun v => decide (a ≤ v) && decide (v ≤ b)
def srng (w : Nat) (a b : Int) : Nat → Bool := fun v => decide (a ≤ sgn w v) && decide (sgn w v ≤ b)

/-- The largest NT of the profile's tone plan (R179); without a profile the field's listed maximum of all plans. -/
def planM (profile : Nat) : Nat := if profile = 2 then 52 else if profile = 1 then 40 else if profile = 3 then 40 else 52

/-- The fields of a staged register. `m` is the largest NT of the profile; `nt` the NT that TMIN is listed against. -/
def fields (m nt : Nat) : RReg → List Fld
  | .beatCtl => [⟨0, 2, rng 0 2, false, false⟩]
  | .pldCfg _ => [⟨0, 1, anyVal, false, true⟩, ⟨1, 3, rng 0 2, false, true⟩, ⟨8, 4, rng 0 7, true, false⟩,
                  ⟨12, 4, rng 4 15, true, false⟩]
  | .pldPlace => [⟨0, 2, rng 0 2, false, false⟩, ⟨2, 1, anyVal, false, false⟩,
                  ⟨4, 3, fun v => decide (v ≤ 4) || v == 7, false, false⟩, ⟨8, 8, rng 1 24, false, false⟩]
  | .pldAssign _ => (List.range 8).flatMap fun k => [⟨4 * k, 3, rng 0 4, false, false⟩, ⟨4 * k + 3, 1, anyVal, false, false⟩]
  | .leveeCfg => [⟨0, 13, rng 50 600, false, false⟩, ⟨16, 8, rng 5 60, false, false⟩, ⟨24, 8, rng 1 255, false, false⟩]
  | .lfRetry => [⟨0, 3, anyVal, false, false⟩, ⟨8, 4, rng 1 15, false, false⟩]
  | .lfcCtl n => [⟨0, 1, anyVal, false, false⟩, ⟨1, 1, fun v => decide (n % 2 = 0) || v == 0, false, false⟩,
                  ⟨2, 1, anyVal, false, false⟩, ⟨3, 1, anyVal, false, true⟩, ⟨4, 3, rng 0 4, false, true⟩]
  | .lfcFreq _ => [⟨0, 32, rng 0x00333333 0x004CCCCD, false, false⟩]
  | .lfcIdrive _ => [⟨0, 12, rng 20 2000, true, false⟩]
  | .lfcSense _ => [⟨0, 16, rng 16 65535, false, false⟩]
  | .lfcTune _ => [⟨0, 5, rng 0 30, true, false⟩, ⟨8, 6, rng 5 45, true, false⟩, ⟨16, 3, rng 0 6, true, false⟩]
  | .airWake => [⟨0, 16, anyVal, false, false⟩]
  | .airCfg _ => [⟨0, 1, anyVal, false, true⟩, ⟨1, 2, rng 0 2, false, true⟩, ⟨8, 4, rng 1 8, true, false⟩,
                  ⟨16, 8, rng 2 40, true, false⟩, ⟨24, 8, rng 5 200, true, false⟩]
  | .airCh _ => [⟨0, 2, anyVal, false, true⟩, ⟨2, 1, anyVal, false, true⟩, ⟨3, 1, anyVal, true, false⟩,
                 ⟨4, 1, anyVal, true, false⟩, ⟨8, 8, srng 8 (-16) 15, false, false⟩]
  | .authCfg => [⟨0, 5, rng 16 31, false, false⟩]
  | .radCtl => [⟨0, 1, anyVal, false, true⟩, ⟨1, 2, rng 0 2, false, false⟩, ⟨8, 6, anyVal, true, false⟩,
                ⟨16, 8, srng 8 (-40) 28, true, false⟩]
  | .radCoex => [⟨0, 1, anyVal, false, false⟩, ⟨1, 1, anyVal, false, false⟩, ⟨2, 1, anyVal, false, false⟩,
                 ⟨8, 8, rng 10 255, false, false⟩, ⟨16, 8, rng 1 100, false, false⟩]
  | .radRangeCfg => [⟨0, 1, anyVal, false, true⟩, ⟨8, 6, rng 16 m, true, false⟩, ⟨16, 6, rng 8 nt, true, false⟩,
                     ⟨24, 8, rng 5 200, true, false⟩]
  | .radRangeLim => [⟨0, 8, rng 2 100, true, false⟩, ⟨8, 8, rng 3 250, true, false⟩, ⟨16, 8, anyVal, true, false⟩]
  | .radRangeOfs => [⟨0, 16, anyVal, false, false⟩]
  | .radWake => [⟨0, 8, rng 10 255, false, false⟩, ⟨8, 4, rng 1 15, false, false⟩, ⟨12, 1, anyVal, false, false⟩]
  | .radWakeCode => [⟨0, 32, anyVal, false, false⟩]
  | .sluPol _ => [⟨0, 1, anyVal, false, true⟩, ⟨1, 2, rng 0 2, false, true⟩, ⟨3, 1, anyVal, true, false⟩,
                  ⟨4, 1, anyVal, true, false⟩, ⟨5, 1, anyVal, true, false⟩, ⟨6, 2, rng 0 2, true, false⟩,
                  ⟨8, 4, anyVal, true, false⟩]
  | .sluLease _ => [⟨0, 12, rng 1 3600, false, false⟩]
  | .vper => [⟨0, 13, rng 1 6000, false, false⟩]
  | .quorum => [⟨0, 7, rng 1 96, false, false⟩, ⟨8, 4, anyVal, false, false⟩, ⟨16, 8, anyVal, false, false⟩]
  | .qmask _ => [⟨0, 32, anyVal, false, false⟩]
  | .tokenWin => [⟨0, 10, rng 1 1023, false, false⟩]
  | .creditMin => [⟨0, 32, anyVal, false, false⟩]
  | .tampCfg => [⟨0, 4, anyVal, false, false⟩, ⟨4, 4, anyVal, false, false⟩, ⟨8, 4, anyVal, false, false⟩,
                 ⟨16, 8, rng 1 255, false, false⟩]
  | .safeCfg => [⟨0, 6, rng 1 60, false, false⟩]
  | .mtrCfg => [⟨0, 1, anyVal, false, true⟩, ⟨1, 1, anyVal, false, false⟩, ⟨2, 1, anyVal, false, false⟩,
                ⟨4, 6, rng 8 32, false, true⟩, ⟨10, 2, anyVal, false, true⟩, ⟨16, 8, anyVal, false, false⟩,
                ⟨24, 7, rng 48 80, true, false⟩]
  | .scaleI => [⟨0, 32, anyVal, false, true⟩]
  | .scaleV => [⟨0, 32, anyVal, false, true⟩]
  | .keM => [⟨0, 32, rng 0x80000000 0xFFFFFFFF, true, false⟩]
  | .trimI => [⟨0, 16, anyVal, false, false⟩, ⟨16, 16, anyVal, false, false⟩]
  | .trimV => [⟨0, 16, anyVal, false, false⟩, ⟨16, 16, anyVal, false, false⟩]
  | .fallback => [⟨0, 24, anyVal, false, false⟩]
  | .ldgCfg => [⟨0, 2, rng 0 2, false, false⟩, ⟨8, 8, rng 1 255, false, false⟩, ⟨16, 7, rng 20 100, false, false⟩]
  | .ldgLow => [⟨0, 32, anyVal, false, false⟩]
  | .cipCfg => [⟨0, 1, anyVal, false, true⟩, ⟨1, 2, rng 0 1, false, true⟩, ⟨8, 2, rng 0 2, true, false⟩,
                ⟨16, 4, rng 6 14, true, false⟩]
  | .entCfg => [⟨0, 1, anyVal, false, true⟩, ⟨1, 1, rng 0 0, false, true⟩, ⟨8, 4, rng 1 10, true, false⟩,
                ⟨16, 10, rng 1 1000, false, false⟩]
  | .patina => [⟨0, 10, rng 10 1000, false, false⟩]
  | .dbgCfg => [⟨0, 8, rng 1 240, false, false⟩]
  | .pwrCfg => [⟨0, 1, anyVal, false, false⟩, ⟨1, 1, anyVal, false, false⟩, ⟨8, 8, anyVal, false, false⟩,
                ⟨16, 8, rng 1 100, false, false⟩]
  | .wakeEn => (List.range 6).map fun i => ⟨i, 1, anyVal, false, false⟩
  | .plReq => [⟨0, 2, anyVal, false, false⟩]
  | .sealCfg => [⟨0, 8, rng 1 255, false, false⟩]
  | .user _ => [⟨0, 32, anyVal, false, false⟩]
  | .fltPld => [⟨0, 3, rng 1 7, false, false⟩, ⟨8, 8, rng 1 255, false, false⟩]
  | .fltLink => [⟨0, 8, rng 1 255, false, false⟩, ⟨8, 8, rng 1 255, false, false⟩]

/-- The register that holds the EXPERT_EN bit of a register's expert fields, and that bit. -/
def levelOf : RReg → Option (RReg × Nat)
  | .pldCfg n => some (.pldCfg n, 0)
  | .lfcIdrive n => some (.lfcCtl n, 3)
  | .lfcTune n => some (.lfcCtl n, 3)
  | .airCfg n => some (.airCfg n, 0)
  | .airCh m => some (.airCh m, 2)
  | .radCtl => some (.radCtl, 0)
  | .radRangeCfg => some (.radRangeCfg, 0)
  | .radRangeLim => some (.radRangeCfg, 0)
  | .sluPol n => some (.sluPol n, 0)
  | .mtrCfg => some (.mtrCfg, 0)
  | .keM => some (.mtrCfg, 0)
  | .cipCfg => some (.cipCfg, 0)
  | .entCfg => some (.entCfg, 0)
  | _ => none

/-- KE of R215 from SCALE_I, SCALE_V, DIV and OSR: the shift and the mantissa; `none` where the shift falls outside 48 to 80. -/
def deriveKe (si sv div osr : Nat) : Option (Nat × Nat) :=
  let n := si * sv * div * (64 * 2 ^ osr)
  let d := 576 * 10 ^ 12 * 2 ^ 46
  let fits := fun sh => decide (d * 2 ^ 31 ≤ n * 2 ^ sh) && decide (n * 2 ^ sh < d * 2 ^ 32)
  match (List.range 34).find? (fun i => fits (48 + i)) with
  | none => none
  | some i =>
    let sh := 48 + i
    let m := (2 * n * 2 ^ sh + d) / (2 * d)
    let r := if m = 2 ^ 32 then (sh - 1, 2 ^ 31) else (sh, m)
    if 48 ≤ r.1 ∧ r.1 ≤ 80 then some r else none

/-- Frequency of telegram channel `c` in kHz (R166). -/
def chanKhz (o : Options) (c : Nat) : Nat := o.chBase + c * o.chStep

/-- The lowest-numbered enabled entry that contains [lo, hi] kHz (R166). -/
def bandOf (o : Options) (lo hi : Nat) : Option Nat :=
  (List.range o.bands.length).find? fun e =>
    match o.bands[e]? with
    | some b => b.en && decide (b.fLow ≤ lo) && decide (hi ≤ b.fHigh)
    | none => false

/-- CHAN and TX_PWR (0.5 dB steps, two's complement) of the basic level: the profile's channel (R169) and PMAX of its
entry. -/
def radBasic (o : Options) : Nat × Nat :=
  let c := if o.profile = 1 then 52 else if o.profile = 2 then 32 else if o.profile = 3 then 9 else 0
  match bandOf o (chanKhz o c) (chanKhz o c) with
  | some e => match o.bands[e]? with
    | some b => (c, wrapInt 8 b.pmax)
    | none => (c, 28)
  | none => (c, 28)

/-- A word with the expert fields of a basic-level register replaced by the values that PROFILE, ROLE or the derivation
rule gives (R366). `get` reads the registers the rule uses; `rad` is the channel and the power that the radio profile sets. -/
def derived (rad : Nat × Nat) (get : RReg → Word) : RReg → Word → Word
  | .pldCfg _, w =>
    let p := fld w 1 3
    let v := if p = 1 then (2, 10) else if p = 2 then (1, 12) else (3, 8)
    setFld (setFld w 8 4 v.1) 12 4 v.2
  | .lfcIdrive n, w =>
    let c := get (.lfcCtl n)
    let t := match fld c 4 3 with
      | 1 => 500 | 2 => 1000 | 3 => if bitOf c 1 then 2000 else 1000 | 4 => 100 | _ => 200
    setFld w 0 12 t
  | .lfcTune _, w => setFld (setFld (setFld w 0 5 10) 8 6 30) 16 3 2
  | .airCfg _, w =>
    let p := fld w 1 2
    let v := if p = 1 then (1, 8, 20) else if p = 2 then (3, 20, 40) else (2, 12, 20)
    setFld (setFld (setFld w 8 4 v.1) 16 8 v.2.1) 24 8 v.2.2
  | .airCh _, w =>
    let slow := b2n (decide (fld w 0 2 = 1))
    setFld (setFld w 3 1 slow) 4 1 slow
  | .radCtl, w => setFld (setFld w 8 6 rad.1) 16 8 rad.2
  | .radRangeCfg, w => setFld (setFld (setFld w 8 6 40) 16 6 32) 24 8 35
  | .radRangeLim, w => setFld (setFld (setFld w 0 8 10) 8 8 30) 16 8 40
  | .sluPol _, w =>
    let p := fld w 1 2
    let v := if p = 1 then (1, 1, 1, 0, 0) else if p = 2 then (0, 0, 0, 2, 6) else (1, 1, 1, 1, 1)
    setFld (setFld (setFld (setFld (setFld w 3 1 v.1) 4 1 v.2.1) 5 1 v.2.2.1) 6 2 v.2.2.2.1) 8 4 v.2.2.2.2
  | .mtrCfg, w =>
    match deriveKe (get .scaleI).toNat (get .scaleV).toNat (fld w 4 6) (fld w 10 2) with
    | some ke => setFld w 24 7 ke.1
    | none => w
  | .keM, w =>
    let c := get .mtrCfg
    match deriveKe (get .scaleI).toNat (get .scaleV).toNat (fld c 4 6) (fld c 10 2) with
    | some ke => BitVec.ofNat 32 ke.2
    | none => w
  | .cipCfg, w => setFld (setFld w 8 2 (if fld w 1 2 = 1 then 2 else 0)) 16 4 10
  | .entCfg, w => setFld w 8 4 10
  | _, w => w

/-- The raw active word of a staged register in a table of changed values. -/
def valIn (vals : SMap Word) (r : RReg) : Word := smGet vals (offOf r) (regReset r)

/-- The radio profile: 0 none, 1 ETSI, 2 FCC, 3 ARIB (R166). -/
def radProfile (s : State) : Nat := s.fl.opts.profile

/-- The active value of a staged register. -/
def reg (s : State) (r : RReg) : Word := valIn s.cfg.vals r

/-- A field of a staged register. -/
def regF (s : State) (r : RReg) (lo w : Nat) : Nat := fld (reg s r) lo w

/-- A signed field of a staged register. -/
def regS (s : State) (r : RReg) (lo w : Nat) : Int := sgn w (fld (reg s r) lo w)

def regB (s : State) (r : RReg) (i : Nat) : Bool := bitOf (reg s r) i

end Sys2Proof.Machine
end

