-- ==== Sys2Proof/Machine/Operands.lean ====
section
/-! DEFINITION. What commands name: descriptor fields (R334), channel masks, and the predicates over channels, polders, banks
and life-cycle states that many rules share.

Marked choices (log entries): DESIGN CHOICE 4; DEDUCED 47, 82. -/

namespace Sys2Proof.Machine

open Sys2Proof

/-! ### Descriptor fields (R334) -/

def descOpcode (d : Desc) : Nat := fld d.dw0 0 8
def descFence (d : Desc) : Bool := bitOf d.dw0 8
def descNoirq (d : Desc) : Bool := bitOf d.dw0 9
def descCmdId (d : Desc) : Nat := fld d.dw0 16 16
def descLenIn (d : Desc) : Nat := fld d.dw1 0 24
def descPrio (d : Desc) : Nat := fld d.dw1 24 4
def descAddrIn (d : Desc) : Nat := d.dw2.toNat + d.dw3.toNat * 2 ^ 32
def descLenOut (d : Desc) : Nat := fld d.dw4 0 24
def descBufCap (d : Desc) : Nat := fld d.dw5 0 24
def descAddrOut (d : Desc) : Nat := d.dw6.toNat + d.dw7.toNat * 2 ^ 32

/-- The operation's own dwords, DW8 to DW15. -/
def descOps (d : Desc) : List Word := [d.dw8, d.dw9, d.dw10, d.dw11, d.dw12, d.dw13, d.dw14, d.dw15]

/-- No bit of the masks given for DW8 to DW15 is set. -/
def descClear (d : Desc) (masks : List Nat) : Bool :=
  ((descOps d).zip masks).all fun p => decide (p.1.toNat &&& p.2 = 0)

/-- The 96-bit channel mask of DW9 to DW11 (R55, R74). -/
def descMask96 (d : Desc) : Nat := d.dw9.toNat + d.dw10.toNat * 2 ^ 32 + d.dw11.toNat * 2 ^ 64

/-- A 64-bit operand in two dwords, the low one first. -/
def lo64 (lo hi : Word) : Nat := lo.toNat + hi.toNat * 2 ^ 32

def allOnes : Nat := 0xFFFFFFFF

/-! ### Life-cycle state (R265) -/

/-- The state of an advance in progress counts as the old state until its fuse pair is blown; advances refuse much else. -/
def advancing (s : State) : Bool := optB s.lcy.adv || optB s.fl.newTicket

/-! ### Beat length (R30) -/

/-- Length of a beat in µs. -/
def beatUs (s : State) : Nat :=
  match regF s .beatCtl 0 2 with
  | 1 => 500 | 2 => 2000 | _ => 1000

/-! ### Channels -/

def bankOf (c : Nat) : Nat := c / 24

/-- GANG of the even channel `n`. -/
def gangBit (s : State) (n : Nat) : Bool := regB s (.lfcCtl n) 1

/-- Channel `n` is the odd half of a ganged pair. -/
def gangSlave (s : State) (n : Nat) : Bool := decide (n % 2 = 1) && gangBit s (n - 1)

/-- Channel `n` is the even half of a ganged pair. -/
def gangMaster (s : State) (n : Nat) : Bool := decide (n % 2 = 0) && gangBit s n

/-- The channel whose settings and slot stand for channel `n` (R82). -/
def masterOf (s : State) (n : Nat) : Nat := if gangSlave s n then n - 1 else n

def chanEn (s : State) (n : Nat) : Bool := regB s (.lfcCtl (masterOf s n)) 0

def linkRetired (s : State) (n : Nat) : Bool := (getBank s (bankOf n)).linkRetired

/-- The channel is RETIRED by itself or with its bank link (R68, R417). -/
def chanRetired (s : State) (n : Nat) : Bool := (getChan s (masterOf s n)).retired || linkRetired s n

/-- A named retired channel that a REINSTATE calibration runs on counts as active (R98). -/
def reinstating (s : State) (n : Nat) : Bool :=
  (getChan s (masterOf s n)).jobs.any fun j => match j.kind with | .cal _ _ r => r | _ => false

/-- Active: EN = 1 and not retired (R68). -/
def chanActive (s : State) (n : Nat) : Bool := chanEn s n && (!chanRetired s n || reinstating s n)

def allChans : List Nat := List.range 96

def activeCount (s : State) : Nat := (allChans.filter (chanActive s)).length

/-- Bank powered, ready, and with its bridges allowed (R92, R93). -/
def bankUp (s : State) (b : Nat) : Bool :=
  let k := getBank s b
  domReady s (dBANK b) && k.ready && !k.uv && !k.ov && !k.otOff && !k.linkRetired

/-- A transaction in flight: on air, in quiet segments or in a fault wait. -/
def jobInFlight (j : Job) : Bool := decide (j.phase = .onAir) || decide (j.phase = .quiet) || decide (j.phase = .faultWait)

def chanBusy (s : State) (n : Nat) : Bool := (getChan s (masterOf s n)).jobs.any jobInFlight

def chanPol (s : State) (n : Nat) : Option Nat := (getChan s n).place.map (·.pol)

/-- The channel runs on TRACK with a valid calibration (R72). -/
def tracking (s : State) (n : Nat) : Bool := regB s (.lfcCtl n) 2 && (getChan s n).cal.valid

/-- The boundary of the beat in progress has not been carried out yet: rows that fall at a boundary act (log entry 82). -/
def atBoundary (s : State) : Bool := decide (s.clk.acted ≠ s.clk.beat)

/-- 200 Hz, 100 Hz and 3.0 kHz as FTW steps: f = FTW × 128 MHz / 2^32, rounded to the nearest (R71). -/
def hzFtw (hz : Nat) : Nat := (hz * 2 ^ 32 + 64000000) / 128000000

def winLo (s : State) (n : Nat) : Int :=
  max ((regF s (.lfcFreq n) 0 32 : Int) - hzFtw (100 * regF s (.lfcTune n) 0 5)) 0x00333333
def winHi (s : State) (n : Nat) : Int :=
  min ((regF s (.lfcFreq n) 0 32 : Int) + hzFtw (100 * regF s (.lfcTune n) 0 5)) 0x004CCCCD

/-- F_RES clipped to the window of FREQ (R72). -/
def clipTrack (s : State) (n f : Nat) : Nat := (clampInt (winLo s n) (winHi s n) f).toNat

/-- The carrier a transaction that starts now uses (R72); the odd half of a pair takes it from the even one (R82). -/
def carrier (s : State) (n : Nat) : Nat :=
  let m := masterOf s n
  if tracking s m then (getChan s m).ftrack else regF s (.lfcFreq m) 0 32

/-- The current a transaction that starts now drives, in mA: capped at 1000 without GANG (LFC_n_IDRIVE); the odd half of a pair
takes it from the even one (R82). -/
def driveMa (s : State) (n : Nat) : Nat :=
  let m := masterOf s n
  let t := regF s (.lfcIdrive m) 0 12
  if gangMaster s m then t else min t 1000

/-- STATUS.CAPPED. -/
def capped (s : State) (n : Nat) : Bool :=
  !gangMaster s n && (decide (1000 < regF s (.lfcIdrive n) 0 12) ||
    (!regB s (.lfcCtl n) 3 && decide (regF s (.lfcCtl n) 4 3 = 3)))

/-- Air role: 0 MODULE_SLOT, 1 KEY_SLOT, 2 ZONE, 3 LID (R99). -/
def roleOf (s : State) (n : Nat) : Nat := regF s (.airCh (masterOf s n)) 0 2

/-! ### Polders -/

def polList : List Nat := List.range 5

def runningPols (s : State) : List Nat := polList.filter fun p => decide ((getPol s p).st = .running)

/-- Channels assigned to polder `p`, over all passes. -/
def polChans (s : State) (p : Nat) : List Nat := allChans.filter fun c => decide (chanPol s c = some p)

/-- The keeper does what needs it: no restart in progress, and it runs (R24). -/
def keeperUp (s : State) : Bool := s.pwr.keeperRunning && !s.flt.restarting && !s.lcy.keeperHalted

end Sys2Proof.Machine
end

