-- ==== Sys2Proof/Machine/FlashMap.lean ====
section
/-! DEFINITION. The flash main array as bytes (R241): where each record stands and its bytes, the words in error (R18, R414), what
the debug port wrote over them (R276), and what a start or a read finds there (R131, R230, R236, R374, R421).

Marked choices (log entries): DESIGN CHOICE 55, 81, 89. -/

namespace Sys2Proof.Machine

open Sys2Proof

/-! ### The records as bytes -/

def withCrc (l : List Byte) : List Byte := l ++ leBytes (crc32c (toN l)) 4

/-- The last four of `n` bytes are the CRC-32C over those before them. -/
def crcHolds (l : List Byte) (n : Nat) : Bool := decide (crc32c (toN (l.take (n - 4))) = leAt l (n - 4) 4)

def regStCode : RegState → Nat
  | .free => 0 | .active => 1 | .pending => 2 | .exhausted => 3

/-- A registry entry as its 32 bytes (R132). -/
def entryBytes (e : RegEntry) : List Byte :=
  withCrc (layBytes 28 [(0, leBytes e.id.toNat 8), (8, leBytes (e.kind + 16 * regStCode e.st + 128 * b2n e.pend) 1),
    (9, leBytes e.fleet 1), (10, leBytes e.gen.toNat 2), (12, leBytes e.pendGen.toNat 2), (14, leBytes e.roles.toNat 2),
    (16, leBytes e.sessRes 4), (20, leBytes e.model.toNat 2), (22, leBytes (e.slot.getD 0xFF) 1), (24, leBytes e.wseq 4)])

/-- A slot record as its 32 bytes (R133). -/
def recBytes (ch : Nat) (r : SlotRec) : List Byte :=
  withCrc (layBytes 28 [(0, leBytes ch 1), (1, leBytes (1 + 2 * b2n r.sigValid) 1), (2, leBytes r.reg 2),
    (4, leBytes (wrapInt 32 r.dr) 4), (8, leBytes (wrapInt 32 r.dx) 4), (12, leBytes (wrapInt 8 r.ofs) 1),
    (16, leBytes r.ftw 4), (20, leBytes r.beat.toNat 8)])

/-- A slot record's place where nothing is enrolled. -/
def noRecBytes (ch : Nat) : List Byte := withCrc (layBytes 28 [(0, leBytes ch 1)])

def parseEntry (l : List Byte) : Option RegEntry :=
  let c := leAt l 8 1
  let st : Option RegState := match c / 16 % 8 with
    | 0 => some .free
    | 1 => some .active
    | 2 => some .pending
    | 3 => some .exhausted
    | _ => none
  let res := leAt l 16 4
  match st with
  | some st =>
    if crcHolds l 32 ∧ c % 16 < 4 then
      some ⟨BitVec.ofNat 64 (leAt l 0 8), c % 8, st, c.testBit 7, leAt l 9 1 % 8, BitVec.ofNat 16 (leAt l 10 2), BitVec.ofNat 16 (leAt l 12 2),
        BitVec.ofNat 4 (leAt l 14 2), res, res, BitVec.ofNat 16 (leAt l 20 2), if leAt l 22 1 < 96 then some (leAt l 22 1) else none,
        leAt l 24 4⟩
    else none
  | none => none

/-- A copy of a slot record: `some none` where nothing is enrolled. -/
def parseSlotRec (l : List Byte) : Option (Option SlotRec) :=
  if !crcHolds l 32 then none
  else if !(leAt l 1 1).testBit 0 then some none
  else some (some ⟨leAt l 2 2, (leAt l 1 1).testBit 1, sgn 32 (leAt l 4 4), sgn 32 (leAt l 8 4), sgn 8 (leAt l 12 1), leAt l 16 4,
    BitVec.ofNat 64 (leAt l 20 8)⟩)

def ldgCode : LdgState → Nat
  | .off => 0 | .active => 1 | .parked => 2 | .closing => 3 | .closed => 4

def ldgOfCode : Nat → LdgState
  | 0 => .off | 1 => .active | 2 => .parked | 3 => .closing | _ => .closed

/-- The 256 bytes of a counter record (R229). -/
def counterBytes (r : CounterRec) : List Byte :=
  let i64 := fun (v : Int) => leBytes (wrapInt 64 v) 8
  withCrc (layBytes 252 [(0, leBytes r.rseq 4), (4, leBytes r.kind 1), (5, leBytes (ldgCode r.st) 1), (6, leBytes r.lgen.toNat 2),
    (8, leBytes r.beat.toNat 8),
    (16, i64 r.bkt.balance ++ i64 r.bkt.reserved ++ i64 r.bkt.consumed ++ i64 r.bkt.settled ++ i64 r.bkt.accepted),
    (56, leBytes r.eDis.toNat 8), (64, leBytes r.eChg.toNat 8), (72, leBytes r.aDis 10), (82, leBytes r.aChg 10),
    (92, leBytes r.billRes 2), (94, leBytes r.h 6), (100, leBytes r.seq 6), (106, leBytes r.kgen.toNat 2), (108, leBytes r.faultBeats 4),
    (112, leBytes r.map.toNat 128), (240, leBytes (r.svcUs / 1000) 8), (248, leBytes (r.fbRem / 1000) 2)])

/-- Every counter record satisfies R218, and its residue is below one Wh (R220); what does not is no counter record. -/
def counterSound (r : CounterRec) : Bool :=
  let b := r.bkt
  decide (b.balance + b.reserved + b.consumed + b.settled = b.accepted) && decide (0 ≤ b.reserved) && decide (0 ≤ b.consumed) &&
    decide (0 ≤ b.settled) && decide (0 ≤ b.accepted) && decide (r.billRes < 1000)

def parseCounter (l : List Byte) : Option CounterRec :=
  let i64 := fun (i : Nat) => sgn 64 (leAt l i 8)
  let r : CounterRec :=
    { rseq := leAt l 0 4, kind := leAt l 4 1, st := ldgOfCode (leAt l 5 1), lgen := BitVec.ofNat 16 (leAt l 6 2),
      beat := BitVec.ofNat 64 (leAt l 8 8), bkt := ⟨i64 16, i64 24, i64 32, i64 40, i64 48⟩, eDis := BitVec.ofNat 64 (leAt l 56 8),
      eChg := BitVec.ofNat 64 (leAt l 64 8), aDis := leAt l 72 10, aChg := leAt l 82 10, billRes := leAt l 92 2, h := leAt l 94 6,
      map := BitVec.ofNat 1024 (leAt l 112 128), seq := leAt l 100 6, kgen := BitVec.ofNat 16 (leAt l 106 2),
      faultBeats := leAt l 108 4, svcUs := 1000 * leAt l 240 8, fbRem := 1000 * leAt l 248 2 }
  if crcHolds l 256 && counterSound r then some r else none

/-- Bytes 0 to 47 of a record (R233). -/
def recHead (r : JRec) : List Byte :=
  padTo 48 (leBytes r.seq 6 ++ leBytes r.kgen.toNat 2 ++ leBytes r.beat.toNat 8 ++ leBytes r.type 2 ++ leBytes r.source 1 ++ [r.flags] ++
    r.payload)

/-- The 64 bytes of a record; an erased CHAIN reads 0xFF (R467). -/
def jrecBytes (r : JRec) : List Byte :=
  recHead r ++ match r.chain with
    | some c => beBytes c.toNat 16
    | none => List.replicate 16 0xFF#8

/-- A journal record has no CRC of its own: its CHAIN tells what it holds (R234). -/
def parseJrec (l : List Byte) : JRec :=
  { seq := leAt l 0 6, kgen := BitVec.ofNat 16 (leAt l 6 2), beat := BitVec.ofNat 64 (leAt l 8 8), type := leAt l 16 2,
    source := leAt l 18 1, flags := (slice l 19 1).headD 0#8, payload := slice l 20 28,
    chain := if slice l 48 16 = List.replicate 16 0xFF#8 then none else some (BitVec.ofNat 128 (beN (toN (slice l 48 16)))), uid := 0 }

def parseCkpt (old : Ckpt) (l : List Byte) : Ckpt :=
  { number := leAt l 4 4, type := leAt l 0 1, lastSeq := leAt l 40 6, beat := BitVec.ofNat 64 (leAt l 16 8),
    tag := BitVec.ofNat 128 (beN (toN (slice l 240 16))), bytes := l, weekly := old.weekly }

/-- One copy of an entry of the retirement table (R422). -/
def retBytes (e : RetEntry) : List Byte :=
  withCrc (layBytes 28 [(0, leBytes e.eseq 4), (4, leBytes e.cls 1), (5, leBytes e.idx 1), (6, leBytes (b2n e.reinstated) 1),
    (7, [e.cause]), (8, leBytes e.beat.toNat 8), (16, leBytes (e.svcUs / 1000) 8)])

def parseRet (l : List Byte) : Option RetEntry :=
  if crcHolds l 32 && decide (1 ≤ leAt l 4 1) && decide (leAt l 4 1 ≤ 6) && decide (leAt l 6 1 < 2) then
    some ⟨leAt l 4 1, leAt l 5 1, decide (leAt l 6 1 = 1), (slice l 7 1).headD 0#8, BitVec.ofNat 64 (leAt l 8 8), 1000 * leAt l 16 8,
      leAt l 0 4⟩
  else none

/-- A configuration image as its bytes (R373). -/
def imageBytes (g : ConfigImage) : List Byte :=
  withCrc (leBytes 0x4301 2 ++ leBytes g.entries.length 2 ++ leBytes g.seq 4 ++ leBytes g.chk.toNat 4 ++
    g.entries.flatMap fun e => leBytes e.1 4 ++ leBytes e.2.toNat 4)

def imageEntries (b : List Byte) : List (Nat × Word) :=
  (List.range (leAt b 2 2)).map fun i => (leAt b (12 + 8 * i) 4, BitVec.ofNat 32 (leAt b (16 + 8 * i) 4))

/-- An entry names a sealed register above the entry before it. -/
def entryOk (prev : Option Nat) (o : Nat) : Bool :=
  decide (o < 65536) && (match regOf o with
    | some r => isSealed r
    | none => false) && (match prev with
    | some p => decide (p < o)
    | none => true)

/-- Index of the first bad entry. -/
def firstBad : Option Nat → Nat → List (Nat × Word) → Option Nat
  | _, _, [] => none
  | prev, i, e :: t => if entryOk prev e.1 then firstBad (some e.1) (i + 1) t else some i

def rising : List Nat → Bool
  | a :: b :: t => decide (a < b) && rising (b :: t)
  | _ => true

/-- What R374 checks of an image in flash: FORMAT, COUNT against the area, the order of the entries, the CRC. -/
def parseImage (l : List Byte) : Option ConfigImage :=
  let es := imageEntries l
  if leAt l 0 2 = 0x4301 ∧ leAt l 2 2 ≤ 32766 ∧ rising (es.map (·.1)) ∧ crcHolds l (16 + 8 * leAt l 2 2) then
    some ⟨leAt l 4 4, BitVec.ofNat 32 (leAt l 8 4), es⟩
  else none

/-! ### The layout (R241) -/

def areaBase : Nat → Nat
  | 0 => 0 | 1 => 0x400000 | 2 => 0x480000 | 3 => 0x500000 | 4 => 0x5F0000 | 5 => 0x600000 | _ => 0x800000

def areaSize : Nat → Nat
  | 0 => 0x400000 | 1 => 0x80000 | 2 => 0x80000 | 3 => 0xF0000 | 4 => 0x10000 | 5 => 0x200000 | _ => 0x7800000

/-- Records that the counter ring and the journal hold (R229, R239). -/
def ringRecs : Nat := 3840
def journalRecs : Nat := 1920 * 1024

/-- Copy `c` (0 or 1) of entry `i` and of slot record `m` in the registry area: the manual gives the area and the two copies,
their places are the model's (log entry 55). -/
def entryOff (c i : Nat) : Nat := 0x40000 * c + 32 * i
def slotOff (c m : Nat) : Nat := 0x40000 * c + 0x20000 + 32 * m

/-- Copy `k` of the accepted ticket, in the ticket unit, the last 4 KiB of the key store (R249, R251). -/
def ticketOff (k : Nat) : Nat := 0x7F000 + 64 * k

/-- A ticket as its 64 bytes (R267). -/
def ticketBytesOf (t : Ticket) : List Byte :=
  layBytes 64 [(0, leBytes 0x5401 2), (2, leBytes t.frm 1), (3, leBytes t.dest 1), (4, leBytes t.uid.toNat 8),
    (12, leBytes t.disposition 1), (13, leBytes (b2n t.keepRegistry) 1), (16, beBytes t.pseed.toNat 32), (48, beBytes t.tag.toNat 16)]

/-- A counter record stands at its RSEQ's turn. -/
def counterOff (rseq : Nat) : Nat := (rseq - 1) % ringRecs * 256

/-- Place of the record with index `k` of the journal. -/
def jrecOff (s : State) (k : Nat) : Nat := (s.fl.jrnBase + k) % journalRecs * 64

def retOff (s : State) (i : Nat) : Nat := 0x4000 * s.fl.retBank + 64 * i

def byteOf (l : List Byte) (i : Nat) : Option Byte := l[i]?

/-- The byte of a record that stands at an address of an area, as the device wrote it. -/
def placedByte (s : State) (area addr : Nat) : Option Byte :=
  match area with
  | 1 =>
    (if addr < 0x40000 then s.fl.imgA else if addr < 0x80000 then s.fl.imgB else none).bind fun g => byteOf (imageBytes g) (addr % 0x40000)
  | 2 =>
    let r := addr % 0x40000
    if areaSize 2 ≤ addr then none
    else if r < 0x20000 then byteOf (entryBytes (smGet s.fl.reg (r / 32) RegEntry.free)) (r % 32)
    else if r < 0x20C00 then
      let m := (r - 0x20000) / 32
      byteOf (match smFind s.fl.recs m with
        | some x => recBytes m x
        | none => noRecBytes m) (r % 32)
    else if ticketOff 0 ≤ addr ∧ addr < ticketOff 2 then s.fl.ticket.bind fun t => byteOf (ticketBytesOf t) (addr % 64)
    else none
  | 3 =>
    ((s.fl.counter.toList ++ s.fl.ring).find? fun r => counterOff r.rseq == addr / 256 * 256).bind fun r => byteOf (counterBytes r) (addr % 256)
  | 4 =>
    if addr / 0x4000 = s.fl.retBank then (s.fl.retLog[addr % 0x4000 / 64]?).bind fun e => byteOf (retBytes e) (addr % 32) else none
  | 5 => (s.fl.ckpts[addr / 256]?).bind fun c => byteOf c.bytes (addr % 256)
  | 6 =>
    if areaSize 6 ≤ addr then none
    else (s.fl.journal[(addr / 64 + journalRecs - s.fl.jrnBase % journalRecs) % journalRecs]?).bind fun r => byteOf (jrecBytes r) (addr % 64)
  | _ => none

/-- A byte of flash: the one that the debug port wrote last, else that of the record there, else a free value (log entry 55). -/
def flashByteAt (s : State) (area addr : Nat) : Byte :=
  match smFind s.fl.dbgBytes (area + 8 * addr) with
  | some b => b
  | none => (placedByte s area addr).getD (Config.flashByte area addr)

/-! ### What a read finds -/

/-- The words of an area's bytes `[off, off + n)`. -/
def inSpan (area off n : Nat) (p : Nat × Nat) : Bool := p.1 == area && decide (off < 8 * p.2 + 8) && decide (8 * p.2 < off + n)

/-- The debug port wrote in the stretch, or a word of it cannot be corrected. -/
def flashTouched (s : State) (area off n : Nat) : Bool :=
  (s.fl.dbgBytes.any fun p => p.1 % 8 == area && decide (off ≤ p.1 / 8) && decide (p.1 / 8 < off + n)) || s.fl.bad.any (inSpan area off n)

/-- The bytes of a stretch; none where a word of it cannot be corrected. -/
def readFlash (s : State) (area off n : Nat) : Option (List Byte) :=
  if s.fl.bad.any (inSpan area off n) then none else some ((List.range n).map fun i => flashByteAt s area (off + i))

/-- Places of `n` bytes of an area with a byte that the debug port wrote or a word that cannot be corrected, ascending. -/
def touchedPlaces (s : State) (area n : Nat) : List Nat :=
  let l := ((s.fl.dbgBytes.filter fun p => p.1 % 8 == area).map fun p => p.1 / 8 / n) ++
    ((s.fl.bad.filter fun p => p.1 == area).map fun p => 8 * p.2 / n)
  (l.foldl (fun m k => smIns m k ()) ([] : SMap Unit)).map (·.1)

/-- FLT_ECC counts the words of a stretch that a read corrects, and those that it cannot (R414). -/
def countEcc (s : State) (area off n : Nat) : State :=
  let ce := (s.fl.weak.filter (inSpan area off n)).length
  let ue := (s.fl.bad.filter (inSpan area off n)).length
  { s with flt := { s.flt with flashCe := sat 16 (s.flt.flashCe + ce), flashUe := sat 16 (s.flt.flashUe + ue) } }

def countArea (s : State) (area : Nat) : State := countEcc s area 0 (areaSize area)

/-! ### What a start loads -/

/-- The valid one of two copies with the higher sequence. -/
def newerCopy {α : Type} (seq : α → Nat) : Option α → Option α → Option α
  | some a, some b => if seq a < seq b then some b else some a
  | some a, none => some a
  | none, x => x

/-- Entry `i` as a start finds it (R131); `none`: no valid copy. -/
def foundEntry (s : State) (i : Nat) : Option RegEntry :=
  newerCopy (·.wseq) ((readFlash s 2 (entryOff 0 i) 32).bind parseEntry) ((readFlash s 2 (entryOff 1 i) 32).bind parseEntry)

/-- Slot record `m` as a start finds it: its copies carry no sequence, the first valid one counts (log entry 55). -/
def foundSlotRec (s : State) (m : Nat) : Option (Option SlotRec) :=
  newerCopy (fun _ => 0) ((readFlash s 2 (slotOff 0 m) 32).bind parseSlotRec) ((readFlash s 2 (slotOff 1 m) 32).bind parseSlotRec)

/-- The entries and the slot records whose copies something has touched. -/
def touchedEntries (s : State) : List Nat :=
  (touchedPlaces s 2 32).filterMap fun k => if k % 0x2000 < 4096 ∧ k < 0x4000 then some (k % 0x2000) else none
def touchedSlots (s : State) : List Nat :=
  (touchedPlaces s 2 32).filterMap fun k =>
    if 4096 ≤ k % 0x2000 ∧ k % 0x2000 < 4096 + 96 ∧ k < 0x4000 then some (k % 0x2000 - 4096) else none

/-- The registry area as a start reads it: an entry or a slot record without a valid copy is lost (R131). -/
def registryFound (s : State) : State × Nat :=
  let es := (touchedEntries s).eraseDups
  let ss := (touchedSlots s).eraseDups
  let rg := es.foldl (fun m i => smPut m i ((foundEntry s i).getD RegEntry.free) RegEntry.free) s.fl.reg
  let rc := ss.foldl (fun m i => match foundSlotRec s i with
    | some (some x) => smIns m i x
    | _ => smDel m i) s.fl.recs
  ({ s with fl := { s.fl with reg := rg, recs := rc } },
   (es.filter fun i => (foundEntry s i).isNone).length + (ss.filter fun i => (foundSlotRec s i).isNone).length)

/-- The entries of the retirement table that have a valid copy; the debug port may also have put some behind the last. -/
def retirementFound (s : State) : State :=
  if (touchedPlaces s 4 64).isEmpty then s
  else
    let copyAt := fun (i k : Nat) => (readFlash s 4 (retOff s i + 32 * k) 32).bind parseRet
    let found := fun i => if flashTouched s 4 (retOff s i) 64 then newerCopy (fun _ => 0) (copyAt i 0) (copyAt i 1) else s.fl.retLog[i]?
    { s with fl := { s.fl with retLog := (List.range 256).filterMap found } }

/-- A configuration image as a start finds it. -/
def imageFound (s : State) (b : Bool) : Option ConfigImage :=
  let off := 0x40000 * b2n b
  let g := if b then s.fl.imgB else s.fl.imgA
  if !flashTouched s 1 off 0x40000 then g
  else (readFlash s 1 off (16 + 8 * ((readFlash s 1 off 16).map fun l => leAt l 2 2).getD 0)).bind parseImage

/-- The counter records that can be read, newest first (R230). -/
def counterList (s : State) : List CounterRec :=
  let ps := (touchedPlaces s 3 256).filter fun k => decide (k < ringRecs)
  let kept := (s.fl.counter.toList ++ s.fl.ring).filter fun r => !ps.contains (counterOff r.rseq / 256)
  let read := ps.filterMap fun k => (readFlash s 3 (256 * k) 256).bind parseCounter
  read.foldl (fun l r => (l.filter fun x => decide (r.rseq < x.rseq)) ++ [r] ++ l.filter fun x => decide (x.rseq ≤ r.rseq)) kept

/-- The counter ring is as the device wrote it. -/
def ringClean (s : State) : Bool := (touchedPlaces s 3 256).isEmpty

/-- The valid counter record with the highest RSEQ. -/
def startCounter (s : State) : Option CounterRec :=
  if ringClean s then s.fl.counter else ((counterList s).filter counterSound).head?

/-- The ring as a start finds it. -/
def ringFound (s : State) : State :=
  if ringClean s then s
  else { s with fl := { s.fl with counter := startCounter s, ring := ((counterList s).filter counterSound).tail } }

/-- The journal's records in flash with their places, unreadable ones apart. -/
def journalPlaces (s : State) : List (Nat × Option JRec) :=
  (List.range s.fl.journal.length).map fun k =>
    let off := jrecOff s k
    (s.fl.jrnBase + k, if flashTouched s 6 off 64 then (readFlash s 6 off 64).map parseJrec else s.fl.journal[k]?)

/-- The journal is as the device wrote it. -/
def journalClean (s : State) : Bool := (touchedPlaces s 6 64).isEmpty

/-- The journal as a start finds it: what the debug port wrote stands in it, and a record that cannot be read keeps its place. -/
def journalFound (s : State) : State :=
  if journalClean s then s
  else { s with fl := { s.fl with journal := ((journalPlaces s).zip s.fl.journal).map fun p => p.1.2.getD p.2 } }

/-- The journal as flash reads. -/
def journalRead (s : State) : List JRec := if journalClean s then s.fl.journal else (journalPlaces s).filterMap (·.2)

/-- The checkpoints as flash reads. -/
def ckptsRead (s : State) : List Ckpt :=
  if (touchedPlaces s 5 256).isEmpty then s.fl.ckpts
  else (List.range s.fl.ckpts.length).filterMap fun k => (s.fl.ckpts[k]?).bind fun c =>
    if flashTouched s 5 (256 * k) 256 then (readFlash s 5 (256 * k) 256).map (parseCkpt c) else some c

/-- Spans of unreadable records that no LOSS record names yet: place of the first, and number. -/
def lostSpans (s : State) : List (Nat × Nat) :=
  if journalClean s then [] else ((journalPlaces s).filter fun p => p.2.isNone && !s.fl.jrnLost.contains p.1).foldl (fun l p =>
    match l.getLast? with
    | some (a, n) => if p.1 = a + n then l.dropLast ++ [(a, n + 1)] else l ++ [(p.1, 1)]
    | none => [(p.1, 1)]) []

end Sys2Proof.Machine
end

