-- ==== Sys2Proof/Machine/Staging.lean ====
section
/-! DEFINITION. The staging set and the config seal (R362 to R372): how a set of pending writes is judged and applied, the
passes of the seal, an upset, the reload, and the registers that leave the sealed set.

Marked choices (log entries): DEDUCED 36, 37, 38. -/

namespace Sys2Proof.Machine

open Sys2Proof

/-! ### Judging a set of pending writes (R362) -/

/-- Lays the listed values of the given fields of `w` over `old` (R9). -/
def layFields (fs : List Fld) (old w : Word) : Word :=
  fs.foldl (fun a f => if f.ok (fld w f.lo f.w) then setFld a f.lo f.w (fld w f.lo f.w) else a) old

/-- The NT that TMIN of the same write is listed against. -/
def ntOf (m : Nat) (old w : Word) : Nat := if 16 ≤ fld w 8 6 ∧ fld w 8 6 ≤ m then fld w 8 6 else fld old 8 6

def fieldsOf (s : State) (r : RReg) (old w : Word) : List Fld :=
  let m := planM (radProfile s)
  fields m (ntOf m old w) r

/-- The register's expert fields are derived: its block is at the basic level (R366). -/
def basicLevel (vals : SMap Word) (r : RReg) : Bool :=
  match levelOf r with
  | some l => !bitOf (valIn vals l.1) l.2
  | none => false

/-- The word a register reads with its expert fields derived where its block is at the basic level. -/
def settled (s : State) (vals : SMap Word) (r : RReg) : Word :=
  if basicLevel vals r then derived (radBasic s.fl.opts) (valIn vals) r (valIn vals r) else valIn vals r

def putVal (vals : SMap Word) (r : RReg) (w : Word) : SMap Word := smPut vals (offOf r) w (regReset r)

/-- Registers whose derived fields depend on a register. -/
def dependents : RReg → List RReg
  | .lfcCtl n => [.lfcCtl n, .lfcIdrive n, .lfcTune n]
  | .radRangeCfg => [.radRangeCfg, .radRangeLim]
  | .mtrCfg => [.mtrCfg, .keM]
  | .scaleI => [.scaleI, .mtrCfg, .keM]
  | .scaleV => [.scaleV, .mtrCfg, .keM]
  | r => [r]

/-- Gives the dependents of the written registers their derived fields (R366, R367). -/
def settleAll (s : State) (vals : SMap Word) (rs : List RReg) : SMap Word :=
  (rs.flatMap dependents).foldl (fun v r => putVal v r (settled s v r)) vals

def flagPldDrop (s : State) : State := { s with lf := { s.lf with wrDropped := true } }
def flagChanDrop (s : State) (n : Nat) : State := modChan s n fun c => { c with wrDropped := true }
def flagFixedLimit (s : State) : State := { s with lf := { s.lf with fixedLimit := true } }
def flagBasicDrop (s : State) (off : Nat) : State :=
  { s with cfg := { s.cfg with basicDrop := true,
                               basicDropAddr := if s.cfg.basicDrop then s.cfg.basicDropAddr else BitVec.ofNat 16 off } }

/-- A write that its chapter drops whole, with the flag set: R47 and R57 for polders, R82 and R100 for the slave of a ganged
pair; `none`: judged further. -/
def wholeDrop (s : State) (r : RReg) : Option State :=
  let stopped := fun p => decide ((getPol s p).st = .stopped) || decide ((getPol s p).st = .off)
  match r with
  | .pldCfg n => if stopped n then none else some (flagPldDrop s)
  | .airCfg n => if stopped n then none else some (flagPldDrop s)
  | .pldAssign _ => if s.lf.auto then some (flagPldDrop s) else none
  | .lfcCtl n => if gangSlave s n then some (flagChanDrop s n) else none
  | .lfcFreq n => if gangSlave s n then some (flagChanDrop s n) else none
  | .lfcIdrive n => if gangSlave s n then some (flagChanDrop s n) else none
  | .lfcSense n => if gangSlave s n then some (flagChanDrop s n) else none
  | .lfcTune n => if gangSlave s n then some (flagChanDrop s n) else none
  | .airCh m => if gangSlave s m then some (flagChanDrop s m) else none
  | _ => none

/-- Active channels under a table of register values (R46). -/
def activeIn (s : State) (vals : SMap Word) : Nat :=
  (allChans.filter fun c =>
    let m := if c % 2 = 1 && bitOf (valIn vals (.lfcCtl (c - 1))) 1 then c - 1 else c
    bitOf (valIn vals (.lfcCtl m)) 0 && (!chanRetired s c || reinstating s c)).length

/-- The writes of a set left after the whole drops, with the offsets dropped. -/
def sortWrites : State → List (Nat × Word) → State × List (RReg × Word) × List Nat
  | s, [] => (s, [], [])
  | s, (off, w) :: t =>
    match regOf off with
    | none => sortWrites s t
    | some r =>
      match wholeDrop s r with
      | some s1 => let x := sortWrites s1 t; (x.1, x.2.1, off :: x.2.2)
      | none => let x := sortWrites s t; (x.1, (r, w) :: x.2.1, x.2.2)

/-- Step 1 of R362: EXPERT_EN, PROFILE, ROLE and the meter's derivation inputs. -/
def stepOne (s : State) (ws : List (RReg × Word)) (vals : SMap Word) : SMap Word :=
  let v1 := ws.foldl (fun v p =>
    putVal v p.1 (layFields ((fieldsOf s p.1 (valIn v p.1) p.2).filter (·.first)) (valIn v p.1) p.2)) vals
  let c := valIn v1 .mtrCfg
  if !bitOf c 0 && (deriveKe (valIn v1 .scaleI).toNat (valIn v1 .scaleV).toNat (fld c 4 6) (fld c 10 2)).isNone then
    -- R215: a reserved combination keeps every previous value of the four fields
    let o := valIn vals .mtrCfg
    let v2 := putVal (putVal v1 .scaleI (valIn vals .scaleI)) .scaleV (valIn vals .scaleV)
    putVal v2 .mtrCfg (setFld (setFld c 4 6 (fld o 4 6)) 10 2 (fld o 10 2))
  else v1

/-- What judging carries from write to write: flags in the state, values, offsets dropped, PLD_ASSIGN writes accepted. -/
structure Judged where
  st : State
  vals : SMap Word
  dropped : List Nat
  assigns : List (Nat × Word)

/-- Step 2 of R362 for one write: R366 for expert fields, R9 for every field, R46 and R83 for the fields they bind. -/
def judgeOne (v1 : SMap Word) (j : Judged) (r : RReg) (w : Word) : Judged :=
  let s := j.st
  let old := valIn j.vals r
  let fs := (fieldsOf s r old w).filter (fun f => !f.first)
  let basic := basicLevel v1 r
  let now := settled s v1 r
  let drop := basic && fs.any (fun f => f.expert && !(fld w f.lo f.w == fld now f.lo f.w))
  let s1 := if drop then flagBasicDrop s (offOf r) else s
  let dr := if drop then offOf r :: j.dropped else j.dropped
  let new := layFields (fs.filter fun f => !(basic && f.expert)) old w
  match r with
  | .pldAssign i => { j with assigns := j.assigns ++ [(i, w)] }
  | .pldPlace =>
    if fld new 0 2 = 1 ∧ fld old 0 2 ≠ 1 ∧ 24 < activeIn s j.vals then
      { j with st := flagFixedLimit s1, vals := putVal j.vals r (setFld new 0 2 (fld old 0 2)), dropped := dr }
    else { j with st := s1, vals := putVal j.vals r new, dropped := dr }
  | .lfcCtl n =>
    let busy := (getChan s n).jobs.any jobInFlight || (getChan s (n + 1)).jobs.any jobInFlight
    let gangDrop := !(bitOf new 1 == bitOf old 1) && busy
    let new1 := if gangDrop then setFld new 1 1 (fld old 1 1) else new
    let s2 := if gangDrop then flagChanDrop s1 n else s1
    let v2 := putVal j.vals r new1
    if fld (valIn j.vals .pldPlace) 0 2 = 1 ∧ 24 < activeIn s v2 ∧ activeIn s j.vals < activeIn s v2 then
      { j with st := flagFixedLimit s1, dropped := offOf r :: dr }
    else { j with st := s2, vals := v2, dropped := if gangDrop then offOf r :: dr else dr }
  | _ => { j with st := s1, vals := putVal j.vals r new, dropped := dr }

/-- The sealed values differ between two tables. -/
def sealedDiffer (s : State) (a b : SMap Word) : Bool :=
  let keep := fun m : SMap Word => m.filter fun p => !(s.cfg.excluded.contains p.1)
  !(keep a == keep b)

/-- A sealed register changes at boundary `s.clk.beat`: a pass that runs is no longer clean, unless it begins here (R368). -/
def unclean (s : State) : State :=
  if s.clk.beat.toNat % 8 = 1 then s else { s with cfg := { s.cfg with sealClean := false } }

/-- Judges and applies a set of writes (steps 1 to 3 of R362): the state, the offsets dropped, PLD_ASSIGN writes accepted. -/
def applySet (s : State) (ws : List (Nat × Word)) : State × List Nat × List (Nat × Word) :=
  let x := sortWrites s ws
  let v1 := stepOne x.1 x.2.1 s.cfg.vals
  let j := x.2.1.foldl (fun j p => judgeOne v1 j p.1 p.2) ⟨x.1, v1, x.2.2, []⟩
  let v2 := settleAll j.st j.vals (x.2.1.map (·.1))
  let changed := sealedDiffer s s.cfg.vals v2
  let s1 := { j.st with cfg := { j.st.cfg with vals := v2 } }
  let s2 := if changed then
      unclean { s1 with cfg := { s1.cfg with dirty := true, dirtyUs := if s1.cfg.dirty then s1.cfg.dirtyUs else s1.clk.nowUs } }
    else s1
  (s2, j.dropped, j.assigns)

/-- The meter configuration set (R216), in its order. -/
def meterSet : List RReg := [.mtrCfg, .scaleI, .scaleV, .keM, .trimI, .trimV, .fallback, .ldgCfg]

def inMeterSet (off : Nat) : Bool := meterSet.any fun r => offOf r == off

/-- Writes to the meter configuration set go to the pending copy, in every state but BLANK and FACTORY (R216). -/
def meterLocked (s : State) : Bool := decide (2 ≤ lcState s)

/-- Puts one write in its pending slot or in the pending meter copy (R13, R15, R216); a register whose block runs from its
shadow takes none (R372). -/
def stageWrite (s : State) (off : Nat) (w : Word) : State :=
  if s.cfg.eccShadow.contains off then s
  else if meterLocked s && inMeterSet off then
    { s with cfg := { s.cfg with meterPend := smIns s.cfg.meterPend off w } }
  else { s with cfg := { s.cfg with staged := smIns s.cfg.staged off w } }

/-- The pending writes that a boundary applies; those of the meter set that a staged image brought go to the pending copy. -/
def takeStaged (s : State) : State × List (Nat × Word) :=
  let toMeter := s.cfg.staged.filter fun p => meterLocked s && inMeterSet p.1
  let rest := s.cfg.staged.filter fun p => !(meterLocked s && inMeterSet p.1)
  let mp := toMeter.foldl (fun m p => smIns m p.1 p.2) s.cfg.meterPend
  ({ s with cfg := { s.cfg with staged := [], meterPend := mp } }, rest)

/-- CRC-32C of the pending meter copy; a register not written contributes its active value (R216). -/
def meterCopyCrc (s : State) : Word := crcWords (meterSet.map fun r => smGet s.cfg.meterPend (offOf r) (reg s r))

/-- The pending meter copy names a reserved combination at the basic level (R215). -/
def meterCopyBad (s : State) : Bool :=
  let g := fun r => smGet s.cfg.meterPend (offOf r) (reg s r)
  let c := g .mtrCfg
  !bitOf c 0 && (deriveKe (g .scaleI).toNat (g .scaleV).toNat (fld c 4 6) (fld c 10 2)).isNone

/-- A METER_CFG record (R216). -/
def stageMeterCfg (s : State) (crc : Word) (serial : Nat) : State :=
  stage s 0x04 0 [(20, leBytes crc.toNat 4), (24, leBytes serial 6), (30, leBytes s.ldg.lgen.toNat 2)]

/-- Applies the pending meter copy (R216). -/
def applyMeterCopy (s : State) : State :=
  let ws := s.cfg.meterPend
  let s1 := { s with cfg := { s.cfg with meterPend := [] } }
  (applySet s1 ws).1

/-! ### The config seal -/

/-- The sealed set without the registers of retired units (R368, R372). -/
def sealSet (s : State) : List Nat := sealedOffs.filter fun o => !(s.cfg.excluded.contains o)

def sealedValue (s : State) (off : Nat) : Word := smGet s.cfg.vals off (resetAt off)

/-- The registers of group `g` (1 to 8) of the sealed set (R368, R444). -/
def sealGroup (l : List Nat) (g : Nat) : List Nat :=
  let q := l.length / 8
  let r := l.length % 8
  ((l.drop ((g - 1) * q + min (g - 1) r)).take (if g ≤ r then q + 1 else q))

/-- The committed image: the one in force (R373, R374). -/
def imageInForce (s : State) : Option ConfigImage :=
  if s.cfg.imageSel = 0 then s.fl.imgA else if s.cfg.imageSel = 1 then s.fl.imgB else none

def imageValue (img : ConfigImage) (off : Nat) : Word := smGet img.entries off (resetAt off)

/-- Sealed registers that differ from an image, lowest offset first (R370, R372). -/
def differing (s : State) (img : ConfigImage) : List Nat :=
  (sealSet s).filter fun o => !(sealedValue s o == imageValue img o)

/-- The seal of an image over the sealed set in force. -/
def imageSeal (s : State) (img : ConfigImage) : Word := crcWords ((sealSet s).map (imageValue img))

def stageConfig (s : State) (event sel : Nat) (a b : Word) : State :=
  stageSoon s 0x30 (if event = 0 then 8 else 9)
    [(20, leBytes event 1), (21, leBytes sel 1), (24, leBytes a.toNat 4), (28, leBytes b.toNat 4)]

/-- CONFIG_UPSET: steps 1 and 2 of R370. -/
def configUpset (s : State) : State :=
  let s1 := postEvent s evConfigUpset srcSeal (s.cfg.sealLive.toNat + s.cfg.sealRef.toNat * 2 ^ 32)
  let s2 := stageConfig s1 0 0 s.cfg.sealLive s.cfg.sealRef
  let rl := if s.cfg.sealAfterReload then min 3 (s.cfg.reloads + 1) else s.cfg.reloads
  let addr := match imageInForce s with
    | some img => BitVec.ofNat 16 ((differing s img).headD 0)
    | none => 0#16
  { s2 with cfg := { s2.cfg with upsetCount := sat 16 (s2.cfg.upsetCount + 1), reloads := rl, upsetAddr := addr,
                                 sealMismatch := false, reloadDue := true } }

/-- The end of a clean pass: publishes the seal, takes the first reference, compares (R368 to R370, R374). -/
def sealPassEnd (s : State) (live : Word) : State :=
  let s1 := { s with cfg := { s.cfg with sealLive := live } }
  if s1.cfg.sealFirstRef then { s1 with cfg := { s1.cfg with sealRef := live, sealFirstRef := false } }
  else if !s1.cfg.sealComparing then s1
  else if live = s1.cfg.sealRef then
    { s1 with cfg := { s1.cfg with sealMismatch := false, reloads := if s1.cfg.sealAfterReload then 0 else s1.cfg.reloads,
                                   sealAfterReload := false } }
  else if s1.cfg.sealMismatch then configUpset s1
  else { s1 with cfg := { s1.cfg with sealMismatch := true } }

/-- SEAL_STEP: step 7 of R33 (R368). -/
def sealStep (s : State) : State :=
  let k := s.clk.beat.toNat % 8
  let g := if k = 0 then 8 else k
  let vs := (sealGroup (sealSet s) g).map (sealedValue s)
  if g = 1 then
    { s with cfg := { s.cfg with sealRead := vs, sealClean := true, sealComparing := !s.cfg.dirty } }
  else
    let rd := s.cfg.sealRead ++ vs
    let s1 := { s with cfg := { s.cfg with sealRead := rd } }
    if g = 8 then
      let s2 := { s1 with cfg := { s1.cfg with sealRead := [], sealClean := false } }
      if s.cfg.sealClean then sealPassEnd s2 (crcWords rd) else s2
    else s1

/-- The registers of a unit leave the sealed set, and the reference becomes the committed image's seal without them (R372). -/
def excludeRegs (s : State) (offs : List Nat) : State :=
  let s1 := { s with cfg := { s.cfg with excluded := s.cfg.excluded ++ offs.filter (fun o => !(s.cfg.excluded.contains o)),
                                         sealClean := false, sealMismatch := false } }
  match imageInForce s1 with
  | some img => { s1 with cfg := { s1.cfg with sealRef := imageSeal s1 img } }
  | none => { s1 with cfg := { s1.cfg with sealFirstRef := true } }

/-- A reinstated unit's registers join the sealed set again. -/
def includeRegs (s : State) (offs : List Nat) : State :=
  let s1 := { s with cfg := { s.cfg with excluded := s.cfg.excluded.filter (fun o => !(offs.contains o)), sealClean := false } }
  match imageInForce s1 with
  | some img => { s1 with cfg := { s1.cfg with sealRef := imageSeal s1 img } }
  | none => { s1 with cfg := { s1.cfg with sealFirstRef := true } }

def chanRegs (n : Nat) : List Nat := [0, 4, 8, 12, 16].map (fun j => 0x2000 + 0x40 * n + j) ++ [0x3900 + 4 * n]
def polRegs (n : Nat) : List Nat := [0x1004 + 0x100 * n, 0x3810 + 4 * n]
def radRegs : List Nat := [0x4000, 0x4008, 0x400C, 0x4010, 0x4014, 0x4018, 0x401C]

/-- Which unit a sealed register belongs to (R372): (class, index); `none`: any other register. -/
def unitOfReg (off : Nat) : Option (Nat × Nat) :=
  if 0x2000 ≤ off ∧ off < 0x3800 then some (0, (off - 0x2000) / 0x40)
  else if 0x3900 ≤ off ∧ off < 0x3A80 then some (0, (off - 0x3900) / 4)
  else if 0x1000 ≤ off ∧ off < 0x1800 then some (1, (off - 0x1000) / 0x100)
  else if 0x3810 ≤ off ∧ off < 0x3824 then some (1, (off - 0x3810) / 4)
  else if 0x4000 ≤ off ∧ off < 0x4800 then some (4, 0)
  else none

/-- SEAL_RELOAD: steps 2 and 3 of R370, or R371 where only the reference differs. During a keeper restart it waits. -/
def sealReloadNow (s : State) : State :=
  if !s.cfg.reloadDue || s.flt.restarting || decide (3 ≤ s.cfg.reloads) then s
  else
    let s1 := { s with cfg := { s.cfg with reloadDue := false } }
    match imageInForce s1 with
    | none => s1
    | some img =>
      match differing s1 img with
      | [] => { s1 with cfg := { s1.cfg with sealRef := img.chk, upsetAddr := 0 } }
      | d =>
        let vals := d.foldl (fun v o => smPut v o (imageValue img o) (resetAt o)) s1.cfg.vals
        let isRegSealed := fun o => match regOf o with
          | some r => isSealed r
          | none => false
        let lost := s1.cfg.staged.any fun p => isRegSealed p.1
        let s2 := unclean { s1 with cfg := { s1.cfg with
          vals := vals, staged := s1.cfg.staged.filter (fun p => !(isRegSealed p.1)),
          stageLost := s1.cfg.stageLost || lost, reloaded := true, sealAfterReload := true } }
        stageConfig s2 1 0 s2.cfg.sealLive s2.cfg.sealRef

/-- SEAL_GRACE_EXPIRY: DIRTY kept for GRACE seconds clears (R369). -/
def sealGraceNow (s : State) : State :=
  if s.cfg.dirty && decide (s.cfg.dirtyUs + 1000000 * regF s .sealCfg 0 8 ≤ s.clk.nowUs) then
    { s with cfg := { s.cfg with dirty := false } }
  else s

end Sys2Proof.Machine
end

