-- ==== Sys2Proof/Machine/Drbg.lean ====
section
/-! DEFINITION. The random bit generator (R312 to R317): instantiation, reseeding, one Generate request, and the requests that
wait.

Marked choices (log entries): DEDUCED 74. -/

namespace Sys2Proof.Machine

open Sys2Proof

def poolBytes (l : List (BitVec 128)) : List Nat := l.flatMap fun b => nBe b.toNat 16

/-- Time since the last instantiation or reseed, µs; time is measured from BEAT_COUNT (R315). -/
def entSince (s : State) : Nat := s.clk.nowUs - s.ent.seedUs

def softDue (s : State) : Bool :=
  decide (2 ^ 16 ≤ s.ent.reqs) || decide (100000 * regF s .entCfg 8 4 ≤ entSince s)

def hardDue (s : State) : Bool := decide (2 ^ 20 ≤ s.ent.reqs) || decide (60000000 ≤ entSince s)

def postEntFail (s : State) (reason : Nat) : State :=
  postEvent s evEntropyFail srcEntropy (reason + s.ent.pool.length * 2 ^ 8)

/-- Instantiates from the three oldest pool blocks with the personalisation string of R313. -/
def drbgInstantiate (s : State) : State :=
  let pers := nBe Config.deviceUid.toNat 8 ++ nBe s.clk.beat.toNat 8 ++ nBe s.ent.powerUps 4 ++ List.replicate 28 0
  let kv := drbgUpdate (List.replicate 32 0) 0 (xorL (poolBytes (s.ent.pool.take 3)) pers)
  { s with ent := { s.ent with st := .ready, key := BitVec.ofNat 256 (beN kv.1), v := BitVec.ofNat 128 kv.2,
                               pool := s.ent.pool.drop 3, reqs := 0, seedUs := s.clk.nowUs,
                               reseeds := sat 32 (s.ent.reseeds + 1) } }

/-- Reseeds from the three oldest pool blocks (R313). Leaving STARVED posts reason 2 (R317). -/
def drbgReseed (s : State) : State :=
  let add := nBe s.clk.beat.toNat 8 ++ List.replicate 40 0
  let kv := drbgUpdate (nBe s.ent.key.toNat 32) s.ent.v.toNat (xorL (poolBytes (s.ent.pool.take 3)) add)
  let s1 := { s with ent := { s.ent with st := .ready, key := BitVec.ofNat 256 (beN kv.1), v := BitVec.ofNat 128 kv.2,
                                         pool := s.ent.pool.drop 3, reqs := 0, seedUs := s.clk.nowUs,
                                         reseeds := sat 32 (s.ent.reseeds + 1) } }
  if s.ent.st = .starved then postEntFail s1 2 else s1

/-- The generator at its limits before a request: reseeds where the pool allows, is STARVED at the hard limit without it
(R315, R317). -/
def drbgLimits (s : State) : State :=
  if s.ent.st = .ready ∧ (softDue s ∨ hardDue s) then
    if 3 ≤ s.ent.pool.length then drbgReseed s
    else if hardDue s then postEntFail { s with ent := { s.ent with st := .starved } } 1
    else s
  else if s.ent.st = .starved ∧ 3 ≤ s.ent.pool.length then drbgReseed s
  else s

/-- One Generate request of `n` bytes, byte 0 first: refused while the generator is not READY. -/
def drbgDraw (s0 : State) (n : Nat) : Option (List Nat × State) :=
  let s := drbgLimits s0
  if s.ent.st = .ready then
    let g := drbgGenerate (nBe s.ent.key.toNat 32) s.ent.v.toNat n
    some (g.1, { s with ent := { s.ent with key := BitVec.ofNat 256 (beN g.2.1), v := BitVec.ofNat 128 g.2.2,
                                            reqs := s.ent.reqs + 1 } })
  else none

/-- The limits as a request that is refused leaves them. -/
def drbgRefuse (s : State) : State := drbgLimits s

/-- Adds a waiting request (R314): class 0 polders, 1 keeper, 2 life-cycle and debug, 3 host. -/
def addWait (s : State) (cls : Nat) (who : Waiter) (bits : Nat) : State :=
  { s with ent := { s.ent with waiting := s.ent.waiting ++ [⟨cls, who, bits, s.clk.nowUs⟩] } }

/-- Withdraws the requests of a waiter whose work has ended. -/
def dropWait (s : State) (who : Waiter) : State :=
  { s with ent := { s.ent with waiting := s.ent.waiting.filter fun w => !(w.who == who) } }

/-- The next request served: by class, then in the order made (R316). -/
def nextWait (s : State) : Option WaitReq :=
  let at_ := fun c => s.ent.waiting.find? fun w => w.cls == c
  match at_ 0 with
  | some w => some w
  | none => match at_ 1 with
    | some w => some w
    | none => match at_ 2 with
      | some w => some w
      | none => at_ 3

/-- Removes one request from the list. -/
def removeWait (s : State) (w : WaitReq) : State := { s with ent := { s.ent with waiting := s.ent.waiting.erase w } }

end Sys2Proof.Machine
end

