-- ==== Sys2Proof/Machine/KeyOps.lean ====
section
/-! DEFINITION. The armature as every user of it sees it (R136, R225, R250 to R257): node keys, uses and retirement, the keys
derived on demand, and LIFECYCLE_DEBUG records (R279).

Marked choices (log entries): DEDUCED 52, 53, 66. -/

namespace Sys2Proof.Machine

open Sys2Proof

def dbgCode : DbgState → Nat
  | .locked => 0 | .authOpen => 1 | .opn => 2

/-- A LIFECYCLE_DEBUG record (R279); events 0 to 9 also post EV_LIFECYCLE. -/
def stageLife (s : State) (event old new b23 : Nat) (tail : List Byte) : State :=
  let s1 := stageSoon s 0x50 9 [(20, leBytes event 1), (21, leBytes old 1), (22, leBytes new 1), (23, leBytes b23 1), (24, tail)]
  if event ≤ 9 then postEvent s1 evLifecycle srcLife (event + old * 2 ^ 8 + new * 2 ^ 12) else s1

/-- The handle of index `i`: instance number and index (R250). -/
def handleOf (s : State) (i : Nat) : Nat := (getNode s i).inst * 256 + i

def nodeStCode : NodeState → Nat
  | .free => 0 | .active => 1 | .retired => 2 | .invalid => 3

/-- The key bytes of a node: 16, or 32 for AES-256. -/
def nodeKey (n : Node) : List Nat := nBe n.key.toNat (if n.big then 32 else 16)

/-- A node whose key can be used: ACTIVE and LOADED, the key store read (R256), the engine not FAILED (R287). -/
def nodeLive (s : State) (i : Nat) : Bool :=
  let n := getNode s i
  decide (n.st = .active) && n.loaded && s.key.ready

def engineFailed (s : State) : Bool := decide (s.cip.mode = .failed)

/-- Uses of keys wait: the armature loads (R256), or the pipes run the known-answer test (R285). -/
def keyBusy (s : State) : Bool := !s.key.ready || decide (s.cip.mode = .kat)

/-- Journals a node event: 10 imported, 11 invalidated, 12 retired (R279). -/
def stageNode (s : State) (event i : Nat) (old : NodeState) : State :=
  let n := getNode s i
  stageLife s event (nodeStCode old) (nodeStCode n.st) n.type (leBytes (handleOf s i) 4 ++ leBytes n.gen.toNat 2)

/-- K_tr of a generation (R251). -/
def trKey (s : State) (gen : Nat) : List Nat :=
  kdf (nodeKey (getNode s 0)) (ascii "KZ TRANSPORT KEY") (nBe Config.deviceUid.toNat 8 ++ nBe gen 2) false

/-- The next instance number of an index, and the mark raised where it comes near (R250). -/
def nextInst (s : State) (i : Nat) : Nat × State :=
  let mark := smGet s.key.instMark i 256
  let cur := smGet s.key.inst i 0
  let mark1 := if mark < cur + 1 + 64 then mark + 256 else mark
  (cur + 1, { s with key := { s.key with inst := smPut s.key.inst i (cur + 1) 0, instMark := smPut s.key.instMark i mark1 256 } })

/-- The USES mark of a persistent node, raised by 4096 when USES comes within 1024 of it (R255). -/
def usesMarkOf (s : State) (i : Nat) : Nat := smGet s.key.usesMark i 4096

def raiseUses (s : State) (i : Nat) : State :=
  let n := getNode s i
  if n.persistent && decide (usesMarkOf s i ≤ n.uses + 1024) then
    { s with key := { s.key with usesMark := smPut s.key.usesMark i (usesMarkOf s i + 4096) 4096 } }
  else s

/-- One more in USES. -/
def noteUse (s : State) (i : Nat) : State :=
  let n := getNode s i
  let s1 := setNode s i { n with uses := n.uses + 1 }
  if s1.flt.restarting then s1 else raiseUses s1 i

/-- USES has reached LIMIT: the node is RETIRED at once, in the key store too, with the special cases of R254. -/
def retireNode (s0 : State) (i : Nat) : State :=
  let s := { s0 with fl := { s0.fl with keyStore := s0.fl.keyStore.map fun p => if p.1 = i then (p.1, { p.2 with st := .retired }) else p } }
  let n := getNode s i
  let s1 := setNode s i { n with st := .retired }
  let s2 := stageNode { s1 with key := { s1.key with retired := sat 16 (s1.key.retired + 1) } } 12 i .active
  if i = 3 then
    { s2 with jrn := { s2.jrn with rollDue := match s2.jrn.rollDue with
                                              | some r => some r
                                              | none => some 0 } }
  else if i = 1 then
    let g := n.gen.toNat + 1
    let s3 := noteUse s2 0
    let x := nextInst { s3 with key := { s3.key with usesMark := smDel s3.key.usesMark 1 } } 1
    let n1 : Node := { n with inst := x.1, gen := BitVec.ofNat 16 g, uses := 0, st := .active, beat := s2.clk.beat,
                              key := BitVec.ofNat 256 (beN (trKey s2 g)) }
    let s4 := setNode x.2 1 n1
    { s4 with fl := { s4.fl with keyStore := smIns s4.fl.keyStore 1 n1 } }
  else s2

/-- Counts real blocks issued (CIP_BLOCKS). -/
def addBlocks (s : State) (n : Nat) : State := { s with cip := { s.cip with blocks := (s.cip.blocks + n) % 2 ^ 64 } }

/-- Blocks of the device's own message that one use of a node stands for: the wrapping of an import under K_tr and K_st, a
chained record of 64 bytes, a checkpoint of 240, a voucher of 48, a token key with its subkeys (R248, R296). -/
def useBlocks (i : Nat) : Nat :=
  if i = 1 ∨ i = 2 then 10 else if i = 3 then 4 else if i = 4 then 15 else if i = 5 then 3
  else if 8 ≤ i ∧ i < 16 then 3 else 0

/-- Counts one use of a node (R254). -/
def countUse (s0 : State) (i : Nat) : State :=
  let s := addBlocks s0 (useBlocks i)
  let n := getNode s i
  let s1 := setNode s i { n with uses := n.uses + 1 }
  let s2 := if s1.flt.restarting then s1 else raiseUses s1 i
  if n.limit ≤ n.uses + 1 ∧ n.st = .active then retireNode s2 i else s2

/-- Index of a fleet slot's node. -/
def fleetIdx (f : Nat) : Nat := 8 + f

/-- The entry's fleet node is usable in the current life-cycle and debug state (check 4 of R137). -/
def fleetUsable (s : State) (f : Nat) : Bool := nodeLive s (fleetIdx f)

/-- K_tok of an entry's token at a generation (R136). -/
def tokKey (s : State) (fleet id gen kind : Nat) : List Nat :=
  kdf (nodeKey (getNode s (fleetIdx fleet))) (ascii "UMHENA TOKEN KEY") (nBe id 8 ++ nBe gen 2 ++ [kind]) false

/-- A ledger node is installed; one that is RETIRED still is. -/
def hasLedgerNode (s : State) : Bool := decide ((getNode s 16).st = .active) || decide ((getNode s 16).st = .retired)

/-- Index of the node that K_j and K_c come from (R225): the ledger node, or the plinth while none is installed. -/
def ledgerIdx (s : State) : Nat := if hasLedgerNode s then 16 else 0

def ledgerSource (s : State) : Node := getNode s (ledgerIdx s)

def kvDerive (s : State) (lgen : Nat) : List Nat :=
  kdf (nodeKey (getNode s 16)) (ascii "KZ VOUCHER KEY 1") (nBe Config.deviceUid.toNat 8 ++ nBe lgen 2) false
def kjDerive (s : State) (kgen : Nat) : List Nat :=
  kdf (nodeKey (ledgerSource s)) (ascii "KZ JOURNAL CHAIN") (nBe Config.deviceUid.toNat 8 ++ nBe kgen 2) false
def kcDerive (s : State) (lgen : Nat) : List Nat :=
  kdf (nodeKey (ledgerSource s)) (ascii "KZ CHECKPOINT K1") (nBe Config.deviceUid.toNat 8 ++ nBe lgen 2) false

/-- A label of 16 ASCII bytes as a node holds it, byte 0 least significant. -/
def labelOf (t : String) : BitVec 128 := BitVec.ofNat 128 (leNat (ofN (ascii t)))

/-- Enters a system node of R251 under a new instance number. -/
def sysNode (s : State) (i parent level gen limit : Nat) (big : Bool) (owner : BitVec 8) (label : String) (key : List Nat) :
    State :=
  let x := nextInst { s with key := { s.key with usesMark := smDel s.key.usesMark i } } i
  setNode x.2 i { inst := x.1, parent := BitVec.ofNat 32 parent, level := level, type := 1, st := .active, big := big,
                  loaded := true, persistent := true, owner := owner, fslot := none, gen := BitVec.ofNat 16 gen,
                  label := labelOf label, uses := 0, limit := limit, beat := s.clk.beat,
                  key := BitVec.ofNat 256 (beN key), secretMask := decide (s.ent.st ≠ .ready) }

/-- Handle and level of the source of K_j and K_c (R225). -/
def ledgerParent (s : State) : Nat × Nat := if hasLedgerNode s then (handleOf s 16, 2) else (handleOf s 0, 1)

/-- The newest journal key generation in flash, of the last record or of the counter record. -/
def flashKgen (s : State) : BitVec 16 :=
  let a : BitVec 16 := ((journalRead s).getLast?.map (·.kgen)).getD 0
  let b : BitVec 16 := ((startCounter s).map (·.kgen)).getD 0
  if a.toNat < b.toNat then b else a

/-- The generation of the chain at a start: as METER kept it, or as flash has it. -/
def startKgen (s : State) : BitVec 16 := if domReady s dMETER then s.jrn.kgen else flashKgen s

/-- One child derivation under a node: a use of it (R254), and two blocks of the derivation's PRF (R248). -/
def childUse (s : State) (i : Nat) : State := countUse (addBlocks s 2) i

/-- K_j of a journal key generation, K_c and K_v, derived from the node that R225 names. -/
def installKj (s : State) (kgen : Nat) : State :=
  sysNode (childUse s (ledgerIdx s)) 3 (ledgerParent s).1 (ledgerParent s).2 kgen (2 ^ 32) false 0x40 "KZ JOURNAL CHAIN" (kjDerive s kgen)
def ledgerGen (s : State) : Nat := if hasLedgerNode s then (getNode s 16).gen.toNat else 0
def installKc (s : State) : State :=
  sysNode (childUse s (ledgerIdx s)) 4 (ledgerParent s).1 (ledgerParent s).2 (ledgerGen s) (2 ^ 48 - 1) false 0x40 "KZ CHECKPOINT K1"
    (kcDerive s (ledgerGen s))
def installKv (s : State) : State :=
  if hasLedgerNode s then
    sysNode (childUse s 16) 5 (handleOf s 16) 2 (ledgerGen s) (2 ^ 48 - 1) false 0x40 "KZ VOUCHER KEY 1" (kvDerive s (ledgerGen s))
  else s

/-- K_j and K_c as key RAM holds them: usable also through a debug session (R274). -/
def kjUsable (s : State) : Bool := nodeLive s 3 && !engineFailed s

end Sys2Proof.Machine
end

