-- ==== Sys2Proof/Machine/Commands.lean ====
section
/-! DEFINITION. A command from its fetch to its completion: the domains it needs (R342, R349), when it may start (R352), its
output, its completion, and the ranking of record outcomes (R153).

Marked choices (log entries): DESIGN CHOICE 7; DEDUCED 13; PRESUMED 80. -/

namespace Sys2Proof.Machine

open Sys2Proof

/-! ### Domains -/

def domBit (d : Nat) : Nat := 2 ^ d

/-- Polders and banks of a list of channels, with the named polder in FIXED placement. -/
def lfDomains (s : State) (chs : List Nat) (pol : Option Nat) : Nat :=
  let pols := chs.foldl (fun m c =>
    match (if s.lf.auto then chanPol s c else match pol with
      | some p => some p
      | none => chanPol s c) with
    | some p => m ||| domBit (dPOLDER p)
    | none => m) 0
  let banks := chs.foldl (fun m c => m ||| domBit (dBANK (bankOf c))) 0
  pols ||| banks

/-- The lowest-numbered RUNNING polder: the one whose page serves the radio commands (R172). -/
def radioPolder (s : State) : Option Nat := (runningPols s).head?

/-- The domains on which a command's queue needs a vote (R342). -/
def cmdDomains (s : State) (d : Desc) : Nat :=
  let op := descOpcode d
  let ce := domBit dCIPHER ||| domBit dENTROPY
  let mask := bitList (descMask96 d) 96
  let rp := match radioPolder s with
    | some p => domBit (dPOLDER p)
    | none => 0
  if op = 0x10 then lfDomains s mask (some (fld d.dw8 0 3)) ||| ce
  else if op = 0x11 ∨ op = 0x14 then lfDomains s [fld d.dw8 8 7] (some (fld d.dw8 0 3)) ||| ce
  else if op = 0x12 then lfDomains s mask (some (fld d.dw8 0 3)) ||| ce ||| domBit dRADIO
  else if op = 0x13 then
    if fld d.dw8 16 3 ≤ 1 then lfDomains s [fld d.dw8 8 7] (some (fld d.dw8 0 3)) ||| ce else 0
  else if op = 0x18 then lfDomains s mask none
  else if op = 0x20 then domBit dRADIO
  else if op = 0x21 then domBit dRADIO ||| (if bitOf d.dw8 16 then rp ||| ce else 0)
  else if op = 0x22 then domBit dRADIO ||| rp ||| ce
  else if op = 0x30 then domBit dSLUICE
  else if op = 0x32 then domBit dSLUICE ||| (if bitOf d.dw8 0 then 0 else domBit dENTROPY)
  else if op = 0x40 ∨ op = 0x42 then domBit dMETER ||| domBit dCIPHER
  else if op = 0x41 then domBit dMETER
  else if op = 0x48 then if fld d.dw8 0 2 = 2 then domBit dCIPHER else 0
  else if 0x50 ≤ op ∧ op ≤ 0x53 then domBit dCIPHER
  else if op = 0x58 ∨ op = 0x5A ∨ op = 0x5B then domBit dCIPHER
  else if op = 0x60 then domBit dENTROPY
  else if op = 0x78 then domBit dMETER ||| domBit dCIPHER
  else if op = 0x79 then lfDomains s [fld d.dw8 8 7] (some (fld d.dw8 0 3)) ||| ce
  else 0

/-- Every domain of a mask is ready, retired polders and links apart (R384). -/
def domsReady (s : State) (m : Nat) : Bool :=
  (bitList m 17).all fun d =>
    domReady s d || (decide (8 ≤ d) && decide (d < 13) && decide ((getPol s (d - 8)).st = .retired)) ||
    (decide (13 ≤ d) && (getBank s (d - 13)).linkRetired)

/-! ### Start -/

/-- No fence holds the command back (R352): `c` fenced waits for every earlier command of its SQ, and an earlier fenced one
holds `c`. -/
def fenceOpen (s : State) (c : Cmd) : Bool :=
  let earlier := s.ring.cmds.filter fun x => x.sq == c.sq && decide (x.uid < c.uid)
  if descFence c.desc then earlier.isEmpty else !(earlier.any fun x => descFence x.desc)

/-- The channels that a command's descriptor names, whose transactions start in the order of the fetches (R37). -/
def namedChans (d : Desc) : List Nat :=
  let op := descOpcode d
  if op = 0x10 ∨ op = 0x12 ∨ op = 0x18 then bitList (descMask96 d) 96
  else if op = 0x11 ∨ op = 0x14 ∨ (op = 0x13 ∧ fld d.dw8 16 3 ≤ 1) ∨ (op = 0x79 ∧ fld d.dw8 4 2 ≠ 0) then [fld d.dw8 8 7]
  else []

/-- The armature index that a command's descriptor names, on which commands take effect in the order of the fetches (R258). -/
def namedNode (d : Desc) : Option Nat :=
  let op := descOpcode d
  if (0x50 ≤ op ∧ op ≤ 0x53) ∨ (0x58 ≤ op ∧ op ≤ 0x5A) then some (fld d.dw8 0 8) else none

/-- Two commands name a channel or its pair's other half, or a node, in common. -/
def meets (s : State) (d e : Desc) : Bool :=
  ((namedChans d).any fun x => (namedChans e).any fun y => masterOf s x == masterOf s y) ||
    (optB (namedNode d) && namedNode d == namedNode e)

/-- No earlier-fetched command that waits names one of the command's channels or its node (R37, R258). -/
def orderOpen (s : State) (c : Cmd) : Bool :=
  !(s.ring.cmds.any fun x => decide (x.uid < c.uid) && decide (x.st = .waiting) && meets s x.desc c.desc)

/-- The oldest accepted command of an SQ with an opcode that has not started and that neither a fence nor an earlier command of
its channels or its node holds back. -/
def oldestCmd (s : State) (sq op : Nat) : Option Cmd :=
  s.ring.cmds.find? fun c => c.sq == sq && decide (c.st = .waiting) && descOpcode c.desc == op && fenceOpen s c && orderOpen s c

/-! ### Output and completion -/

/-- Issues the output bytes of a command (R351 order 3): zeroes in their place where host memory fails (R341). -/
def emitData (s : State) (c : Cmd) (out : List Byte) : State :=
  if out.isEmpty ∨ 16 ≤ c.sq then s
  else
    let a := BitVec.ofNat 64 (descAddrOut c.desc)
    if c.outOk then emit s (.data a out) else emit s (.data a (List.replicate (descLenOut c.desc) 0#8))

/-- Completes a command: output, then its one completion (R353); the SQ's drain is settled. -/
def finishCmd (s : State) (c : Cmd) (st : Status) (result : Word) (beat : BitVec 64) (out : List Byte) : State :=
  let bad := !c.outOk && !out.isEmpty
  let s1 := dropCmd (emitData s c out) c.uid
  let cp : Completion := ⟨BitVec.ofNat 16 (descCmdId c.desc), if bad then .addrErr else st, if bad then 0 else result,
                          beat.setWidth 32, c.sq, descNoirq c.desc⟩
  if 16 ≤ c.sq then s1 else settleSq (postCompletion s1 (getSq s c.sq).cq cp) c.sq

/-- A completion in the beat in progress (R336). -/
def finishNow (s : State) (c : Cmd) (st : Status) (result : Nat) (out : List Byte) : State :=
  finishCmd s c st (BitVec.ofNat 32 result) s.clk.beat out

/-- A success whose RESULT is the number of bytes written (R336). -/
def finishBytes (s : State) (c : Cmd) (out : List Byte) : State := finishNow s c .ok out.length out

/-- Completes a command with a status alone. -/
def failCmd (s : State) (c : Cmd) (st : Status) : State := finishNow s c st 0 []

/-- Zeroes the output of a message that stops and completes it (R306). -/
def zeroCmd (s : State) (c : Cmd) (st : Status) : State :=
  let s1 := if descLenOut c.desc = 0 then s else emitData s c (List.replicate (descLenOut c.desc) 0#8)
  finishNow { s1 with cip := { s1.cip with zeroed := sat 32 (s1.cip.zeroed + 1) } } c st 0 []

/-! ### A command's row -/

/-- What the operation's own checks say (R338, order 6). -/
inductive Judge where
  | go
  | hold
  | stop (st : Status) (result : Nat)
  deriving DecidableEq, Repr

/-- The row of a host command: the oldest command that may start is judged, votes, waits for its domains, reads its whole
input (R341, R349) and runs. -/
def runCmd (s : State) (sq op : Nat) (m : HostMem) (own : State → Cmd → Judge) (body : State → Cmd → List Byte → State) : State :=
  if !keeperUp s then s
  else match oldestCmd s sq op with
    | none => s
    | some c =>
      match own s c with
      | .hold => s
      | .stop st r => finishNow s c st r []
      | .go =>
        let s1 := putCmd s { c with voted := true }
        if !domsReady s1 (cmdDomains s1 c.desc) then s1
        else
          let n := descLenIn c.desc
          let c1 := { c with voted := true, st := .running, outOk := m.outOk }
          match (if n = 0 then some [] else m.inp) with
          | none => failCmd s1 c .addrErr
          | some l => body (putCmd s1 c1) c1 (padTo n l)

/-! ### Ranking of outcomes (R153) -/

def outcomeRank : Status → Nat
  | .duplicate => 14 | .collision => 13 | .couplingMismatch => 12 | .timingBoundFail => 11 | .foreignToken => 10
  | .authFail => 9 | .keyUsageExhausted => 8 | .keyInvalid => 7 | .channelRetired => 6 | .channelFaultTransient => 5
  | .leveeDeferred => 4 | .entropyTimeout => 3 | .noResponse => 2 | .abortedStop => 1 | _ => 0

/-- The highest-ranked outcome of a list; `none` where all succeeded. -/
def worstOf (l : List Status) : Option Status :=
  l.foldl (fun a st => if st.isOk then a else match a with
    | none => some st
    | some b => if outcomeRank b < outcomeRank st then some st else some b) none

/-- The success status of R53 for a command whose transactions all succeeded. -/
def okStatus (retried migrated : Bool) : Status := if migrated then .okMigrated else if retried then .okRetried else .ok

/-- Records in ascending key order. -/
def insertRec (r : Rec) : List Rec → List Rec
  | [] => [r]
  | x :: t => if r.key < x.key then r :: x :: t else x :: insertRec r t

/-- The latest beat among records that ran. -/
def lastBeat (rs : List Rec) (dflt : BitVec 64) : BitVec 64 :=
  rs.foldl (fun b r => if b.toNat < r.beat.toNat ∧ optB r.status then r.beat else b) dflt

end Sys2Proof.Machine
end

