-- ==== Sys2Proof/Machine/Slots.lean ====
section
/-! DEFINITION. The slot tables and the validated-token tables of both lanes (R35, R146 to R149, R193), the registry (R131 to
R135, R140) and the records it is read and written as (R132, R133, R154).

Marked choices (log entries): DESIGN CHOICE 4, 84; DEDUCED 42, 48, 50, 59. -/

namespace Sys2Proof.Machine

open Sys2Proof

/-! ### Paired writes (R35) -/

/-- Lane B holds tables: it is not off and not dead. -/
def laneBHolds (s : State) : Bool := !(decide (s.slu.b.st = .off) || decide (s.slu.b.st = .dead))

def laneSlot (l : Lane) (ch : Nat) : SlotEnt := smGet l.slots ch SlotEnt.reset

def laneSlotPut (l : Lane) (ch : Nat) (e : SlotEnt) : Lane := { l with slots := smPut l.slots ch e SlotEnt.reset }

/-- One write to both slot tables. -/
def pairSlot (s : State) (ch : Nat) (f : SlotEnt → SlotEnt) : State :=
  let a := laneSlotPut s.slu.a ch (f (laneSlot s.slu.a ch))
  let b := if laneBHolds s then laneSlotPut s.slu.b ch (f (laneSlot s.slu.b ch)) else s.slu.b
  { s with slu := { s.slu with a := a, b := b } }

/-- Time of the next boundary, from which an age counts (R193). -/
def nextBoundUs (s : State) : Nat := s.clk.nowUs + beatUs s

/-- The slot entry after a final result at beat `b`, whose age counts from `us` (R147). -/
def slotResult (st : Status) (b : BitVec 64) (us : Nat) (e : SlotEnt) : SlotEnt :=
  let low := fun (x : SlotState) => match e.st with
    | .unverified => x
    | .verified => x
    | o => o
  let c := BitVec.ofNat 16 (statusCode st)
  match st with
  | .ok | .okRetried | .okMigrated =>
    match e.st with
    | .unenrolled | .unverifiable => { e with mismatch := false, cause := 0 }
    | _ => { e with st := .verified, mismatch := false, cause := 0, lastOk := b, okUs := us }
  | .couplingMismatch => { e with st := low .unverified, mismatch := true, cause := c }
  | .duplicate => { e with st := low .duplicate, cause := c }
  | .authFail | .timingBoundFail | .foreignToken | .keyUsageExhausted => { e with st := low .unverified, cause := c }
  | _ => { e with cause := c }

/-- A final result on a MODULE_SLOT channel (R147). -/
def slotOutcome (s : State) (ch : Nat) (st : Status) : State :=
  pairSlot s ch (slotResult st s.clk.beat (nextBoundUs s))

def slotStCode : SlotState → Nat
  | .unenrolled => 0 | .unverified => 1 | .verified => 2 | .duplicate => 3 | .unverifiable => 4

/-- The slot record of a channel, where it has one (R133). -/
def slotRec (s : State) (ch : Nat) : Option SlotRec := smFind s.tok.recs ch

def enrolled (s : State) (ch : Nat) : Bool := optB (slotRec s ch)

/-- Both slot tables as a start loads them (R148). -/
def loadSlots (s : State) : SMap SlotEnt :=
  allChans.filterMap fun c =>
    let st := if chanRetired s c then .unverifiable else if enrolled s c then SlotState.unverified else .unenrolled
    if st = .unenrolled then none else some (c, { SlotEnt.reset with st := st })

/-! ### Validated tokens (R149) -/

/-- The entry that a full table gives up: the oldest beat, then the lower registry index. -/
def oldestTok : List TokEnt → Option TokEnt
  | [] => none
  | t :: r => match oldestTok r with
    | none => some t
    | some o => if t.beat.toNat < o.beat.toNat ∨ (t.beat = o.beat ∧ t.reg < o.reg) then some t else some o

def tokPut (l : List TokEnt) (e : TokEnt) : List TokEnt :=
  if l.any (fun t => t.reg == e.reg) then l.map (fun t => if t.reg == e.reg then e else t)
  else if l.length < 16 then l ++ [e]
  else match oldestTok l with
    | some o => l.map (fun t => if t.reg == o.reg then e else t)
    | none => [e]

/-- A validation, written by the paired write. `src`: channel, or 0x80 for UHF. -/
def validate (s : State) (reg : Nat) (roles : BitVec 4) (src : Nat) : State :=
  let e : TokEnt := ⟨reg, roles, src, s.clk.beat, nextBoundUs s⟩
  let a := { s.slu.a with toks := tokPut s.slu.a.toks e }
  let b := if laneBHolds s then { s.slu.b with toks := tokPut s.slu.b.toks e } else s.slu.b
  { s with slu := { s.slu with a := a, b := b } }

/-! ### Registry -/

/-- The index of the entry with a token ID, FREE entries apart (R134). -/
def findId (s : State) (id : BitVec 64) : Option Nat :=
  (s.tok.reg.find? fun p => !(p.2.st == .free) && p.2.id == id).map (·.1)

/-- The index of an entry with the same SID (R134). -/
def findSid (s : State) (id : BitVec 64) : Option Nat :=
  (s.tok.reg.find? fun p => !(p.2.st == .free) && p.2.id.setWidth 32 == id.setWidth 32).map (·.1)

/-- The entries that waiting changes write (R135). -/
def changing (s : State) : List (Nat × RegEntry) := s.tok.changes.flatMap (·.entries)

/-- The lowest FREE index that no waiting change takes. -/
def freeIndex (s : State) : Option Nat :=
  (List.range 4096).find? fun i => decide ((getReg s i).st = .free) && !((changing s).any fun p => p.1 == i)

/-- A waiting change writes an entry with the same SID. -/
def sidWaits (s : State) (id : BitVec 64) : Bool :=
  (changing s).any fun p => !(p.2.st == .free) && p.2.id.setWidth 32 == id.setWidth 32

/-- Writes an entry to the working copy and to both copies in flash, one write sequence further (R131). -/
def storeReg (s : State) (i : Nat) (e : RegEntry) : State :=
  let e1 := { e with wseq := ((getReg s i).wseq + 1) % 2 ^ 32 }
  let s1 := setReg s i e1
  let s2 := { s1 with fl := { s1.fl with reg := smPut s1.fl.reg i e1 RegEntry.free } }
  flashRenew (flashRenew s2 2 (entryOff 0 i) 32) 2 (entryOff 1 i) 32

def storeRec (s : State) (ch : Nat) (r : Option SlotRec) : State :=
  let put := fun (m : SMap SlotRec) => match r with
    | some x => smIns m ch x
    | none => smDel m ch
  let s1 := { s with tok := { s.tok with recs := put s.tok.recs }, fl := { s.fl with recs := put s.fl.recs } }
  flashRenew (flashRenew s1 2 (slotOff 0 ch) 32) 2 (slotOff 1 ch) 32

/-- A REGISTRY record (R235): actions 0 to 4 ENROL, 5 re-key sent, 6 confirmed, 7 EXHAUSTED. -/
def stageEntry (s : State) (action i source : Nat) (e : RegEntry) : State :=
  stage s 0x21 source [(20, leBytes action 1), (22, leBytes i 2), (24, leBytes e.id.toNat 8), (32, leBytes e.gen.toNat 2)]

def stageRegistry (s : State) (action i source : Nat) : State := stageEntry s action i source (getReg s i)

/-- The entry becomes EXHAUSTED (R139), stamped with the beat in progress. -/
def markExhausted (s : State) (i source : Nat) : State :=
  let e := getReg s i
  if e.st = .exhausted ∨ e.st = .free then s
  else stageRegistry (storeReg s i { e with st := .exhausted }) 7 i source

/-- The keeper raises SESS_RES by 1024 where SESS comes within 512 of it (R140). -/
def raiseSess (s : State) (i : Nat) : State :=
  let e := getReg s i
  if e.st ≠ .free ∧ e.sessRes < 0xFFFFFFFF ∧ e.sessRes ≤ e.sess + 512 then
    storeReg s i { e with sessRes := min (e.sessRes + 1024) 0xFFFFFFFF }
  else s

/-- One AUTH frame is sent to the token (R140). -/
def countSess (s : State) (i : Nat) : State :=
  let e := getReg s i
  let s1 := setReg s i { e with sess := min (e.sess + 1) 0xFFFFFFFF }
  if keeperUp s1 then raiseSess s1 i else s1

/-- SESS has reached SESS_RES and waits for the keeper. -/
def sessWaits (s : State) (i : Nat) : Bool :=
  decide ((getReg s i).sessRes ≤ (getReg s i).sess) && decide ((getReg s i).sess < 0xFFFFFFFF)

/-- A range exchange under way uses the entry. -/
def rangeUses (s : State) (i : Nat) : Bool := match s.rad.cur with
  | some a => decide (a.kind = .range) && a.reg == i
  | none => false

/-- A transaction in flight uses the entry or runs on the slot (R135). -/
def regBusy (s : State) (ch : Nat) (p : Job → Bool) : Bool := (getChan s ch).jobs.any fun j => jobInFlight j && p j

def changeBlocked (s : State) (c : RegChange) : Bool :=
  (allChans.any fun ch => regBusy s ch fun j => c.entries.any fun p => p.1 == j.reg) ||
  (c.recs.any fun p => regBusy s p.1 fun _ => true) || (c.entries.any fun p => rangeUses s p.1)

/-- An entry as a change writes it: of the same token, the counters and generations it has by now stay, and its state too
where the change only unbinds it. A confirmed re-key changes what R143 names, of the token that it confirmed; action 8, which is
not journalled, changes MODEL alone. -/
def mergeEntry (c : RegChange) (cur : RegEntry) (i : Nat) (e : RegEntry) : RegEntry :=
  if c.action = 8 then (if cur.st = .free ∨ cur.id ≠ e.id then cur else { cur with model := e.model })
  else if c.action = 6 then
    if cur.st = .free ∨ cur.id ≠ e.id then cur
    else { cur with gen := e.gen, pend := false, sess := 1, sessRes := 1024, st := .active }
  else if e.st = .free ∨ cur.st = .free ∨ cur.id ≠ e.id then e
  else { e with sess := cur.sess, sessRes := cur.sessRes, gen := cur.gen, pend := cur.pend, pendGen := cur.pendGen,
                st := if i = c.reg ∧ c.action ≤ 1 then e.st else cur.st }

/-- Applies one change of the registry (R135, R158). Where the rule is silent, a different ID accepted clears CAUSE, and a
slot that becomes UNENROLLED keeps CAUSE alone (log entry 84). -/
def applyRegChange (s : State) (c : RegChange) : State :=
  let s1 := c.entries.foldl (fun s p => storeReg s p.1 (mergeEntry c (getReg s p.1) p.1 p.2)) s
  let s2 := c.recs.foldl (fun s p => storeRec s p.1 p.2) s1
  let s3 := c.slotFx.foldl (fun s p => pairSlot s p.1 fun e =>
    match p.2 with
    | some true => if e.st = .unverifiable then { e with mismatch := false }
                   else { e with st := .unverified, mismatch := false, cause := 0 }
    | some false => if e.st = .unverifiable then e else { SlotEnt.reset with cause := e.cause }
    | none => { e with mismatch := false }) s2
  let s4 := (c.recs.filter fun p => optB p.2).foldl (fun s p => modChan s p.1 fun ch => { ch with sigStale := false }) s3
  let s5 := if c.action = 6 then { s4 with lf := { s4.lf with rekeys := sat 32 (s4.lf.rekeys + 1) } } else s4
  -- a REMOVE's record names the token that the entry held
  let e := if c.action = 3 then getReg s c.reg else getReg s5 c.reg
  if c.journalled then stageEntry s5 c.action c.reg c.source e else s5

/-- Air transactions of an enrolment (R378). -/
def enrolSteps (slotMode : Bool) : Nat := if slotMode then 10 else 3

/-- CFG_ENROL_PROGRESS shows the oldest ENROL that runs (R377), and only while the keeper runs (R24). -/
def enrolShown (s : State) (uid : Nat) : Bool :=
  keeperUp s && (s.ring.cmds.find? fun c => descOpcode c.desc == 0x13 && decide (c.st = .running) &&
    decide (fld c.desc.dw8 16 3 ≤ 1)).map (·.uid) == some uid

/-- CFG_ENROL_PROGRESS of an ENROL after `pos` of its air transactions; 1000 when its change is written (R378). -/
def enrolProgress (s : State) (uid pos : Nat) (slotMode accepted : Bool) : State :=
  if !enrolShown s uid then s
  else
    let old := if s.cfg.enrolProg.active then s.cfg.enrolProg.progress else 0
    let p := max old (if accepted then 1000 else 900 * pos / enrolSteps slotMode)
    let s1 := { s with cfg := { s.cfg with enrolProg := ⟨p, pos, !accepted⟩ } }
    postProgress s1 2 srcKeeper old p pos

/-- The output and the completion of the ENROL that asked for a change (R158); its beat is the boundary's (R336). -/
def finishChange (s : State) (c : RegChange) : State :=
  match findCmd s c.uid with
  | none => s
  | some cmd =>
    if c.action = 5 ∨ c.action = 6 then s
    else
      let e := getReg s c.reg
      let r := match c.recs.find? fun p => optB p.2 with
        | some p => match p.2 with
          | some x => recBytes p.1 x
          | none => List.replicate 32 0#8
        | none => List.replicate 32 0#8
      let out := if descLenOut cmd.desc = 0 then [] else entryBytes e ++ r
      let s1 := if c.action ≤ 1 then enrolProgress s cmd.uid (enrolSteps (c.action == 0)) (c.action == 0) true else s
      finishNow s1 cmd (okStatus cmd.flag (cmd.count % 2 = 1)) c.reg out

/-- Two changes write the same entry or slot. -/
def changesMeet (c d : RegChange) : Bool :=
  (c.entries.any fun p => d.entries.any fun q => p.1 == q.1) || (c.recs.any fun p => d.recs.any fun q => p.1 == q.1)

/-- REGISTRY_CHANGE_APPLY: applies, in order, the changes that a test selects and whose entries and slots no transaction in
flight uses; a later change of the same entry or slot stays behind an earlier one that waits. -/
def applyChanges (sel : RegChange → Bool) : List RegChange → State → State
  | [], s => s
  | c :: t, s =>
    let s1 :=
      if !sel c || changeBlocked s c || s.tok.changes.any (changesMeet c) then
        { s with tok := { s.tok with changes := s.tok.changes ++ [c] } }
      else finishChange (applyRegChange s c) c
    applyChanges sel t s1

/-- The changes that a test selects, at a boundary; the keeper applies none while it restarts (R24). -/
def applyDueWhere (sel : RegChange → Bool) (s : State) : State :=
  if s.flt.restarting then s
  else applyChanges sel s.tok.changes { s with tok := { s.tok with changes := [] } }

def applyDueChanges (s : State) : State := applyDueWhere (fun _ => true) s

def addChange (s : State) (c : RegChange) : State := { s with tok := { s.tok with changes := s.tok.changes ++ [c] } }

/-- The registry and the slot records as they stand once the changes that wait have applied. -/
def projected (s : State) : State :=
  s.tok.changes.foldl (fun z c =>
    let z1 := c.entries.foldl (fun z p => setReg z p.1 (mergeEntry c (getReg z p.1) p.1 p.2)) z
    c.recs.foldl (fun z p => { z with tok := { z.tok with recs := (match p.2 with
      | some x => smIns z.tok.recs p.1 x
      | none => smDel z.tok.recs p.1) } }) z1) s

/-- The 32-byte record of SWEEP, AUTH_TOKEN and REKEY_TOKEN (R154). -/
structure AuthRec where
  ch : Nat
  slotSt : Nat
  outcome : Nat
  lastDev : Int
  csDev : Nat
  flags : Nat
  beat : BitVec 64
  reg : Nat
  terrGen : Nat
  attempts : Nat
  id : BitVec 64
  reason : Nat

def authRecBytes (r : AuthRec) : List Byte :=
  layBytes 32 [(0, leBytes r.ch 1), (1, leBytes r.slotSt 1), (2, leBytes r.outcome 2), (4, leBytes (wrapInt 16 r.lastDev) 2),
    (6, leBytes r.csDev 1), (7, leBytes r.flags 1), (8, leBytes r.beat.toNat 4), (12, leBytes r.reg 2), (14, leBytes r.terrGen 1),
    (15, leBytes r.attempts 1), (16, leBytes r.id.toNat 8), (24, leBytes r.reason 1)]

/-- The slot state byte of a record: 0xFF on other roles (R154). -/
def slotByte (s : State) (ch role : Nat) : Nat := if role = 0 then slotStCode (laneSlot s.slu.a ch).st else 0xFF

/-- The record of a channel that is not run: reason 1 DISABLED, 2 UNENROLLED, 3 UNASSIGNED (R151). -/
def notRunRec (s : State) (ch reason : Nat) : Rec :=
  let r := (slotRec s ch).map (·.reg)
  { key := ch, status := none, good := false, foreign := false, retried := false, migrated := false, beat := s.clk.beat,
    bytes := authRecBytes ⟨ch, slotByte s ch (roleOf s ch), 0, 0, 0, 16, 0, r.getD 0xFFFF, 0, 0,
      (match r with | some i => (getReg s i).id | none => 0), reason⟩ }

end Sys2Proof.Machine
end

