-- ==== Sys2Proof/Machine/LfCore.lean ====
section
/-! DEFINITION. LF transactions: what they send, how a reply is decoded and judged (R99 to R118), the checks before the first
segment (R137), the judging of a MAC (R138), the levee's reservation (R88), and the bookkeeping at the end of a transaction
(R96, R154, R159).

Marked choices (log entries): DESIGN CHOICE 4, 83, 84; DEDUCED 47, 65. -/

namespace Sys2Proof.Machine

open Sys2Proof

/-! ### Frames and times (R108, R111, R125) -/

def frameBits : Frame → Nat
  | .auth => 112 | .ident _ => 48 | .readInfo => 64 | .rekey => 272 | .cal => 0 | .loc => 80

/-- E: the carrier cycle at which the downlink ends (R111, R114). -/
def downEnd (f : Frame) (slow : Bool) : Nat := frameBits f * (if slow then 250 else 125) / 8

def replyLen (slow : Bool) : Nat := if slow then 3072 else 1536

def replySlots : Frame → Nat
  | .ident q => 2 ^ q | _ => 1

/-- Carrier cycles of an exchange from its first downlink edge to its last uplink sample. -/
def exchangeCycles (f : Frame) (slow : Bool) : Nat := downEnd f slow + replySlots f * (32 + replyLen slow)

/-- Carrier cycles of the LF part of LOCATE on `n` coils (R125). -/
def locCycles (n : Nat) (slow : Bool) : Nat := 407 * n + downEnd .loc slow + 160 * n

/-- Cycles of a carrier in µs, rounded up. -/
def cyclesUs (cyc ftw : Nat) : Nat := (cyc * 2 ^ 32 + ftw * 128 - 1) / (ftw * 128)

/-- Step times of R76 in ms, with whether each runs at a level (0 FULL, 1 RETUNE, 2 CHECK). -/
def calSteps (level : Nat) : List Nat :=
  if level = 0 then [2, 31, 8, 16, 8] else if level = 1 then [2, 31, 8, 16] else [2, 16]

def calMs (level : Nat) : Nat := (calSteps level).foldl (· + ·) 0

/-- Milliseconds of the calibration steps complete after `us` µs (R78). -/
def calDoneMs (level us : Nat) : Nat :=
  ((calSteps level).foldl (fun a t => if (a.2 + t) * 1000 ≤ us then (a.1 + t, a.2 + t) else (a.1, a.2 + t)) (0, 0)).1

/-- The coils of the LF part of a LOCATE: the channels that run its job. -/
def locCoils (s : State) (uid : Nat) : List Nat :=
  allChans.filter fun c => match (getChan s c).jobs.head? with
    | some j => j.uid == uid && (match j.kind with | .loc _ => true | _ => false)
    | none => false

/-- Air time of the transaction of job `j`, in µs. -/
def jobUs (s : State) (j : Job) : Nat :=
  match j.kind with
  | .cal l _ re => 1000 * calMs (if re then 0 else l)
  | .loc _ => cyclesUs (locCycles (locCoils s j.uid).length j.set.slow) j.set.ftw
  | _ => cyclesUs (exchangeCycles j.frame j.set.slow) j.set.ftw

def jobEndUs (s : State) (j : Job) : Nat := j.startUs + jobUs s j

/-- The downlink of the transaction has ended by `us` (R51). -/
def downlinkOver (s : State) (j : Job) (us : Nat) : Bool :=
  match j.kind with
  | .cal _ _ _ => false
  | .loc _ => decide (j.startUs + cyclesUs (407 * (locCoils s j.uid).length + downEnd .loc j.set.slow) j.set.ftw ≤ us)
  | _ => decide (j.startUs + cyclesUs (downEnd j.frame j.set.slow) j.set.ftw ≤ us)

/-- Frame of a kind at a step of its sequence (R119, R121, R142, R157). -/
def jobFrame (k : JobKind) (step q : Nat) : Frame :=
  match k with
  | .sweep | .addressed | .unlock => .auth
  | .discover => if step = 0 then .ident q else .auth
  | .enrolSlot | .enrolKey => if step = 0 then .ident 0 else if step = 1 then .readInfo else .auth
  | .rekey => if step = 0 then .readInfo else if step = 1 then .rekey else .auth
  | .cal _ _ _ => .cal
  | .loc _ => .loc

/-- Random bits an attempt draws (R108, R314). -/
def nonceBits (j : Job) : Nat :=
  match j.frame with
  | .auth => 48
  | .ident _ => 8
  | .loc => match j.kind with
    | .loc true => 32
    | _ => 0
  | _ => 0

def newJob (uid : Nat) (kind : JobKind) (prio : Nat) (pol : Option Nat) (rg : Nat) : Job :=
  { uid := uid, kind := kind, prio := prio, pol := pol, keyInst := 0, step := 0, frame := jobFrame kind 0 1, phase := .queued,
    startUs := 0, startBeat := 0, nonce := 0, nonceReady := false, defers := 0, resv := none, set := .none,
    wave := [], meas := none, retries := 0, restarts := 0, attempts := 0, faults := 0, hardSeen := false, notBeforeUs := 0, notBeforeBeat := 0, reg := rg,
    entry := .free, heldReply := none, q := 1, repolls := 0, collision := false, found := [], toAuth := [],
    gen := 0, model := 0, foundId := 0, zs := [], ts := [] }

def headOf (s : State) (ch : Nat) : Option Job := (getChan s ch).jobs.head?

def setHead (s : State) (ch : Nat) (j : Job) : State := modChan s ch fun c => { c with jobs := j :: c.jobs.drop 1 }

/-- The head of a channel's jobs ends, with a request for random bits that it may have open. -/
def popHead (s : State) (ch : Nat) : State := modChan (dropWait s (.chan ch)) ch fun c => { c with jobs := c.jobs.drop 1 }

def pushJob (s : State) (ch : Nat) (j : Job) : State := modChan s ch fun c => { c with jobs := c.jobs ++ [j] }

/-- The transaction runs on a MODULE_SLOT channel: the role it started with, or the role in force before its start. -/
def jobRole (s : State) (ch : Nat) (j : Job) : Nat := if j.phase = .queued ∨ j.attempts = 0 then roleOf s ch else j.set.role

/-! ### Replies (R103, R112) -/

/-- A reply as the demodulator decides it. -/
inductive Decoded where
  | absent
  | violation
  | erasure
  | bits (w : BitVec 96)
  deriving DecidableEq, Repr

/-- The reply decoded: absent where the first 4 bits carry no energy; a 1 has its energy in the second half. -/
def decodeReply (r : RawReply) : Decoded :=
  let any := r.first ||| r.second
  if any.toNat / 2 ^ 92 = 0 then .absent
  else if !(r.first &&& r.second == 0) then .violation
  else if !(any == BitVec.allOnes 96) then .erasure
  else .bits r.second

def replyBody (w : BitVec 96) : Nat := w.toNat / 2 ^ 32
def replyStatus (w : BitVec 96) : Nat := w.toNat / 2 ^ 16 % 2 ^ 16
def replyCrcOk (w : BitVec 96) : Bool := crc16 (nBe (w.toNat / 2 ^ 16) 10) == w.toNat % 2 ^ 16

def stKind (st : Nat) : Nat := st / 2 ^ 8 % 8
def stGen (st : Nat) : Nat := st / 2 ^ 4 % 16
def stTerr (st : Nat) : Nat := st % 16
def stAddr (st : Nat) : Bool := st.testBit 11
/-- STATUS with [15:12] zero, as every MAC covers it (R138). -/
def stMac (st : Nat) : Nat := st % 2 ^ 12

/-! ### Timing bound and coupling (R115 to R118) -/

/-- Nominal cycles of the load transitions of the first eight reply bits, in order (R103, R115). -/
def nominalCycles (w : BitVec 96) (slow : Bool) : List Nat :=
  (List.range 8).flatMap fun k =>
    let half := if w.getLsbD (95 - k) then 1 else 0
    if slow then [0, 4, 8, 12].map (fun d => 32 * k + 16 * half + d) else [0, 4].map (fun d => 16 * k + 8 * half + d)

/-- T_m: the mean start of the load transitions, in 1/64 cycle (R115). -/
def measuredStart (r : RawReply) (w : BitVec 96) (slow : Bool) (grpdly : Nat) : Int :=
  let ds := (r.stamps.zip (nominalCycles w slow)).map fun p => p.1 - (grpdly : Int) - 64 * (p.2 : Int)
  if ds.isEmpty then 0 else rdiv (ds.foldl (· + ·) 0) ds.length

def sqMag (a b : Int) : Nat := (a * a + b * b).toNat

/-- R²·D ≤ (P·√A + Q)², exactly: the distance √D lies within (P·√A + Q)/R. -/
def within (d a p q r : Nat) : Bool :=
  let t : Int := (r : Int) * r * d - (p : Int) * p * a - (q : Int) * q
  decide (t ≤ 0) || decide (t * t ≤ 4 * ((p : Int) * p) * ((q : Int) * q) * a)

/-- n·(P·√A + Q) ≤ 100·R·√D, exactly: the distance is at least n per cent of the radius. -/
def atLeastPct (n d a p q r : Nat) : Bool :=
  let t : Int := 10000 * ((r : Int) * r) * d - (n : Int) * n * ((p : Int) * p * a + (q : Int) * q)
  decide (0 ≤ t) && decide (4 * ((n : Int) * n * (n * n)) * ((p : Int) * p) * ((q : Int) * q) * a ≤ t * t)

/-- CS_DEV: 100 × distance / radius, rounded down, saturating at 255 (R117). -/
def csDev (d a p q r : Nat) : Nat := ((List.range 255).filter fun n => atLeastPct (n + 1) d a p q r).length

/-- The carrier differs from the enrolment carrier by more than 1.0 kHz (R118). -/
def carrierStale (ftw enrol : Nat) : Bool :=
  let d := if ftw ≤ enrol then enrol - ftw else ftw - enrol
  decide (1000 * 2 ^ 32 < d * 128000000)

/-! ### MACs (R136, R138, R144) -/

/-- The fleet node whose key a transaction took is still there (R139, R254). -/
def nodeHolds (s : State) (fleet ki : Nat) : Bool :=
  let n := getNode s (fleetIdx fleet)
  (decide (n.st = .active) || decide (n.st = .retired)) && n.loaded && decide (n.inst = ki)

/-- First 8 bytes of a CMAC as a number. -/
def mac8 (key msg : List Nat) : Nat := beN ((cmac key msg).take 8)

/-- Facts of a judged reply that its record reports. -/
structure Verdict where
  status : Status
  /-- The matching generation is PEND_GEN (R143). -/
  pend : Bool
  low : Bool
  macFail : Bool
  exhausted : Bool

/-- Tests 1 to 4 of R138 with a message that depends on the matching generation. -/
def judgeMac (s : State) (e : RegEntry) (st body : Nat) (msg : Nat → List Nat) : Verdict :=
  let bad : Status → Verdict := fun x => ⟨x, false, false, false, false⟩
  if stKind st ≠ e.kind then bad .authFail
  else
    let match_ : Option (Nat × Bool) :=
      if stGen st = e.gen.toNat % 16 then some (e.gen.toNat, false)
      else if e.pend ∧ stGen st = e.pendGen.toNat % 16 then some (e.pendGen.toNat, true) else none
    match match_ with
    | none => bad .authFail
    | some g =>
      if body ≠ mac8 (tokKey s e.fleet e.id.toNat g.1 e.kind) (msg g.1) then ⟨.authFail, g.2, false, true, false⟩
      else if stTerr st = 0 ∨ stTerr st = 4 then ⟨.ok, g.2, stTerr st = 4, false, false⟩
      else if stTerr st = 1 then ⟨.keyUsageExhausted, g.2, false, false, true⟩
      else bad .authFail

/-- M_AUTH of R138. -/
def mAuth (id chal st : Nat) (slow : Bool) (gen : Nat) : List Nat :=
  [0x41] ++ nBe id 8 ++ nBe chal 6 ++ nBe gen 2 ++ nBe (stMac st) 2 ++ [b2n slow]

/-- KEYBLOB of R144: the new key under the pad of the old one. -/
def rekeyBlob (kOld kNew : List Nat) (id gen : Nat) : List Nat := xorL kNew (cmac kOld ([0x57] ++ nBe id 8 ++ nBe gen 2))

/-- KMAC of R144. -/
def rekeyKmac (kOld kNew : List Nat) (id gen : Nat) : List Nat :=
  (cmac kOld ([0x4B] ++ nBe id 8 ++ nBe gen 2 ++ rekeyBlob kOld kNew id gen)).take 8

/-- M_REKEY of R144. -/
def mRekey (s : State) (e : RegEntry) (newGen st : Nat) (slow : Bool) : List Nat :=
  let kOld := tokKey s e.fleet e.id.toNat e.gen.toNat e.kind
  let kNew := tokKey s e.fleet e.id.toNat newGen e.kind
  [0x52] ++ nBe e.id.toNat 8 ++ nBe newGen 2 ++ rekeyKmac kOld kNew e.id.toNat newGen ++ nBe (stMac st) 2 ++ [b2n slow]

/-! ### The levee (R88, R89) -/

/-- Die dissipation in nW and VDRV current in nA that a transaction reserves, each rounded up. -/
def reservation (s : State) (ch ftw : Nat) : Nat × Nat :=
  let v := (getBank s (bankOf ch)).vdrv
  let i := driveMa s ch
  let r := let c := (getChan s ch).cal; if c.valid then c.rTank.toNat else 20000
  let sw := (2000 * v * ftw + 2 ^ 22 - 1) / 2 ^ 22
  let halves := if gangMaster s ch then 2 else 1
  let p := (i * i * 500 + halves - 1) / halves + halves * sw
  let tank := (i * i * r + 1) / 2
  (p, if v = 0 then 0 else (100 * (tank + p) + v - 1) / v)

def chanResv (c : Chan) : Nat × Nat :=
  c.jobs.foldl (fun a j => match j.resv with
    | some r => (a.1 + r.1, a.2 + r.2)
    | none => a) (0, 0)

/-- Sums of the reservations held: of transactions in flight, and of ended ones until the next boundary. -/
def leveeUse (s : State) : Nat × Nat :=
  let a := s.lf.chans.foldl (fun a p => let r := chanResv p.2; (a.1 + r.1, a.2 + r.2)) (0, 0)
  s.lf.ended.foldl (fun a r => (a.1 + r.2.1, a.2 + r.2.2)) a

def leveeFits (s : State) (r : Nat × Nat) : Bool :=
  let u := leveeUse s
  decide (u.1 + r.1 ≤ regF s .leveeCfg 0 13 * 10000000) && decide (u.2 + r.2 ≤ regF s .leveeCfg 16 8 * 100000000)

/-! ### End of a transaction -/

def cmdIdOf (s : State) (uid : Nat) : Nat := match findCmd s uid with
  | some c => descCmdId c.desc
  | none => 0

/-- A final outcome that R159 journals. -/
def journalled (st : Status) : Bool :=
  match st with
  | .foreignToken | .duplicate | .couplingMismatch | .timingBoundFail => true
  | _ => false

def polOf (s : State) (ch : Nat) : Nat := (chanPol s ch).getD 0

/-- The carrier that a channel tracks moves towards what the tank phase asks for, by at most 200 Hz and within its window
(R72). -/
def trackCarrier (s : State) (ch want : Nat) : State :=
  if !tracking s ch then s
  else
    let c := getChan s ch
    let step := clampInt (-(hzFtw 200 : Int)) (hzFtw 200) ((want : Int) - c.ftrack)
    setChan s ch { c with ftrack := (clampInt (winLo s ch) (winHi s ch) ((c.ftrack : Int) + step)).toNat,
                          detuneWarn := decide ((want : Int) < winLo s ch) || decide (winHi s ch < (want : Int)) }

/-- What an attempt measured that no command's operand gives: free values (log entry 83). -/
def freeMeas (s : State) : Meas × State :=
  let a := drawFree s
  let b := drawFree a.2
  let c := drawFree b.2
  let d := drawFree c.2
  (⟨a.1.toInt, b.1.toInt, c.1.setWidth 12, (c.1 >>> 16).setWidth 8, some d.1.toNat⟩, d.2)

/-- The transaction has had the coil: an attempt of it started. -/
def jobRan (j : Job) : Bool := !j.wave.isEmpty || (decide (j.frame = .cal) && decide (0 < j.attempts))

/-- At the end of a transaction that had the coil, ZRE, ZIM and IMEAS take what it measured, and the carrier follows the tank
(R72, R84). -/
def measureEnd (s : State) (ch : Nat) (j : Job) : State :=
  if !jobRan j then s
  else
    let x := match j.meas with
      | some m => (m, s)
      | none => freeMeas s
    let s1 := modChan x.2 ch fun c => { c with zre := x.1.zre, zim := x.1.zim, ipk := x.1.ipk, theta := x.1.theta }
    match x.1.want with
    | some w => trackCarrier s1 ch w
    | none => s1

/-- Final result of one transaction: the measurements, the reservation's end, RETRIES, the last outcome, CONSEC (R96) and the
record of R159. An OK result alone makes no record: R159 and R235 list the outcomes that do, while step 8 of R21 speaks of the
sweep's record (log entry 84). `clean`: the last attempt ran on air to its final result without a channel fault. -/
def closeTx (s0 : State) (ch : Nat) (j : Job) (st : Status) (clean : Bool) : State :=
  let s := measureEnd s0 ch j
  let s1 := match j.resv with
    | some r => { s with lf := { s.lf with ended := s.lf.ended ++ [(s.clk.beat, r)] } }
    | none => s
  let s2 := dropWait s1 (.chan ch)
  let s3 := modChan s2 ch fun c =>
    let consec := if clean then 0 else if st = .channelFaultTransient ∧ j.hardSeen then min 15 (c.consec + 1) else c.consec
    { c with retries := j.retries, lastBeat := s.clk.beat, consec := consec,
             lastOutcome := some (if st = .ok then okStatus (decide (0 < j.retries)) (decide (0 < j.restarts)) else st),
             retireDue := c.retireDue || (decide (regF s .lfRetry 8 4 ≤ consec) && decide (0 < consec) && !clean) }
  let due := (getChan s3 ch).retireDue && !(getChan s ch).retireDue
  let s4 := if due then
      { s3 with flt := { s3.flt with retireDue := s3.flt.retireDue ++ [(1, ch, (getChan s3 ch).faultFlags)] } }
    else s3
  if journalled st then stageBatch s4 j.uid (cmdIdOf s j.uid) (polOf s ch) ch st else s4

def addRec (s : State) (uid : Nat) (r : Rec) : State :=
  match findCmd s uid with
  | some c => putCmd s { c with recs := insertRec r c.recs }
  | none => s

/-- The margin of R141. -/
def nearExhaustion (s : State) (i : Nat) : Bool :=
  let m := 2 ^ regF s .authCfg 0 5
  decide (i < 4096) && decide ((getReg s i).st ≠ .free) && decide (2 ^ 32 ≤ (getReg s i).sess + m)

/-- The record of one transaction (R154). After FOREIGN_TOKEN its token and registry index are those of the transaction: the
bound or addressed token's, the foreign ID being in the event (log entry 84). -/
def authRecord (s : State) (ch : Nat) (j : Job) (st : Status) (terrGen : Nat) (low confirmed : Bool) (dev : Int) (cs : Nat) :
    Rec :=
  let good := st.isOk
  let flags := b2n (decide (0 < j.retries)) + 2 * b2n (decide (0 < j.restarts)) + 4 * b2n low +
    8 * b2n (nearExhaustion s j.reg) + 32 * b2n (decide (st = .foreignToken)) + 64 * b2n good + 128 * b2n confirmed
  { key := if j.kind = .discover then (if j.reg < 4096 then (getReg s j.reg).id.toNat else j.foundId.toNat) else ch, status := some st, good := good, foreign := decide (st = .foreignToken),
    retried := decide (0 < j.retries), migrated := decide (0 < j.restarts), beat := s.clk.beat,
    bytes := authRecBytes ⟨ch, slotByte s ch (jobRole s ch j), statusCode st, dev, cs, flags, s.clk.beat, (if j.reg < 4096 then j.reg else 0xFFFF), terrGen,
      j.attempts, if j.reg < 4096 then (getReg s j.reg).id else j.foundId, 0⟩ }

/-- The record of a foreign token found by discovery, after the records of the registered ones. -/
def foreignRecord (s : State) (ch : Nat) (id : BitVec 64) : Rec :=
  { key := 2 ^ 64 + id.toNat, status := some .foreignToken, good := false, foreign := true, retried := false, migrated := false,
    beat := s.clk.beat,
    bytes := authRecBytes ⟨ch, 0xFF, statusCode .foreignToken, 0, 0, 32, s.clk.beat, 0xFFFF, 0, 0, id, 0⟩ }

/-! ### Completion of SWEEP, AUTH_TOKEN and REKEY_TOKEN (R153) -/

/-- The AUTH_TOKEN runs in DISCOVER mode. -/
def isDiscover (s : State) (c : Cmd) : Bool :=
  decide (descOpcode c.desc = 0x11) && !bitOf c.desc.dw8 3 && decide (roleOf s (fld c.desc.dw8 8 7) ≠ 0)

def authResult (recs : List Rec) : Nat :=
  let shown := recs.filter fun r => !r.bytes.isEmpty
  let good := (shown.filter (·.good)).length
  let fail := (shown.filter fun r => !r.good && !r.foreign && optB r.status).length
  let notRun := (shown.filter fun r => !(optB r.status)).length
  let foreign := (shown.filter (·.foreign)).length
  min good 255 + 2 ^ 8 * min fail 255 + 2 ^ 16 * min notRun 255 + 2 ^ 24 * min foreign 255

def authStatus (s : State) (c : Cmd) : Status :=
  let sts := c.recs.filterMap (·.status)
  let oks := okStatus (c.flag || c.recs.any (·.retried)) (c.count % 2 = 1 || c.recs.any (·.migrated))
  if isDiscover s c then
    if 2 ≤ c.count then .collision
    else if c.recs.any (·.good) then oks
    else match worstOf sts with
      | some w => w
      | none => .noResponse
  else match worstOf sts with
    | some w => w
    | none => oks

/-- One transaction of the command has ended; the last one completes it. -/
def authCmdStep (s : State) (uid : Nat) : State :=
  match findCmd s uid with
  | none => s
  | some c =>
    let c1 := { c with left := c.left - 1 }
    if c1.left = 0 then
      finishNow s c (authStatus s c) (authResult c.recs) ((c.recs.flatMap (·.bytes)).take (descLenOut c.desc))
    else putCmd s c1

end Sys2Proof.Machine
end

