-- ==== Sys2Proof/Machine/LfFrame.lean ====
section
/-! DEFINITION. What a coil sends: the downlink frames with their sync field, fields and CRC (R105 to R108), the coding of
their bits on the carrier (R101), the wake pattern and the bursts of LOCATE (R124, R125). -/

namespace Sys2Proof.Machine

open Sys2Proof

/-! ### Frames (R105 to R108) -/

/-- CMD of a frame; calibration sends none. -/
def frameCmd : Frame → Nat
  | .auth => 1 | .ident _ => 2 | .readInfo => 3 | .rekey => 4 | .loc => 6 | .cal => 0

/-- The sync field: LEAD, PATTERN and CMD. -/
def syncField (cmd : Nat) : List Nat := nBe (0xF * 2 ^ 12 + 0x2D * 2 ^ 4 + cmd) 2

/-- A frame's bytes, with the CRC over all that precedes it. -/
def withCrc16 (l : List Nat) : List Nat := l ++ nBe (crc16 l) 2

/-- The token that a transaction addresses: of a registry entry, or the ID an enrolment has found. -/
def jobToken (s : State) (j : Job) : Nat := if j.reg < 4096 then (getReg s j.reg).id.toNat else j.foundId.toNat

/-- The fields of a frame after its sync field, before its CRC. -/
def frameFields (s : State) (j : Job) (coils : Nat) : List Nat :=
  let sid := nBe (jobToken s j % 2 ^ 32) 4
  match j.frame with
  | .auth => sid ++ nBe j.nonce 6
  | .ident q => nBe j.nonce 1 ++ nBe (q * 2 ^ 4) 1
  | .readInfo => sid
  | .rekey =>
    let e := j.entry
    let kOld := tokKey s e.fleet e.id.toNat e.gen.toNat e.kind
    let kNew := tokKey s e.fleet e.id.toNat e.pendGen.toNat e.kind
    sid ++ nBe e.pendGen.toNat 2 ++ rekeyBlob kOld kNew e.id.toNat e.pendGen.toNat ++ rekeyKmac kOld kNew e.id.toNat e.pendGen.toNat
  | .loc => nBe j.nonce 4 ++ nBe (coils * 2 ^ 12) 2
  | .cal => []

/-- A downlink frame as its bytes in transmission order. -/
def frameBytes (s : State) (j : Job) (coils : Nat) : List Nat :=
  withCrc16 (syncField (frameCmd j.frame) ++ frameFields s j coils)

/-- Bytes as bits, most significant first (R107). -/
def bitsOf (l : List Nat) : List Bool := l.flatMap fun b => (List.range 8).map fun k => b.testBit (7 - k)

/-! ### The carrier (R101, R124, R125) -/

/-- Bits on the carrier from a cycle on: bit k begins ⌊k·B⌋ cycles later and its second half ⌊(k + ½)·B⌋, B being `b8`/8; a 1
is full then reduced, a 0 reduced then full. -/
def codeBits (start b8 : Nat) (bits : List Bool) : List (Nat × Drive) :=
  (bits.zip (List.range bits.length)).flatMap fun p =>
    [(start + p.2 * b8 / 8, if p.1 then .full else .reduced), (start + (2 * p.2 + 1) * b8 / 16, if p.1 then .reduced else .full)]

def rate8 (slow : Bool) : Nat := if slow then 250 else 125

/-- An exchange: the frame, then unmodulated carrier to the end of its last reply slot. -/
def exchangeWave (f : Frame) (slow : Bool) (bytes : List Nat) : List (Nat × Drive) :=
  codeBits 0 (rate8 slow) (bitsOf bytes) ++ [(downEnd f slow, .full), (exchangeCycles f slow, .off)]

/-- The wake pattern: 125 cycles of carrier, then the 16 bits of WAKE_ID at FAST. -/
def wakeWave (start wakeId : Nat) : List (Nat × Drive) :=
  (start, .full) :: codeBits (start + 125) (rate8 false) (bitsOf (nBe wakeId 2)) ++ [(start + 375, .off)]

/-- Coil `i` of the `n` coils of a LOCATE: its wake pattern, on the lead coil the LOC frame, and its burst. -/
def locWave (i n wakeId : Nat) (slow : Bool) (bytes : List Nat) : List (Nat × Drive) :=
  let f := 407 * n
  let e := f + downEnd .loc slow
  let b := e + 32 + 160 * i
  wakeWave (407 * i) wakeId ++ (if i = 0 then codeBits f (rate8 slow) (bitsOf bytes) ++ [(e, .off)] else []) ++
    [(b, .full), (b + 128, .off)]

/-- What the attempt of job `j` drives on coil `ch` of its group; the steps of a calibration are the row's own. -/
def coilWave (s : State) (ch : Nat) (group : List Nat) (j : Job) (slow : Bool) : List (Nat × Drive) :=
  match j.frame with
  | .cal => []
  | .loc => locWave (group.idxOf ch) group.length (regF s .airWake 0 16) slow (frameBytes s j group.length)
  | _ => exchangeWave j.frame slow (frameBytes s j 1)

end Sys2Proof.Machine
end

