-- ==== Sys2Proof/Machine/Retire.lean ====
section
/-! DEFINITION. The retirement table and its records (R415, R420 to R423).

Marked choices (log entries): DEDUCED 51, 66, 79. -/

namespace Sys2Proof.Machine

open Sys2Proof

/-- Unit classes of R422. -/
def clsChannel : Nat := 1
def clsPolder : Nat := 2
def clsPipe : Nat := 3
def clsEngine : Nat := 4
def clsLink : Nat := 5
def clsRadio : Nat := 6

/-- The last entry of a unit decides its state (R421). -/
def tableRetired (s : State) (cls idx : Nat) : Bool :=
  match (s.fl.retLog.filter fun e => e.cls == cls && e.idx == idx).getLast? with
  | some e => !e.reinstated
  | none => false

/-- The entry that retired a unit. -/
def tableEntry (s : State) (cls idx : Nat) : Option RetEntry :=
  (s.fl.retLog.filter fun e => e.cls == cls && e.idx == idx).getLast?

/-- Entries of one bank: 16 KiB of 64-byte doubled places. -/
def bankEntries : Nat := 256

/-- RETIREMENT_TABLE_SWAP: a full bank's retired units, one entry each, go to the other bank (R421). -/
def swapTable (s : State) : State :=
  if s.fl.retLog.length < bankEntries then s
  else
    let l := s.fl.retLog
    let keep := (List.range l.length).filterMap fun i =>
      match l[i]? with
      | some e =>
        if e.reinstated || (l.drop (i + 1)).any (fun x => x.cls == e.cls && x.idx == e.idx) then none else some e
      | none => none
    let next := (l.getLast?.map (·.eseq + 1)).getD 0
    let s1 := { s with fl := { s.fl with retLog := (keep.zip (List.range keep.length)).map fun p => { p.1 with eseq := next + p.2 },
                                         retBank := 1 - s.fl.retBank } }
    flashRenew s1 4 0 0x8000

/-- Appends an entry under the next ESEQ (R422); it waits for the keeper during a restart (R420). -/
def appendEntry (s : State) (e : RetEntry) : State :=
  if s.flt.restarting then { s with flt := { s.flt with logDue := s.flt.logDue ++ [e] } }
  else
    let s1 := swapTable s
    let e1 := { e with eseq := (s1.fl.retLog.getLast?.map (·.eseq + 1)).getD 0 }
    flashRenew { s1 with fl := { s1.fl with retLog := s1.fl.retLog ++ [e1] } } 4 (retOff s1 s1.fl.retLog.length) 64

/-- Service time in µs; 0 before the ledger opens (R229). -/
def svcNow (s : State) : Nat := s.ldg.svcUs

def retireEntry (s : State) (cls idx : Nat) (reinst : Bool) (cause : Byte) : RetEntry :=
  ⟨cls, idx, reinst, cause, s.clk.beat, svcNow s, 0⟩

def stageRetire (s : State) (cls idx : Nat) (reinst : Bool) : State :=
  stageSoon s 0x40 9 [(20, leBytes cls 1), (21, leBytes idx 1), (22, leBytes (b2n reinst) 1)]

/-- SOURCE of EV_UNIT_RETIRED (R359). -/
def unitSource (cls idx : Nat) : Nat :=
  if cls = clsPolder then srcPolder idx else if cls = clsLink then srcBankLink idx
  else if cls = clsRadio then srcRadio else srcCipher

/-- Records a retirement: table, journal, event (R415). -/
def recordRetire (s : State) (cls idx : Nat) (cause : Byte) : State :=
  let s1 := stageRetire (appendEntry s (retireEntry s cls idx false cause)) cls idx false
  if cls = clsChannel then postEvent s1 evChannelRetired (srcChannel idx) cause.toNat
  else postEvent s1 evUnitRetired (unitSource cls idx) (cls + idx * 2 ^ 8)

/-- Records a reinstatement (R98, R418). -/
def recordReinstate (s : State) (cls idx : Nat) : State :=
  stageRetire (appendEntry s (retireEntry s cls idx true 0)) cls idx true

/-- A unit's retirement is due at the next boundary (R415); asked for once. -/
def retireLater (s : State) (cls idx : Nat) (cause : Byte) : State :=
  if s.flt.retireDue.any (fun r => r.1 == cls && r.2.1 == idx) then s
  else { s with flt := { s.flt with retireDue := s.flt.retireDue ++ [(cls, idx, cause)] } }

/-- Toleration of a slot starts at the age given, in µs (R191, R423). -/
def startTolerance (s : State) (ch age : Nat) : State :=
  { s with slu := { s.slu with tol := smIns s.slu.tol ch (age, s.clk.nowUs) } }

def stopTolerance (s : State) (ch : Nat) : State := { s with slu := { s.slu with tol := smDel s.slu.tol ch } }

/-- Age of a slot's toleration, µs. -/
def tolAge (s : State) (v : Nat × Nat) : Nat := v.1 + (s.clk.nowUs - v.2)

def tolLimit (s : State) : Nat := regF s .quorum 16 8 * 3600000000

/-- TOLERANCE_EXPIRY: a toleration that has lasted UV_HOURS ends (R191). -/
def tolExpire (s : State) (ch : Nat) : State :=
  match smFind s.slu.tol ch with
  | some v => if tolLimit s ≤ tolAge s v then stopTolerance s ch else s
  | none => s

end Sys2Proof.Machine
end

