-- ==== Sys2Proof/Machine/LfTx.lean ====
section
/-! DEFINITION. The run of an LF transaction: the checks before it, its nonce, its start, its faults and retries, the reply
findings of R113 and what each sequence does next (R119, R121, R142), and the completion of the commands that asked for it.

Marked choices (log entries): DESIGN CHOICE 83, 84; DEDUCED 46, 49, 50. -/

namespace Sys2Proof.Machine

open Sys2Proof

/-! ### Ends of the kinds -/

/-- The record of a calibration (R79); `ms`: the time of the steps that ran to their end (R76), the fields of the others read
0. -/
def calRecord (ch outcome : Nat) (j : Job) (r : Option CalResult) (level ms : Nat) (warn : Bool) (beat : BitVec 64) :
    List Byte :=
  let fs := match r with
    | none => []
    | some c =>
      (if level ≤ 1 ∧ 41 ≤ ms then [(4, leBytes c.fRes 4)] else []) ++
      (if (if level ≤ 1 then 57 else 18) ≤ ms then
        [(8, leBytes c.rTank.toNat 2), (10, leBytes c.q10.toNat 2), (12, leBytes c.lnH 4), (20, leBytes c.ipk.toNat 2),
         (22, leBytes c.theta.toNat 1)] else []) ++
      (if level = 0 ∧ 65 ≤ ms then [(16, leBytes c.grpdly.toNat 2), (18, leBytes c.noise.toNat 2)] else [])
  layBytes 32 ([(0, leBytes ch 1), (1, leBytes outcome 1), (2, leBytes j.faults.toNat 2)] ++ fs ++
    [(23, leBytes (b2n warn) 1), (24, leBytes beat.toNat 8)])

def calStatus (outcome : Nat) : Option Status :=
  if outcome = 0 ∨ outcome = 3 then some .ok else if outcome = 1 then some .channelFaultTransient
  else if outcome = 2 then some .channelRetired else if outcome = 5 then some .leveeDeferred else none

/-- Level a channel is calibrated at: FULL for a reinstatement (R98). -/
def jobLevel (j : Job) : Nat := match j.kind with
  | .cal l _ re => if re then 0 else l
  | _ => 0

/-- The record of a calibration that ended after `ms` of steps, the last of them in `beat`; `status` `none` on outcomes 4 and 6.
`foreign` tells a reinstatement, which runs at FULL. -/
def calRec (s : State) (ch outcome : Nat) (j : Job) (r : Option CalResult) (ms : Nat) (warn : Bool) (beat : BitVec 64) : Rec :=
  { key := ch, status := calStatus outcome, good := decide (outcome = 0 ∨ outcome = 3),
    foreign := (match j.kind with | .cal _ _ re => re | _ => false),
    retried := decide (0 < j.retries), migrated := decide (0 < j.restarts), beat := s.clk.beat,
    bytes := calRecord ch outcome j r (jobLevel j) ms warn beat }

/-- Milliseconds of calibration that a record of a CAL_CHANNEL of a level stands for: none where nothing ran (R78). -/
def recMs (level : Nat) (r : Rec) : Nat :=
  if r.good || r.status == some .channelFaultTransient then calMs (if r.foreign then 0 else level) else 0

/-- Beat of a calibration's last segment (R79): of the attempt on air, or of the one before a fault wait or a move; 0 where none
ran. An abort falls at a boundary, a fault in a segment. -/
def calLastBeat (s : State) (j : Job) (st : Status) : BitVec 64 :=
  if j.attempts = 0 then 0
  else if j.phase = .onAir then (if st = .abortedStop then s.clk.beat - 1 else s.clk.beat)
  else j.notBeforeBeat - 2

/-- Milliseconds of the steps that the attempt on air has completed at the last boundary. -/
def calRanMs (s : State) (j : Job) : Nat :=
  if j.attempts ≠ 0 ∧ j.phase = .onAir then calDoneMs (jobLevel j) (s.clk.nowUs - j.startUs) else 0

/-- What the completed steps of a calibration that failed measured: no command's operand gives it (log entry 83). -/
def freeCal (s : State) : CalResult × State :=
  let a := drawFree s
  let b := drawFree a.2
  let c := drawFree b.2
  let d := drawFree c.2
  ({ resonance := true, fRes := a.1.toNat, rTank := b.1.setWidth 16, q10 := (b.1 >>> 16).setWidth 16, lnH := c.1.toNat, grpdly := 0,
     noise := 0, ipk := d.1.setWidth 12, theta := (d.1 >>> 16).setWidth 8, zre := 0, zim := 0 }, d.2)

/-- PLD_CAL_PROGRESS of the oldest CAL_CHANNEL in progress (R78, R377). -/
def calProgress (s : State) : State :=
  match s.ring.cmds.find? fun c => descOpcode c.desc == 0x18 && decide (c.st = .running) with
  | none => if s.lf.calProg.active then { s with lf := { s.lf with calProg := { s.lf.calProg with active := false } } } else s
  | some c =>
    if !keeperUp s then s else
    let open_ := allChans.flatMap fun ch => (getChan s ch).jobs.filter fun j => j.uid == c.uid
    let recs := (c.recs.map (recMs (fld c.desc.dw8 0 2))).foldl (· + ·) 0
    let done := open_.foldl (fun a j => a + calRanMs s j) recs
    let all := open_.foldl (fun a j => a + calMs (jobLevel j)) recs
    let p := if all = 0 then 0 else min 1000 (1000 * done / all)
    let old := s.lf.calProg
    let start := !old.active
    let p1 := if start then p else max old.progress p
    let s1 := { s with lf := { s.lf with calProg := ⟨p1, c.recs.length, true⟩ } }
    postProgress s1 1 (srcPolder 0) (if start then 0 else old.progress) p1 c.recs.length

/-- One channel of a CAL_CHANNEL has ended (R79). -/
def calCmdStep (s : State) (uid : Nat) : State :=
  match findCmd s uid with
  | none => s
  | some c =>
    let c1 := { c with left := c.left - 1 }
    if c1.left = 0 then
      let bad := c.recs.find? fun r => match r.status with
        | some st => !st.isOk
        | none => false
      let st := match bad.bind (·.status) with
        | some x => x
        | none => okStatus (c.recs.any (·.retried)) (c.recs.any (·.migrated))
      let n := (c.recs.filter (·.good)).length
      let s1 := if s.lf.calProg.active && (s.ring.cmds.find? fun x => descOpcode x.desc == 0x18 && decide (x.st = .running)).map
          (·.uid) == some uid then
          if st.isOk then
            let s2 := postProgress s 1 (srcPolder 0) s.lf.calProg.progress 1000 c.recs.length
            { s2 with lf := { s2.lf with calProg := ⟨1000, c.recs.length, false⟩ } }
          else { s with lf := { s.lf with calProg := { s.lf.calProg with active := false } } }
        else s
      finishNow s1 c st n (c.recs.flatMap (·.bytes))
    else putCmd s c1

/-- An ENROL has ended without its change. -/
def enrolStop (s : State) (uid : Nat) : State :=
  if s.cfg.enrolProg.active && enrolShown { s with flt := { s.flt with restarting := false } } uid then
    { s with cfg := { s.cfg with enrolProg := { s.cfg.enrolProg with active := false } } }
  else s

/-- An enrolment fails: its outcome goes to CAUSE of the slot it was for (R158), and it completes. -/
def enrolFail (s : State) (c : Cmd) (st : Status) (result : Nat) : State :=
  let ch := fld c.desc.dw8 8 7
  let s1 := enrolStop s c.uid
  let s2 := if fld c.desc.dw8 16 3 = 0 then pairSlot s1 ch fun e => { e with cause := BitVec.ofNat 16 (statusCode st) } else s1
  finishNow s2 c st result []

/-- A debug unlock is refused at check `n` (R273, R279). -/
def unlockRefuse (s : State) (c : Cmd) (n result : Nat) : State :=
  let s1 := stageLife s 9 (dbgCode s.lcy.dbg) (dbgCode s.lcy.dbg) n (leBytes (lo64 c.desc.dw10 c.desc.dw11) 8)
  finishNow s1 c .debugDenied result []

/-- The unlock's AUTH has failed: FAILS rises, and the third failure starts the 600 s (R273). -/
def unlockAuthFailed (s : State) (c : Cmd) (st : Status) : State :=
  let n := min 3 (s.lcy.dbgFails + 1)
  unlockRefuse { s with lcy := { s.lcy with dbgFails := n, dbgFailUs := if n = 3 then s.clk.nowUs else s.lcy.dbgFailUs } }
    c 4 (statusCode st)

/-- The unlock's AUTH has passed: the session opens at the next boundary (R273). -/
def unlockAuthPassed (s : State) (c : Cmd) : State :=
  let w := let x := fld c.desc.dw9 0 8; if x = 0 then regF s .dbgCfg 0 8 else x
  let st := if fld c.desc.dw8 4 2 = 2 then DbgState.opn else .authOpen
  { s with lcy := { s.lcy with dbgFails := 0, dbgDueUid := c.uid,
                               dbgDue := some (st, BitVec.ofNat 64 (lo64 c.desc.dw10 c.desc.dw11), w) } }

/-- The outcome of a transaction that leaves no record in the output. -/
def bareRec (s : State) (j : Job) (st : Status) : Rec :=
  { key := 0, status := some st, good := false, foreign := false, retried := decide (0 < j.retries),
    migrated := decide (0 < j.restarts), beat := s.clk.beat, bytes := [] }

/-- What a final result hands to its record. -/
structure Facts where
  terrGen : Nat := 0
  low : Bool := false
  confirmed : Bool := false
  dev : Int := 0
  cs : Nat := 0

/-- The coils that one transaction drives: the group of a LOCATE, or the channel alone. -/
def coils (s : State) (ch : Nat) (j : Job) : List Nat :=
  match j.kind with
  | .loc _ => locCoils s j.uid
  | _ => [ch]

/-- Marks a retry or a restart of a step that leaves no record of its own (R53). -/
def noteStep (s : State) (j : Job) : State :=
  match findCmd s j.uid with
  | some c => putCmd s { c with flag := c.flag || decide (0 < j.retries), count := if 0 < j.restarts then c.count ||| 1 else c.count }
  | none => s

/-- The validation that a passed AUTH of a K, S or L token brings, with the ROLES of the transaction's start (R149). -/
def validateJob (s : State) (ch : Nat) (j : Job) (i : Nat) : State :=
  if j.entry.kind = 0 then s else validate s i j.entry.roles ch

/-- A job's last transaction has its final result (head already taken off): slot or table, record, completion. -/
def finishJob (s : State) (ch : Nat) (j : Job) (st : Status) (f : Facts) : State :=
  let role := jobRole s ch j
  match j.kind with
  | .sweep | .addressed | .rekey | .discover =>
    let out := if st.isOk then okStatus (decide (0 < j.retries)) (decide (0 < j.restarts)) else st
    let s1 := if role = 0 then slotOutcome s ch out
      else if st.isOk then validateJob s ch j j.reg else s
    let s2 := if st.isOk then { s1 with lf := { s1.lf with authOk := sat 32 (s1.lf.authOk + 1) } } else s1
    authCmdStep (addRec s2 j.uid (authRecord s2 ch j out f.terrGen f.low f.confirmed f.dev f.cs)) j.uid
  | .enrolSlot | .enrolKey =>
    match findCmd s j.uid with
    | none => s
    | some c => if st.isOk then s else enrolFail s c st (if j.reg < 4096 then j.reg else 0xFFFF)
  | .unlock =>
    let s1 := noteStep s j
    match findCmd s1 j.uid with
    | none => s1
    | some c => if st.isOk then unlockAuthPassed s1 c else unlockAuthFailed s1 c st
  | .cal _ _ _ =>
    let o := match st with
      | .channelRetired => 2 | .leveeDeferred => 5 | .abortedStop => if chanEn s ch then 6 else 4 | _ => 1
    let ms := if j.faults.getLsbD 3 then min 33 (calRanMs s j) else calRanMs s j
    let x := if o = 1 ∧ 18 ≤ ms then (some (freeCal s).1, (freeCal s).2) else (none, s)
    calCmdStep (addRec x.2 j.uid (calRec x.2 ch o j x.1 ms (getChan s ch).detuneWarn (calLastBeat s j st))) j.uid
  | .loc _ =>
    let held := match s.rad.loc with
      | some l => l.uid == j.uid
      | none => false
    let s1 := if held then { s with rad := { s.rad with loc := none } } else s
    match findCmd s1 j.uid with
    | none => s1
    | some c => failCmd s1 c st

/-- A channel that fails its reinstatement returns to RETIRED at the next boundary: until then a mark stands before its jobs
(R98). -/
def retiredMark (s : State) (ch : Nat) (j : Job) : State :=
  modChan s ch fun c => { c with jobs := { newJob 0 j.kind 0 none 4096 with phase := .waitNonce } :: c.jobs }

/-- A transaction fails for good: its record, and the end of its job and of the group it drives. A job of several
transactions ends too, but for discovery's list. -/
def failTx (s : State) (ch : Nat) (j : Job) (st : Status) (clean : Bool) (f : Facts) : State :=
  match j.kind with
  | .loc _ =>
    let g := coils s ch j
    let s1 := g.foldl (fun s c => match headOf s c with
      | some x => popHead (closeTx s c x st clean) c
      | none => s) s
    finishJob s1 ch j st f
  | .discover =>
    let s1 := popHead (closeTx s ch j st clean) ch
    if j.step = 0 then
      authCmdStep (addRec s1 j.uid (bareRec s j st)) j.uid
    else
      match j.toAuth with
      | [] => finishJob s1 ch j st f
      | r :: rest =>
        let s2 := addRec s1 j.uid (authRecord s1 ch j st f.terrGen f.low f.confirmed f.dev f.cs)
        modChan s2 ch fun c => { c with jobs := { newJob j.uid .discover j.prio j.pol r with
          step := j.step + 1, frame := .auth, toAuth := rest } :: c.jobs }
  | .cal _ _ re =>
    let s1 := popHead (closeTx s ch j st clean) ch
    let s2 := finishJob s1 ch j st f
    if re && st != .channelRetired then retiredMark s2 ch j else s2
  | _ => finishJob (popHead (closeTx s ch j st clean) ch) ch j st f

/-! ### Before the first segment (R137) -/

/-- The keys an attempt needs: AUTH and REKEY derive token keys. -/
def needsKey (j : Job) : Bool := match j.frame with
  | .auth => true | .rekey => true | _ => false

/-- The entry an attempt is judged under: the registry's, or the one an enrolment is about to write. -/
def jobEntry (s : State) (j : Job) : RegEntry := if j.reg < 4096 then getReg s j.reg else j.entry

/-- The first check of R137 that fails; `none`: all hold. -/
def armCheck (s : State) (ch : Nat) (j : Job) : Option Status :=
  let e := jobEntry s j
  let isRekey := decide (j.kind = .rekey)
  if chanRetired s ch && !reinstating s ch then some .channelRetired
  else if !chanEn s ch then some .abortedStop
  else if !needsKey j then none
  else if j.frame = .auth ∧ e.st = .exhausted ∧ !isRekey then some .keyUsageExhausted
  else if e.st = .free then some .authFail
  else if !fleetUsable s e.fleet then some .keyInvalid
  else if j.frame = .auth ∧ e.sess = 0xFFFFFFFF ∧ !isRekey then some .keyUsageExhausted
  else if engineFailed s then some .abortedStop
  else none

/-- Asks the generator for the attempt's random bits: served at once where nobody waits before it (R314, R316). The challenge of
an unlock is the debug logic's; those of its retries and restarts are the polder's (R95). -/
def askNonce (s : State) (ch : Nat) (j : Job) : State :=
  let n := nonceBits j
  if n = 0 then setHead s ch { j with nonceReady := true }
  else
    let cls := if j.kind = .unlock ∧ j.attempts = 0 then 2 else 0
    let first := !(s.ent.waiting.any fun w => decide (w.cls ≤ cls))
    match (if first then drbgDraw s (n / 8) else none) with
    | some d => setHead d.2 ch { j with nonce := beN d.1, nonceReady := true }
    | none =>
      let s1 := addWait (drbgRefuse s) cls (.chan ch) n
      setHead s1 ch { j with nonceReady := false }

/-- The target of a sweep: the token bound to the slot now. -/
def bindTarget (s : State) (ch : Nat) (j : Job) : Job :=
  if j.kind = .sweep then { j with reg := ((slotRec s ch).map (·.reg)).getD 4096 } else j

/-- Check 2 of R137: a transaction for the token bound to the slot of a MODULE_SLOT channel finds none. -/
def slotless (s : State) (ch : Nat) (j : Job) : Bool :=
  (decide (j.kind = .sweep) || (decide (j.kind = .rekey) && decide (roleOf s ch = 0) && needsKey j)) && !enrolled s ch &&
    !chanRetired s ch

/-- The head of a channel's jobs has not started its transaction. -/
def unstarted (j : Job) : Bool := decide (j.phase = .queued) || decide (j.phase = .waitNonce) || decide (j.phase = .waitAdmit)

/-- Checks 1 to 5 of R137 at a boundary, on a transaction that would start there: not run, failed, or still good; one whose
key store is loading waits (R256). -/
def judgeStart (s : State) (ch : Nat) : State :=
  match headOf s ch with
  | none => s
  | some j0 =>
    if !unstarted j0 ∨ j0.uid = 0 then s
    else
      let j := bindTarget s ch j0
      if slotless s ch j then authCmdStep (addRec (popHead s ch) j.uid (notRunRec s ch 2)) j.uid
      else
        match armCheck s ch j with
        | some st =>
          if needsKey j ∧ !s.key.ready ∧ st = .keyInvalid then s
          else
            let s1 := if st = .keyUsageExhausted ∧ j.reg < 4096 then markExhausted s j.reg (3 + polOf s ch) else s
            failTx s1 ch j st false {}
        | none => setHead s ch j

/-- One look at the head of a channel's jobs within a beat: it asks for its nonce once checks 1 to 5 hold; where one fails, the
next boundary decides, with what has changed by then (R135, R137). -/
def armOnce (s : State) (ch : Nat) : State :=
  match headOf s ch with
  | none => s
  | some j0 =>
    if j0.phase ≠ .queued then s
    else
      let j := bindTarget s ch j0
      if slotless s ch j || optB (armCheck s ch j) then s
      else askNonce s ch { j with phase := if nonceBits j = 0 then .waitAdmit else .waitNonce }

/-- A channel's head with its nonce delivered is offered to the levee. -/
def nonceArrived (s : State) (ch : Nat) : State :=
  match headOf s ch with
  | some j => if j.phase = .waitNonce ∧ j.nonceReady then setHead s ch { j with phase := .waitAdmit } else s
  | none => s

/-- The head of a channel's jobs asks for its nonce, or is ready to be offered. -/
def arm (s : State) (ch : Nat) : State := nonceArrived (armOnce s ch) ch

def armGo : Nat → State → Nat → State
  | 0, s, _ => s
  | k + 1, s, ch =>
    let n := (getChan s ch).jobs.length
    let s1 := judgeStart s ch
    if (getChan s1 ch).jobs.length < n then armGo k s1 ch else arm s1 ch

/-- At a boundary: the jobs whose checks fail end, until one may start or waits. -/
def armAt (s : State) (ch : Nat) : State := armGo ((getChan s ch).jobs.length + 20) s ch

/-- Queues a job on a channel. -/
def enqueue (s : State) (ch : Nat) (j : Job) : State := arm (pushJob s ch j) ch

/-! ### Start of an attempt -/

/-- The limits of the polder that runs the attempt (R116, R117). -/
def polSettings (s : State) (p : Nat) (t : TxSet) : TxSet :=
  let a := reg s (.airCfg p)
  { t with tbTol := fld a 8 4, csTol := fld a 16 8, csFloor := fld a 24 8 }

/-- The drive settings taken at the start of a transaction on coil `ch` of the group that `lead` leads (R69, R100, R125). -/
def takeSettings (s : State) (ch lead : Nat) : TxSet :=
  { TxSet.none with
    ftw := carrier s lead, target := driveMa s ch, slow := regB s (.airCh lead) 3, role := roleOf s ch,
    tbofs := regS s (.airCh ch) 8 8, win := regF s (.lfcTune ch) 0 5, freq := regF s (.lfcFreq ch) 0 32,
    sense := reg s (.lfcSense ch), tune := reg s (.lfcTune ch) }

/-- Uses and counters of an attempt: SESS for AUTH, uses of the fleet node, PEND and its record before REKEY (R140, R142, R159,
R254). The first attempt takes the registry entry and the key's instance, which its retries and restarts keep (R135, R139). An
existing entry is taken as the registry holds it, with its own FLEET, in ENROL's KEY mode too (log entry 84). -/
def beginUses (s : State) (ch : Nat) (j : Job) (first : Bool) : State × Job :=
  let e := if first then jobEntry s j else j.entry
  let f := fleetIdx e.fleet
  let ki := if first then (getNode s f).inst else j.keyInst
  match j.frame with
  | .auth =>
    let s1 := countUse s f
    if j.reg < 4096 then (countSess s1 j.reg, { j with entry := e, keyInst := ki })
    else (s1, { j with entry := { e with sess := e.sess + 1 }, keyInst := ki })
  | .rekey =>
    let s1 := countUse (countUse s f) f
    if !first then (s1, j)
    else
      let g := BitVec.ofNat 16 (e.gen.toNat + 1)
      let s2 := if e.pend then s1 else storeReg s1 j.reg { e with pend := true, pendGen := g }
      (stageRegistry s2 5 j.reg (3 + polOf s ch), { j with entry := getReg s2 j.reg, keyInst := ki })
  | _ => (s, j)

/-- Starts an attempt on one coil: `first` of its transaction, or again with the settings that the first one took. -/
def startCoil (s : State) (ch : Nat) (j : Job) (group : List Nat) (first : Bool) : State :=
  let x := beginUses s ch j first
  let set := polSettings x.1 (polOf s ch) (if first then takeSettings x.1 ch (group.headD ch) else j.set)
  let k := { x.2 with phase := .onAir, startUs := s.clk.nowUs, startBeat := s.clk.beat, set := set,
                      attempts := x.2.attempts + 1, heldReply := none, defers := 0, meas := none }
  setHead x.1 ch { k with wave := coilWave x.1 ch group k set.slow }

/-- Starts the first attempt, with the reservation the limiter has made for each coil. -/
def startTx (s : State) (ch : Nat) (j : Job) : State :=
  let g := coils s ch j
  g.foldl (fun s c => match headOf s c with
    | some x => startCoil s c { x with resv := some (reservation s c (carrier s ch)) } g true
    | none => s) s

/-- Starts a retry or a restart (R51, R95). -/
def resumeTx (s : State) (ch : Nat) (j : Job) : State :=
  let isRestart := decide (j.phase = .quiet)
  let s1 := if isRestart then { s with lf := { s.lf with restarts := sat 32 (s.lf.restarts + 1) } } else s
  let g := coils s1 ch j
  g.foldl (fun s c => match headOf s c with
    | some x => startCoil s c { x with restarts := if isRestart then x.restarts + 1 else x.restarts,
                                       retries := if isRestart then x.retries else x.retries + 1 } g false
    | none => s) s1

/-! ### Faults (R94, R95) -/

def faultBit : ChFault → Nat
  | .opn => 0 | .short => 1 | .overcurrent => 2 | .detune => 3 | .senseClip => 4 | .gangImb => 5 | .crc => 6 | .supply => 7

/-- Sets a fault's flag and counts it by its class. -/
def flagFault (s : State) (ch : Nat) (f : ChFault) : State :=
  modChan s ch fun c =>
    let c1 := { c with faultFlags := c.faultFlags ||| BitVec.ofNat 8 (2 ^ faultBit f) }
    match f with
    | .crc => { c1 with crcCnt := sat 8 (c.crcCnt + 1) }
    | .supply => c1
    | _ => { c1 with hardCnt := sat 16 (c.hardCnt + 1) }

def isHard : ChFault → Bool
  | .crc => false | .supply => false | _ => true

/-- A transaction's attempt on air, in quiet segments or about to retry ends with a channel fault. -/
def txFault (s : State) (ch : Nat) (f : ChFault) : State :=
  match headOf s ch with
  | none => s
  | some j =>
    let s1 := flagFault s ch f
    let g := coils s1 ch j
    let mark := fun (x : Job) => { x with hardSeen := x.hardSeen || isHard f,
                                          faults := x.faults ||| BitVec.ofNat 8 (2 ^ faultBit f), heldReply := none }
    let s2 := g.foldl (fun s c => match headOf s c with
      | some x => setHead s c (mark x)
      | none => s) s1
    let lead := g.headD ch
    match headOf s2 lead with
    | none => s2
    | some jl =>
      if regF s .lfRetry 0 3 ≤ jl.retries then failTx s2 lead jl .channelFaultTransient false {}
      else
        g.foldl (fun s c => match headOf s c with
          | some x => askNonce s c { x with phase := .faultWait, notBeforeBeat := s.clk.beat + 2, nonceReady := false }
          | none => s) s2

/-- CHANNEL_FAULT on a channel whose bridge is on, with a frame on air or in quiet segments, in which nothing is decoded (R51,
R94); a fault of either half is the pair's (R82). -/
def chanFault (s : State) (ch0 : Nat) (f : ChFault) : State :=
  let ch := masterOf s ch0
  match headOf s ch with
  | some j => if j.phase = .onAir ∨ (j.phase = .quiet ∧ f ≠ .crc) then arm (txFault s ch f) ch else s
  | none => s

/-- All transactions in flight on a bank end their attempt with a fault (R93, R417). -/
def bankFault (s : State) (b : Nat) (f : ChFault) : State :=
  ((List.range 24).map (24 * b + ·)).foldl (fun s c => chanFault s c f) s

/-! ### What follows a clean step -/

/-- The next transaction of the job: fresh attempts, a step further; R37 and R119 start it at the next boundary. -/
def nextStep (s : State) (ch : Nat) (j : Job) (step : Nat) (q : Nat) : State :=
  let s1 := noteStep s j
  setHead s1 ch { j with step := step, q := q, frame := jobFrame j.kind step q, phase := .queued, resv := none,
                         retries := 0, restarts := 0, attempts := if j.kind = .rekey then j.attempts else 0, faults := 0,
                         hardSeen := false, defers := 0, nonceReady := false, heldReply := none, wave := [], meas := none }

/-- The event of a foreign token (R119). -/
def foreignEvent (s : State) (ch : Nat) (id : Nat) : State := postEvent s evForeignToken (srcChannel ch) id

/-- A foreign token: event and counter (R113, R121). -/
def foreignSeen (s : State) (ch : Nat) (id : Nat) : State :=
  foreignEvent { s with lf := { s.lf with foreign := sat 32 (s.lf.foreign + 1) } } ch id

/-- Discovery has ended: foreign tokens are reported, the registered keys are authenticated in ascending order (R121, R152). -/
def discoverEnd (s : State) (ch : Nat) (j : Job) (collision : Bool) : State :=
  let ids := (List.range 64).foldl (fun (a : List Nat × List Nat) _ =>
    match a.2.foldl (fun m x => match m with
        | none => some x
        | some y => some (min x y)) none with
    | some m => (a.1 ++ [m], a.2.filter (· ≠ m))
    | none => a) ([], (j.found.map (·.toNat)).eraseDups)
  let known := fun (i : Nat) => match findId s (BitVec.ofNat 64 i) with
    | some r => if (getReg s r).kind ≠ 0 then some r else none
    | none => none
  let s1 := (ids.1.filter fun i => !(optB (known i))).foldl (fun s i =>
    stageBatch (addRec (foreignSeen s ch i) j.uid (foreignRecord s ch (BitVec.ofNat 64 i))) j.uid (cmdIdOf s j.uid) (polOf s ch) ch
      .foreignToken) s
  let s2 := if collision then match findCmd s1 j.uid with
      | some c => putCmd s1 { c with count := c.count ||| 2 }
      | none => s1
    else s1
  match ids.1.filterMap known with
  | [] => authCmdStep (popHead (noteStep s2 j) ch) j.uid
  | r :: rest => nextStep (setHead s2 ch { j with reg := r, toAuth := rest }) ch { j with reg := r, toAuth := rest } 1 j.q

/-- The next token of a discovery, after one passed. -/
def discoverNext (s : State) (ch : Nat) (j : Job) (f : Facts) : State :=
  match j.toAuth with
  | [] => finishJob (popHead s ch) ch j .ok f
  | r :: rest =>
    let out := okStatus (decide (0 < j.retries)) (decide (0 < j.restarts))
    let s1 := validateJob s ch j j.reg
    let s2 := { s1 with lf := { s1.lf with authOk := sat 32 (s1.lf.authOk + 1) } }
    let s3 := addRec s2 j.uid (authRecord s2 ch j out f.terrGen f.low f.confirmed f.dev f.cs)
    setHead s3 ch { newJob j.uid .discover j.prio j.pol r with step := j.step + 1, frame := .auth, toAuth := rest }

/-- The re-key is confirmed by the first AUTH that passes under PEND_GEN (R143), at the next boundary. -/
def confirmRekey (s : State) (i source : Nat) : State :=
  let e := getReg s i
  if !e.pend || s.tok.changes.any (fun c => c.action == 6 && c.reg == i) then s
  else addChange s ⟨[(i, { e with gen := e.pendGen, pend := false, sess := 1, sessRes := 1024, st := .active })], [], [], 6, i, source,
    0, true⟩

/-- A PENDING entry becomes ACTIVE at its first AUTH that passes every finding (R157). -/
def activatePending (s : State) (i : Nat) : State :=
  let e := getReg s i
  if i < 4096 ∧ e.st = .pending then storeReg s i { e with st := .active } else s

/-- The limits of an enrolment (R119), in order; `none`: accepted. -/
def enrolVerdict (zs : List (Int × Int)) (ts : List Int) : Option Status :=
  let sr := (zs.map (·.1)).foldl (· + ·) 0
  let sx := (zs.map (·.2)).foldl (· + ·) 0
  let n := zs.length
  let a := sqMag sr sx
  let hi := ts.foldl max (ts.headD 0)
  let lo := ts.foldl min (ts.headD 0)
  let ofs := rdiv (ts.foldl (· + ·) 0) ts.length
  if !(zs.all fun z => within (sqMag (n * z.1 - sr) (n * z.2 - sx)) a 3 (1000 * n) 100) then some .couplingMismatch
  else if 2 < hi - lo then some .timingBoundFail
  else if ofs < -6 ∨ 6 < ofs then some .timingBoundFail
  else if a < (200 * n) * (200 * n) then some .couplingMismatch
  else none

/-- The entry that an accepted enrolment writes, beside the changes that wait: the entry the ID has by then, or a new one; where
its SID is another token's, or no index is free, the failure with its RESULT (R134, R157). -/
def enrolTarget (s : State) (j : Job) : (Status × Nat) ⊕ (Nat × RegEntry) :=
  let z := projected s
  match findId z j.foundId with
  | some i => .inr (i, getReg z i)
  | none => match findSid z j.foundId with
    | some i => .inl (.duplicate, i)
    | none => match freeIndex s with
      | none => .inl (.lengthErr, 4096)
      | some i => .inr (i, { j.entry with sessRes := 1024, slot := none })

/-- The enrolment of a slot is accepted: the record and the entry are written at the next boundary (R119, R157, R158). -/
def enrolAccept (s : State) (ch : Nat) (j : Job) (c : Cmd) : State :=
  match enrolTarget s j with
  | .inl f => enrolFail s c f.1 f.2
  | .inr (i, base) =>
    let sr := (j.zs.map (·.1)).foldl (· + ·) 0
    let sx := (j.zs.map (·.2)).foldl (· + ·) 0
    let entry := { base with st := .active, slot := some ch, model := j.model }
    let rec_ : SlotRec := ⟨i, true, rdiv sr j.zs.length, rdiv sx j.zs.length, rdiv (j.ts.foldl (· + ·) 0) j.ts.length,
      j.set.ftw, s.clk.beat⟩
    let z := projected s
    let old := (slotRec z ch).map (·.reg)
    let same := decide (old = some i)
    let unbound := match old with
      | some o => if o = i then [] else [(o, { getReg z o with slot := none })]
      | none => []
    let other := match base.slot with
      | some o => if o = ch then [] else [o]
      | none => []
    addChange (enrolProgress s c.uid 10 true false)
      ⟨unbound ++ [(i, entry)], other.map (fun o => (o, none)) ++ [(ch, some rec_)],
       other.map (fun o => (o, some false)) ++ [(ch, if same then none else some true)], 0, i, 9, c.uid, true⟩

/-- The enrolment of a key is accepted: its AUTH validates it with the ROLES its entry had at the start, none where it had no
entry (R149, R157). -/
def enrolKeyAccept (s : State) (ch : Nat) (j : Job) (c : Cmd) : State :=
  match enrolTarget s j with
  | .inl f => enrolFail s c f.1 f.2
  | .inr (i, base) =>
    let entry := { base with st := .active, roles := BitVec.ofNat 4 (fld c.desc.dw9 0 4), fleet := fld c.desc.dw9 16 3,
                             model := j.model }
    addChange (validateJob (enrolProgress s c.uid 3 false false) ch j i) ⟨[(i, entry)], [], [], 1, i, 9, c.uid, true⟩

/-- MODEL of an entry follows the last INFO reply (R132). -/
def noteModel (s : State) (i : Nat) (model : BitVec 16) : State :=
  if (getReg s i).model = model then s
  else addChange s ⟨[(i, { getReg s i with model := model })], [], [], 8, i, 9, 0, false⟩

/-- A clean INFO reply: the entry the AUTH exchanges run under is resolved (R119, R134, R142). -/
def infoReply (s : State) (ch : Nat) (j : Job) (w : BitVec 96) : State :=
  let body := replyBody w
  let model := BitVec.ofNat 16 (body / 2 ^ 48)
  let gen := BitVec.ofNat 16 (body / 2 ^ 32 % 2 ^ 16)
  let s1 := closeTx s ch j .ok true
  match j.kind with
  | .rekey =>
    let e := getReg s j.reg
    let s2 := noteModel s1 j.reg model
    if e.pend ∧ gen = e.pendGen then nextStep s2 ch { j with gen := gen } 2 0
    else if gen = e.gen ∧ gen.toNat ≠ 0xFFFF then nextStep s2 ch { j with gen := gen } 1 0
    else finishJob (popHead s2 ch) ch j .authFail {}
  | _ =>
    match findCmd s j.uid with
    | none => popHead s1 ch
    | some c =>
      let slotMode := decide (j.kind = .enrolSlot)
      let fleet := fld c.desc.dw9 16 3
      let go := fun (reg : Nat) (e : RegEntry) =>
        nextStep (enrolProgress s1 c.uid 2 slotMode false) ch { j with reg := reg, gen := gen, model := model, entry := e } 2 0
      match findId s j.foundId with
      | some i =>
        let e := getReg s i
        go i (if slotMode then e else { e with fleet := fleet })
      | none =>
        match findSid s j.foundId with
        | some i => enrolFail (popHead s1 ch) c .duplicate i
        | none =>
          if (freeIndex s).isNone then enrolFail (popHead s1 ch) c .lengthErr 4096
          else
            go 4096 { RegEntry.free with id := j.foundId, kind := if slotMode then 0 else fld c.desc.dw9 20 2, st := .active,
                                         fleet := fleet, gen := gen, model := model }

/-- The reply of one ID slot, for discovery: a clean ID, nothing, or a slot to poll again; `true` counts a violation. -/
def idSlot (r : RawReply) : Option (BitVec 64) × Bool × Bool :=
  match decodeReply r with
  | .absent => (none, false, false)
  | .violation => (none, true, true)
  | .erasure => (none, true, false)
  | .bits w => if replyCrcOk w then (some (BitVec.ofNat 64 (replyBody w)), false, false) else (none, true, false)

/-- The reply slots of a discovery IDENT (R121). -/
def discoverReply (s : State) (ch : Nat) (j : Job) (r : AirResult) : State :=
  let slots := (r.slots.take (2 ^ j.q)).map idSlot
  let coll := (slots.filter fun x => x.2.2).length
  let j1 := { j with found := j.found ++ slots.filterMap (·.1) }
  let s1 := { s with lf := { s.lf with collisions := sat 32 (s.lf.collisions + coll) } }
  let s2 := closeTx s1 ch j .ok true
  if !(slots.any fun x => x.2.1) then discoverEnd s2 ch j1 false
  else if j.repolls = 3 then discoverEnd s2 ch j1 true
  else nextStep s2 ch { j1 with repolls := j.repolls + 1 } 0 (min (j.q + 1) 4)

/-! ### Replies to the other frames (R113) -/

/-- Timing deviation of a clean reply: T_m − 64 × (E + 32). -/
def startDev (s : State) (ch : Nat) (j : Job) (r : RawReply) (w : BitVec 96) : Int :=
  measuredStart r w j.set.slow (getChan s ch).cal.grpdly.toNat - 64 * ((downEnd j.frame j.set.slow : Int) + 32)

/-- What the findings 3 to 6 give. -/
structure Found where
  st : State
  status : Status
  facts : Facts
  pend : Bool

/-- Finding 6 of R113 for a wheel's slot record: the signature with the tolerance of R118, and the carrier of R72. -/
def couplingFinding (s : State) (ch : Nat) (j : Job) (r : RawReply) (x : SlotRec) (f : Facts) (pend : Bool) : Found :=
  let d := sqMag (r.dR - x.dr) (r.dX - x.dx)
  let a := sqMag x.dr x.dx
  let q := 200 * j.set.csFloor
  let cs := csDev d a j.set.csTol q 200
  let stale := carrierStale j.set.ftw x.ftw
  let s1 := modChan s ch fun y => { y with csDev := cs, sigStale := y.sigStale || stale }
  let f1 := { f with cs := cs }
  if stale ∨ !within d a j.set.csTol q 200 then
    ⟨{ s1 with lf := { s1.lf with csFails := sat 32 (s1.lf.csFails + 1) } }, .couplingMismatch, f1, false⟩
  else ⟨s1, .ok, f1, pend⟩

/-- The MAC test of a clean reply (R138). -/
def replyVerdict (s : State) (j : Job) (w : BitVec 96) : Verdict :=
  let e := j.entry
  let st := replyStatus w
  match j.frame with
  | .rekey =>
    if stGen st = e.pendGen.toNat % 16 then
      judgeMac s { e with gen := e.pendGen, pend := false } st (replyBody w) fun g => mRekey s e g st j.set.slow
    else ⟨.authFail, false, false, false, false⟩
  | _ => judgeMac s e st (replyBody w) fun g => mAuth e.id.toNat j.nonce st j.set.slow g

/-- Findings 5 and 6 of R113. -/
def macFinding (s : State) (ch : Nat) (j : Job) (r : RawReply) (w : BitVec 96) (f : Facts) (c : Bool) : Found :=
  let v := replyVerdict s j w
  let sb := addBlocks s 2
  let s2 := if v.macFail then { sb with lf := { sb.lf with authFails := sat 32 (sb.lf.authFails + 1) } } else sb
  let s3 := if v.exhausted ∧ j.reg < 4096 then markExhausted s2 j.reg (3 + polOf s ch) else s2
  let f2 := { f with low := v.low }
  if v.status ≠ .ok then ⟨s3, v.status, f2, false⟩
  else if c && decide (j.set.role = 0) then
    match slotRec s ch with
    | none => ⟨s3, .couplingMismatch, f2, false⟩
    | some x => couplingFinding s3 ch j r x f2 v.pend
  else ⟨s3, .ok, f2, v.pend⟩

/-- Findings 3 to 6 of R113 on a clean reply to AUTH or REKEY; `t` and `c` say whether 4 and 6 apply. Where they are measured and
not applied, in the AUTH exchanges of a SLOT enrolment, LAST_DEV and CS_DEV stay as they were (log entry 84). -/
def findings (s : State) (ch : Nat) (j : Job) (r : RawReply) (w : BitVec 96) (t c : Bool) : Found :=
  let st := replyStatus w
  let f0 : Facts := { terrGen := stTerr st + 16 * stGen st }
  let e := j.entry
  let role := j.set.role
  if !stAddr st then
    if replyBody w = e.id.toNat then ⟨s, .authFail, f0, false⟩
    else ⟨foreignSeen s ch (replyBody w), .foreignToken, f0, false⟩
  else
    let rec_ := slotRec s ch
    let ofs : Int := if role = 0 then (match rec_ with | some x => x.ofs | none => 0) else j.set.tbofs
    let sig := match rec_ with | some x => x.sigValid | none => false
    let dev := clampInt (-2047) 2047 (startDev s ch j r w - ofs)
    let s1 := if t then modChan s ch fun x => { x with lastDev := dev } else s
    let f1 := if t then { f0 with dev := dev } else f0
    if t && (decide ((j.set.tbTol : Int) < dev.natAbs) || (decide (role = 0) && !sig)) then
      ⟨{ s1 with lf := { s1.lf with tbFails := sat 32 (s1.lf.tbFails + 1) } }, .timingBoundFail, f1, false⟩
    else if engineFailed s1 then ⟨s1, .abortedStop, f1, false⟩
    else if !nodeHolds s1 e.fleet j.keyInst then ⟨s1, .keyInvalid, f1, false⟩
    else macFinding s1 ch j r w f1 c

/-- A passed AUTH that confirms a re-key (R143). -/
def passAuth (s : State) (ch : Nat) (j : Job) (pend : Bool) : State :=
  let s1 := activatePending s j.reg
  if pend ∧ j.reg < 4096 then confirmRekey s1 j.reg (3 + polOf s ch) else s1

/-- The nine replies of a SLOT enrolment are in: its limits decide (R119). -/
def ninthReply (s : State) (ch : Nat) (j : Job) : State :=
  match enrolVerdict j.zs j.ts with
  | some st => finishJob (if journalled st then stageBatch s j.uid (cmdIdOf s j.uid) (polOf s ch) ch st else s) ch j st {}
  | none => match findCmd s j.uid with
    | some c => enrolAccept s ch j c
    | none => s

/-- An AUTH reply passed every finding made of it (R113): what its command goes on to. -/
def authPassed (s : State) (ch : Nat) (j : Job) (r : RawReply) (w : BitVec 96) (x : Found) : State :=
  let s1 := closeTx x.st ch j .ok true
  match j.kind with
  | .enrolSlot =>
    let j1 := { j with zs := j.zs ++ [(r.dR, r.dX)], ts := j.ts ++ [startDev s ch j r w] }
    if j.step < 9 then nextStep (enrolProgress s1 j.uid (j.step + 1) true false) ch j1 (j.step + 1) 0
    else ninthReply (popHead (noteStep s1 j) ch) ch j1
  | .enrolKey =>
    let s2 := popHead (noteStep (passAuth s1 ch j x.pend) j) ch
    match findCmd s2 j.uid with
    | some c => enrolKeyAccept s2 ch j c
    | none => s2
  | .discover => discoverNext (passAuth s1 ch j x.pend) ch j { x.facts with confirmed := x.pend }
  | _ => finishJob (popHead (passAuth s1 ch j x.pend) ch) ch j .ok { x.facts with confirmed := x.pend }

/-- A clean reply of a single-slot frame, findings 1 and 2 passed. -/
def cleanReply (s : State) (ch : Nat) (j : Job) (r : RawReply) (w : BitVec 96) : State :=
  match j.frame with
  | .readInfo => infoReply s ch j w
  | .ident _ =>
    -- the IDENT of an enrolment: one clean ID of the kind asked for (R119, R157)
    let want := if j.kind = .enrolSlot then 0 else match findCmd s j.uid with
      | some c => fld c.desc.dw9 20 2
      | none => 0
    let body := replyBody w
    if stKind (replyStatus w) ≠ want then
      failTx (foreignEvent s ch body) ch { j with foundId := BitVec.ofNat 64 body } .foreignToken true {}
    else
      nextStep (enrolProgress (closeTx s ch j .ok true) j.uid 1 (decide (j.kind = .enrolSlot)) false) ch
        { j with foundId := BitVec.ofNat 64 body } 1 0
  | .rekey =>
    -- finding 6 too, as R113 and R117 say; R142 names findings 1 to 5 (log entry 84)
    let x := findings s ch j r w true true
    if x.status = .ok then nextStep (closeTx x.st ch j .ok true) ch j 2 0
    else failTx x.st ch j x.status (x.status ≠ .abortedStop ∧ x.status ≠ .keyInvalid) x.facts
  | _ =>
    let x := findings s ch j r w (j.kind ≠ .enrolSlot) (j.kind ≠ .enrolSlot ∧ j.kind ≠ .enrolKey)
    if x.status = .ok then authPassed s ch j r w x
    else failTx x.st ch j x.status (x.status ≠ .abortedStop ∧ x.status ≠ .keyInvalid) x.facts

/-- The job with what its attempt has measured (R72, R84). -/
def measured (j : Job) (r : AirResult) : Job := { j with meas := some ⟨r.zre, r.zim, r.ipk, r.theta, some r.wantFtw⟩ }

/-- The exchange of the head of a channel has ended with these replies (R112, R113). -/
def airReply (s : State) (ch : Nat) (j0 : Job) (r : AirResult) : State :=
  let j := measured j0 r
  let s1 := setHead s ch j
  if j.kind = .discover ∧ j.step = 0 then discoverReply s1 ch j r
  else
    match r.slots with
    | [] => failTx s1 ch j .noResponse true {}
    | x :: _ =>
      match decodeReply x with
      | .absent => failTx s1 ch j .noResponse true {}
      | .violation =>
        failTx { s1 with lf := { s1.lf with collisions := sat 32 (s1.lf.collisions + 1) } } ch j
          (if j.set.role = 0 then .duplicate else .collision) true {}
      | .erasure => txFault s1 ch .crc
      | .bits w => if replyCrcOk w then cleanReply s1 ch j x w else txFault s1 ch .crc

/-- The frame of a transaction asks for a reply. -/
def hasReply (j : Job) : Bool := match j.frame with
  | .cal => false | .loc => false | _ => true

/-- UPLINK_REPLY: of a transaction on air whose last uplink sample falls before the next boundary. A result whose paired
write would fall in the last 20 µs of the beat waits for step 7 of the next boundary (R35). -/
def uplinkReply (s : State) (ch : Nat) (r : AirResult) : State :=
  match headOf s ch with
  | none => s
  | some j =>
    if j.phase = .onAir ∧ hasReply j ∧ bankUp s (bankOf ch) ∧ jobEndUs s j < nextBoundUs s ∧ !optB j.heldReply then
      if r.late then setHead s ch { j with heldReply := some r } else arm (airReply s ch j r) ch
    else s

/-- Results held over the boundary become final in the new beat (R35), unless uses of keys wait. -/
def heldReplies (s : State) : State :=
  allChans.foldl (fun s ch => match headOf s ch with
    | some j => match j.heldReply with
      | some r => if j.phase = .onAir ∧ !(keyBusy s && needsKey j) then arm (airReply s ch { j with heldReply := none } r) ch else s
      | none => s
    | none => s) s

/-! ### Calibration (R76, R77, R98) -/

/-- The calibration record that a result gives, with what RETUNE keeps. -/
def calOf (old : Cal) (r : CalResult) (level : Nat) : Cal :=
  { valid := true, fRes := r.fRes, rTank := r.rTank, q10 := r.q10.setWidth 12, lnH := r.lnH,
    grpdly := if level = 0 then r.grpdly else old.grpdly, noise := if level = 0 then r.noise else old.noise }

/-- A retired channel passed its reinstatement (R98). -/
def reinstateChan (s : State) (ch : Nat) : State :=
  let s1 := recordReinstate s clsChannel ch
  let s2 := modChan s1 ch fun c => { c with retired := false, retireDue := false, consec := 0 }
  let pair := if gangMaster s ch then [ch, ch + 1] else [ch]
  let s3 := includeRegs s2 (pair.flatMap chanRegs)
  stopTolerance (pairSlot s3 ch fun e => { e with st := if enrolled s3 ch then .unverified else .unenrolled }) ch

/-- CALIBRATION_DONE: the last step of a channel's calibration has ended. -/
def calibrationDone (s : State) (ch : Nat) (r : CalResult) : State :=
  match headOf s ch with
  | none => s
  | some j =>
    match j.kind with
    | .cal _ commit re =>
      let level := jobLevel j
      if j.phase = .onAir ∧ jobEndUs s j < nextBoundUs s ∧ j.uid ≠ 0 then
        if level ≤ 1 ∧ !r.resonance then arm (txFault s ch .detune) ch
        else
          let warn := if level ≤ 1 then decide ((r.fRes : Int) < winLo s ch) || decide (winHi s ch < (r.fRes : Int))
            else (getChan s ch).detuneWarn
          let take := (if re then j.faults == 0 else commit) && decide (level ≤ 1)
          let s1 := modChan (closeTx s ch { j with meas := some ⟨r.zre, r.zim, r.ipk, r.theta, none⟩ } .ok true) ch fun c =>
            { c with ipk := r.ipk, theta := r.theta, zre := r.zre, zim := r.zim,
                     calDue := if take then some (calOf c.cal r level) else c.calDue }
          let s2 := if re && j.faults == 0 then reinstateChan s1 ch else s1
          let o := if re then (if j.faults == 0 then 3 else 1) else 0
          let s3 := addRec (popHead s2 ch) j.uid (calRec s ch o j (some r) (calMs level) warn s.clk.beat)
          let s4 := if re && !(j.faults == 0) then retiredMark s3 ch j else s3
          arm (calCmdStep s4 j.uid) ch
      else s
    | _ => s

/-- CALIBRATION_COMMIT: committed results take effect at the first boundary after the calibration (R77). -/
def calCommit (s : State) (ch : Nat) : State :=
  let c := getChan s ch
  match c.calDue with
  | none => s
  | some k =>
    let f := clipTrack s ch k.fRes
    let warn := decide ((k.fRes : Int) < winLo s ch) || decide (winHi s ch < (k.fRes : Int))
    let s1 := setChan s ch { c with cal := k, calDue := none, ftrack := f, detuneWarn := warn }
    { s1 with fl := { s1.fl with cals := smPut s1.fl.cals ch k Cal.none } }

end Sys2Proof.Machine
end

