-- ==== Sys2Proof/Machine/Polders.lean ====
section
/-! DEFINITION. Places, moves and polder states (R40 to R59, R416): placement, epochs, migration, failover, stop and start,
rebalancing, and the polling gap (R425).

Marked choices (log entries): DESIGN CHOICE 84, 85; DEDUCED 43, 44, 45, 46, 60. -/

namespace Sys2Proof.Machine

open Sys2Proof

/-! ### Moves (R50, R51, R54) -/

/-- No transaction is in flight on the channel or on its pair. -/
def chanIdle (s : State) (ch : Nat) : Bool := !chanBusy s ch

/-- The channel has moved at the boundary in progress: it moves at most once there (R50). -/
def movedNow (s : State) (ch : Nat) : Bool := s.lf.moved.any fun m => m.1 == ch

/-- The job of a channel that moves at this boundary with a transaction in flight: quiet segments until it restarts (R51). On air
it asks for a fresh nonce; in a fault wait the retry's request and its count go with the restart; in quiet segments it goes on
with them. -/
def quietCoil (s : State) (c : Nat) (late : Nat) : State :=
  match headOf s c with
  | none => s
  | some x =>
    let y := { x with phase := .quiet, notBeforeBeat := s.clk.beat + 1, heldReply := none }
    match x.phase with
    | .onAir => askNonce s c { y with notBeforeUs := late, nonceReady := false }
    | .faultWait => setHead s c { y with notBeforeUs := 0, retries := x.retries + 1 }
    | .quiet => setHead s c y
    | _ => s

/-- The transaction in flight of a channel that has moved, with the group it drives. -/
def quietJob (s : State) (ch : Nat) : State :=
  match headOf s ch with
  | none => s
  | some j =>
    let late := if j.phase = .onAir ∧ downlinkOver s j s.clk.nowUs then jobEndUs s j + cyclesUs 32 j.set.ftw else j.notBeforeUs
    if jobInFlight j then (coils s ch j).foldl (fun s c => quietCoil s c late) s else s

/-- The move of a channel that a place it waited for is met: the channel waits no more. -/
def settleMove (c : Chan) (pl : Place) : Option Place :=
  match c.moveTo with
  | some m => if m.pol = pl.pol then none else some m
  | none => none

/-- Gives one channel a place; a change of polder is a move: epoch, counters, and the stale record of a channel on air. A move
that the channel waits for to another polder goes on waiting. -/
def setPlace (s : State) (ch : Nat) (pl : Place) : State :=
  let c := getChan s ch
  let c1 := { c with place := some pl, moveTo := settleMove c pl }
  match c.place with
  | none => setChan s ch c1
  | some old =>
    if old.pol = pl.pol then setChan s ch c1
    else
      let onAir : Bool := match c.jobs.head? with
        | some j => decide (j.phase = .onAir)
        | none => false
      let s1 := setChan s ch { c1 with epoch := c.epoch + 1 }
      { s1 with lf := { s1.lf with migrations := sat 32 (s1.lf.migrations + 1),
                                   migrateStale := if onAir then sat 32 (s1.lf.migrateStale + 1) else s1.lf.migrateStale,
                                   moved := s1.lf.moved ++ [(ch, old.pol, pl.pol)] } }

/-- The place of a pair's odd half, beside its even half (R48). -/
def besides (pl : Place) : Place := { pl with pos := if pl.pos < 24 then pl.pos + 1 else pl.pos }

/-- Moves a channel, with the other half of its pair (R82). -/
def moveChan (s : State) (ch : Nat) (pl : Place) : State :=
  if gangMaster s ch then setPlace (setPlace s ch pl) (ch + 1) (besides pl) else setPlace s ch pl

/-- The transactions in flight of the channels listed that have moved at this boundary go to quiet segments. -/
def quietMoved (s : State) (chs : List Nat) : State := chs.foldl (fun s c => if movedNow s c then quietJob s c else s) s

/-- Every job of a channel ends with ABORTED_STOP. -/
def abortJobs : Nat → State → Nat → State
  | 0, s, _ => s
  | k + 1, s, ch => match headOf s ch with
    | some j => if j.uid = 0 then abortJobs k (popHead s ch) ch else abortJobs k (failTx s ch j .abortedStop false {}) ch
    | none => s

def abortAll (s : State) (ch : Nat) : State := abortJobs ((getChan s ch).jobs.length + 20) s ch

/-- A channel loses its polder: its transactions complete with ABORTED_STOP, those in flight (R43, R56) and those queued, which
only R56 names (log entry 84). -/
def unassign (s : State) (ch : Nat) : State :=
  let clear := fun (s : State) (c : Nat) => modChan s c fun x => { x with place := none, moveTo := none }
  let s1 := if gangMaster s ch then clear (clear s ch) (ch + 1) else clear s ch
  abortAll s1 ch

/-- The pairs (source, destination) of the boundary, ascending, each with its count: EV_POLDER_MIGRATED (R54). -/
def postMoves (s : State) : State :=
  let m := s.lf.moved
  let s1 := { s with lf := { s.lf with moved := [] } }
  polList.foldl (fun s a => polList.foldl (fun s b =>
    let n := (m.filter fun p => p.2 == (a, b)).length
    if n = 0 then s else postEvent s evPolderMigrated (srcPolder b) (a + b * 2 ^ 4 + n * 2 ^ 8)) s) s1

/-! ### Placement (R48) -/

/-- Channels that stand for themselves and for their pair. -/
def heads (s : State) : List Nat := allChans.filter fun c => !gangSlave s c

def width (s : State) (ch : Nat) : Nat := if gangMaster s ch then 2 else 1

/-- One of the 24 positions is held by a channel apart from those listed. -/
def seatTaken (s : State) (pl : Place) (apart : List Nat) : Bool :=
  allChans.any fun c => decide ((getChan s c).place = some pl) && !apart.contains (masterOf s c)

/-- A channel, or a pair on two consecutive positions, fits at a place, the listed channels apart. -/
def seatFits (s : State) (ch : Nat) (pl : Place) (apart : List Nat) : Bool :=
  decide (pl.pos + width s ch ≤ 24) && !seatTaken s pl apart && (decide (width s ch = 1) || !seatTaken s (besides pl) apart)

/-- Passes in order: pass 1 of each polder of the list, then pass 2, and so on. -/
def placeOrder (pols : List Nat) : List (Nat × Nat) := (List.range 8).flatMap fun k => pols.map fun p => (p, k + 1)

/-- The first free place of one polder in one pass. -/
def freeSeat (s : State) (ch p k : Nat) : Option Place :=
  ((List.range 24).map fun n => (⟨p, k, n⟩ : Place)).find? fun pl => seatFits s ch pl [masterOf s ch]

/-- The first free place in order for a channel or a pair. -/
def firstFree (s : State) (pols : List Nat) (ch : Nat) : Option Place :=
  (placeOrder pols).findSome? fun x => freeSeat s ch x.1 x.2

/-- A place on polder `p` for a channel: free in the order of R48, or none held where the channel is not active. -/
def placeOn (s : State) (ch p : Nat) : Place :=
  if chanActive s ch then (firstFree s [p] ch).getD ⟨p, 1, 24⟩ else ⟨p, 1, 24⟩

/-- The RUNNING polders without a fault in the beat that ended. -/
def soundPols (s : State) : List Nat := (runningPols s).filter fun p => !(getPol s p).failoverDue

/-- Partial placement of the listed channels, in ascending order. -/
def partialPlace (s : State) (pols chs : List Nat) : State :=
  chs.foldl (fun s c => match firstFree s pols c with
    | some pl => moveChan s c pl
    | none => s) s

/-- Partial placement of channels whose polder leaves them; with no polder left, they lose theirs as in R43 (log entry 43). -/
def placeElsewhere (s : State) (pols chs : List Nat) : State :=
  if pols.isEmpty then chs.foldl unassign s else quietMoved (partialPlace s pols chs) chs

/-- Full placement over the listed polders: each active channel with its place. -/
def fullPlacement (s : State) (pols : List Nat) : List (Nat × Place) :=
  let order := placeOrder pols
  ((heads s).filter (chanActive s)).foldl (fun (a : List (Nat × Place) × Nat × Nat) c =>
    let w := width s c
    let fits := decide (a.2.2 + w ≤ 24)
    let i := if fits then a.2.1 else a.2.1 + 1
    let n := if fits then a.2.2 else 0
    match order[i]? with
    | some x => (a.1 ++ [(c, ⟨x.1, x.2, n⟩)], i, n + w)
    | none => a) ([], 0, 0) |>.1

/-- The channel holds a position, and its pair's odd half the next one. -/
def seated (s : State) (ch : Nat) : Bool :=
  match (getChan s ch).place with
  | none => false
  | some pl => decide (pl.pos < 24) && (!gangMaster s ch || decide ((getChan s (ch + 1)).place = some (besides pl)))

/-- A channel that is not active holds its polder, and no position. -/
def unseat (s : State) (ch : Nat) : State :=
  match (getChan s ch).place with
  | some pl => if pl.pos < 24 then modChan s ch fun c => { c with place := some { pl with pos := 24 } } else s
  | none => s

/-- Positions follow activity (R45, R48): a channel that is no longer active gives its position up; one that has become active
takes a free one of its polder and pass, or in AUTO placement the first free place. -/
def placeNew (s : State) : State :=
  (heads s).foldl (fun s c =>
    if !chanActive s c then (if gangMaster s c then unseat (unseat s c) (c + 1) else unseat s c)
    else if seated s c then s
    else
      let own := match (getChan s c).place with
        | some pl => if s.lf.auto && !(runningPols s).contains pl.pol then none else freeSeat s c pl.pol pl.pass
        | none => none
      match own with
      | some pl => moveChan s c pl
      | none =>
        if s.lf.auto then (if chanIdle s c then partialPlace s (runningPols s) [c] else s)
        else match (getChan s c).place with
          | some pl => moveChan s c (placeOn s c pl.pol)
          | none => s) s

/-- The mode in force (R44, R45); neither change moves a channel. -/
def updateMode (s : State) : State :=
  let m := regF s .pldPlace 0 2
  let a := if m = 1 then false else if m = 2 then true else decide (24 < activeCount s)
  { s with lf := { s.lf with auto := a } }

/-! ### PLD_ASSIGN and ASSIGN (R47, R55) -/

/-- The marker of a channel that becomes unassigned when idle. -/
def nowhere : Place := ⟨7, 1, 24⟩

/-- Asks a channel to move to a polder, to any place of it. -/
def askMove (s : State) (ch p : Nat) : State :=
  if (getChan s ch).place.map (·.pol) = some p then modChan s ch fun c => { c with moveTo := none }
  else modChan s ch fun c => { c with moveTo := some ⟨p, 1, 24⟩ }

/-- One accepted write to PLD_ASSIGN_i: the entries of slaves stay as they are. A polder that is not RUNNING is accepted, and the
channel moves to it once it runs (log entry 84). -/
def assignWrite (s : State) (i : Nat) (w : Word) : State :=
  (List.range 8).foldl (fun s k =>
    let ch := 8 * i + k
    let p := fld w (4 * k) 3
    if gangSlave s ch then s
    else if !bitOf w (4 * k + 3) then
      if (getChan s ch).place.isNone then modChan s ch fun c => { c with moveTo := none }
      else modChan s ch fun c => { c with moveTo := some nowhere }
    else if p ≤ 4 then askMove s ch p
    else match chanPol s ch with
      | some _ => modChan s ch fun c => { c with moveTo := none }
      | none => askMove s ch 0) s

/-- Channels that may move now: idle, with a place to move to, and not moved at this boundary. -/
def leavers (s : State) (only : List Nat) : List Nat :=
  only.filter fun c => optB (getChan s c).moveTo && chanIdle s c && !gangSlave s c && !movedNow s c

/-- The polder that a channel waits to move to runs. -/
def targetRuns (s : State) (ch : Nat) : Bool := match (getChan s ch).moveTo with
  | some pl => (runningPols s).contains pl.pol
  | none => false

/-- The channel waits for a position of its own, as a rebalance gives it. -/
def wantsSeat (s : State) (ch : Nat) : Bool := match (getChan s ch).moveTo with
  | some pl => decide (pl.pos < 24)
  | none => false

/-- Of the listed channels, those whose positions are free once all that remain in the list have left theirs. -/
def movers (s : State) : Nat → List Nat → List Nat
  | 0, l => l
  | k + 1, l => movers s k (l.filter fun c => match (getChan s c).moveTo with
    | some pl => seatFits s c pl l
    | none => false)

/-- One idle channel takes its place: the position asked for, or a free one of the polder asked for; or it becomes unassigned. -/
def moveOne (s : State) (c : Nat) : State :=
  match (getChan s c).moveTo with
  | none => s
  | some pl =>
    if pl.pol = 7 then unassign s c
    else if pl.pos < 24 ∧ chanActive s c then moveChan s c pl
    else moveChan s c (placeOn s c pl.pol)

/-- Moves the idle channels whose new place is free and whose new polder runs; places that are left together count as free
(R49). -/
def moveIdle (s : State) (only : List Nat) : State :=
  let l := leavers s only
  let out := l.filter fun c => decide ((getChan s c).moveTo = some nowhere)
  let s1 := out.foldl moveOne s
  let fixed := l.filter fun c => wantsSeat s c && targetRuns s c
  let s2 := (movers s1 fixed.length fixed).foldl moveOne s1
  (l.filter fun c => !wantsSeat s c && targetRuns s c).foldl moveOne s2

/-! ### Rebalancing (R49) -/

def loadOf (s : State) (p : Nat) : Nat := (polChans s p).length

def loadGap (s : State) : Nat :=
  let ls := (runningPols s).map (loadOf s)
  match ls with
  | [] => 0
  | l :: t => t.foldl max l - t.foldl min l

/-- Computes the full placement and asks each channel whose place changes to move, in place of an earlier rebalance. -/
def rebalanceNow (s : State) : State :=
  let s1 := allChans.foldl (fun s c => if wantsSeat s c then modChan s c fun x => { x with moveTo := none } else s) s
  (fullPlacement s (runningPols s)).foldl (fun s p =>
    if (getChan s p.1).place = some p.2 then modChan s p.1 fun c => { c with moveTo := none }
    else modChan s p.1 fun c => { c with moveTo := some p.2 }) s1

/-- A rebalance is due at this boundary. -/
def rebalanceWanted (s : State) : Bool :=
  let en := regB s .pldPlace 2
  s.lf.auto && keeperUp s && (optB s.lf.rebalUid || (en && s.lf.rebalDue) ||
    (en && decide (s.clk.beat.toNat % 1024 = 0) && decide (regF s .pldPlace 8 8 < loadGap s)))

/-- REBALANCE: at its boundary; the command that asked for it completes. -/
def rebalanceStep (s : State) : State :=
  if rebalanceWanted s then
    let s1 := moveIdle (rebalanceNow s) (heads s)
    let s2 := { s1 with lf := { s1.lf with rebalDue := false, rebalUid := none } }
    match s.lf.rebalUid.bind (findCmd s2) with
    | some c => finishNow s2 c .ok 0 []
    | none => s2
  else if !keeperUp s then s
  else { s with lf := { s.lf with rebalDue := false } }

/-! ### Polder states -/

def polStCode : PolState → Nat
  | .off => 0 | .stopped => 1 | .starting => 2 | .running => 3 | .stopping => 4 | .spare => 5 | .faulted => 6 | .retired => 7

/-- Completes the POLDER_CTL that a polder carries out. -/
def finishPol (s : State) (p : Nat) (st : Status) : State :=
  let x := getPol s p
  match x.cmdUid.bind (findCmd s) with
  | some c => setPol (finishNow s c st 0 []) p { x with cmdUid := none, makeSpare := false, stopNow := false }
  | none => setPol s p { x with cmdUid := none, makeSpare := false, stopNow := false }

/-- The channels a polder holds, in ascending order, pairs by their even half. -/
def polHeads (s : State) (p : Nat) : List Nat := (heads s).filter fun c => decide (chanPol s c = some p)

/-- All channels of a polder go to another as one group, each keeping its pass and position, and moves that wait for the polder
wait for the other. -/
def moveGroup (s : State) (p q : Nat) : State :=
  let chs := polHeads s p
  let s1 := chs.foldl (fun s c => match (getChan s c).place with
    | some pl => moveChan s c { pl with pol := q }
    | none => s) s
  allChans.foldl (fun s c => match (getChan s c).moveTo with
    | some pl => if pl.pol = p then modChan s c fun x => { x with moveTo := some { pl with pol := q } } else s
    | none => s) (quietMoved s1 chs)

/-- Moves that wait for a polder out of service are given up. -/
def forgetMoves (s : State) (p : Nat) : State :=
  allChans.foldl (fun s c => match (getChan s c).moveTo with
    | some pl => if pl.pol = p then modChan s c fun x => { x with moveTo := none } else s
    | none => s) s

/-- The spare takes over: it is RUNNING, and no spare remains. -/
def spareRuns (s : State) (q : Nat) : State :=
  modPol { s with lf := { s.lf with spare := none } } q fun x => { x with st := .running }

/-- The spare stands by: another polder than `p`, without a fault in the beat that ended. -/
def spareReady (s : State) (p : Nat) : Option Nat := s.lf.spare.bind fun q =>
  if q = p ∨ (getPol s q).failoverDue then none else some q

/-- The channels of polder `p` leave it at this boundary (R43). -/
def evacuate (s : State) (p : Nat) : State :=
  if s.lf.spare = some p then { s with lf := { s.lf with spare := none } }
  else if (polHeads s p).isEmpty then forgetMoves s p
  else match spareReady s p with
    | some q => moveGroup (spareRuns s q) p q
    | none =>
      let s1 := forgetMoves s p
      if s.lf.auto then placeElsewhere s1 ((soundPols s).filter (· ≠ p)) (polHeads s p)
      else (polHeads s p).foldl unassign s1

/-- A polder that serves the radio's cipher work hands it over with its channels; with none left that runs, the work waits as
before (R174). -/
def handRadio (s : State) (p : Nat) : State :=
  match (runningPols s).head? with
  | none => s
  | some q =>
    let go := fun (x : Nat) => if x = p then q else x
    let act := fun (a : RadAct) => { a with polder := go a.polder }
    { s with rad := { s.rad with cur := s.rad.cur.map act, waiting := s.rad.waiting.map act,
                                 loc := s.rad.loc.map fun l => { l with polder := go l.polder },
                                 win := s.rad.win.map fun w => { w with polder := go w.polder } } }

/-- A polder fault in the beat that runs (R43): its flag, and its failover at the next boundary. -/
def polFault (s : State) (p bit : Nat) : State :=
  let x := getPol s p
  match x.st with
  | .off => s
  | .retired => s
  | .faulted => s
  | _ => setPol s p { x with fault := x.fault ||| BitVec.ofNat 4 (2 ^ bit), failoverDue := true,
                             unserved := x.unserved || decide (x.st = .running) || decide (x.st = .stopping) }

/-- POLDER_FAILOVER at its boundary: the channels move, FCNT counts, the polder is FAULTED (R43, R416). -/
def failover (s : State) (p : Nat) : State :=
  if (getPol s p).failoverDue then
    let was := (getPol s p).st
    let s0 := modPol s p fun y => { y with failoverDue := false, st := .faulted }
    let s1 := evacuate s0 p
    let s2 := modPol (handRadio s1 p) p fun y => { y with fcnt := min 15 (y.fcnt + 1), lastFaultUs := s.clk.nowUs,
                                                          stopDue := false, upDue := false, heir := none }
    if was = .starting then finishPol s2 p .channelFaultTransient else s2
  else s

/-- A polder is back in service: SPARE where the device has none, RUNNING otherwise (R58, R416). -/
def toService (s : State) (p : Nat) : State :=
  match s.lf.spare with
  | none => modPol { s with lf := { s.lf with spare := some p } } p fun x => { x with st := .spare }
  | some _ => modPol s p fun x => { x with st := .running }

/-- POLDER_FAULT_SELF_TEST_DONE (R416, R59). -/
def faultSelfTest (s : State) (p : Nat) (pass : Bool) : State :=
  let x := getPol s p
  if x.st ≠ .faulted then s
  else if !pass ∨ regF s .fltPld 0 3 ≤ x.fcnt then
    let s1 := if pass then s else setPol s p { x with fault := x.fault ||| 4#4 }
    retireLater s1 clsPolder p (BitVec.ofNat 8 (getPol s1 p).fault.toNat)
  else if optB x.cmdUid then finishPol (setPol s p { x with st := .stopped }) p .ok
  else toService s p

/-- POLDER_START_SELF_TEST_DONE (R55, R58); a polder that fails at the start of the device is retired (R399, R416). -/
def startSelfTest (s : State) (p : Nat) (pass : Bool) : State :=
  let x := getPol s p
  if x.st ≠ .starting ∨ x.upDue ∨ !domReady s (dPOLDER p) then s
  else if pass then setPol s p { x with upDue := true }
  else
    let s1 := setPol s p { x with st := .faulted, fault := x.fault ||| 4#4, fcnt := min 15 (x.fcnt + 1), lastFaultUs := s.clk.nowUs }
    if s.pwr.phase = .starting then retireLater s1 clsPolder p (4#8) else finishPol s1 p .channelFaultTransient

/-- A self-tested polder enters service at the boundary (R55, R58). -/
def polUp (s : State) (p : Nat) : State :=
  let x := getPol s p
  if !x.upDue then s
  else
    let s0 := setPol s p { x with upDue := false }
    if x.makeSpare then
      let s1 := match s0.lf.spare with
        | some q => spareRuns s0 q
        | none => s0
      let s2 := modPol { s1 with lf := { s1.lf with spare := some p } } p fun y => { y with st := .spare }
      finishPol s2 p .ok
    else
      let s1 := if s0.pwr.phase = .starting then modPol s0 p fun y => { y with st := .running } else toService s0 p
      let s2 := if (getPol s1 p).st = .running then { s1 with lf := { s1.lf with rebalDue := true } } else s1
      finishPol s2 p .ok

/-- A stop begins at its boundary (R56): STOPPING; a spare that stops is no spare. A spare is taken only when a channel moves, so
that it stays SPARE where the polder held none (log entry 84). -/
def enterStop (s : State) (p : Nat) : State :=
  let x := getPol s p
  if !x.stopDue then s
  else
    let s1 := if s.lf.spare = some p then { s with lf := { s.lf with spare := none } } else s
    setPol s1 p { x with stopDue := false, st := .stopping, heir := none }

/-- The polder that takes a stopping polder's channels one after the other: the one that took the first, while it runs, or the
spare. -/
def stopHeir (s : State) (p : Nat) : Option Nat :=
  match (getPol s p).heir.bind (fun q => if (getPol s q).st = .running then some q else none) with
  | some q => some q
  | none => spareReady s p

/-- One channel leaves a stopping polder (R56): to the spare, which then runs, with the place it had where that is free; by AUTO
placement; or it becomes unassigned. -/
def stopMove (s : State) (p c : Nat) : State :=
  match stopHeir s p, (getChan s c).place with
  | some q, some pl =>
    let s1 := modPol (if s.lf.spare = some q then spareRuns s q else s) p fun x => { x with heir := some q }
    let to_ : Place := { pl with pol := q }
    quietMoved (moveChan s1 c (if seatFits s1 c to_ [masterOf s1 c] then to_ else placeOn s1 c q)) [c]
  | _, _ => if s.lf.auto then placeElsewhere s (soundPols s) [c] else unassign s c

/-- A step of a stop at a boundary (R56): the idle channels leave, or all of them under STOP_NOW; STOPPED when none is left. -/
def polStop (s : State) (p : Nat) : State :=
  let y := getPol s p
  if y.st ≠ .stopping ∨ y.failoverDue then s
  else
    let go := (polHeads s p).filter fun c => (y.stopNow || chanIdle s c) && !movedNow s c
    let s1 := go.foldl (fun s c => stopMove s p c) s
    if (polHeads s1 p).isEmpty then finishPol (handRadio (modPol s1 p fun z => { z with st := .stopped, heir := none }) p) p .ok
    else s1

/-- A retired polder: its channels leave it and its domain switches off (R384, R416). -/
def polRetire (s : State) (p : Nat) (cause : Byte) : State :=
  let s0 := modPol s p fun x => { x with st := .faulted, failoverDue := false, stopDue := false, upDue := false, heir := none }
  let s1 := evacuate s0 p
  let s2 := modPol (handRadio s1 p) p fun x => { x with st := .retired }
  let s3 := finishPol (recordRetire s2 clsPolder p cause) p .ok
  excludeRegs s3 (polRegs p)

/-- POLDER_FCNT_CLEAR: CLEAR_H hours without a fault of the polder clear its count (R416). -/
def fcntClear (s : State) (p : Nat) : State :=
  let x := getPol s p
  if 0 < x.fcnt ∧ regF s .fltPld 8 8 * 3600000000 ≤ s.clk.nowUs - x.lastFaultUs then setPol s p { x with fcnt := 0 } else s

/-! ### The polling gap (R425) -/

/-- The beat that ends: the channels in flight on a polder that faulted were unserved. -/
def gapStep (s : State) : State :=
  let s1 := allChans.foldl (fun s ch =>
    let c := getChan s ch
    let un := match c.jobs.head? with
      | some j => jobInFlight j && (match c.place with
        | some pl => (getPol s pl.pol).unserved
        | none => false)
      | none => false
    let g := if un then sat 8 (c.gap + 1) else 0
    if g = c.gap then s
    else
      let s2 := setChan s ch { c with gap := g }
      let s3 := { s2 with flt := { s2.flt with gapMax := max s2.flt.gapMax g } }
      if g = 3 then countStop s3 else s3) s
  polList.foldl (fun s p => if (getPol s p).unserved then modPol s p fun x => { x with unserved := false } else s) s1

/-! ### ASSIGN in progress (R55, R59) -/

/-- The masked channels of an ASSIGN, pairs by their even half. -/
def assignChans (s : State) (c : Cmd) : List Nat := ((bitList (descMask96 c.desc) 96).map (masterOf s)).eraseDups

/-- How an ASSIGN stands: OK once every masked channel is on its polder, ABORTED_STOP where one is not and waits to move there no
more, its polder out of service or another assignment in its place (log entry 85); `none` while it waits. -/
def assignEnd (s : State) (c : Cmd) : Option Status :=
  let p := fld c.desc.dw8 4 3
  let away := (assignChans s c).filter fun ch => decide (chanPol s ch ≠ some p)
  if away.isEmpty then some .ok
  else if away.any fun ch => decide ((getChan s ch).moveTo.map (·.pol) ≠ some p) then some .abortedStop
  else none

def assignStep (s : State) : State :=
  if !keeperUp s then s
  else (s.ring.cmds.filter fun c => descOpcode c.desc == 0x72 && decide (c.st = .running) && fld c.desc.dw8 0 4 == 4).foldl
    (fun s c => match assignEnd s c with
      | some st => finishNow s c st 0 []
      | none => s) s

/-- Moves that wait for their channel to be idle; without the keeper, none. -/
def idleMoves (s : State) : State := if keeperUp s then moveIdle s (heads s) else s

/-- The placement part of a boundary, after step 2 of R33: failovers, stops and starts, the mode, new channels, rebalancing
and the moves that waited. -/
def placementStep (s : State) : State :=
  let s1 := polList.foldl failover (gapStep s)
  let s2 := if keeperUp s1 then polList.foldl polUp (polList.foldl polStop (polList.foldl enterStop s1)) else s1
  let s3 := updateMode s2
  let s3 := if keeperUp s3 then placeNew s3 else s3
  let s4 := rebalanceStep s3
  assignStep (idleMoves s4)

end Sys2Proof.Machine
end

