-- ==== Sys2Proof/Machine/Levee.lean ====
section
/-! DEFINITION. Step 6 of R33: the levee limiter admits or defers first segments, and transactions in flight go on (R38, R51,
R88 to R95).

Marked choices (log entries): DESIGN CHOICE 61, 88; DEDUCED 35, 44, 50. -/

namespace Sys2Proof.Machine

open Sys2Proof

/-- The polder a first segment would run on: the descriptor's in FIXED placement (R47), else the one assigned. -/
def startPol (s : State) (ch : Nat) (j : Job) : Option Nat :=
  if s.lf.auto then chanPol s ch
  else match j.pol with
    | some p => some p
    | none => chanPol s ch

def isLoc (j : Job) : Bool := match j.kind with
  | .loc _ => true | _ => false

/-- The coil that leads a transaction is this one. -/
def leads (s : State) (ch : Nat) (j : Job) : Bool := !isLoc j || (coils s ch j).headD ch == ch

/-- The command's transactions of a lower pass on this polder are over (R48). -/
def passOpen (s : State) (ch : Nat) (j : Job) : Bool :=
  match (getChan s ch).place with
  | none => true
  | some pl =>
    pl.pass == 1 || !(allChans.any fun c => match (getChan s c).place with
      | some q => q.pol == pl.pol && decide (q.pass < pl.pass) && (getChan s c).jobs.any (fun x => x.uid == j.uid)
      | none => false)

def waitsAdmit (s : State) (c : Nat) : Bool := match headOf s c with
  | some x => decide (x.phase = .waitAdmit)
  | none => false

/-- A REKEY frame that sets PEND waits for every other transaction in flight that uses the entry (R135, R142). -/
def rekeyWaits (s : State) (ch : Nat) (j : Job) : Bool :=
  decide (j.frame = .rekey) && (rangeUses s j.reg || allChans.any fun c => c != ch && regBusy s c fun x => x.reg == j.reg)

/-- The transaction's AUTH frame waits for the keeper to raise the mark that SESS has reached (R140). -/
def markWaits (s : State) (j : Job) : Bool := decide (j.frame = .auth) && decide (j.reg < 4096) && sessWaits s j.reg

/-- An enrolment waits for the end of a keeper restart, as a long operation (R24, R378). -/
def enrolHeld (s : State) (j : Job) : Bool := (decide (j.kind = .enrolSlot) || decide (j.kind = .enrolKey)) && !keeperUp s

/-- The bank takes first segments: powered, ready and in its supply range (R92, R93); one that is too hot takes them and has them
deferred. -/
def bankTakes (s : State) (b : Nat) : Bool :=
  let k := getBank s b
  domReady s (dBANK b) && k.ready && !k.uv && !k.ov && !k.linkRetired

/-- The bank's temperature defers first segments (R93). -/
def bankHot (s : State) (b : Nat) : Bool := (getBank s b).otDefer || (getBank s b).otOff

/-- An activity that waits starts before a LOCATE: higher PRIO, or the same and fetched earlier (R163). -/
def actFirst (a : RadAct) (j : Job) : Bool := decide (j.prio < a.prio) || (decide (a.prio = j.prio) && decide (a.uid < j.uid))

/-- The radio is free for a LOCATE, or holds nothing but a receive window, and no waiting activity comes first (R163). -/
def radioFree (s : State) (j : Job) : Bool :=
  s.rad.loc.isNone && s.rad.cur.isNone && !s.rad.retired && domReady s dRADIO &&
    !(s.rad.waiting.any fun a => a.seedReady && !(decide (a.kind = .window) && s.rad.win.isSome) && actFirst a j)

/-- A LOCATE takes the radio as its first segment is admitted (R163). -/
def takeRadio (s : State) (ch : Nat) (j : Job) : State :=
  if isLoc j then
    { s with rad := { s.rad with loc := some { uid := j.uid, nonce := 0, ncoil := (coils s ch j).length, q := 2, repolls := 0,
                                               collision := false, found := [], extra := [], toRange := [], polder := polOf s ch,
                                               retried := false, migrated := false } } }
  else s

/-- The first segment could start at this boundary, but for the radio of a LOCATE and the budget. -/
def startable (s : State) (ch : Nat) : Bool :=
  match headOf s ch with
  | none => false
  | some j =>
    decide (j.phase = .waitAdmit) && leads s ch j &&
    (coils s ch j).all (fun c => bankTakes s (bankOf c) && waitsAdmit s c &&
      (match startPol s c j with
       | some p => decide ((getPol s p).st = .running) && (decide (chanPol s c = some p) || !movedNow s c)
       | none => false)) &&
    passOpen s ch j && !markWaits s j && !rekeyWaits s ch j && !enrolHeld s j

/-- The first segment is offered to the limiter at this boundary: its wait is over but for the budget. -/
def offered (s : State) (ch : Nat) : Bool :=
  startable s ch && (match headOf s ch with
    | some j => !isLoc j || radioFree s j
    | none => false)

/-- Descending priority, ascending channel (R38). -/
def offerOrder (s : State) (chs : List Nat) : List Nat :=
  (List.range 16).flatMap fun i => chs.filter fun c => match headOf s c with
    | some j => decide (min j.prio 15 = 15 - i)
    | none => false

/-- LEVEE_DEFER_LIMIT: DEFER_MAX consecutive deferrals complete the transaction (R90). -/
def deferLimit (s : State) (ch : Nat) : State :=
  match headOf s ch with
  | none => s
  | some j =>
    if j.phase = .waitAdmit ∧ regF s .leveeCfg 24 8 ≤ j.defers ∧ 0 < j.defers then
      let s1 := { s with lf := { s.lf with refused := sat 32 (s.lf.refused + 1) } }
      arm (failTx s1 ch j .leveeDeferred false {}) ch
    else s

def deferOne (s : State) (ch : Nat) (j : Job) : State :=
  deferLimit (setHead { s with lf := { s.lf with defers := sat 32 (s.lf.defers + 1) } } ch { j with defers := j.defers + 1 }) ch

def groupResv (s : State) (ch : Nat) (j : Job) : Nat × Nat :=
  (coils s ch j).foldl (fun a c => let r := reservation s c (carrier s ch); (a.1 + r.1, a.2 + r.2)) (0, 0)

/-- A channel takes the polder its descriptor names, at the boundary its transaction starts (R47). -/
def takePol (s : State) (ch : Nat) (j : Job) : State :=
  (coils s ch j).foldl (fun s c => match startPol s c j with
    | some p => if chanPol s c = some p then s else moveChan s c (placeOn s c p)
    | none => s) s

/-- Judges the offered first segments in order (R89); the flag says that one was deferred for the budget. -/
def admitGo : List Nat → Bool → State → State
  | [], _, s => s
  | ch :: t, blocked, s =>
    match headOf s ch with
    | none => admitGo t blocked s
    | some j =>
      if !offered s ch then admitGo t blocked s
      else if (coils s ch j).any fun c => bankHot s (bankOf c) then admitGo t blocked (deferOne s ch j)
      else if blocked || !leveeFits s (groupResv s ch j) then admitGo t true (deferOne s ch j)
      else admitGo t blocked (startTx (takeRadio (takePol s ch j) ch j) ch j)

def admitFirst (s : State) (chs : List Nat) : State := admitGo (offerOrder s (chs.filter (offered s))) false s

/-- A restart or a retry is due at this boundary (R51, R95). -/
def resumeDue (s : State) (ch : Nat) (ph : TxPhase) : Bool :=
  match headOf s ch with
  | none => false
  | some j =>
    decide (j.phase = ph) && leads s ch j && decide (j.notBeforeBeat.toNat ≤ s.clk.beat.toNat) && !markWaits s j &&
    (coils s ch j).all (fun c => match headOf s c with
      | some x => x.nonceReady && (ph != .quiet || decide (x.notBeforeUs ≤ s.clk.nowUs)) &&
          (match chanPol s c with
           | some p => decide ((getPol s p).st = .running) || decide ((getPol s p).st = .stopping)
           | none => false)
      | none => false)

/-- MIGRATION_RESTART and FAULT_RETRY: the attempt starts; on a bank that is not up it ends with SUPPLY at once. -/
def resumeOne (s : State) (ch : Nat) (ph : TxPhase) : State :=
  if resumeDue s ch ph then
    match headOf s ch with
    | some j =>
      let s1 := resumeTx s ch j
      if (coils s ch j).all fun c => bankUp s (bankOf c) then s1 else chanFault s1 ch .supply
    | none => s
  else s

/-- Ends of the LF part of LOCATE by `us`: the lead coils whose last burst is over (R125). -/
def locOver (s : State) (us : Nat) : List Nat :=
  allChans.filter fun c => match headOf s c with
    | some j => isLoc j && decide (j.phase = .onAir) && leads s c j && decide (jobEndUs s j ≤ us)
    | none => false

/-- Channels whose EN was cleared lose their transactions (R70). -/
def enCheck (s : State) : State :=
  (heads s).foldl (fun s c => if !(getChan s c).jobs.isEmpty && !chanEn s c then abortAll s c else s) s

/-- Tombstones of failed reinstatements go, and the channel loses the place it had for them (R96, R98). -/
def dropMarks (s : State) : State :=
  allChans.foldl (fun s c => match headOf s c with
    | some j =>
      if j.uid = 0 then
        let clear := fun (s : State) (n : Nat) => modChan s n fun x => { x with place := none, moveTo := none }
        let s1 := if gangMaster s c then clear (clear s c) (c + 1) else clear s c
        arm (popHead s1 c) c
      else s
    | none => s) s

/-- A first segment that is not offered at this boundary has no deferral at it: its count of consecutive ones starts anew
(R90). -/
def clearDefers (s : State) : State :=
  allChans.foldl (fun s c => match headOf s c with
    | some j => if j.defers ≠ 0 ∧ j.phase = .waitAdmit ∧ leads s c j ∧ !offered s c then setHead s c { j with defers := 0 } else s
    | none => s) s

/-- SIG_STALE of the slots whose channel's carrier has left their signature (R118). -/
def staleStep (s : State) : State :=
  s.tok.recs.foldl (fun s p =>
    if chanEn s p.1 && carrierStale (carrier s p.1) p.2.ftw && !(getChan s p.1).sigStale then
      modChan s p.1 fun c => { c with sigStale := true }
    else s) s

/-- Step 6 of R33; the moves of the whole boundary are then reported (R54). -/
def leveeStep (s : State) : State :=
  let s1 := { s with lf := { s.lf with ended := s.lf.ended.filter fun e => e.1 == s.clk.beat } }
  let s2 := allChans.foldl (fun s c => if (getChan s c).jobs.isEmpty then s else armAt s c) s1
  let s3 := allChans.foldl (fun s c => if (getChan s c).jobs.isEmpty then s else resumeOne (resumeOne s c .quiet) c .faultWait) s2
  postMoves (calProgress (admitFirst (clearDefers s3) allChans))

/-- NEXT_PASS_START: the first segments of a polder's channels whose pass may begin (R48). -/
def nextPass (s : State) (p : Nat) : State :=
  postMoves (admitFirst s (allChans.filter fun c => decide (chanPol s c = some p)))

/-! ### Banks (R92, R93) -/

/-- The supply of one bank as its monitor sees it, in 10 mV, and the faults it causes (R93). -/
def bankSupply (s : State) (b vdrv : Nat) : State :=
  let k := getBank s b
  let uv := if vdrv < 750 then true else if 780 < vdrv then false else k.uv
  let ov := if 4000 < vdrv then true else if vdrv < 3900 then false else k.ov
  let m := BitVec.ofNat 10 (2 ^ (5 + b))
  let okBits := if vdrv < 750 then s.pwr.supplyOk &&& ~~~m else if 780 < vdrv then s.pwr.supplyOk ||| m else s.pwr.supplyOk
  let s1 := setBank { s with pwr := { s.pwr with supplyOk := okBits } } b { k with vdrv := vdrv, uv := uv, ov := ov }
  if (uv && !k.uv) || (ov && !k.ov) then bankFault s1 b .supply else s1

/-- The die temperature of one bank as its monitor sees it, in °C, and the fault it causes (R93). -/
def bankTemp (s : State) (b : Nat) (temp : Int) : State :=
  let k := getBank s b
  let od := if 135 < temp then true else if temp < 125 then false else k.otDefer
  let oo := if 150 < temp then true else if temp < 125 then false else k.otOff
  let s1 := setBank s b { k with temp := temp, otDefer := od, otOff := oo }
  if oo && !k.otOff then bankFault s1 b .supply else s1

/-- A supply has fallen below its undervoltage threshold: how far is not said, so the level is free below 7.5 V. -/
def bankUnder (s : State) (b : Nat) : State :=
  if (getBank s b).vdrv < 750 then bankSupply s b (getBank s b).vdrv
  else
    let d := drawFree s
    bankSupply d.2 b (d.1.toNat % 750)

/-- A supply has risen again: a level not yet above 7.8 V becomes a free one between 7.8 V and 39 V. -/
def bankBack (s : State) (b : Nat) : State :=
  if 780 < (getBank s b).vdrv then bankSupply s b (getBank s b).vdrv
  else
    let d := drawFree s
    bankSupply d.2 b (781 + d.1.toNat % 3119)

/-- BANK_READY: the soft start has ended (R92), its supply being above 7.8 V (R381). -/
def bankReadyNow (s : State) (b : Nat) : State :=
  let d := getDom s (dBANK b)
  if d.on && s.pwr.supplyOk.getLsbD (5 + b) then setBank (setDom s (dBANK b) { d with ready := true }) b { getBank s b with ready := true } else s

/-! ### Bank links (R417) -/

/-- One frame of a bank link: its retransmissions, and whether it stayed undelivered. -/
def linkFrame (s : State) (b retx : Nat) (undelivered : Bool) : State :=
  let k := getBank s b
  if k.linkRetired then s
  else
    let s1 := setBank s b { k with retx := sat 16 (k.retx + retx), errNow := k.errNow || undelivered }
    if undelivered && !k.errNow then bankFault s1 b .crc else s1

/-- The beat that ends was an error beat of a link, or not. -/
def linkBeat (s : State) (b : Nat) : State :=
  let k := getBank s b
  if k.linkRetired then s
  else
    let n := if k.errNow then min 255 (k.errBeats + 1) else 0
    let s1 := if n = k.errBeats ∧ !k.errNow then s else setBank s b { k with errBeats := n, errNow := false }
    if k.errNow ∧ regF s .fltLink 0 8 ≤ n then retireLater s1 clsLink b 0 else s1

end Sys2Proof.Machine
end

