-- ==== Sys2Proof/Machine/Lanes.lean ====
section
/-! DEFINITION. The two release lanes (R190 to R203, R206, R208): the policy terms, the evaluation of step 4 of R33, death,
takeover and rejoin, output trips, tampers and DRIVE_HOLD.

Marked choices (log entries): DESIGN CHOICE 86; DEDUCED 60, 67, 68, 69, 70. -/

namespace Sys2Proof.Machine

open Sys2Proof

def sluList : List Nat := [0, 1, 2, 3]

/-! ### Tampers (R190, R208) -/

/-- TAMP inputs that differ from their CLOSED level. -/
def tampPins (s : State) : BitVec 4 := s.slu.tampPin ^^^ BitVec.ofNat 4 (regF s .tampCfg 4 4)

/-- Takes the inputs' levels: an input that differs becomes active; one that no longer does stays active where latched. -/
def tampTake (s : State) : State :=
  let pin := tampPins s
  let new := pin &&& ~~~s.slu.tampActive
  let act := (s.slu.tampActive &&& BitVec.ofNat 4 (regF s .tampCfg 8 4)) ||| pin
  { s with slu := { s.slu with tampActive := act, tampNew := s.slu.tampNew ||| new } }

/-! ### State codes and reports -/

/-- STATE of a sluice in one lane's view. -/
def sluState (s : State) (l : LaneId) (n : Nat) : Nat :=
  let x := laneSl (getLane s l) n
  if (getOut s n).faulted then 4
  else if x.released then (if x.leftUs = 0 then 3 else 2)
  else if (getOut s n).armed then 1 else 0

def laneDead (s : State) (l : LaneId) : Bool := decide ((getLane s l).st = .dead) || decide ((getLane s l).st = .off)

/-- SOURCE of lane records: lane A, or lane B while lane A is dead (R235). -/
def laneSrc (s : State) : Nat := if laneDead s .a then 2 else 1

/-- The lane whose view is reported. -/
def viewLane (s : State) : LaneId := if laneDead s .a then .b else .a

/-- A LANE record (R235). -/
def stageLane (s : State) (event n : Nat) : State :=
  let x := laneSl (getLane s (viewLane s)) n
  stage s 0x10 (laneSrc s) [(20, leBytes event 1), (21, leBytes n 1), (22, leBytes (sluState s (viewLane s) n) 1),
    (23, leBytes x.cause 1), (24, leBytes (x.leftUs / 1000) 4)]

/-- A LANE record of a SAFE_WITHDRAW step: 8 PREPARE, 9 CONFIRM, with the command's sluice mask (R235). -/
def stageSafe (s : State) (event mask : Nat) : State :=
  stage s 0x10 (laneSrc s) [(20, leBytes event 1), (21, leBytes mask 1)]

/-- EV_SLUICE_CHANGE for each sluice whose STATE differs from the listed one (R208). -/
def postSluChanges (s : State) (old : List Nat) : State :=
  (sluList.zip old).foldl (fun s p =>
    let st := sluState s (viewLane s) p.1
    if st = p.2 then s
    else
      let s1 := setOut s p.1 { getOut s p.1 with changeBeat := s.clk.beat }
      postEvent s1 evSluiceChange (srcSluice p.1)
        (p.1 + st * 2 ^ 2 + (laneSl (getLane s (viewLane s)) p.1).cause * 2 ^ 8)) s

def sluStates (s : State) : List Nat := sluList.map (sluState s (viewLane s))

def countChange (s : State) : State := { s with slu := { s.slu with changes := sat 32 (s.slu.changes + 1) } }

def anyReleased (s : State) : Bool :=
  sluList.any fun n => (laneSl s.slu.a n).released || (laneSl s.slu.b n).released

def releasedMask (s : State) : Nat :=
  bitMask (sluList.filter fun n => (laneSl (getLane s (viewLane s)) n).released)

/-! ### Terms (R190 to R193) -/

def slotAge (s : State) (us : Nat) : Nat := s.clk.nowUs - us

/-- Slots of the quorum mask that are enrolled (R191). -/
def quorumSlots (s : State) : List Nat :=
  allChans.filter fun c => enrolled s c && regB s (.qmask (c / 32)) (c % 32)

/-- UNVERIFIABLE slots that are tolerated, in order of retirement time and then channel, at most UV_MAX. -/
def insertAge (x : Nat × Nat) : List (Nat × Nat) → List (Nat × Nat)
  | [] => [x]
  | y :: t => if y.2 < x.2 then x :: y :: t else y :: insertAge x t

def toleratedSlots (s : State) (l : Lane) : List Nat :=
  let c := (quorumSlots s).filterMap fun ch =>
    match smFind s.slu.tol ch with
    | some v =>
      if (laneSlot l ch).st = .unverifiable ∧ tolAge s v < tolLimit s then some (ch, tolAge s v) else none
    | none => none
  ((c.foldl (fun a x => insertAge x a) []).take (regF s .quorum 8 4)).map (·.1)

def countedSlot (s : State) (l : Lane) (ch : Nat) : Bool :=
  let e := laneSlot l ch
  decide (e.st = .verified) && decide (slotAge s e.okUs ≤ 100000 * regF s .vper 0 13)

/-- The counted slots, the tolerated ones among them, and whether the module quorum holds. -/
def quorum (s : State) (l : Lane) : Nat × Nat × Bool :=
  let q := quorumSlots s
  let c := (q.filter (countedSlot s l)).length
  let t := (toleratedSlots s l).length
  let bad := q.any fun ch => decide ((laneSlot l ch).st = .duplicate) || (laneSlot l ch).mismatch
  (c + t, t, decide (regF s .quorum 0 7 ≤ c + t) && !bad)

/-- A qualifying validated-token entry (R192). -/
def tokenTerm (s : State) (l : Lane) (n : Nat) : Bool :=
  l.toks.any fun t => !(t.roles &&& BitVec.ofNat 4 (regF s (.sluPol n) 8 4) == 0) &&
    decide (t.us ≤ s.clk.nowUs) && decide (slotAge s t.us ≤ 1000000 * regF s .tokenWin 0 10)

def creditTerm (s : State) : Bool := decide (s.ldg.st = .active) && decide (sgn 32 (reg s .creditMin).toNat < s.ldg.cA.balance)

def vdrvOk (s : State) : Bool := let v := (getBank s 0).vdrv; decide (800 ≤ v) && decide (v ≤ 3600)

def bothActive (s : State) : Bool := decide (s.slu.a.st = .active) && decide (s.slu.b.st = .active)

/-- The number of the first hard term that fails; 0 where all hold. -/
def hardTerm (s : State) (n : Nat) : Nat :=
  let lc := lcState s
  if !(getOut s n).armed then 1
  else if regB s (.sluPol n) 5 && !(s.slu.tampActive &&& BitVec.ofNat 4 (regF s .tampCfg 0 4) == 0) then 2
  else if s.lcy.dbg ≠ .locked then 3
  else if advancing s ∨ lc = 0 ∨ 3 < lc then 4
  else if (getOut s n).faulted then 5
  else 0

/-- The number of the first soft term that fails. -/
def softTerm (s : State) (l : Lane) (n : Nat) : Nat :=
  if regB s (.sluPol n) 3 && !(quorum s l).2.2 then 6
  else if regB s (.sluPol n) 4 && !creditTerm s then 7
  else if decide (regF s (.sluPol n) 6 2 = 2) && !tokenTerm s l n then 8
  else 0

/-- The start term: met, or not asked (R190). -/
def startTerm (s : State) (l : Lane) (n : Nat) : Bool := regF s (.sluPol n) 6 2 ≠ 1 || tokenTerm s l n

/-! ### Evaluation (R195) -/

/-- What one lane decides for one sluice: its next view, and whether it asks for a release. -/
structure Decision where
  sl : LaneSl
  wants : Bool
  drops : Bool

def leaseUs (s : State) (n : Nat) : Nat := 1000000 * regF s (.sluLease n) 0 12

def decideSl (s : State) (l : Lane) (n : Nat) : Decision :=
  let x := laneSl l n
  let h := hardTerm s n
  let f := softTerm s l n
  let q := quorum s l
  let started := x.released || startTerm s l n
  let policy := decide (h = 0) && decide (f = 0) && started
  let cause := if h ≠ 0 then h else if f ≠ 0 then f else if !started then 8
    else if x.released then 0 else if !vdrvOk s then 9 else if !bothActive s then 10 else 0
  let y := { x with policy := policy, hard := decide (h ≠ 0), cause := cause, counted := q.1, tolerated := q.2.1 }
  if s.slu.withdrawDue.getLsbD n then ⟨{ y with leftUs := 0 }, false, x.released⟩
  else if x.released then
    let z := if h ≠ 0 then { y with leftUs := 0, ended := true }
      else if !x.ended && decide (f = 0) then { y with leftUs := leaseUs s n }
      else if !x.ended then { y with leftUs := x.leftUs - beatUs s }
      else y
    ⟨z, false, decide (z.leftUs = 0) && !s.slu.dhold⟩
  else ⟨y, policy && vdrvOk s && bothActive s, false⟩

def closeSl (x : LaneSl) : LaneSl := { x with released := false, leftUs := 0, ended := false }

/-- Sluice `n` is withdrawn in the views of both lanes, a dead lane's too: its switch conducts no more (R195, R201). -/
def closeBoth (s : State) (n : Nat) : State :=
  let s1 := setLane s .a (setLaneSl s.slu.a n (closeSl (laneSl s.slu.a n)))
  setLane s1 .b (setLaneSl s1.slu.b n (closeSl (laneSl s1.slu.b n)))

/-- One sluice at a boundary: both lanes decide, the output follows (R195, R203); in spillway mode a withdrawal disarms too
(R412). -/
def evalSluice (s : State) (n : Nat) : State :=
  let aLive := !laneDead s .a
  let bLive := !laneDead s .b
  let da := decideSl s s.slu.a n
  let db := decideSl s s.slu.b n
  let differ := bothActive s && (da.wants != db.wants || da.drops != db.drops)
  let go := da.wants && db.wants && bothActive s
  let drop := (decide (s.slu.a.st = .active) && da.drops) || (decide (s.slu.b.st = .active) && db.drops) ||
    (aLive && !bLive && da.drops) || (bLive && !aLive && db.drops)
  let out := fun (d : Decision) =>
    if go then { d.sl with released := true, leftUs := leaseUs s n, ended := false, cause := 0 }
    else if drop then closeSl d.sl else d.sl
  let was := (laneSl (getLane s (viewLane s)) n).released
  let held := sluState s (viewLane s) n = 3
  let s1 := if aLive then setLane s .a (setLaneSl s.slu.a n (out da)) else s
  let s2a := if bLive then setLane s1 .b (setLaneSl s1.slu.b n (out db)) else s1
  let s2 := if drop then closeBoth s2a n else s2a
  let conf := s.slu.withdrawDue.getLsbD n
  let o := getOut s2 n
  let s3 := if conf ∨ (drop ∧ inSpillway s) then setOut s2 n { o with armed := false, takeA := false, takeB := false }
    else if drop then setOut s2 n { o with takeA := false, takeB := false } else s2
  let s4 := if differ then
      stageLane { s3 with slu := { s3.slu with disagree := true, disagreeCnt := sat 16 (s3.slu.disagreeCnt + 1) } } 5 n
    else s3
  if go then countChange (stageLane s4 0 n)
  else if drop ∧ was then countChange (stageLane s4 1 n)
  else if !held ∧ sluState s4 (viewLane s4) n = 3 then stageLane s4 2 n
  else s4

/-- SLUICE_SET and FAULT_CLR changes apply before the evaluation (R194). -/
def applyArming (s : State) : State :=
  let s1 := sluList.foldl (fun s n =>
    let o := getOut s n
    let o1 := if s.slu.faultClrDue.getLsbD n then { o with faulted := false, failedRetries := 0, tripped := false } else o
    let o2 := if s.slu.armDue.getLsbD n then { o1 with armed := true } else if s.slu.disarmDue.getLsbD n then { o1 with armed := false } else o1
    setOut s n o2) s
  { s1 with slu := { s1.slu with armDue := 0, disarmDue := 0, faultClrDue := 0 } }

def armedMask (s : State) : Nat := bitMask (sluList.filter fun n => (getOut s n).armed)

/-- The SLUICE_SET and SAFE_WITHDRAW CONFIRM commands whose changes apply at this boundary complete. -/
def finishSets (s : State) : State :=
  let ids := s.slu.setUids
  ids.foldl (fun s u => match findCmd s u with
    | some c => finishNow s c .ok (if descOpcode c.desc = 0x32 then 0 else armedMask s) []
    | none => s) { s with slu := { s.slu with setUids := [] } }

/-- A tripped stage retries at the boundary; a beat without a trip ends the run of retries (R206). -/
def tripRetry (s : State) : State :=
  sluList.foldl (fun s n =>
    let o := getOut s n
    if o.tripped then setOut s n { o with tripped := false, failedRetries := min 3 (o.failedRetries + 1) }
    else setOut s n { o with failedRetries := 0 }) s

/-- The DRIVE_HOLD latch of lane A (R198). While no lane is alive, a release that DRIVE_HOLD holds no more is withdrawn
(log entry 86). -/
def latchStep (s : State) : State :=
  sluList.foldl (fun s n =>
    let held := (laneSl (getLane s (viewLane s)) n).released
    let s1 := if held ∧ !s.slu.dhold ∧ laneDead s .a ∧ laneDead s .b then countChange (stageLane (closeBoth s n) 1 n) else s
    setOut s1 n { getOut s1 n with latched := s.slu.dhold && held }) s

/-- A tamper activation is journalled and posted at its boundary (R208). -/
def tampReport (s : State) : State :=
  let m := s.slu.tampNew
  sluList.foldl (fun s i =>
    if m.getLsbD i then
      postEvent (stage s 0x10 (laneSrc s) [(20, leBytes 7 1), (21, leBytes i 1)]) evTamper (srcTamp i) i
    else s) { s with slu := { s.slu with tampNew := 0 } }

/-! ### Death and return of a lane (R201, R202) -/

def other : LaneId → LaneId
  | .a => .b
  | .b => .a

/-- The takeover flag of lane `l` on sluice `n`. -/
def setTake (s : State) (l : LaneId) (n : Nat) (v : Bool) : State :=
  let o := getOut s n
  match l with
  | .a => setOut s n { o with takeA := v }
  | .b => setOut s n { o with takeB := v }

/-- No lane drives sluice `n` any more: its path opens, a stop of R425. Lane A's latch keeps a latched release, as the lane
`v` that was seen last had it, for the lane that returns (R202); any other is withdrawn (log entry 86). -/
def laneLeaves (v : LaneId) (s : State) (n : Nat) : State :=
  let x := laneSl (getLane s v) n
  let s1 := setTake (setTake s .a n false) .b n false
  if !(laneSl s.slu.a n).released && !(laneSl s.slu.b n).released then s1
  else if (getOut s n).latched ∧ x.released then
    let s2 := setLane s1 .a (setLaneSl s1.slu.a n x)
    countStop (setLane s2 .b (setLaneSl s2.slu.b n x))
  else countStop (countChange (stageLane (closeBoth s1 n) 1 n))

/-- A lane stops: its ACTIVE partner takes over its switch in every released sluice. With no ACTIVE partner nothing drives a
switch, and a partner in SHADOW, with nothing to adopt from now, becomes ACTIVE at the next boundary (log entry 86). -/
def laneDown (s : State) (l : LaneId) (st : LaneState) : State :=
  let old := sluStates s
  let v := viewLane s
  let s1 := setLane s l { getLane s l with st := st, downSinceUs := s.clk.nowUs, down1s := false, fresh := false }
  let p := other l
  if (getLane s1 p).st ≠ .active then
    let s2 := sluList.foldl (laneLeaves v) s1
    let s3 := if (getLane s2 p).st = .shadow then setLane s2 p { getLane s2 p with fresh := true } else s2
    postSluChanges s3 old
  else
    sluList.foldl (fun s n =>
      let s3 := setTake s l n false
      if (laneSl (getLane s3 p) n).released then stageLane (setTake s3 p n true) 3 n else s3) s1

/-- LANE_DEATH. -/
def laneDies (s : State) (l : LaneId) (c : LaneCause) : State :=
  if laneDead s l then s
  else
    let s1 := match c with
      | .stuck n => setOut s n.val { getOut s n.val with swStuck := true }
      | .noEdge => s
    laneDown s1 l .dead

/-- What a returning lane with nothing to adopt starts from: every sluice withdrawn, except those lane A's latch holds. -/
def latchedSl (s : State) : SMap LaneSl :=
  sluList.foldl (fun m n => if (getOut s n).latched then smPut m n (laneSl s.slu.a n) LaneSl.reset else m) []

/-- LANE_RETURN: SHADOW, adopting the partner's state; lane B's tables are filled from lane A's. -/
def laneReturns (s : State) (l : LaneId) : State :=
  let x := getLane s l
  let p := getLane s (other l)
  let up := match l with
    | .a => true
    | .b => domReady s dSLUICE
  if !laneDead s l || !up then s
  else
    let adopt := decide (p.st = .active)
    let y : Lane := { x with st := .shadow, down1s := false, fresh := !adopt,
                             sl := if adopt then p.sl else latchedSl s }
    let z := match l with
      | .a => y
      | .b => { y with slots := s.slu.a.slots, toks := s.slu.a.toks }
    setLane s l z

/-- The two lanes hold the same entry for every slot. -/
def slotsAgree (s : State) : Bool := s.slu.a.slots == s.slu.b.slots

/-- The handover: the rejoined lane drives again, the takeover is released (R201, R202). The rejoin is journalled for each
sluice taken over, or, where none was, for sluice 0 (log entry 86). -/
def laneActive (s : State) (l : LaneId) : State :=
  let s1 := setLane s l { getLane s l with st := .active, fresh := false }
  let p := other l
  let took := sluList.filter fun n => match p with
    | .a => (getOut s n).takeA
    | .b => (getOut s n).takeB
  let s2 := took.foldl (fun s n => setTake s p n false) s1
  (if took.isEmpty then [0] else took).foldl (fun s n => stageLane s 4 n) s2

/-- LANE_REJOIN at a boundary: decisions equal and every slot entry in agreement; or, where the partner was not ACTIVE at its
return, the first boundary after it. -/
def laneRejoins (s : State) (l : LaneId) : State :=
  let x := getLane s l
  let p := getLane s (other l)
  if x.st ≠ .shadow then s
  else if x.fresh then stageLane (setLane s l { x with st := .active, fresh := false }) 4 0
  else if decide (p.st = .active) && (sluList.all fun n => laneSl x n == laneSl p n) && slotsAgree s then laneActive s l
  else s

/-- LANE_DOWN_TIMEOUT: more than 1 s DEAD (R424). -/
def laneTimeout (s : State) (l : LaneId) : State :=
  let x := getLane s l
  if x.st = .dead ∧ 1000000 < s.clk.nowUs - x.downSinceUs then setLane s l { x with down1s := true } else s

/-- Step 4 of R33, with the changes of SLUICE_SET first (R194). -/
def laneStep (s : State) : State :=
  let old := sluStates s
  let s1 := tampReport (tampTake (tripRetry (applyArming s)))
  let s2 := sluList.foldl evalSluice s1
  let s3 := latchStep { s2 with slu := { s2.slu with withdrawDue := 0 } }
  let s4 := laneRejoins (laneRejoins s3 .a) .b
  postSluChanges (laneTimeout (laneTimeout s4 .a) .b) old

/-! ### Trips (R206) -/

/-- SLUICE_STAGE_TRIP of a stage that conducts: its path is open until the retry, a stop of R425. -/
def stageTrip (s : State) (n : Nat) (thermal : Bool) : State :=
  let o := getOut s n
  if !anyReleased s || !((laneSl s.slu.a n).released || (laneSl s.slu.b n).released) || o.tripped || o.faulted then s
  else
    countStop (setOut s n { o with tripped := true, overcurrent := o.overcurrent || !thermal, overtemp := o.overtemp || thermal })

/-- SLUICE_OUTPUT_FAULTED: the third retry in a row has failed and DRIVE_HOLD is not asserted. -/
def outputFaulted (s : State) (n : Nat) : State :=
  let o := getOut s n
  if o.tripped && decide (3 ≤ o.failedRetries) && !s.slu.dhold && !o.faulted then
    let old := sluStates s
    postSluChanges (stageLane (setOut s n { o with faulted := true }) 6 n) old
  else s

end Sys2Proof.Machine
end

