-- ==== Sys2Proof/Machine/Ledger.lean ====
section
/-! DEFINITION. The meter and the credit ledger (R209 to R232): the interval close, billing, vouchers, thresholds, the two
counter copies, counter records and the last gasp.

Marked choices (log entries): DESIGN CHOICE 30; DEDUCED 58, 59. -/

namespace Sys2Proof.Machine

open Sys2Proof

/-! ### Interval close (R211 to R214) -/

/-- The meter configuration that governs the samples of an interval, and its length (R216, R32). -/
structure MeterCfg where
  cfg : Word
  keM : Word
  trimI : Word
  trimV : Word
  fallback : Word
  ldgCfg : Word
  lenUs : Nat

def meterCfg (s : State) : MeterCfg :=
  ⟨reg s .mtrCfg, reg s .keM, reg s .trimI, reg s .trimV, reg s .fallback, reg s .ldgCfg, beatUs s⟩

/-- The meter runs: the ledger is ACTIVE or CLOSING and METER is on (R217). -/
def meterRuns (s : State) : Bool :=
  (decide (s.ldg.st = .active) || decide (s.ldg.st = .closing)) && domReady s dMETER

def fullScale : Int := 8388607

/-! The decimators (R211). The bits before the first that a power-up of METER or of the device brought weigh nothing, the phase of
the outputs goes on across a change of OSR, and what the 24 bits of a sample drop at OSR 512 rounds half away from zero
(log entry 58). -/

/-- 0, 1, 3, 6, …: the sum of the first `n` positive integers. -/
def triangle (n : Nat) : Nat := n * (n + 1) / 2

/-- Weight that a sinc3 decimator of ratio `m` gives the bit that arrived `k` clocks before its output. -/
def sincWeight (m k : Nat) : Nat :=
  if 3 * m ≤ k + 2 then 0 else triangle (k + 1) + 3 * triangle (k + 1 - 2 * m) - 3 * triangle (k + 1 - m)

/-- The weighed sum of a stretch of bits, newest first, from age `k` on. -/
def sincSum (m : Nat) : Nat → List Bool → Int
  | _, [] => 0
  | k, b :: t => (if b then (sincWeight m k : Int) else -(sincWeight m k : Int)) + sincSum m (k + 1) t

/-- A decimated sample: ±2^23 at 100 % density of ones or zeros. -/
def sinc3 (m : Nat) (l : List Bool) : Int := rdiv (sincSum m 0 (l.take (3 * m - 2)) * 8388608) (m ^ 3)

def osrOf (c : MeterCfg) : Nat := 2 ^ (6 + fld c.cfg 10 2)

/-- DLY_V: modulator clocks that the V bits lag the I bits; negative: that the I bits lag. -/
def dlyOf (c : MeterCfg) : Int := sgn 8 (fld c.cfg 16 8)

/-- Bits that the longest decimator with the longest delay weighs. -/
def histCap : Nat := 3 * 512 - 2 + 128

/-- One modulator clock: the meter, and the sample pair that falls at it. -/
def modClock (c : MeterCfg) (m : Meter) (b : Bool × Bool) : Meter × Option (Int × Int) :=
  let h := b :: m.hist.take (histCap - 1)
  if m.phase + 1 < osrOf c then ({ m with hist := h, phase := m.phase + 1 }, none)
  else
    let d := dlyOf c
    ({ m with hist := h, phase := 0 },
     some (sinc3 (osrOf c) ((h.map (·.1)).drop (-d).toNat), sinc3 (osrOf c) ((h.map (·.2)).drop d.toNat)))

/-- The sample pairs whose instants fall within a stretch of modulator bits (R211, R213). -/
def decimate (c : MeterCfg) : Meter → List (Bool × Bool) → Meter × List (Int × Int)
  | m, [] => (m, [])
  | m, b :: t =>
    let x := modClock c m b
    let y := decimate c x.1 t
    (y.1, x.2.toList ++ y.2)

/-- A trimmed sample, and whether it was clamped (R211). -/
def trimSample (t : Word) (v : Int) : Int × Bool :=
  let r := rdiv ((v + sgn 16 (fld t 16 16)) * (4194304 + sgn 16 (fld t 0 16))) 4194304
  (clampInt (-fullScale) fullScale r, decide (r < -fullScale) || decide (fullScale < r))

/-- A current sample with the polarity of MTR_CFG.I_POL (R209). -/
def polarity (c : MeterCfg) (i : Int) : Int := if bitOf c.cfg 1 then -i else i

def trimmed (c : MeterCfg) (l : List (Int × Int)) : List ((Int × Bool) × (Int × Bool)) :=
  l.map fun p => (trimSample c.trimI (polarity c p.1), trimSample c.trimV p.2)

/-- Every sample at full density or beyond the last code (R212). -/
def saturated (l : List Int) : Bool := !l.isEmpty && l.all fun v => decide (fullScale ≤ v) || decide (v ≤ -fullScale)

/-- E in units of 2^−80 mWh: the exact sum of products times KE (R214). -/
def energy (c : MeterCfg) (l : List ((Int × Bool) × (Int × Bool))) : Int :=
  (l.foldl (fun a p => a + p.1.1 * p.2.1) 0) * (c.keM.toNat : Int) * (2 : Int) ^ (80 - fld c.cfg 24 7)

/-- Whole mWh leave the accumulators (R214). -/
def moveWhole (m : Meter) : Meter :=
  { m with eDis := m.eDis + BitVec.ofNat 64 (m.aDis / 2 ^ 80), aDis := m.aDis % 2 ^ 80,
           eChg := m.eChg + BitVec.ofNat 64 (m.aChg / 2 ^ 80), aChg := m.aChg % 2 ^ 80 }

/-- Saturating signed 32-bit mean power (MTR_P_LAST). -/
def sat32i (v : Int) : Int := clampInt (-2147483648) 2147483647 v

/-- The meter after a close over `us` µs of samples; `faulted`: R214's faulted interval. -/
def closeMeter (m : Meter) (c : MeterCfg) (l : List (Int × Int)) (us : Nat) (faulted : Bool) : Meter :=
  let t := trimmed c l
  let iOvr := m.iOvr || t.any (·.1.2)
  let vOvr := m.vOvr || t.any (·.2.2)
  if faulted then
    let p := fld c.fallback 0 24
    let w := m.fbRem + p * us
    { m with fbRem := w % 3600000, eDis := m.eDis + BitVec.ofNat 64 (w / 3600000), pLast := p,
             faultBeats := sat 32 (m.faultBeats + 1), iOvr := iOvr, vOvr := vOvr }
  else
    let e := energy c t
    let m1 := { m with aDis := if 0 ≤ e then m.aDis + e.toNat else m.aDis, aChg := if 0 ≤ e then m.aChg else m.aChg + (-e).toNat,
                       iOvr := iOvr, vOvr := vOvr,
                       pLast := sat32i (rdiv (e * 3600000) (us * 2 ^ 80)) }
    moveWhole m1

/-! ### Buckets (R218, R219) -/

/-- The conservation equation of R218. -/
def conserved (b : Buckets) : Bool := decide (b.balance + b.reserved + b.consumed + b.settled = b.accepted)

/-- A movement, made in both counter copies (R223). -/
def moveBkt (s : State) (f : Buckets → Buckets) : State := { s with ldg := { s.ldg with cA := f s.ldg.cA, cB := f s.ldg.cB } }

def bktDebit (n : Nat) (b : Buckets) : Buckets := { b with balance := b.balance - n, consumed := b.consumed + n }
def bktTopup (a : Nat) (b : Buckets) : Buckets := { b with balance := b.balance + a, accepted := b.accepted + a }
def bktReserve (a : Nat) (b : Buckets) : Buckets := { b with balance := b.balance - a, reserved := b.reserved + a }
def bktUnreserve (a : Nat) (b : Buckets) : Buckets := { b with balance := b.balance + a, reserved := b.reserved - a }
def bktSettle (a : Nat) (b : Buckets) : Buckets := { b with consumed := b.consumed - a, settled := b.settled + a }
def bktForfeit (a : Nat) (b : Buckets) : Buckets := { b with reserved := b.reserved - a, settled := b.settled + a }

/-- The billed increase of the energy counters under BASIS (R220). -/
def billedInc (c : MeterCfg) (m0 m1 : Meter) : Nat :=
  let d := (m1.eDis - m0.eDis).toNat
  let g := (m1.eChg - m0.eChg).toNat
  match fld c.ldgCfg 0 2 with
  | 1 => g | 2 => d + g | _ => d

/-- The debit of R220: whole 1000 mWh leave BALANCE, the rest stays in BILL_RES. -/
def bill (s : State) (inc : Nat) : State :=
  let r := s.ldg.billRes + inc
  moveBkt { s with ldg := { s.ldg with billRes := r % 1000 } } (bktDebit (r / 1000))

/-- Closes an interval, or the part of one, and bills it (R214, R220). -/
def closeAndBill (s : State) (c : MeterCfg) (l : List (Int × Int)) (us : Nat) (faulted : Bool) : State :=
  let m := closeMeter s.mtr c l us faulted
  let s1 := bill { s with mtr := m } (billedInc c s.mtr m)
  if faulted then
    { s1 with ldg := { s1.ldg with sumFaults := s1.ldg.sumFaults + 1, periodFaults := s1.ldg.periodFaults + 1 } }
  else s1

/-- Step 1 and step 2 of R221 for the beat that ends. -/
def intervalClose (s : State) (c : MeterCfg) (l : List (Int × Int)) : State :=
  let si := saturated (l.map (·.1))
  let sv := saturated (l.map (·.2))
  let m := s.mtr
  let faulted := m.faulted || m.iStuck || m.vStuck || si || sv
  let s1 := closeAndBill s c l (c.lenUs - m.gaspUs) faulted
  { s1 with mtr := { s1.mtr with iFault := m.iStuck || si, vFault := m.vStuck || sv, faulted := m.iStuck || m.vStuck,
                                 gaspUs := 0 } }

/-- METER_INPUT_FAULT: no transition for 256 modulator clocks, or the first transition after that (R212). -/
def inputFault (s : State) (vInput faulted : Bool) : State :=
  let m := s.mtr
  let m1 := if vInput then { m with vStuck := faulted, vFault := m.vFault || faulted }
    else { m with iStuck := faulted, iFault := m.iFault || faulted }
  { s with mtr := { m1 with faulted := m1.faulted || faulted } }

/-! ### Counter records (R229, R230) -/

def counterNow (s : State) (kind : Nat) : CounterRec :=
  { rseq := s.ldg.rseq + 1, kind := kind, st := s.ldg.st, lgen := s.ldg.lgen, beat := s.clk.beat, bkt := s.ldg.cA,
    eDis := s.mtr.eDis, eChg := s.mtr.eChg, aDis := s.mtr.aDis, aChg := s.mtr.aChg, billRes := s.ldg.billRes, h := s.ldg.h,
    map := s.ldg.map, seq := s.jrn.nextSeq - 1, kgen := s.jrn.kgen, faultBeats := s.mtr.faultBeats, svcUs := s.ldg.svcUs,
    fbRem := s.mtr.fbRem }

/-- Writes a counter record of a kind: 0 PERIODIC, 1 VOUCHER, 2 LAST_GASP, 3 PARK, 4 CHECKPOINT, 5 ADVANCE, 6 METER_SET. -/
def writeCounter (s : State) (kind : Nat) : State :=
  flashRenew { s with fl := { s.fl with counter := some (counterNow s kind),
                                        ring := (s.fl.counter.toList ++ s.fl.ring).take (ringRecs - 1) },
                      ldg := { s.ldg with rseq := s.ldg.rseq + 1 } } 3 (s.ldg.rseq % ringRecs * 256) 256

/-- Loads the counters of a record (R230). -/
def loadCounters (s : State) (r : CounterRec) : State :=
  { s with mtr := { s.mtr with eDis := r.eDis, eChg := r.eChg, aDis := r.aDis, aChg := r.aChg, faultBeats := r.faultBeats,
                               fbRem := r.fbRem },
           ldg := { s.ldg with cA := r.bkt, cB := r.bkt, billRes := r.billRes, h := r.h, map := r.map, lgen := r.lgen,
                               rseq := r.rseq, svcUs := r.svcUs } }

/-- COUNTER_RECORD_PERIODIC: PERSIST × 100 ms have passed (R229). -/
def counterDue (s : State) : Bool :=
  meterRuns s && decide (s.ldg.lastPeriodicUs + 100000 * regF s .ldgCfg 16 7 ≤ s.clk.nowUs)

def periodicCounter (s : State) : State :=
  if counterDue s then
    let s1 := writeCounter s 0
    { s1 with ldg := { s1.ldg with lastPeriodicUs := s1.clk.nowUs } }
  else s

/-! ### Thresholds and the two copies (R222, R223) -/

/-- A CREDIT_STATE record (R235). -/
def stageCredit (s : State) (event rseq : Nat) : State :=
  stage s 0x03 0 [(20, leBytes event 1), (21, leBytes (b2n s.slu.dhold) 1), (22, leBytes (releasedMask s) 1),
    (24, leBytes (wrapInt 64 s.ldg.cA.balance) 8), (32, leBytes (wrapInt 64 s.ldg.odPeak) 8), (40, leBytes rseq 4)]

def creditEvent (s : State) (d : Nat) : State := stageCredit (postEvent s evCreditLow srcLedger d) d 0

def lowLimit (s : State) : Int := sgn 32 (reg s .ldgLow).toNat
def minLimit (s : State) : Int := sgn 32 (reg s .creditMin).toNat

/-- Step 4 of R221. -/
def thresholds (s0 : State) : State :=
  let b := s0.ldg.cA.balance
  let s := if b < s0.ldg.odPeak then { s0 with ldg := { s0.ldg with odPeak := b } } else s0
  let s1 := if s.ldg.lowArmed && decide (b ≤ lowLimit s) then
      creditEvent { s with ldg := { s.ldg with lowArmed := false } } 0
    else if lowLimit s < b then { s with ldg := { s.ldg with lowArmed := true } } else s
  let s2 := if s1.ldg.minArmed && decide (b ≤ minLimit s1) then
      creditEvent { s1 with ldg := { s1.ldg with minArmed := false } } 1
    else if minLimit s1 < b then { s1 with ldg := { s1.ldg with minArmed := true } } else s1
  if s2.ldg.odArmed && decide (b < 0) then creditEvent { s2 with ldg := { s2.ldg with odArmed := false } } 2
  else if !s2.ldg.odArmed && decide (0 ≤ b) then stageCredit { s2 with ldg := { s2.ldg with odArmed := true } } 3 0
  else s2

/-- The thresholds as the balance stands, with nothing posted: at the opening of the ledger and at a start. -/
def armThresholds (s : State) : State :=
  let b := s.ldg.cA.balance
  { s with ldg := { s.ldg with lowArmed := decide (lowLimit s < b), minArmed := decide (minLimit s < b), odArmed := decide (0 ≤ b),
                               odPeak := min b 0 } }

/-- Both copies from the newest counter record; from nothing where there is none (R223, R230). -/
def reloadCopies (s : State) : State :=
  match s.fl.counter with
  | some r => loadCounters s r
  | none => { s with ldg := { s.ldg with cA := .zero, cB := .zero } }

/-- LEDGER_COPY_CHECK (R223). -/
def copyCheck (s : State) : State :=
  let okA := conserved s.ldg.cA
  let okB := conserved s.ldg.cB
  if okA && okB && decide (s.ldg.cA = s.ldg.cB) then s
  else if okA && !okB then { s with ldg := { s.ldg with cB := s.ldg.cA, copyFix := true } }
  else if okB && !okA then { s with ldg := { s.ldg with cA := s.ldg.cB, copyFix := true } }
  else
    let s1 := reloadCopies s
    stageCredit { s1 with ldg := { s1.ldg with consErr := true } } 4 s1.ldg.rseq

/-! ### Vouchers (R224 to R228) -/

/-- A serial is fresh in the window (R226). -/
def serialFresh (h : Nat) (map : BitVec 1024) (n : Nat) : Bool :=
  decide (n ≤ h + 2 ^ 24) && (decide (h < n) || (decide (n < h) && decide (h ≤ n + 1024) && !map.getLsbD (h - 1 - n)))

/-- The window after a serial is accepted. -/
def windowPut (h : Nat) (map : BitVec 1024) (n : Nat) : Nat × BitVec 1024 :=
  if h < n then
    let d := n - h
    (n, (map <<< d) ||| (if h = 0 then 0 else BitVec.ofNat 1024 (2 ^ (d - 1))))
  else (h, map ||| BitVec.ofNat 1024 (2 ^ (h - 1 - n)))

def voucherShape (s : State) (b : List Byte) : Bool :=
  let ty := leAt b 2 1
  let am := leAt b 20 8
  decide (leAt b 0 2 = 0x5601) && decide (leAt b 3 1 = 0) && decide (1 ≤ ty) && decide (ty ≤ 6) &&
    decide (leAt b 4 8 = Config.deviceUid.toNat) && decide (leAt b 18 2 = s.ldg.lgen.toNat) &&
    (if ty = 6 then decide (am = 0) else decide (1 ≤ am) && decide (am ≤ 2 ^ 40) && decide (leAt b 28 4 = 0)) &&
    decide (1 ≤ leAt b 12 6) && decide (leAt b 12 6 ≤ s.ldg.h + 2 ^ 24)

def voucherTagOk (s : State) (b : List Byte) : Bool := cmac (nodeKey (getNode s 5)) (toN (b.take 48)) == toN (slice b 48 16)

/-- Checks 1 to 5 of R227 of one voucher, against a window that counts what is waiting. -/
def judgeVoucher (s : State) (w : Nat × BitVec 1024) (b : List Byte) : State × Voucher :=
  let v : Voucher := ⟨leAt b 2 1, leAt b 12 6, BitVec.ofNat 16 (leAt b 18 2), leAt b 20 8, BitVec.ofNat 32 (leAt b 28 4), none⟩
  if s.ldg.st ≠ .active then (s, { v with refused := some .lifecycleDenied })
  else if !(nodeLive s 16 && nodeLive s 5) then (s, { v with refused := some .keyInvalid })
  else if !voucherShape s b then (s, { v with refused := some .voucherBad })
  else
    let s1 := countUse s 5
    if !voucherTagOk s b then (s1, { v with refused := some .voucherBad })
    else if !serialFresh w.1 w.2 v.serial then (s1, { v with refused := some .voucherReplay })
    else (s1, v)

/-- The window as it will stand once the waiting vouchers are applied. -/
def pendingWindow (s : State) : Nat × BitVec 1024 :=
  s.ldg.due.foldl (fun w d => if d.2.refused.isNone && decide (d.2.lgen = s.ldg.lgen) then windowPut w.1 w.2 d.2.serial else w)
    (s.ldg.h, s.ldg.map)

/-- Judges the vouchers of one command in order. -/
def judgeAll : State → Nat × BitVec 1024 → List (List Byte) → State × List Voucher
  | s, _, [] => (s, [])
  | s, w, b :: t =>
    let x := judgeVoucher s w b
    let w1 := if x.2.refused.isNone then windowPut w.1 w.2 x.2.serial else w
    let y := judgeAll x.1 w1 t
    (y.1, x.2 :: y.2)

/-- Check 6 of R227 and the movement. -/
def moveVoucher (s : State) (v : Voucher) : State × Status :=
  let b := s.ldg.cA
  let a : Int := v.amount
  match v.type with
  | 1 => if b.accepted + a ≤ 2 ^ 62 then (moveBkt s (bktTopup v.amount), .ok) else (s, .voucherBad)
  | 2 => if a ≤ b.balance then (moveBkt s (bktReserve v.amount), .ok) else (s, .creditExhausted)
  | 3 => if a ≤ b.reserved then (moveBkt s (bktUnreserve v.amount), .ok) else (s, .creditExhausted)
  | 4 => if a ≤ b.consumed then (moveBkt s (bktSettle v.amount), .ok) else (s, .creditExhausted)
  | 5 => if a ≤ b.reserved then (moveBkt s (bktForfeit v.amount), .ok) else (s, .creditExhausted)
  | _ =>
    if s.cfg.meterPend.isEmpty || !(meterCopyCrc s == v.ref) || meterCopyBad s then (s, .voucherBad)
    else (stageMeterCfg (applyMeterCopy s) v.ref v.serial, .ok)

/-- A VOUCHER record (R235). -/
def stageVoucher (s : State) (v : Voucher) (st : Status) : State :=
  stage s 0x02 0 [(20, leBytes v.type 1), (22, leBytes (statusCode st) 2), (24, leBytes v.serial 6), (30, leBytes v.lgen.toNat 2),
    (32, leBytes v.amount 8), (40, leBytes (wrapInt 64 s.ldg.cA.balance) 8)]

/-- One voucher at its boundary: movement, window, counts and record. -/
def applyVoucher (s : State) (v : Voucher) : State × Status :=
  match v.refused with
  | some st => (stageVoucher { s with ldg := { s.ldg with vRefused := sat 16 (s.ldg.vRefused + 1) } } v st, st)
  | none =>
    let x := moveVoucher s v
    let l := x.1.ldg
    if x.2.isOk then
      let w := if v.lgen = l.lgen then windowPut l.h l.map v.serial else (l.h, l.map)
      (stageVoucher { x.1 with ldg := { l with h := w.1, map := w.2, vAccepted := sat 16 (l.vAccepted + 1),
                                               periodVouchers := l.periodVouchers + 1, lastVoucherBeat := x.1.clk.beat } } v x.2, x.2)
    else (stageVoucher { x.1 with ldg := { l with vRefused := sat 16 (l.vRefused + 1) } } v x.2, x.2)

/-- The output record of a voucher without its BALANCE (R228). -/
def voucherRec (s : State) (i : Nat) (v : Voucher) (st : Status) : Rec :=
  { key := i, status := some st, good := st.isOk, foreign := false, retried := false, migrated := false, beat := s.clk.beat,
    bytes := layBytes 16 [(0, leBytes v.serial 6), (6, leBytes v.type 1), (8, leBytes (statusCode st) 2), (12, leBytes s.clk.beat.toNat 4)] }

def applyVouchers : State → Nat → List Voucher → State × List Rec
  | s, _, [] => (s, [])
  | s, i, v :: t =>
    let x := applyVoucher s v
    let y := applyVouchers x.1 (i + 1) t
    (y.1, voucherRec s i v x.2 :: y.2)

/-- The movements of one LEDGER_TOPUP with its counter records (R228, step 3). -/
def applyTopup (s : State) (uid : Nat) (vs : List Voucher) : State :=
  let x := applyVouchers s 0 vs
  let set_ := (vs.zip x.2).any fun p => p.1.type == 6 && p.2.good
  let s1 := writeCounter (if set_ then writeCounter x.1 6 else x.1) 1
  let s2 := match findCmd s1 uid with
    | some c => putCmd s1 { c with recs := x.2 }
    | none => s1
  { s2 with fl := { s2.fl with topupUids := s2.fl.topupUids ++ [(uid, s2.clk.beat)] } }

/-- The commands with vouchers due, oldest first. -/
def dueUids (l : List (Nat × Voucher)) : List Nat := (l.map (·.1)).eraseDups

/-- Sets BALANCE after the boundary in the records of a command. -/
def fillBalance (s : State) (uid : Nat) : State :=
  match findCmd s uid with
  | some c => putCmd s { c with recs := c.recs.map fun r =>
      { r with bytes := padTo 32 (r.bytes.take 16 ++ leBytes (wrapInt 64 s.ldg.cA.balance) 8) } }
  | none => s

/-- VOUCHER_APPLY: step 3 of R221. -/
def voucherStep (s : State) : State :=
  let due := s.ldg.due
  let ids := dueUids due
  let s1 := ids.foldl (fun s u => applyTopup s u ((due.filter fun d => d.1 == u).map (·.2)))
    { s with ldg := { s.ldg with due := [] } }
  ids.foldl fillBalance s1

/-- The end of a LEDGER_TOPUP's counter record: its completion (R228, step 4). -/
def finishTopup (s : State) (uid : Nat) (beat : BitVec 64) (good : Bool) : State :=
  match findCmd s uid with
  | none => s
  | some c =>
    if !good then finishCmd s c .abortedStop 0 beat []
    else
      let acc := (c.recs.filter (·.good)).length
      let ref := (c.recs.filter fun r => !r.good).length
      let st := match c.recs.find? fun r => !r.good with
        | some r => r.status.getD .ok
        | none => .ok
      let out := if descLenOut c.desc = 0 then [] else c.recs.flatMap (·.bytes)
      finishCmd s c st (BitVec.ofNat 32 (acc + 256 * ref)) beat out

/-- A command whose vouchers were all refused because no ledger runs completes without a counter record. -/
def refuseTopup (s : State) (uid : Nat) (vs : List Voucher) : State :=
  let x := applyVouchers s 0 vs
  match findCmd x.1 uid with
  | some c => finishTopup (fillBalance (putCmd x.1 { c with recs := x.2 }) uid) uid x.1.clk.beat true
  | none => x.1

/-- Vouchers still due after step 3 of R221, because no ledger runs. -/
def settleDue (s : State) : State :=
  let due := s.ldg.due
  (dueUids due).foldl (fun s u => refuseTopup s u ((due.filter fun d => d.1 == u).map (·.2))) { s with ldg := { s.ldg with due := [] } }

/-! ### Step 3 of R33, and the last gasp -/

/-- The decimators take a stretch of modulator bits. -/
def decimated (s : State) (c : MeterCfg) (bits : List (Bool × Bool)) : State := { s with mtr := (decimate c s.mtr bits).1 }

/-- Step 3 of R33 in the order of R221, over the beat that ends. -/
def ledgerStep (s : State) (c : MeterCfg) (bits : List (Bool × Bool)) : State :=
  let l := (decimate c s.mtr bits).2
  if !meterRuns s then decimated s c bits
  else
    let s1 := intervalClose (copyCheck (decimated s c bits)) c l
    thresholds (voucherStep { s1 with ldg := { s1.ldg with svcUs := s1.ldg.svcUs + c.lenUs } })

/-- Time of a number of modulator clocks, µs (R210). -/
def bitsUs (c : MeterCfg) (n : Nat) : Nat := n * fld c.cfg 4 6 / 160

/-- Closes and bills the part of the interval in progress up to now, whose modulator bits these are (R213). -/
def closePart (s : State) (bits : List (Bool × Bool)) : State :=
  let c := meterCfg s
  let us := min (bitsUs c bits.length) (c.lenUs - s.mtr.gaspUs)
  let s1 := closeAndBill (decimated s c bits) c (decimate c s.mtr bits).2 us (s.mtr.faulted || s.mtr.iFault || s.mtr.vFault)
  { s1 with mtr := { s1.mtr with gaspUs := s1.mtr.gaspUs + us } }

/-- LAST_GASP: closes and bills the part of the interval up to the warning, and writes its record (R231). -/
def lastGasp (s : State) (bits : List (Bool × Bool)) : State :=
  if !meterRuns s then s else writeCounter (closePart s bits) 2

/-! ### Period summary (R235) -/

def summaryDue (s : State) : Bool :=
  meterRuns s && decide (s.ldg.lastSummaryUs + 1000000 * regF s .ldgCfg 8 8 ≤ s.clk.nowUs)

/-- METER_SUMMARY_PERIOD: JPER seconds have passed. -/
def meterSummary (s : State) : State :=
  if summaryDue s then
    let s1 := stage s 0x01 0 [(20, leBytes (s.mtr.eDis - s.ldg.sumEDis).toNat 8), (28, leBytes (s.mtr.eChg - s.ldg.sumEChg).toNat 8),
      (36, leBytes (wrapInt 64 s.ldg.cA.balance) 8), (44, leBytes s.ldg.sumFaults 4)]
    { s1 with ldg := { s1.ldg with lastSummaryUs := s1.clk.nowUs, sumEDis := s1.mtr.eDis, sumEChg := s1.mtr.eChg, sumFaults := 0 } }
  else s

/-! ### The ledger's part in an advance (R243) -/

/-- Boundary c: RESERVED returns to BALANCE, then the disposition: 1 CARRY, 2 SURRENDER; the CARRY record. -/
def closeBuckets (b : Buckets) (disp : Nat) : Buckets :=
  let r := b.balance + b.reserved
  if disp = 2 ∧ 0 < r then { b with balance := 0, reserved := 0, settled := b.settled + r }
  else { b with balance := r, reserved := 0 }

def closeLedger (s : State) (disp frm dest : Nat) : State :=
  let b0 := s.ldg.cA
  let s1 := moveBkt s fun b => closeBuckets b disp
  let b1 := s1.ldg.cA
  (stage s1 0x05 0 [(20, leBytes disp 1), (21, leBytes frm 1), (22, leBytes dest 1), (24, leBytes (wrapInt 64 b1.balance) 8),
    (32, leBytes (wrapInt 64 (b1.settled - b0.settled)) 8), (40, leBytes (wrapInt 64 b0.reserved) 8)])

/-! ### The ledger report (R244) -/

def ledgerReport (s : State) : List Byte :=
  let b := s.ldg.cA
  let i64 := fun (v : Int) => leBytes (wrapInt 64 v) 8
  let fl := b2n (decide (b.balance < 0)) + 2 * b2n s.mtr.iFault + 4 * b2n s.mtr.vFault + 8 * b2n (!s.cfg.meterPend.isEmpty) +
    16 * b2n s.ldg.consErr + 32 * b2n (decide (b.balance ≤ lowLimit s))
  let l := layBytes 120 [(0, leBytes s.clk.beat.toNat 8), (8, i64 b.balance ++ i64 b.reserved ++ i64 b.consumed ++ i64 b.settled ++ i64 b.accepted),
    (48, leBytes s.mtr.eDis.toNat 8), (56, leBytes s.mtr.eChg.toNat 8), (64, leBytes s.ldg.h 6), (70, leBytes s.ldg.lgen.toNat 2),
    (72, leBytes s.ldg.billRes 2), (74, leBytes (match s.ldg.st with
      | .off => 0
      | .active => 1
      | .parked => 2
      | .closing => 3
      | .closed => 4) 1), (75, leBytes fl 1), (76, leBytes s.mtr.faultBeats 4), (80, i64 s.ldg.odPeak), (88, leBytes s.ldg.ckptBeat.toNat 8),
    (96, leBytes s.jrn.sealedSeq 6), (102, leBytes s.jrn.sealedKgen.toNat 2), (104, leBytes (wrapInt 32 s.mtr.pLast) 4),
    (112, leBytes s.ldg.lastVoucherBeat.toNat 8)]
  withCrc l ++ List.replicate 4 0#8

end Sys2Proof.Machine
end

