-- ==== Sys2Proof/Machine/Journal.lean ====
section
/-! DEFINITION. The journal as the keeper keeps it (R233 to R240, R245, R246, R467): sealing, checkpoints, compaction, rolls
and reading.

Marked choices (log entries): DEDUCED 52, 57. -/

namespace Sys2Proof.Machine

open Sys2Proof

/-! ### Records and the chain -/

/-- CHAIN of a record after `prev`, under K_j (R234). -/
def chainOf (s : State) (prev : BitVec 128) (r : JRec) : BitVec 128 :=
  BitVec.ofNat 128 (beN (cmac (nodeKey (getNode s 3)) (toN (beBytes prev.toNat 16 ++ recHead r))))

/-- The K_j of the current KGEN is in key RAM. One that has reached its limit still ends its chain (log entry 52). -/
def kjHeld (s : State) : Bool :=
  let n := getNode s 3
  n.loaded && (decide (n.st = .active) || decide (n.st = .retired)) && decide (n.gen = s.jrn.kgen)

def unsealed (l : List JRec) : Bool := l.any fun r => r.chain.isNone

/-- The chain goes on with record `r`, sealed: CHAIN, and what LDG_JSEQ shows. -/
def sealInto (s : State) (r : JRec) : State × JRec :=
  let c := chainOf s s.jrn.prevChain r
  let s1 := countUse s 3
  ({ s1 with jrn := { s1.jrn with sealedSeq := r.seq, sealedKgen := r.kgen, sealedChain := c, prevChain := c } }, { r with chain := some c })

def sealList : State → List JRec → State × List JRec
  | s, [] => (s, [])
  | s, r :: t =>
    if r.chain.isNone then
      let x := sealInto s r
      let y := sealList x.1 t
      (y.1, x.2 :: y.2)
    else
      let y := sealList s t
      (y.1, r :: y.2)

/-- The CHAIN fields of the records of a list that had none are written, the first of the list being number `k` of the journal. -/
def programChains : List JRec → State → Nat → State
  | [], s, _ => s
  | r :: t, s, k => programChains t (if r.chain.isNone then flashRenew s 6 (jrecOff s k + 48) 16 else s) (k + 1)

/-- JOURNAL_CHAIN_CATCHUP: programs the CHAIN fields of the records drained without a usable K_j, in SEQ order (R467). -/
def chainCatchup (s : State) : State :=
  if unsealed s.fl.journal && kjHeld s && !keyBusy s && !engineFailed s && keeperUp s then
    let x := sealList s s.fl.journal
    programChains s.fl.journal { x.1 with fl := { x.1.fl with journal := x.2 } } 0
  else s

/-- JOURNAL_SEAL: the oldest staged record goes to flash, sealed where a K_j is usable (R25, R234, R467). Records stay staged
while the engine is FAILED (R287) or tests its pipes (R285), or the armature loads (R256). -/
def journalSealOne (s0 : State) : State :=
  match s0.jrn.staged with
  | [] => s0
  | r :: t =>
    if engineFailed s0 || keyBusy s0 || !keeperUp s0 then s0
    else
      let s := chainCatchup s0
      let s1 := { s with jrn := { s.jrn with staged := t } }
      let x := if kjHeld s1 then sealInto s1 r else (s1, r)
      flashRenew { x.1 with fl := { x.1.fl with journal := x.1.fl.journal ++ [x.2] } } 6 (jrecOff x.1 x.1.fl.journal.length) 64

/-- Drains the staging buffer. -/
def sealAllGo : Nat → State → State
  | 0, s => s
  | k + 1, s => sealAllGo k (journalSealOne s)

def sealAll (s : State) : State := chainCatchup (sealAllGo s.jrn.staged.length s)

/-! ### Checkpoints (R237, R238) -/

/-- The record types in the order of R235. -/
def recTypes : List Nat := [0x01, 0x02, 0x03, 0x04, 0x05, 0x06, 0x10, 0x20, 0x21, 0x30, 0x40, 0x50, 0x60, 0x70]

/-- A record that no stored checkpoint covers. -/
def uncovered (s : State) (r : JRec) : Bool := r.kgen == s.jrn.firstUncoveredKgen && decide (s.jrn.firstUncovered ≤ r.seq)

/-- Bytes 64 to 127: the counters. -/
def ckptCounters (s : State) : List Byte :=
  let b := s.ldg.cA
  let i64 := fun (v : Int) => leBytes (wrapInt 64 v) 8
  i64 b.balance ++ i64 b.reserved ++ i64 b.consumed ++ i64 b.settled ++ i64 b.accepted ++ leBytes s.mtr.eDis.toNat 8 ++
    leBytes s.mtr.eChg.toNat 8 ++ leBytes s.ldg.billRes 2 ++ leBytes s.ldg.h 6

/-- Bytes 0 to 239 of a checkpoint whose records are sealed. -/
def ckptHead (s : State) (type number disp nonce : Nat) (ctr : List Byte) : List Byte :=
  let per := s.fl.journal.filter (uncovered s)
  layBytes 240 [(0, leBytes type 1), (1, leBytes (lcState s) 1), (2, leBytes (getNode s 4).gen.toNat 2), (4, leBytes number 4),
    (8, leBytes Config.deviceUid.toNat 8), (16, leBytes s.clk.beat.toNat 8), (24, leBytes (s.ldg.svcUs / 1000) 8),
    (32, leBytes s.jrn.firstUncovered 6), (38, leBytes s.jrn.firstUncoveredKgen.toNat 2), (40, leBytes (s.jrn.nextSeq - 1) 6),
    (46, leBytes s.jrn.sealedKgen.toNat 2), (48, beBytes s.jrn.sealedChain.toNat 16), (64, ctr),
    (128, leBytes (wrapInt 64 s.ldg.odPeak) 8), (136, leBytes s.ldg.periodFaults 4), (140, leBytes s.ldg.periodVouchers 4),
    (144, leBytes disp 1), (152, recTypes.flatMap fun t => leBytes ((per.filter fun r => r.type == t).length) 4),
    (208, leBytes nonce 8), (224, beBytes s.jrn.prevTag.toNat 16)]

def ckptTag (s : State) (head : List Byte) : List Nat := cmac (nodeKey (getNode s 4)) (toN head)

/-- K_c can be used (R245). -/
def kcHeld (s : State) : Bool := nodeLive s 4

/-- A CHECKPOINT record (R235). -/
def stageCkpt (s : State) (type number : Nat) (tag : BitVec 128) : State :=
  stage s 0x70 9 [(20, leBytes type 1), (24, leBytes number 4), (28, beBytes tag.toNat 16)]

/-- Weekly form: seven DAILY checkpoints in a row as one. -/
def mergeWeek (s : State) (prev : BitVec 128) (l : List Ckpt) : Option Ckpt :=
  match l.head?, l.getLast? with
  | some a, some z =>
    let sum := fun (i k : Nat) => (l.map fun c => leAt c.bytes i k).foldl (· + ·) 0
    let peak := (l.map fun c => sgn 64 (leAt c.bytes 128 8)).foldl min 0
    let head := layBytes 240 [(0, z.bytes.take 32), (32, slice a.bytes 32 8), (40, slice z.bytes 40 88), (128, leBytes (wrapInt 64 peak) 8),
      (136, leBytes (sum 136 4) 4), (140, leBytes (sum 140 4) 4), (152, (List.range 14).flatMap fun i => leBytes (sum (152 + 4 * i) 4) 4),
      (224, beBytes prev.toNat 16)]
    let tag := BitVec.ofNat 128 (beN (ckptTag s head))
    some { number := z.number, type := 0, lastSeq := z.lastSeq, beat := z.beat, tag := tag, bytes := head ++ beBytes tag.toNat 16,
           weekly := true }
  | _, _ => none

/-- Replaces DAILY checkpoints by weekly ones, `n` dailies from the oldest on; `run` holds the week in hand, oldest first, and
`prev` is the TAG before it. A run that another checkpoint ends before its seventh day stays in daily form, and a checkpoint keeps
the TAG that its own TAG signs (log entry 57). -/
def weeklyGo (s : State) : List Ckpt → Nat → BitVec 128 → List Ckpt → List Ckpt
  | [], _, _, run => run
  | c :: t, n, prev, run =>
    if c.type = 0 ∧ !c.weekly ∧ 0 < n then
      if run.length = 6 then
        match mergeWeek s prev (run ++ [c]) with
        | some w => w :: weeklyGo s t (n - 1) w.tag []
        | none => run ++ c :: weeklyGo s t (n - 1) c.tag []
      else weeklyGo s t (n - 1) prev (run ++ [c])
    else run ++ c :: weeklyGo s t n c.tag []

def compactCkpts (s : State) : State :=
  if 8192 < s.fl.ckpts.length + 64 then
    flashRenew { s with fl := { s.fl with ckpts := weeklyGo s s.fl.ckpts 365 0 [] } } 5 0 (areaSize 5)
  else s

/-- Stores a checkpoint: seals what it covers, tags it under K_c, and starts the next period (R238). Its number and TAG. -/
def storeCkpt (s0 : State) (type disp : Nat) (ctr : Option (List Byte)) : State × Nat × BitVec 128 :=
  let s := compactCkpts (sealAll s0)
  let num := s.jrn.ckptNext
  let head := ckptHead s type num disp 0 (ctr.getD (ckptCounters s))
  let tag := BitVec.ofNat 128 (beN (ckptTag s head))
  let c : Ckpt := { number := num, type := type, lastSeq := s.jrn.nextSeq - 1, beat := s.clk.beat, tag := tag,
                    bytes := head ++ beBytes tag.toNat 16, weekly := false }
  let s1 := countUse s 4
  let s2 := { s1 with fl := { s1.fl with ckpts := s1.fl.ckpts ++ [c] },
                      jrn := { s1.jrn with ckptNext := num + 1, prevTag := tag, firstUncovered := s1.jrn.nextSeq,
                                           firstUncoveredKgen := s1.jrn.kgen },
                      ldg := { s1.ldg with odPeak := min s1.ldg.cA.balance 0, periodFaults := 0, periodVouchers := 0,
                                           ckptBeat := s1.clk.beat } }
  (flashRenew s2 5 (256 * s1.fl.ckpts.length) 256, num, tag)

/-- A stored checkpoint with its journal record and its counter record. -/
def storeAndRecord (s : State) (type disp : Nat) (ctr : Option (List Byte)) : State :=
  let x := storeCkpt s type disp ctr
  writeCounter (stageCkpt x.1 type x.2.1 x.2.2) 4

/-- The keeper can store a checkpoint: a chain is open, K_c and the engine are usable. -/
def ckptReady (s : State) : Bool := s.jrn.isOpen && kcHeld s && !engineFailed s && !keyBusy s && keeperUp s

/-- DAILY_CHECKPOINT (R238). -/
def dailyDue (s : State) : Bool := ckptReady s && decide (s.ldg.nextDailyUs ≤ s.ldg.svcUs)

def dayUs : Nat := 86400000000

def dailyCkpt (s : State) : State :=
  if dailyDue s then
    storeAndRecord { s with ldg := { s.ldg with nextDailyUs := (s.ldg.svcUs / dayUs + 1) * dayUs } } 0 0 none
  else s

/-! ### Compaction (R239) -/

def sectorRecs : Nat := 1024

/-- Erased journal sectors (LDG_JSTAT.FREE_SECT). -/
def freeSectors (s : State) : Nat := 1920 - (s.fl.journal.length + sectorRecs - 1) / sectorRecs

/-- EV_PROGRESS and the register of compaction. -/
def compactStep (s : State) : State :=
  let planned := if s.jrn.prog.active then s.jrn.compactPlanned else 4 - freeSectors s
  let done := (if s.jrn.prog.active then s.jrn.prog.position else 0) + 1
  let old := if s.jrn.prog.active then s.jrn.prog.progress else 0
  let new := min 1000 (1000 * done / planned)
  let s0 := flashRenew s 6 (jrecOff s 0) (64 * sectorRecs)
  let s1 := { s0 with fl := { s0.fl with journal := s0.fl.journal.drop sectorRecs, jrnBase := s0.fl.jrnBase + sectorRecs },
                      jrn := { s0.jrn with compactPlanned := planned, prog := ⟨new, done, decide (done < planned)⟩ } }
  postProgress s1 4 srcJournal old new done

/-- JOURNAL_COMPACTION: fewer than 4 erased sectors; the oldest goes once it is covered, after a DAILY checkpoint where it is
not. -/
def journalCompact (s : State) : State :=
  if freeSectors s < 4 ∧ keeperUp s then
    if (s.fl.journal.take sectorRecs).any (uncovered s) then
      if ckptReady s then storeAndRecord s 0 0 none else s
    else compactStep s
  else s

/-! ### Rolls (R240) -/

/-- EV_JOURNAL_ROLL and the KEY_ROLL record. -/
def stageRoll (s : State) (reason : Nat) (old new : BitVec 16) : State :=
  stage s 0x60 9 [(20, leBytes reason 1), (22, leBytes old.toNat 2), (24, leBytes new.toNat 2)]

def postRoll (s : State) (reason : Nat) (new : BitVec 16) : State :=
  postEvent s evJournalRoll srcJournal (reason + (new.toNat % 4096) * 2 ^ 4)

/-- The reason of the roll that is due: a cause asked for one, or the SEQ has run out. -/
def rollReason (s : State) : Option Nat :=
  match s.jrn.rollDue with
  | some r => some r
  | none => if 2 ^ 48 ≤ s.jrn.nextSeq then some 1 else none

/-- A roll for reason 0, 1 or 3. -/
def rollNow (s : State) (reason : Nat) : State :=
  let x := storeCkpt s 1 0 none
  let old := x.1.jrn.kgen
  let new := old + 1
  let seq := if reason = 1 then 1 else x.1.jrn.nextSeq
  let s1 := { x.1 with jrn := { x.1.jrn with kgen := new, nextSeq := seq, firstUncovered := seq, firstUncoveredKgen := new,
                                             prevChain := x.2.2, rollDue := none } }
  let s2 := installKj s1 new.toNat
  let s3 := if reason = 3 then installKc s2 else s2
  let s4 := stageCkpt (stageRoll s3 reason old new) 1 x.2.1 x.2.2
  postRoll (writeCounter s4 4) reason new

/-- JOURNAL_ROLL: not after boundary c of an advance, where the roll for reason 2 takes its place. -/
def journalRollNow (s : State) : State :=
  let closed := match s.lcy.adv with
    | some a => a.closeDone
    | none => false
  match rollReason s with
  | some r => if ckptReady s && kjHeld s && !closed then rollNow s r else s
  | none => s

/-! ### Statements and reading (R245, R246) -/

/-- A STATEMENT checkpoint: sealed up to the boundary, not stored; journalled. Its 256 bytes. -/
def statement (s0 : State) (nonce : Nat) : State × List Byte :=
  let s := sealAll s0
  let head := ckptHead s 4 0xFFFFFFFF 0 nonce (ckptCounters s)
  let tag := BitVec.ofNat 128 (beN (ckptTag s head))
  (stageCkpt (countUse s 4) 4 0xFFFFFFFF tag, head ++ beBytes tag.toNat 16)

/-- RECORDS: from the later of START and the oldest retained. -/
def readRecs (s : State) (start count : Nat) : List Byte × Nat :=
  let l := ((journalRead s).dropWhile fun r => decide (r.seq < start)).take count
  (l.flatMap jrecBytes, l.length)

/-- FLT_ECC counts the words of the records read that SECDED corrects (R414). -/
def countRead (s : State) (start count : Nat) : State :=
  if s.fl.weak.isEmpty then s
  else
    let before := fun (p : Nat × Option JRec) => match p.2 with
      | some r => decide (r.seq < start)
      | none => true
    (((journalPlaces s).dropWhile before).take count).foldl (fun s p => countEcc s 6 (p.1 % journalRecs * 64) 64) s

def readCkpts (s : State) (start count : Nat) : List Byte × Nat :=
  let l := ((ckptsRead s).dropWhile fun c => decide (c.number < start)).take count
  (l.flatMap (·.bytes), l.length)

/-- CHAIN or TAG before the first record of `l`, whose predecessor in flash is `prev`: `none` where it is not retained. -/
def chainBefore (s : State) (prev : Option JRec) (r : JRec) : Option (BitVec 128) :=
  let last := ((ckptsRead s).filter fun c => c.type == 1 || c.type == 2).getLast?
  let anchor := match last with
    | some c => c.tag
    | none => 0
  match prev with
  | some p => if p.kgen = r.kgen then p.chain else some anchor
  | none =>
    let first := match last with
      | some c => decide (r.seq = c.lastSeq + 1) || decide (r.seq = 1)
      | none => decide (r.seq = 1)
    if first then some anchor else none

/-- Recomputes CHAIN over a list: the first SEQ whose CHAIN does not verify, or 0. -/
def verifyGo (s : State) : Option (BitVec 128) → List JRec → Nat
  | _, [] => 0
  | none, r :: t => verifyGo s r.chain t
  | some p, r :: t => if r.chain = some (chainOf s p r) then verifyGo s r.chain t else r.seq

/-- The records of the current KGEN from START, with the one before them. -/
def verifyList (s : State) (start count : Nat) : Option JRec × List JRec :=
  let p := (journalRead s).span fun r => !(r.kgen == s.jrn.kgen && decide (start ≤ r.seq))
  (p.1.getLast?, (p.2.filter fun r => r.kgen == s.jrn.kgen).take count)

def countUses : Nat → State → Nat → State
  | 0, s, _ => s
  | k + 1, s, i => countUses k (countUse s i) i

/-- VERIFY: its 32 bytes. -/
def verifyChain (s : State) (start count : Nat) : State × List Byte :=
  let x := verifyList s start count
  let first := (x.2.head?.map (·.seq)).getD 0
  let last := (x.2.getLast?.map (·.seq)).getD 0
  let before := match x.2.head? with
    | some r => chainBefore s x.1 r
    | none => none
  let bad := verifyGo s before x.2
  (countUses x.2.length s 3, layBytes 32 [(0, leBytes first 6), (6, leBytes last 6), (12, leBytes bad 6), (18, leBytes s.jrn.kgen.toNat 2),
    (20, leBytes x.2.length 4)])

end Sys2Proof.Machine
end

