-- ==== Sys2Proof/Machine/Radio.lean ====
section
/-! DEFINITION. The UHF radio (R160 to R188): the scheduler, regulatory limits and duty, coexistence, telegrams and their MACs,
LOCATE's UHF part, ranging, and receive windows.

Marked choices (log entries): DESIGN CHOICE 62, 64, 88; DEDUCED 63. -/

namespace Sys2Proof.Machine

open Sys2Proof

/-! ### Counters and time -/

def bumpRad (s : State) (i : Nat) : State :=
  { s with rad := { s.rad with cnt := smPut s.rad.cnt i (sat 32 (smGet s.rad.cnt i 0 + 1)) 0 } }

/-- A telegram channel's bit rates in bit/s (R187). -/
def bitRate (r : Nat) : Nat := [1200, 2400, 4800, 9600, 19200, 38400, 50000, 100000].getD r 38400

/-- Air time of a telegram of LEN bytes in µs, rounded up (R170). -/
def telegramUs (len rate : Nat) : Nat := ((104 + 8 * len) * 1000000 + bitRate rate - 1) / bitRate rate

/-- A radio fault (R419). -/
def radFault (s : State) : State :=
  let n := min 255 (s.flt.radConsec + 1)
  let s1 := { s with flt := { s.flt with radConsec := n, radTotal := sat 16 (s.flt.radTotal + 1) } }
  if regF s .fltLink 8 8 ≤ n then retireLater s1 clsRadio 0 0 else s1

/-! ### Frequencies and duty (R166 to R168, R179) -/

def bandsOf (s : State) : List Band := s.fl.opts.bands

/-- PLAN of a profile with its F0 and SP in kHz and M (R179). -/
structure Plan where
  num : Nat
  f0 : Nat
  sp : Nat
  m : Nat

def planOf (s : State) : Option Plan :=
  match radProfile s with
  | 1 => some ⟨1, 863150, 175, 40⟩
  | 2 => some ⟨0, 902250, 500, 52⟩
  | 3 => some ⟨2, 920600, 180, 40⟩
  | _ => none

def toneKhz (p : Plan) (nt k : Nat) : Nat := p.f0 + k * (p.m - 1) / (nt - 1) * p.sp

/-- Lowest and highest frequency of an activity's transmissions, kHz. -/
def actSpan (s : State) (a : RadAct) : Nat × Nat :=
  let f := chanKhz s.fl.opts a.chan
  match a.kind, planOf s with
  | .range, some p => (min f p.f0, max f (toneKhz p a.nt (a.nt - 1)))
  | _, _ => (f, f)

/-- The channel is usable: its mask bit and a permitted frequency (R166). -/
def chanUsable (s : State) (c : Nat) : Bool :=
  decide (radProfile s ≠ 0) && s.fl.opts.chMask.getLsbD c && (bandOf s.fl.opts (chanKhz s.fl.opts c) (chanKhz s.fl.opts c)).isSome

/-- The entry a transmission is accounted to; `none`: not permitted. -/
def actEntry (s : State) (a : RadAct) : Option Nat :=
  if chanUsable s a.chan then bandOf s.fl.opts (actSpan s a).1 (actSpan s a).2 else none

def usedUs (s : State) (e : Nat) : Nat := ((List.range 60).map fun b => smGet s.rad.bins (64 * e + b) 0).foldl (· + ·) 0

/-- Counts transmitted time in the current bin. -/
def chargeDuty (s : State) (e us : Nat) : State :=
  { s with rad := { s.rad with bins := smPut s.rad.bins (64 * e) (smGet s.rad.bins (64 * e) 0 + us) 0 } }

/-- DUTY_BIN_ROLL: every 60 s the window takes a new bin and drops the oldest. -/
def rollBins (s : State) : State :=
  { s with rad := { s.rad with bins := (s.rad.bins.filter fun p => decide (p.1 % 64 < 59)).map fun p => (p.1 + 1, p.2) } }

/-- USED plus the planned time stays within DUTY × 3600 s. -/
def dutyOk (s : State) (b : Band) (e us : Nat) : Bool :=
  decide (b.duty = 10000) || decide (usedUs s e + us ≤ b.duty * 360000)

/-- The kinds that transmit. -/
def transmits (a : RadAct) : Bool := match a.kind with
  | .tx | .poll | .range => true
  | _ => false

/-! ### Keys heard (R164, R180) -/

/-- A key's telegram, just noted, is its last one. -/
def hearKey (s : State) (rg : Nat) (gen : BitVec 16) : State :=
  let h : Heard := ⟨rg, s.clk.nowUs, gen, s.rad.antB, s.rad.rssi⟩
  { s with rad := { s.rad with heard := s.rad.heard.filter (fun x => !(x.reg == rg)) ++ [h] } }

def heardOf (s : State) (rg : Nat) : Option Heard :=
  s.rad.heard.find? fun h => h.reg == rg && decide (s.clk.nowUs ≤ h.us + 2000000)

/-- The aerial of a transmission: given, or by diversity the one of the key's last telegram. -/
def txAerial (s : State) (a : RadAct) : Bool :=
  if a.ant = 1 then true else if a.ant = 0 then false
  else match heardOf s a.reg with
    | some h => h.antB
    | none => false

/-- Aerial setting of Umhena-UHF activities. -/
def divMode (s : State) : Nat := regF s .radCtl 1 2

/-! ### Coexistence (R165) -/

def coexOn (s : State) : Bool := regB s .radCoex 0

def needsGrant (s : State) (a : RadAct) : Bool := coexOn s && (transmits a || regB s .radCoex 1)

def coexPrioOf (s : State) (a : RadAct) : Bool :=
  match a.kind with
  | .tx => a.coexPrio
  | .window => regB s .radCoex 2
  | _ => true

def raiseReq (s : State) (a : RadAct) : State :=
  if needsGrant s a then { s with rad := { s.rad with req := true, prio := coexPrioOf s a } } else s

/-- COEX_REQ and COEX_PRIO after the end of an activity: an open receive window that asks for the medium keeps it. -/
def dropReq (s : State) : State :=
  let held := s.rad.win.isSome && coexOn s && regB s .radCoex 1
  { s with rad := { s.rad with req := held, prio := held && regB s .radCoex 2 } }

/-! ### The polder of a UHF judgement (R172, R186) -/

def inFlight (s : State) (p : Nat) : Nat := ((polChans s p).filter (chanBusy s)).length

/-- The RUNNING polder with the fewest transactions in flight in AUTO placement; the named one otherwise. -/
def pickPolder (s : State) (named : Nat) : Nat :=
  if !s.lf.auto then named
  else (runningPols s).foldl (fun b p => if (getPol s b).st = .running ∧ inFlight s b ≤ inFlight s p then b else p) ((runningPols s).headD named)

/-! ### Records (R178, R188) -/

def noLocated : Located :=
  { id := 0, reg := 0xFFFF, status := .ok, foreign := false, terr := 0, kind := 0, reports := [], rssi := 0, antB := false, beat := 0,
    rangeRun := false, rangeStatus := .ok, validated := false, beyond := false, noHmin := false, dist := 0, rms := 0, split := 0,
    tones := 0, nt := 0, rangeBeat := 0 }

/-- The 64-byte record of LOCATE (`ncoil` coils) or of a standalone RANGE. -/
def locBytes (l : Located) (ncoil : Nat) (inLoc : Bool) : List Byte :=
  let b := b2n l.antB + 2 * b2n (inLoc && decide (l.status = .ok)) + 4 * b2n l.rangeRun + 8 * b2n l.validated +
    16 * b2n l.beyond + 32 * b2n l.noHmin
  layBytes 64 [(0, leBytes l.id.toNat 8), (8, leBytes l.reg 2), (10, leBytes (if inLoc then statusCode l.status else 0) 2),
    (12, leBytes (l.terr % 16 + 16 * (l.kind % 8) + 128 * b2n l.foreign) 1), (13, leBytes ncoil 1), (14, l.reports.take 16),
    (30, leBytes l.rssi.toNat 1), (31, leBytes b 1), (32, leBytes (if inLoc then l.beat.toNat else 0) 4),
    (36, leBytes (if l.rangeRun then statusCode l.rangeStatus else 0) 2), (40, leBytes (wrapInt 32 l.dist) 4), (44, leBytes l.rms 2),
    (46, leBytes l.split 2), (48, leBytes l.tones 1), (49, leBytes l.nt 1), (52, leBytes (if l.rangeRun then l.rangeBeat.toNat else 0) 4)]

/-! ### The end of activities -/

/-- The amplifier is on: the activity transmits at this moment (R170, R181). -/
def onAir (s : State) (a : RadAct) : Bool :=
  decide (a.phase = .running) && (match a.kind with
    | .range => decide (s.clk.nowUs < a.startUs + telegramUs 13 5 + 1000 + 200 * a.nt)
    | .tx | .poll => decide (s.clk.nowUs < a.startUs + a.airUs)
    | _ => false)

/-- The transmitted time of an activity that ends is counted (R168): all that was planned but for the tones not emitted; of one
that is cut short, an unknown part of it (log entry 62). -/
def countAir (s : State) (a : RadAct) (cut : Bool) : State :=
  match (if transmits a ∧ a.phase = .running then actEntry s a else none) with
  | none => s
  | some e =>
    let whole := a.airUs - 64 * a.dead.length
    if cut then
      let v := drawFree s
      chargeDuty v.2 e (v.1.toNat % (whole + 1))
    else chargeDuty s e whole

/-- The activity in hand ends; `cut`: while it transmits. The synthesiser goes off, unless an open window goes on (R160). -/
def endAct (s : State) (cut : Bool) : State :=
  let s1 := match s.rad.cur with
    | some a => countAir s a cut
    | none => s
  dropReq { s1 with rad := { s1.rad with cur := none, lock := s1.rad.lock && s1.rad.win.isSome } }

def dropAct (s : State) : State := endAct s false

/-- The activity in hand ends where it stands. -/
def cutAct (s : State) : State :=
  endAct s (match s.rad.cur with
    | some a => onAir s a
    | none => false)

/-- Takes a command's transactions off their channels. -/
def dropJobs (s : State) (uid : Nat) : State :=
  allChans.foldl (fun s ch =>
    let jobs := (getChan s ch).jobs
    if jobs.any fun j => j.uid == uid then
      let s1 := match jobs with
        | j :: _ => if j.uid = uid then dropWait s (.chan ch) else s
        | [] => s
      arm (modChan s1 ch fun c => { c with jobs := c.jobs.filter fun j => !(j.uid == uid) }) ch
    else s) s

/-- Withdraws what a command still has waiting on the radio. -/
def dropWaiting (s : State) (uid : Nat) : State :=
  dropWait { s with rad := { s.rad with waiting := s.rad.waiting.filter fun a => !(a.uid == uid) } } (.cmd uid)

/-- R177's ranking: RANGE_INCONSISTENT stands directly after TIMING_BOUND_FAIL. -/
def locRank (st : Status) : Nat := if st = .rangeInconsistent then 21 else 2 * outcomeRank st

def worstLoc (l : List Status) : Option Status :=
  l.foldl (fun a st => if st.isOk then a else match a with
    | none => some st
    | some b => if locRank b < locRank st then some st else some b) none

/-- Ascending TOKEN_ID, foreign tokens last. -/
def locBefore (a b : Located) : Bool :=
  if a.foreign = b.foreign then decide (a.id.toNat < b.id.toNat) else !a.foreign

def insertLoc (x : Located) : List Located → List Located
  | [] => [x]
  | y :: t => if locBefore x y then x :: y :: t else y :: insertLoc x t

def sortLoc (l : List Located) : List Located := l.foldl (fun a x => insertLoc x a) []

/-- The beat of the last result of a LOCATE. -/
def locBeat (l : LocSess) (dflt : BitVec 64) : BitVec 64 :=
  if l.found.isEmpty then dflt
  else l.found.foldl (fun b x =>
    let y := if x.rangeRun then x.rangeBeat else x.beat
    if b.toNat < y.toNat then y else b) 0

/-- Ends a LOCATE with the status of R177, or with one that ends it at once. -/
def locFinish (s : State) (abort : Option Status) : State :=
  match s.rad.loc with
  | none => s
  | some l =>
    let s1 := dropWaiting { s with rad := { s.rad with loc := none } } l.uid
    let s2 := match s1.rad.cur with
      | some a => if a.inLoc then cutAct s1 else s1
      | none => s1
    match findCmd s2 l.uid with
    | none => s2
    | some c =>
      let recs := sortLoc l.found
      let good := (recs.filter fun x => x.status == .ok).length
      let fail := (recs.filter fun x => x.status != .ok && !x.foreign).length
      let forn := (recs.filter (·.foreign)).length
      let sts := recs.map (·.status) ++ (recs.filter (·.rangeRun)).map (·.rangeStatus)
      let st := match abort with
        | some x => x
        | none => if l.collision then .collision
          else if 0 < good then okStatus l.retried l.migrated
          else if recs.isEmpty then .noResponse
          else (worstLoc sts).getD .noResponse
      let res := good + 2 ^ 8 * fail + 2 ^ 16 * min l.extra.length 255 + 2 ^ 24 * forn
      finishCmd s2 c st (BitVec.ofNat 32 res) (locBeat l s2.clk.beat)
        ((recs.flatMap fun x => locBytes x l.ncoil true).take (descLenOut c.desc))

def setWin (s : State) (w : Option Win) : State := { s with rad := { s.rad with win := w } }

/-- A range run for a window is still to come or under way. -/
def winRanging (s : State) (uid : Nat) : Bool :=
  (s.rad.waiting.any fun a => a.inWin && a.uid == uid) || (match s.rad.cur with
    | some a => a.inWin && a.uid == uid
    | none => false)

/-- Completes a receive window: RESULT holds the number of records. A range of its own that still runs or waits ends with it,
and its record shows no range (log entry 88). -/
def winFinish (s : State) (w : Win) (st : Status) : State :=
  let s1 := dropWaiting (setWin s none) w.uid
  let s2 := match s1.rad.cur with
    | some a => if a.inWin ∧ a.uid = w.uid then cutAct s1 else s1
    | none => dropReq s1
  match findCmd s2 w.uid with
  | none => s2
  | some c => finishNow s2 c st c.recs.length ((c.recs.flatMap (·.bytes)).take (descLenOut c.desc))

/-- A window whose output is full completes, once no range of its own is open. -/
def winFull (s : State) : State :=
  match s.rad.win with
  | none => s
  | some w => match findCmd s w.uid with
    | none => setWin s none
    | some c => if 0 < w.cap ∧ w.cap ≤ c.recs.length ∧ !winRanging s w.uid then winFinish s w .ok else s

/-- The range outcome of a window's record; a distance below 0 reads as none (log entry 88). -/
def winRangeRec (b : List Byte) (l : Located) : List Byte :=
  let f := leAt b 5 1 + 16 + 32 * b2n l.validated
  let d := rdiv l.dist 10
  let cm := if l.rangeStatus = .ok ∧ 0 ≤ d ∧ d < 0xFFFF then d.toNat else 0xFFFF
  b.take 5 ++ leBytes f 1 ++ slice b 6 6 ++ leBytes (statusCode l.rangeStatus) 2 ++ leBytes cm 2 ++ b.drop 16

/-- Queues an activity, asking for the random bits it needs (R314). -/
def pushAct (s : State) (a : RadAct) : State :=
  if a.seedBits = 0 then { s with rad := { s.rad with waiting := s.rad.waiting ++ [{ a with seedReady := true }] } }
  else
    match (if s.ent.waiting.any (fun w => w.cls == 0) then none else drbgDraw s (a.seedBits / 8)) with
    | some d => { d.2 with rad := { d.2.rad with waiting := d.2.rad.waiting ++ [{ a with seed := beN d.1, seedReady := true }] } }
    | none =>
      let s1 := addWait (drbgRefuse s) 0 (.cmd a.uid) a.seedBits
      { s1 with rad := { s1.rad with waiting := s1.rad.waiting ++ [{ a with seedReady := false }] } }

/-- Random bits reach the first activity of a command that waits for them. -/
def radDeliver (s : State) (uid : Nat) (seed : Nat) : State :=
  let l := s.rad.waiting
  match l.findIdx? (fun a => a.uid == uid && !a.seedReady) with
  | some i => match l[i]? with
    | some a => { s with rad := { s.rad with waiting := setAt l i { a with seed := seed, seedReady := true } } }
    | none => s
  | none => s

def newAct (uid : Nat) (kind : RadKind) (prio chan rate ant : Nat) (pwr : Int) : RadAct :=
  { uid := uid, kind := kind, prio := prio, chan := chan, rate := rate, ant := ant, pwr := pwr, coexPrio := false, airUs := 0,
    polder := 0, reg := 4096, nt := 0, gen := 0, inLoc := false, inWin := false, seed := 0, seedBits := 0, seedReady := false,
    phase := .lock, startUs := 0, lbtTries := 0, clamped := false, dead := [], recIdx := 0, sent := [] }

/-- An Umhena-UHF activity: RAD_CTL.CHAN at 38.4 kbit/s. -/
def uhfAct (s : State) (uid : Nat) (kind : RadKind) (prio : Nat) : RadAct :=
  newAct uid kind prio (regF s .radCtl 8 6) 5 (divMode s) (regS s .radCtl 16 8)

/-- Checks 3 to 5 of R137 for a key's entry (R172, R186); a node that its reload brings back counts as usable, for the
exchange then waits (R256). -/
def keyCheck (s : State) (rg : Nat) : Option Status :=
  let e := getReg s rg
  if e.st = .exhausted then some .keyUsageExhausted
  else if e.st = .free then some .authFail
  else if s.key.ready ∧ !fleetUsable s e.fleet then some .keyInvalid
  else if e.sess = 0xFFFFFFFF then some .keyUsageExhausted
  else if engineFailed s then some .abortedStop
  else none

/-- A key refused by check 5 of R137 is EXHAUSTED from now on (R139). -/
def keyRefused (s : State) (rg polder : Nat) (st : Status) : State :=
  if st = .keyUsageExhausted then markExhausted s rg (3 + polder) else s

/-- A range exchange with a key, queued (R180, R181): RANGE_START of LEN 13 and NT device tones. -/
def rangeAct (s : State) (uid prio rg nt polder : Nat) (inLoc inWin : Bool) (idx : Nat) : RadAct :=
  let gen := match heardOf s rg with
    | some h => h.gen
    | none => (getReg s rg).gen
  { uhfAct s uid .range prio with reg := rg, nt := nt, gen := gen, polder := polder, inLoc := inLoc, inWin := inWin,
                                   airUs := telegramUs 13 5 + 64 * nt, seedBits := 48, recIdx := idx }

def radNt (s : State) : Nat := regF s .radRangeCfg 8 6

/-- The located record of a key, with `f` applied. -/
def setLocated (s : State) (rg : Nat) (f : Located → Located) : State :=
  match s.rad.loc with
  | none => s
  | some l => { s with rad := { s.rad with loc := some { l with found := l.found.map fun x => if x.reg == rg then f x else x } } }

/-- The next key of a LOCATE to range, or the end of the command (R175). The key's checks come before the plan's (log
entry 88). -/
def locNextGo : Nat → State → State
  | 0, s => locFinish s none
  | k + 1, s =>
    match s.rad.loc with
    | none => s
    | some l =>
      match l.toRange with
      | [] => locFinish s none
      | rg :: rest =>
        let s1 := { s with rad := { s.rad with loc := some { l with toRange := rest } } }
        let prio := match findCmd s l.uid with
          | some c => descPrio c.desc
          | none => 0
        match keyCheck s1 rg with
        | some st => locNextGo k (setLocated (keyRefused s1 rg l.polder st) rg fun x => { x with rangeRun := true, rangeStatus := st, rangeBeat := s.clk.beat, nt := radNt s })
        | none =>
          if (planOf s1).isNone then locFinish (bumpRad s1 2) (some .regLimit)
          else pushAct s1 (rangeAct s1 l.uid prio rg (radNt s1) l.polder true false 0)

def locNext (s : State) : State := locNextGo 17 s

/-- A standalone RANGE completes with its record. -/
def rangeFinish (s : State) (uid : Nat) (l : Located) : State :=
  match findCmd s uid with
  | none => s
  | some c =>
    let out := (locBytes l 0 false).take (descLenOut c.desc)
    finishNow s c l.rangeStatus out.length out

/-- The record of a window takes the outcome of its range; a full window may complete. -/
def winRanged (s : State) (uid idx : Nat) (l : Located) : State :=
  match findCmd s uid with
  | none => s
  | some c => winFull (putCmd s { c with recs := match c.recs[idx]? with
      | some r => setAt c.recs idx { r with bytes := winRangeRec r.bytes l }
      | none => c.recs })

/-- The outcome of a range exchange goes to its record (activity already ended). -/
def rangeOutcome (s : State) (a : RadAct) (l : Located) : State :=
  if a.inLoc then
    locNext (setLocated s a.reg fun x => { x with
      rangeRun := true, rangeStatus := l.rangeStatus, validated := l.validated, beyond := l.beyond, noHmin := l.noHmin,
      dist := l.dist, rms := l.rms, split := l.split, tones := l.tones, nt := l.nt, rangeBeat := s.clk.beat,
      rssi := if l.rangeStatus = .ok ∨ l.rangeStatus = .rangeInconsistent then l.rssi else x.rssi })
  else if a.inWin then winRanged s a.uid a.recIdx l
  else rangeFinish s a.uid l

/-- A range record of a key before its exchange is judged. -/
def rangeBlank (s : State) (a : RadAct) (st : Status) : Located :=
  let e := getReg s a.reg
  let h := heardOf s a.reg
  { noLocated with id := e.id, reg := a.reg, kind := e.kind, rssi := (h.map (·.rssi)).getD 0, antB := s.rad.antB, rangeRun := true,
                   rangeStatus := st, nt := a.nt, rangeBeat := s.clk.beat }

/-- An activity ends with SYNTH_NOT_READY, COEX_DENIED or REG_LIMIT, or loses its random bits to ENTROPY_TIMEOUT. -/
def failAct (s0 : State) (a : RadAct) (st : Status) : State :=
  let s := match st with
    | .synthNotReady => radFault (bumpRad s0 0)
    | .coexDenied => bumpRad s0 1
    | .regLimit => bumpRad s0 2
    | _ => s0
  if a.inLoc then locFinish s (some st)
  else if a.inWin then winRanged s a.uid a.recIdx (rangeBlank s a st)
  else match findCmd s a.uid with
    | none => s
    | some c => failCmd s c st

def setCur (s : State) (a : RadAct) : State := { s with rad := { s.rad with cur := some a } }

/-- TYPE and PAYLOAD of what an activity sends (R171, R187). -/
def radBody (s : State) (a : RadAct) : List Nat :=
  match a.kind with
  | .tx => match findCmd s a.uid with
    | some c => toN c.bytes
    | none => []
  | .poll => match s.rad.loc with
    | some l => [0x22] ++ nBe l.nonce.toNat 4 ++ [a.seed % 256, l.q]
    | none => []
  | .range => [0x31] ++ nBe ((getReg s a.reg).id.toNat % 2 ^ 32) 4 ++ nBe a.seed 6 ++ [((planOf s).map (·.num)).getD 0, a.nt]
  | _ => []

/-- A telegram with that body: preamble, sync, LEN, TYPE, PAYLOAD and CRC, in the order of sending (R169, R170). -/
def telegramBytes (body : List Nat) : List Byte :=
  (List.replicate 6 0x55 ++ nBe 0x93D17A0E 4 ++ withCrc16 ([body.length] ++ body)).map (BitVec.ofNat 8)

/-- An activity gets under way (R167): its aerial, and what it sends. -/
def runAct (s : State) (a0 : RadAct) : State :=
  let a := { a0 with sent := if transmits a0 then telegramBytes (radBody s a0) else [] }
  let s2 := { s with rad := { s.rad with antB := if transmits a ∨ a.ant < 2 then txAerial s a else s.rad.antB } }
  match a.kind with
  | .window =>
    match findCmd s2 a.uid with
    | none => dropAct s2
    | some c =>
      let w : Win := ⟨a.uid, a.prio, s2.clk.nowUs + 1000 * fld c.desc.dw9 0 24, bitOf c.desc.dw8 16, a.polder, descLenOut c.desc / 64, a.ant⟩
      dropAct (setWin s2 (some w))
  | .range =>
    let f := fleetIdx (getReg s2 a.reg).fleet
    setCur (countSess (countUse s2 f) a.reg) { a with phase := .running, startUs := s2.clk.nowUs }
  | _ => setCur s2 { a with phase := .running, startUs := s2.clk.nowUs }

/-- Steps 4 and 5 of R167 for the activity in hand. -/
def advanceAct (s : State) (a : RadAct) (clear : Bool) : State :=
  if !s.rad.lock || (needsGrant s a && !s.rad.gnt) then setCur s { a with phase := .lock }
  else
    let lbt := transmits a && (match actEntry s a with
      | some e => match (bandsOf s)[e]? with
        | some b => b.lbt
        | none => false
      | none => false)
    if lbt && !clear then setCur s { a with phase := .lbt } else runAct s a

/-- Steps 1 to 3 of R167: frequencies, power, duty. -/
def beginAct (s : State) (a : RadAct) (clear : Bool) : State :=
  if !transmits a then advanceAct (raiseReq s a) a clear
  else
    match actEntry s a with
    | none => failAct s a .regLimit
    | some e =>
      match (bandsOf s)[e]? with
      | none => failAct s a .regLimit
      | some b =>
        let ended := decide (b.pmax < a.pwr)
        let s1 := if ended then { s with rad := { s.rad with clamped := true } } else s
        let a1 := { a with pwr := min a.pwr b.pmax, clamped := ended }
        if dutyOk s1 b e a.airUs then advanceAct (raiseReq s1 a1) a1 clear else failAct s1 a1 .regLimit

/-- A LOCATE that waits for the radio alone comes before this activity (R163). -/
def locateFirst (s : State) (a : RadAct) : Bool :=
  allChans.any fun c => match headOf s c with
    | some j => isLoc j && !actFirst a j && startable s c
    | none => false

/-- The activities that may start: of the LOCATE that holds the radio, else any but for a LOCATE that comes first; one window at
a time; a RANGE waits for the mark of its key's SESS (R140), and while uses of keys wait (R256, R285). -/
def mayStart (s : State) (a : RadAct) : Bool :=
  a.seedReady && (match s.rad.loc with
    | some l => a.inLoc && a.uid == l.uid
    | none => !locateFirst s a) && !(decide (a.kind = .window) && s.rad.win.isSome) &&
    !(decide (a.kind = .range) && (sessWaits s a.reg || keyBusy s))

/-- The next activity: descending PRIO, then fetch order (R163). -/
def nextAct (s : State) : Option RadAct :=
  (s.rad.waiting.filter (mayStart s)).foldl (fun b a => match b with
    | none => some a
    | some x => if x.prio < a.prio ∨ (x.prio = a.prio ∧ a.uid < x.uid) then some a else some x) none

/-- Every enabled entry is calibrated (R161). -/
def calibrated (s : State) : Bool :=
  (List.range (bandsOf s).length).all fun e => match (bandsOf s)[e]? with
    | some b => !b.en || s.rad.calDone.getLsbD e
    | none => true

/-- Radio commands complete with SYNTH_NOT_READY: the radio is retired, or VRF is below its threshold (R163, R380). -/
def radioOff (s : State) : Bool := s.rad.retired || !s.pwr.supplyOk.getLsbD 1

def radioUp (s : State) : Bool := domReady s dRADIO && !s.rad.retired

/-- RADIO_ACTIVITY_START: an activity that awaits lock or grant is looked at again; else the next one begins. -/
def activityStart (s0 : State) (lock clear : Bool) : State :=
  if !radioUp s0 then s0
  else
    let lk := lock && calibrated s0
    let s := { s0 with rad := { s0.rad with lock := lk }, flt := { s0.flt with radConsec := if lk then 0 else s0.flt.radConsec } }
    match s.rad.cur with
    | some a => if a.phase = .lock then advanceAct s a clear else s0
    | none =>
      match nextAct s with
      | some a => beginAct { s with rad := { s.rad with waiting := s.rad.waiting.erase a } } a clear
      | none => s0

/-- SYNTH_LOCK_TIMEOUT (R162). -/
def lockTimeout (s : State) : State :=
  match s.rad.cur with
  | some a => if a.phase = .lock ∧ !s.rad.lock then failAct (dropAct s) a .synthNotReady else s
  | none => s

/-- A telegram of the device's own is on the air. -/
def sending (s : State) (a : RadAct) : Bool :=
  onAir s a && (a.kind != .range || decide (s.clk.nowUs < a.startUs + telegramUs 13 5))

/-- SYNTH_LOCK_LOST (R162): during a tone the exchange goes on without it; during a telegram the activity ends; reception goes
on. -/
def lockLost (s : State) (tone : Option Nat) : State :=
  let off := { s with rad := { s.rad with lock := false } }
  match s.rad.cur, tone with
  | some a, some k =>
    if a.kind = .range ∧ a.phase = .running then setCur s { a with dead := if a.dead.contains k then a.dead else a.dead ++ [k] }
    else if sending s a then failAct (cutAct off) a .synthNotReady else off
  | some a, none => if sending s a then failAct (cutAct off) a .synthNotReady else off
  | none, _ => off

/-- COEX_GRANT_TIMEOUT (R165). -/
def grantTimeout (s : State) : State :=
  match s.rad.cur with
  | some a => if a.phase = .lock ∧ needsGrant s a ∧ !s.rad.gnt then failAct (dropAct s) a .coexDenied else s
  | none => s

/-- COEX_GNT_RISE. An entry with listen-before-talk goes on to it. -/
def grantRise (s0 : State) : State :=
  let s := { s0 with rad := { s0.rad with gnt := true } }
  match s.rad.cur with
  | some a => if a.phase = .lock then advanceAct s a false else s
  | none => s

/-- COEX_GNT_FALL: during a transmission it ends; reception continues. -/
def grantFall (s0 : State) : State :=
  let s := { s0 with rad := { s0.rad with gnt := false } }
  match s.rad.cur with
  | some a => if coexOn s ∧ onAir s a then failAct (cutAct s) a .coexDenied else s
  | none => s

/-- LBT_RETRY: the check repeats every 1 ms for up to 5 ms; on a clear channel, lock and grant must still be there. -/
def lbtRetryNow (s : State) (clear : Bool) : State :=
  match s.rad.cur with
  | some a =>
    if a.phase ≠ .lbt then s
    else if clear then advanceAct s a true
    else if 5 ≤ a.lbtTries + 1 then failAct (dropAct s) a .regLimit
    else setCur s { a with lbtTries := a.lbtTries + 1 }
  | none => s

/-- RADIO_CALIBRATION of an enabled entry at a die temperature in °C (R161, R419): the first since power-up, or, in IDLE, one
more after the temperature has moved by more than 20 °C. -/
def radioCal (s : State) (e : Nat) (r : RadioCal) : State :=
  let moved := decide (20 < (r.temp - smGet s.rad.calTemp e 0).natAbs)
  let idle := s.rad.cur.isNone && s.rad.loc.isNone && s.rad.win.isNone
  if !radioUp s ∨ !((bandsOf s)[e]?.map (·.en)).getD false ∨ (s.rad.calDone.getLsbD e ∧ !(idle && moved)) then s
  else if r.good then
    { s with rad := { s.rad with calDone := s.rad.calDone ||| BitVec.ofNat 8 (2 ^ e), calTemp := smPut s.rad.calTemp e r.temp 0 } }
  else radFault s

/-- A RADIO_TX whose telegram ends before `us` completes (R187). -/
def txEnd (s : State) (us : Nat) : State :=
  match s.rad.cur with
  | some a =>
    if a.kind = .tx ∧ a.phase = .running ∧ a.startUs + a.airUs ≤ us then
      match findCmd s a.uid with
      | some c => finishNow (dropAct s) c .ok (wrapInt 8 a.pwr + 256 * b2n a.clamped) []
      | none => dropAct s
    else s
  | none => s

/-! ### Telegrams (R170 to R172) -/

def tLen (t : Telegram) : Nat := leAt t.bytes 0 1
def tType (t : Telegram) : Nat := leAt t.bytes 1 1
/-- `k` bytes of the PAYLOAD from byte `i`. -/
def tPay (t : Telegram) (i k : Nat) : List Nat := toN (slice t.bytes (2 + i) k)
/-- A TYPE that is not reserved (R171). -/
def tKnown (t : Telegram) : Bool := [0x21, 0x22, 0x31, 0x32, 0x41, 0x51].contains (tType t) || decide (0x80 ≤ tType t)
def tCrcOk (t : Telegram) : Bool :=
  decide (t.bytes.length = tLen t + 3) && (crc16 (toN (t.bytes.take (tLen t + 1))) == beN (toN (t.bytes.drop (tLen t + 1))))

/-- The aerial setting of reception: 0 ANT_A, 1 ANT_B, 2 diversity; a range exchange keeps its aerial (R164, R188). -/
def rxMode (s : State) : Nat :=
  match s.rad.cur, s.rad.win with
  | some a, _ => if a.kind = .range then b2n s.rad.antB else a.ant
  | none, some w => w.ant
  | none, none => divMode s

/-- The aerial that receives a telegram (R164): by diversity the other one than the current, where it is more than 3 dB
stronger. -/
def rxAerial (s : State) (t : Telegram) : Bool :=
  let a := t.rssiA.toInt
  let b := t.rssiB.toInt
  match rxMode s with
  | 0 => false
  | 1 => true
  | _ => if s.rad.antB then !decide (b + 3 < a) else decide (a + 3 < b)

/-- Notes a received telegram; one whose CRC fails is ignored and counted, one of LEN 0 or of a reserved TYPE is ignored
(R170). -/
def tTake (s : State) (t : Telegram) : Bool × State :=
  if tLen t = 0 then (false, s)
  else if !tCrcOk t then (false, bumpRad s 3)
  else if !tKnown t then (false, s)
  else
    let b := rxAerial s t
    (true, { s with rad := { s.rad with rssi := if b then t.rssiB else t.rssiA, antB := b } })

/-- A foreign token over UHF: the event alone; AIR_FOREIGN counts those of R113 and R121. -/
def uhfForeign (s : State) (id : Nat) : State := postEvent s evForeignToken srcRadio id

/-- A foreign token heard over UHF is journalled with an empty channel mask. -/
def stageForeign (s : State) (uid polder : Nat) : State :=
  if s.jrn.staged.any fun r => batchJoins r s.clk.beat uid (statusCode .foreignToken) then s
  else stageRec s 0x20 (3 + polder) s.clk.beat
    (payload [(20, leBytes (statusCode .foreignToken) 2), (34, leBytes (cmdIdOf s uid) 2)]) uid

/-- Steps 2 to 4 of R176: registration, entry state, MAC. The registry index (0xFFFF: none) and the outcome. -/
structure UhfVerdict where
  st : State
  reg : Nat
  status : Status
  foreign : Bool
  pend : Bool

def uhfVerdict (s : State) (uid polder id status mac : Nat) (msg : Nat → List Nat) : UhfVerdict :=
  let hit := match findId s (BitVec.ofNat 64 id) with
    | some i => if (getReg s i).kind = 0 then none else some i
    | none => none
  match hit with
  | none => ⟨stageForeign (uhfForeign s id) uid polder, 0xFFFF, .foreignToken, true, false⟩
  | some i =>
    let e := getReg s i
    if e.st = .exhausted then ⟨s, i, .keyUsageExhausted, false, false⟩
    else if !fleetUsable s e.fleet then ⟨s, i, .keyInvalid, false, false⟩
    else if engineFailed s then ⟨s, i, .abortedStop, false, false⟩
    else
      let v := judgeMac s e status mac msg
      let s1 := addBlocks (countUse s (fleetIdx e.fleet)) 2
      let s2 := if v.macFail then { s1 with lf := { s1.lf with authFails := sat 32 (s1.lf.authFails + 1) } } else s1
      let s3 := if v.exhausted then markExhausted s2 i (3 + polder) else s2
      let gen := if v.pend then e.pendGen else e.gen
      let s4 := if v.status = .ok then hearKey s3 i gen else s3
      ⟨s4, i, v.status, false, decide (v.status = .ok) && v.pend⟩

/-- A LOC_REPLY or RANGE_REPORT that passes every test counts as an AUTH under R143 (R172). -/
def uhfJudge (s : State) (uid polder id status mac : Nat) (msg : Nat → List Nat) : UhfVerdict :=
  let v := uhfVerdict s uid polder id status mac msg
  { v with st := if v.pend then confirmRekey v.st v.reg (3 + polder) else v.st }

/-! ### LOCATE (R175 to R177) -/

/-- The end of the LF part: the radio goes on to the reply slots. -/
def locUhfBegin (s : State) (uid nonce ncoil polder : Nat) (retried migrated : Bool) : State :=
  match s.rad.loc with
  | none => s
  | some l =>
    if l.uid ≠ uid then s
    else
      let prio := match findCmd s uid with
        | some c => descPrio c.desc
        | none => 0
      let s1 := { s with rad := { s.rad with loc := some { l with nonce := BitVec.ofNat 32 nonce, ncoil := ncoil, polder := polder,
                                                                  retried := retried, migrated := migrated } } }
      pushAct s1 { uhfAct s1 uid .locate prio with inLoc := true, polder := polder }

/-- The LF part of a LOCATE is over on its lead coil: every coil's transaction ends, the UHF part begins. -/
def locLfEnd (s : State) (lead : Nat) : State :=
  match headOf s lead with
  | none => s
  | some j =>
    let g := coils s lead j
    let p := polOf s lead
    let retried := g.any fun c => match headOf s c with
      | some x => decide (0 < x.retries)
      | none => false
    let migrated := g.any fun c => match headOf s c with
      | some x => decide (0 < x.restarts)
      | none => false
    let s1 := g.foldl (fun s c => match headOf s c with
      | some x => popHead (closeTx s c x .ok true) c
      | none => s) s
    locUhfBegin (g.foldl arm s1) j.uid j.nonce g.length p retried migrated

/-- The radio receives for a LOCATE. -/
def locListening (s : State) : Option LocSess :=
  match s.rad.loc, s.rad.cur with
  | some l, some a => if a.inLoc ∧ a.phase = .running ∧ (a.kind = .locate ∨ a.kind = .poll) then some l else none
  | _, _ => none

def mLoc (t : Telegram) (ncoil gen : Nat) : List Nat :=
  [0x4C] ++ tPay t 0 16 ++ nBe gen 2 ++ nBe (stMac (beN (tPay t 16 2))) 2 ++ tPay t 18 (4 * ncoil)

/-- A token's record joins the list, or takes the latest reply. -/
def addFound (s : State) (x : Located) : State :=
  match s.rad.loc with
  | none => s
  | some l =>
    let l1 := if l.found.any (fun y => y.id == x.id) then { l with found := l.found.map fun y => if y.id == x.id then x else y }
      else { l with found := l.found ++ [x] }
    { s with rad := { s.rad with loc := some l1 } }

/-- LOC_REPLY (R176). With 16 keys located, a further one is not judged (R175). -/
def locReplyNow (s0 : State) (t : Telegram) : State :=
  match locListening s0 with
  | none => s0
  | some l =>
    let x := tTake s0 t
    let s := x.2
    if !x.1 || tType t ≠ 0x21 || tLen t ≠ 27 + 4 * l.ncoil then s
    else if tPay t 8 4 ≠ nBe l.nonce.toNat 4 then bumpRad s 6
    else
      let id := beN (tPay t 0 8)
      let known := l.found.any fun y => y.id == BitVec.ofNat 64 id
      if !known && decide (16 ≤ (l.found.filter fun y => y.status == .ok).length) then
        let i := BitVec.ofNat 64 id
        { s with rad := { s.rad with loc := some { l with extra := if l.extra.contains i then l.extra else l.extra ++ [i] } } }
      else
        let st := beN (tPay t 16 2)
        let v := uhfJudge s l.uid l.polder id st (beN (tPay t (18 + 4 * l.ncoil) 8)) (mLoc t l.ncoil)
        addFound v.st { noLocated with id := BitVec.ofNat 64 id, reg := v.reg, status := v.status, foreign := v.foreign,
                                       terr := stTerr st, kind := stKind st, reports := slice t.bytes 20 (4 * l.ncoil), rssi := s.rad.rssi,
                                       antB := s.rad.antB, beat := s.clk.beat }

/-- Registry indices of the located keys in ascending TOKEN_ID. -/
def rangeList (l : LocSess) : List Nat := ((sortLoc l.found).filter fun x => x.status == .ok).map (·.reg)

/-- LOCATE_POLL_ROUND_END (R175). -/
def pollRoundEnd (s0 : State) (collided : Nat) : State :=
  match locListening s0 with
  | none => s0
  | some l =>
    let s := dropAct ((List.range collided).foldl (fun s _ => bumpRad s 4) s0)
    if 0 < collided ∧ l.repolls < 3 then
      let l1 := { l with repolls := l.repolls + 1, q := min (l.q + 1) 4 }
      let s1 := { s with rad := { s.rad with loc := some l1 } }
      let prio := match findCmd s l.uid with
        | some c => descPrio c.desc
        | none => 0
      pushAct s1 { uhfAct s1 l.uid .poll prio with inLoc := true, polder := l.polder, airUs := telegramUs 7 5, seedBits := 8 }
    else
      let auto := match findCmd s l.uid with
        | some c => bitOf c.desc.dw8 3
        | none => false
      let l1 := { l with collision := l.collision || decide (0 < collided), toRange := if auto then rangeList l else [] }
      locNext { s with rad := { s.rad with loc := some l1 } }

/-! ### Ranging (R180 to R184) -/

/-- Byte `n` of the order stream (R172). -/
def orderByte (key msg : List Nat) (n : Nat) : Nat := (cmac key (msg ++ [(n / 16 + 1) % 256])).getD (n % 16) 0

/-- The next stream byte below the bound, and the position after it. -/
def orderPick (key msg : List Nat) (bound : Nat) : Nat → Nat → Nat × Nat
  | 0, n => (orderByte key msg n, n + 1)
  | k + 1, n => if orderByte key msg n < bound then (orderByte key msg n, n + 1) else orderPick key msg bound k (n + 1)

def swapAt (l : List Nat) (i j : Nat) : List Nat := setAt (setAt l i (l.getD j 0)) j (l.getD i 0)

/-- R180 for j from NT − 1 down to 1. -/
def orderGo (key msg : List Nat) : Nat → List Nat → Nat → List Nat
  | 0, l, _ => l
  | j + 1, l, n =>
    let b := orderPick key msg (256 - 256 % (j + 2)) 256 n
    orderGo key msg j (swapAt l (j + 1) (b.1 % (j + 2))) b.2

def toneOrder (s : State) (a : RadAct) : List Nat :=
  let e := getReg s a.reg
  orderGo (tokKey s e.fleet e.id.toNat a.gen.toNat e.kind) ([0x4F] ++ nBe e.id.toNat 8 ++ nBe a.seed 6 ++ nBe a.gen.toNat 2)
    (a.nt - 1) (List.range a.nt) 0

/-- One tone: frequency in kHz, unwrapped phase in 1/65536 turn, slot position. -/
structure Tone where
  f : Int
  phi : Int
  pos : Nat

/-- Unwraps in ascending frequency, each step in (−π, π]. -/
def unwrapGo : Int → List Tone → List Tone
  | _, [] => []
  | p, t :: r =>
    let d := (t.phi - p) % 65536
    let e := if 32768 < d then d - 65536 else d
    { t with phi := p + e } :: unwrapGo (p + e) r

def unwrapTones (l : List Tone) : List Tone :=
  match l with
  | [] => []
  | t :: r => t :: unwrapGo t.phi r

/-- Valid tones in ascending frequency: measured at both ends (R182). -/
def validTones (p : Plan) (a : RadAct) (order : List Nat) (valid : Nat) (phase : List Nat) (m : RangeMeas) : List Tone :=
  (List.range a.nt).filterMap fun k =>
    match m.phase.getD k none with
    | some d => if valid.testBit (63 - k) ∧ !(a.dead.contains k) then
        some ⟨toneKhz p a.nt k, d + 256 * (phase.getD k 0 : Int), order.findIdx (· == k)⟩ else none
    | none => none

/-- Sums of a least-squares fit, times n: Sxx, Sxy, Syy. -/
def fitSums (l : List Tone) : Int × Int × Int :=
  let n : Int := l.length
  let sf := (l.map (·.f)).foldl (· + ·) 0
  let sp := (l.map (·.phi)).foldl (· + ·) 0
  (n * ((l.map fun t => t.f * t.f).foldl (· + ·) 0) - sf * sf, n * ((l.map fun t => t.f * t.phi).foldl (· + ·) 0) - sf * sp,
   n * ((l.map fun t => t.phi * t.phi).foldl (· + ·) 0) - sp * sp)

/-- Distance of a fit in mm before DOFS: slope × c / 4π; `dflt` where the tones give no slope. -/
def fitMm (l : List Tone) (dflt : Int) : Int :=
  let f := fitSums l
  if f.1 = 0 then dflt else rdiv (f.2.1 * 299792458) (f.1.toNat * 131072)

/-- Square of the rms residual as a fraction, in (1/65536 turn)². -/
def fitMean (l : List Tone) : Int × Nat :=
  let f := fitSums l
  (f.2.2 * f.1 - f.2.1 * f.2.1, l.length * l.length * f.1.toNat)

/-- rms in mrad, with 355/113 for π, to the nearest below. -/
def fitRms (l : List Tone) : Nat :=
  let m := fitMean l
  if m.2 = 0 then 0 else isqrt (m.1.toNat * (710000 * 710000) / (m.2 * (7405568 * 7405568)))

/-- The rms residual exceeds a limit in 0.01 rad. -/
def rmsOver (l : List Tone) (lim : Nat) : Bool :=
  let m := fitMean l
  decide ((lim * 10) ^ 2 * (m.2 * 7405568 ^ 2) < m.1.toNat * 710000 ^ 2)

structure RangeFit where
  st : State
  status : Status
  dist : Int
  rms : Nat
  split : Nat
  tones : Nat

/-- Findings 3 to 7 of R183. A distance that the tones leave without a slope is a free value. -/
def judgeRange (s0 : State) (l : List Tone) : RangeFit :=
  let fw := drawFree s0
  let s := fw.2
  let u := unwrapTones l
  let d := fitMm u (sgn 32 fw.1.toNat) - sgn 16 (regF s .radRangeOfs 0 16)
  let split := (fitMm (u.filter fun t => t.pos % 2 == 0) (sgn 32 fw.1.toNat) - fitMm (u.filter fun t => t.pos % 2 == 1) (sgn 32 fw.1.toNat)).natAbs
  let ok_ := decide (regF s .radRangeCfg 16 6 ≤ l.length) && !rmsOver u (regF s .radRangeCfg 24 8) &&
    decide (split ≤ 100 * regF s .radRangeLim 0 8) && decide (-500 ≤ d)
  let s1 := if l.isEmpty || (fitSums u).1 = 0 || (fitSums (u.filter fun t => t.pos % 2 == 0)).1 = 0 ||
      (fitSums (u.filter fun t => t.pos % 2 == 1)).1 = 0 then s else s0
  ⟨if ok_ then s1 else bumpRad s1 5, if ok_ then .ok else .rangeInconsistent, d, fitRms u, min split 65535, l.length⟩

/-- Within LOCATE, some burst was measured with a field of at least HMIN (R184). -/
def hminMet (s : State) (a : RadAct) : Bool :=
  match (if a.inLoc then s.rad.loc else none) with
  | none => true
  | some l => match l.found.find? fun x => x.reg == a.reg with
    | none => false
    | some x => (List.range 4).any fun b =>
        let r := toN (slice x.reports (4 * b) 4)
        (r.getD 3 0).testBit 3 && decide (regF s .radRangeLim 16 8 ≤ max (r.getD 0 0) (max (r.getD 1 0) (r.getD 2 0)))

def mRange (e : RegEntry) (a : RadAct) (plan st : Nat) (body : List Nat) (gen : Nat) : List Nat :=
  [0x54] ++ nBe e.id.toNat 8 ++ nBe a.seed 6 ++ [plan, a.nt] ++ nBe gen 2 ++ nBe (stMac st) 2 ++ body

/-- The exchange in progress. -/
def ranging (s : State) : Option RadAct :=
  match s.rad.cur with
  | some a => if a.kind = .range ∧ a.phase = .running then some a else none
  | none => none

/-- A range exchange that counts writes the validated token (R149, R184). -/
def rangeValidated (s : State) (rg : Nat) : State :=
  let s1 := validate s rg (getReg s rg).roles 0x80
  { s1 with lf := { s1.lf with authOk := sat 32 (s1.lf.authOk + 1) } }

/-- RANGE_REPORT (R183, R184). -/
def rangeReportNow (s0 : State) (t : Telegram) (m : RangeMeas) : State :=
  match ranging s0, planOf s0 with
  | some a, some p =>
    let x := tTake s0 t
    let s := x.2
    let e := getReg s a.reg
    if !x.1 || tType t ≠ 0x32 || tLen t ≠ 29 + a.nt then s
    else if tPay t 0 4 ≠ nBe (e.id.toNat % 2 ^ 32) 4 || tPay t 4 6 ≠ nBe a.seed 6 then bumpRad s 6
    else
      let st := beN (tPay t (18 + a.nt) 2)
      let order := toneOrder s a
      let v := uhfJudge (dropAct s) a.uid a.polder e.id.toNat st (beN (tPay t (20 + a.nt) 8))
        (mRange e a p.num st (tPay t 10 (8 + a.nt)))
      if v.status ≠ .ok then rangeOutcome v.st a (rangeBlank v.st a v.status)
      else
        let f := judgeRange v.st (validTones p a order (beN (tPay t 10 8)) (tPay t 18 a.nt) m)
        let near := decide (f.dist ≤ 100 * regF s .radRangeLim 8 8)
        let hm := hminMet f.st a
        let good := decide (f.status = .ok)
        let valid := good && near && hm
        let s2 := if valid then rangeValidated f.st a.reg else f.st
        rangeOutcome s2 a { rangeBlank s2 a f.status with
          terr := stTerr st, dist := f.dist, rms := f.rms, split := f.split, tones := f.tones, validated := valid, beyond := good && !near, noHmin := good && !hm, antB := s.rad.antB, rssi := s.rad.rssi }
  | _, _ => s0

/-- RANGE_REPORT_TIMEOUT (R181): no report by the deadline. -/
def rangeTimeout (s : State) : State :=
  match ranging s with
  | some a => rangeOutcome (dropAct s) a (rangeBlank s a .noResponse)
  | none => s

/-! ### Receive windows (R188) -/

/-- The window receives: it is open and no other activity runs. -/
def winListening (s : State) : Option Win := if s.rad.cur.isNone && s.rad.loc.isNone then s.rad.win else none

def winBytes (s : State) (t : Telegram) (rg : Nat) (st : Status) (foreign : Bool) : List Byte :=
  let isAcc := decide (tType t = 0x41)
  let f := b2n s.rad.antB + 2 * b2n (decide (49 < tLen t)) + 4 * b2n (isAcc && decide (st = .ok)) + 8 * b2n foreign
  layBytes 64 [(0, leBytes s.clk.beat.toNat 4), (4, leBytes s.rad.rssi.toNat 1), (5, leBytes f 1), (6, leBytes (tLen t) 1), (7, leBytes (tType t) 1),
    (8, leBytes rg 2), (10, leBytes (if isAcc then statusCode st else 0) 2), (14, leBytes 0xFFFF 2),
    (16, (slice t.bytes 2 (tLen t - 1)).take 48)]

def winAdd (s : State) (w : Win) (b : List Byte) : State :=
  match findCmd s w.uid with
  | none => s
  | some c =>
    let r : Rec := ⟨c.recs.length, none, false, false, false, false, s.clk.beat, b⟩
    putCmd s { c with recs := c.recs ++ [r] }

def winRoom (s : State) (w : Win) : Bool := match findCmd s w.uid with
  | some c => decide (w.cap = 0) || decide (c.recs.length < w.cap)
  | none => false

def mAcc (t : Telegram) (gen : Nat) : List Nat :=
  [0x43] ++ tPay t 0 12 ++ nBe gen 2 ++ nBe (stMac (beN (tPay t 12 2))) 2

/-- ACCESS_TELEGRAM. -/
def accessNow (s0 : State) (t : Telegram) : State :=
  match winListening s0 with
  | none => s0
  | some w =>
    let x := tTake s0 t
    let s := x.2
    if !x.1 || tType t ≠ 0x41 || tLen t ≠ 23 || !winRoom s w then s
    else
      let v := uhfVerdict s w.uid w.polder (beN (tPay t 0 8)) (beN (tPay t 12 2)) (beN (tPay t 14 8)) (mAcc t)
      let idx := match findCmd s w.uid with
        | some c => c.recs.length
        | none => 0
      let s1 := winAdd v.st w (winBytes s t v.reg v.status v.foreign)
      let s2 := if w.autorange ∧ v.status = .ok then
          match keyCheck s1 v.reg with
          | some st => winRanged (keyRefused s1 v.reg w.polder st) w.uid idx { noLocated with rangeRun := true, rangeStatus := st }
          | none => if (planOf s1).isNone then winRanged (bumpRad s1 2) w.uid idx { noLocated with rangeRun := true, rangeStatus := .regLimit }
            else pushAct s1 (rangeAct s1 w.uid w.prio v.reg (radNt s1) w.polder false true idx)
        else s1
      winFull s2

/-- HOST_TELEGRAM_RX: a telegram of TYPE 0x80 or above. -/
def hostTelegram (s0 : State) (t : Telegram) : State :=
  match winListening s0 with
  | none => s0
  | some w =>
    let x := tTake s0 t
    let s := x.2
    if !x.1 || tType t < 0x80 || !winRoom s w then s
    else winFull (winAdd s w (winBytes s t 0xFFFF .ok false))

/-- RX_WINDOW_END: the duration has ended before the next boundary. -/
def windowEnd (s : State) : State :=
  match s.rad.win with
  | some w => if w.endUs ≤ nextBoundUs s then winFinish s w .ok else s
  | none => s

/-- ENTROPY_TIMEOUT of a radio activity that waits for its random bits. -/
def radEntropyTimeout (s : State) (uid : Nat) : State :=
  match s.rad.waiting.find? fun a => a.uid == uid && !a.seedReady with
  | some a => failAct { s with rad := { s.rad with waiting := s.rad.waiting.erase a } } a .entropyTimeout
  | none => s

/-! ### Retirement (R163, R419) -/

/-- The LOCATEs with transactions on their coils end with SYNTH_NOT_READY, with no further coil activity (R163). -/
def locateOut (s : State) : State :=
  s.ring.cmds.foldl (fun s c =>
    let lead := allChans.find? fun ch => match headOf s ch with
      | some j => isLoc j && j.uid == c.uid && jobInFlight j && leads s ch j
      | none => false
    let held := allChans.any fun ch => (getChan s ch).jobs.any fun j => isLoc j && j.uid == c.uid
    let s1 := match lead with
      | some ch => match headOf s ch with
        | some j => failTx s ch j .synthNotReady true {}
        | none => s
      | none => s
    if !held then s
    else match findCmd s1 c.uid with
      | some c1 => failCmd (dropJobs s1 c1.uid) c1 .synthNotReady
      | none => s1) s

/-- Every radio command ends with SYNTH_NOT_READY. -/
def radioOut (s0 : State) : State :=
  let s := locateOut s0
  let acts := s.rad.waiting ++ s.rad.cur.toList
  let s1 := locFinish s (some .synthNotReady)
  let s2 := acts.foldl (fun s a => match findCmd s a.uid with
    | some c => if a.inWin then s else failCmd s c .synthNotReady
    | none => s) (cutAct { s1 with rad := { s1.rad with waiting := [] } })
  match s2.rad.win with
  | some w => winFinish s2 w .synthNotReady
  | none => s2

/-- The radio is retired, at step 2 of R33. -/
def retireRadio (s : State) (cause : Byte) : State :=
  let s1 := radioOut s
  let s2 := { s1 with rad := { s1.rad with retired := true, lock := false } }
  recordRetire (excludeRegs s2 radRegs) clsRadio 0 cause

end Sys2Proof.Machine
end

