-- ==== Sys2Proof/Machine/Armature.lean ====
section
/-! DEFINITION. The armature's changes (R249 to R264): loading, invalidation, derivation, import, patina, and the debug session
(R272 to R275).

Marked choices (log entries): DEDUCED 52, 53, 54, 66. -/

namespace Sys2Proof.Machine

open Sys2Proof

/-! ### Replies and telegrams that wait for a key (R256, R285) -/

/-- Judges a reply or a telegram. -/
def runHeld (s : State) : HeldMsg → State
  | .air ch r => uplinkReply s ch r
  | .locReply t => locReplyNow s t
  | .rangeReport t m => rangeReportNow s t m
  | .access t => accessNow s t

/-- Judging it uses a key. -/
def heldNeedsKey (s : State) : HeldMsg → Bool
  | .air ch _ => match headOf s ch with
    | some j => needsKey j
    | none => false
  | _ => true

/-- A reply or a telegram comes in: judged at once, or held while uses of keys wait. -/
def takeMsg (s : State) (m : HeldMsg) : State :=
  if keyBusy s && heldNeedsKey s m then { s with cip := { s.cip with held := s.cip.held ++ [m] } } else runHeld s m

/-- Uses of keys go on: what was held is judged, in its order. -/
def releaseHeld (s : State) : State :=
  if keyBusy s then s else s.cip.held.foldl runHeld { s with cip := { s.cip with held := [] } }

/-! ### Tickets (R267, R268) -/

def parseTicket (b : List Byte) : Ticket :=
  { frm := leAt b 2 1, dest := leAt b 3 1, uid := BitVec.ofNat 64 (leAt b 4 8), disposition := leAt b 12 1,
    keepRegistry := (leAt b 13 1).testBit 0, pseed := BitVec.ofNat 256 (beN (toN (slice b 16 32))),
    tag := BitVec.ofNat 128 (beN (toN (slice b 48 16))) }

/-- Check 6 of R268. -/
def ticketTagOk (b : List Byte) : Bool :=
  cmac (ticketKey (leAt b 2 1) (leAt b 3 1)) (toN (b.take 48)) == toN (slice b 48 16)

/-! ### Loading (R249 to R256) -/

/-- A node as a start loads it: its instance number and its USES at their marks; RETIRED where the mark lies at LIMIT. -/
def markedNode (s : State) (i : Nat) (n : Node) : State :=
  let m := smGet s.key.instMark i 256
  let s1 := setNode { s with key := { s.key with inst := smPut s.key.inst i m 0 } } i
    { n with inst := m, uses := usesMarkOf s i, loaded := true, secretMask := decide (s.ent.st ≠ .ready) }
  if n.st = .active ∧ n.limit ≤ usesMarkOf s i then retireNode s1 i else s1

def sysTemplate (parent level gen limit : Nat) (big : Bool) (owner : BitVec 8) (label : String) (key : List Nat) (beat : BitVec 64) :
    Node :=
  { inst := 0, parent := BitVec.ofNat 32 parent, level := level, type := 1, st := .active, big := big, loaded := true,
    persistent := true, owner := owner, fslot := none, gen := BitVec.ofNat 16 gen, label := labelOf label, uses := 0,
    limit := limit, beat := beat, key := BitVec.ofNat 256 (beN key), secretMask := false }

/-- The plinth node. -/
def plinthNode (key : List Nat) (beat : BitVec 64) : Node :=
  { sysTemplate 0 0 0 (2 ^ 48 - 1) true 0x80 "KZ PLINTH KEY V1" key beat with type := 0 }

/-- K_st and K_tr under the plinth of index 0. -/
def stKey (s : State) : List Nat :=
  kdf (nodeKey (getNode s 0)) (ascii "KZ STORAGE KEY 1") (nBe Config.deviceUid.toNat 8 ++ [0, 0]) false

/-- Generation of K_tr: the highest a start knows. -/
def trGen (s : State) : Nat := match smFind s.fl.keyStore 1 with
  | some n => n.gen.toNat
  | none => 0

/-- The tree of a start: plinth, system nodes, imports of the key store (R256). -/
def loadTree (s : State) (t : Ticket) : State :=
  let b := s.clk.beat
  let s1 := markedNode s 0 (plinthNode (plinthKey (lcState s) (nBe t.pseed.toNat 32)) b)
  let p := handleOf s1 0
  let s2 := markedNode s1 1 (sysTemplate p 1 (trGen s1) (2 ^ 20) false 0x80 "KZ TRANSPORT KEY" (trKey s1 (trGen s1)) b)
  let s3 := markedNode s2 2 (sysTemplate p 1 0 (2 ^ 48 - 1) false 0x80 "KZ STORAGE KEY 1" (stKey s2) b)
  let s4 := (s3.fl.keyStore.filter fun e => decide (8 ≤ e.1)).foldl
    (fun s e => markedNode (countUse s 2) e.1 { e.2 with parent := BitVec.ofNat 32 p }) s3
  let q := ledgerParent s4
  let s5 := markedNode s4 3 (sysTemplate q.1 q.2 (startKgen s4).toNat (2 ^ 32) false 0x40 "KZ JOURNAL CHAIN" (kjDerive s4 (startKgen s4).toNat) b)
  let s6 := markedNode s5 4 (sysTemplate q.1 q.2 (ledgerGen s5) (2 ^ 48 - 1) false 0x40 "KZ CHECKPOINT K1" (kcDerive s5 (ledgerGen s5)) b)
  if hasLedgerNode s6 then
    markedNode s6 5 (sysTemplate (handleOf s6 16) 2 (ledgerGen s6) (2 ^ 48 - 1) false 0x40 "KZ VOUCHER KEY 1" (kvDerive s6 (ledgerGen s6)) b)
  else s6

/-- Every instance number at its mark (R250). -/
def instToMarks (s : State) : State :=
  { s with key := { s.key with inst := s.key.inst.map fun p => (p.1, smGet s.key.instMark p.1 256) } }

/-- The states with a plinth: FACTORY, TRACTION, SECOND_LIFE. -/
def plinthState (s : State) : Bool := decide (1 ≤ lcState s) && decide (lcState s ≤ 3)

/-- An unfinished advance whose fuse row shows TO (R270). -/
def committedTicket (s : State) : Bool := match s.fl.newTicket with
  | some t => decide (lcState s = t.dest)
  | none => false

def nodesInUse (s : State) : Nat := (s.key.nodes.filter fun p => !(p.2.st == .free)).length

def keyDone (s : State) : State :=
  let n := nodesInUse s
  postProgress { s with key := { s.key with ready := true, prog := ⟨1000, n, false⟩ } } 8 srcKey s.key.prog.progress 1000 n

/-- The accepted ticket of the current state, from the copy in flash whose TAG verifies (R249); untouched copies are the
ticket as it was accepted. -/
def ticketFound (s : State) : Option Ticket :=
  let copy := fun k => match readFlash s 2 (ticketOff k) 64 with
    | some b => if ticketTagOk b then some (parseTicket b) else none
    | none => none
  if flashTouched s 2 (ticketOff 0) 128 then
    match copy 0 with
    | some t => some t
    | none => copy 1
  else s.fl.ticket

/-- Steps 1 to 4 of R256 at a start; `ticketOk`: a copy of the ticket reads well. -/
def armStart (s0 : State) (ticketOk : Bool) : State :=
  let s := instToMarks { s0 with key := { s0.key with nodes := [], gens := [] } }
  if committedTicket s then keyDone { s with key := { s.key with plinth := false } }
  else if plinthState s then
    match ticketFound s with
    | some t =>
      if ticketOk then keyDone (let s1 := loadTree s t; { s1 with key := { s1.key with plinth := true } })
      else keyDone { s with key := { s.key with plinth := false }, lcy := { s.lcy with noTicket := true } }
    | none => keyDone { s with key := { s.key with plinth := false }, lcy := { s.lcy with noTicket := true } }
  else keyDone { s with key := { s.key with plinth := false } }

/-- The reload at the closing of a debug session: every node is present again (R275). The key of a node that is not LOADED
stands in State for what its derivation or its unwrapping gives. -/
def armReload (s : State) : State :=
  let fresh := decide (s.ent.st ≠ .ready)
  keyDone { s with key := { s.key with nodes := s.key.nodes.map fun p => (p.1, { p.2 with loaded := decide (p.2.st ≠ .invalid), secretMask := fresh }) } }

/-- ARMATURE_LOAD_DONE: the load that runs has ended; none runs while READY reads 1. -/
def armLoaded (s : State) (ticketOk : Bool) : State :=
  if s.key.ready ∨ s.pwr.phase = .aonInit ∨ s.pwr.phase = .optLoad then s
  else if s.key.nodes.isEmpty then armStart s ticketOk
  else releaseHeld (armReload s)

/-! ### Invalidation (R257) -/

/-- Adds the children of the listed indices. -/
def withChildren (s : State) (l : List Nat) : List Nat :=
  let hs := l.map (handleOf s)
  l ++ (s.key.nodes.filterMap fun p =>
    if hs.contains p.2.parent.toNat ∧ !(l.contains p.1) ∧ p.1 ≠ 0 then some p.1 else none)

/-- A node and its descendants, at most six levels down. -/
def subtree (s : State) (i : Nat) : List Nat := withChildren s (withChildren s (withChildren s (withChildren s (withChildren s (withChildren s [i])))))

/-- An operation is in flight on a fleet node: an LF transaction or a range exchange that began with its instance. -/
def nodeBusy (s : State) (i : Nat) : Bool :=
  (allChans.any fun ch => regBusy s ch fun j => needsKey j && fleetIdx (jobEntry s j).fleet == i && j.keyInst == (getNode s i).inst) ||
    (match s.rad.cur with
    | some a => decide (a.kind = .range) && fleetIdx (getReg s a.reg).fleet == i
    | none => false)

/-- The index of an INVALID node is free once the last operation on it has ended (R257). -/
def freeInvalid (s : State) : State :=
  s.key.nodes.foldl (fun s p => if p.2.st = .invalid ∧ !nodeBusy s p.1 then setNode s p.1 .free else s) s

/-- One node becomes INVALID; with no operation left on it its index is free. -/
def invalidateOne (s : State) (i : Nat) (journal : Bool) : State :=
  let n := getNode s i
  if n.st = .free ∨ n.st = .invalid then s
  else
    let s1 := if journal then
        stageLife s 11 (nodeStCode n.st) 3 n.type (leBytes (handleOf s i) 4 ++ leBytes n.gen.toNat 2)
      else s
    let s2 := setNode s1 i (if nodeBusy s i then { n with st := .invalid, loaded := false, key := 0 } else .free)
    { s2 with key := { s2.key with invalidated := sat 16 (s2.key.invalidated + 1), usesMark := smDel s2.key.usesMark i },
              fl := { s2.fl with keyStore := smDel s2.fl.keyStore i } }

def invalidateAll (s : State) (l : List Nat) (journal : Bool) : State := l.foldl (fun s i => invalidateOne s i journal) s

/-- The node of a handle: it exists, with that instance number (R250). -/
def nodeOfHandle (s : State) (h : Nat) : Option Nat :=
  let i := h % 256
  let n := getNode s i
  if h ≠ 0 ∧ n.st ≠ .free ∧ n.inst = h / 256 then some i else none

/-- KEY_RAM_ERROR: the node and its descendants are lost; persistent ones are reloaded under new instance numbers, their USES and
marks as they were (R255). -/
def ramError (s : State) (i : Nat) : State :=
  if (getNode s i).st = .free ∨ (getNode s i).st = .invalid then s
  else
    let l := subtree s i
    let keep := l.filterMap fun k =>
      let n := getNode s k
      if n.persistent ∧ n.st ≠ .invalid then some (k, n, smFind s.fl.keyStore k, usesMarkOf s k) else none
    let s1 := invalidateAll s l true
    keep.foldl (fun s e =>
      let x := nextInst s e.1
      let ph := e.2.1.parent.toNat
      let par := if ph = 0 then 0 else handleOf x.2 (ph % 256)
      let s2 := setNode { x.2 with key := { x.2.key with usesMark := smPut x.2.key.usesMark e.1 e.2.2.2 4096 } } e.1
        { e.2.1 with inst := x.1, parent := BitVec.ofNat 32 par }
      match e.2.2.1 with
      | some n => { s2 with fl := { s2.fl with keyStore := smIns s2.fl.keyStore e.1 n } }
      | none => s2) s1

/-! ### Derivation and import (R259, R262, R263) -/

def freeHostIndex (s : State) : Option Nat := ((List.range 224).map (· + 32)).find? fun i => decide ((getNode s i).st = .free)

/-- The highest generation derived so far under a parent with a label. -/
def topGen (s : State) (parent : BitVec 32) (label : BitVec 128) : Option Nat :=
  (s.key.gens.find? fun g => g.1 == parent && g.2.1 == label).map (·.2.2)

def noteGen (s : State) (parent : BitVec 32) (label : BitVec 128) (g : Nat) : State :=
  { s with key := { s.key with gens := (s.key.gens.filter fun x => !(x.1 == parent && x.2.1 == label)) ++ [(parent, label, g)] } }

/-- LIMIT 0 means 2^48 − 1. -/
def limitOf (n : Nat) : Nat := if n = 0 then 2 ^ 48 - 1 else n

/-- Derives a host node under node `p`: its index. -/
def deriveNode (s : State) (p : Nat) (label : BitVec 128) (big : Bool) (limit g i : Nat) : State :=
  let n := getNode s p
  let par := BitVec.ofNat 32 (handleOf s p)
  let key := kdf (nodeKey n) (toN (leBytes label.toNat 16)) (nBe Config.deviceUid.toNat 8 ++ nBe g 2) big
  let s1 := noteGen (countUse (addBlocks s (if big then 4 else 2)) p) par label g
  let x := nextInst s1 i
  setNode x.2 i { inst := x.1, parent := par, level := n.level + 1, type := 5, st := .active, big := big, loaded := true,
                  persistent := false, owner := 0x20, fslot := none, gen := BitVec.ofNat 16 g, label := label, uses := 0,
                  limit := limitOf limit, beat := s.clk.beat, key := BitVec.ofNat 256 (beN key),
                  secretMask := decide (s.ent.st ≠ .ready) }

/-- Check 4 of R263: FORMAT, TYPE, SLOT, SIZE, OWNER and the zero bytes. -/
def blobShape (b : List Byte) : Bool :=
  let ty := leAt b 2 1
  decide (leAt b 0 2 = 0x4B01) && decide (1 ≤ ty) && decide (ty ≤ 3) &&
    (if ty = 1 then decide (leAt b 3 1 < 8) else decide (leAt b 3 1 = 0)) && decide (leAt b 13 1 < 2) &&
    decide (leAt b 38 1 = if ty = 3 then 0x20 else 0) && decide (leAt b 39 1 = 0) && decide (leAt b 44 4 = 0)

/-- Check 6: the key under K_tr. -/
def blobKey (s : State) (b : List Byte) : Option (List Nat) :=
  ccmOpenBytes (nodeKey (getNode s 1)) ([0x4B] ++ toN (slice b 4 8) ++ toN (slice b 40 4)) (toN (b.take 48)) (toN (slice b 48 32))
    (toN (slice b 80 16))

/-- Check 7. -/
def blobFresh (s : State) (b : List Byte) : Bool :=
  decide (s.key.iseq.toNat < leAt b 40 4) &&
    (decide (leAt b 2 1 ≠ 2) || !hasLedgerNode s || decide ((getNode s 16).gen.toNat < leAt b 14 2))

/-- Index that a blob fills: fleet slot, ledger node, or a free host index. -/
def blobIndex (s : State) (b : List Byte) : Option Nat :=
  match leAt b 2 1 with
  | 1 => some (8 + leAt b 3 1)
  | 2 => some 16
  | _ => freeHostIndex s

/-- A ledger node replaces the old one: a roll is due, the window restarts, K_v is derived anew (R226, R240, R263). -/
def ledgerImported (s : State) : State :=
  let s1 := installKv s
  { s1 with ldg := { s1.ldg with h := 0, map := 0, lgen := (getNode s1 16).gen }, jrn := { s1.jrn with rollDue := some 3 } }

/-- Enters an imported node: key store, armature, records. -/
def importNode (s : State) (b : List Byte) (i : Nat) (key : List Nat) : State :=
  let ty := leAt b 2 1
  let big := decide (leAt b 13 1 = 1)
  let old := (getNode s i).st
  -- K_j and K_c of an old ledger node stay until the roll
  let s1 := if ty = 1 then invalidateAll s (subtree s i) true
    else if ty = 2 then invalidateAll s (if old = .free then [] else [16, 5]) true
    else s
  let x := nextInst (countUse (countUse s1 1) 2) i
  let n : Node := { inst := x.1, parent := BitVec.ofNat 32 (handleOf x.2 0), level := 1, type := ty + 1, st := .active, big := big,
                    loaded := true, persistent := true,
                    owner := if ty = 1 then 0x1F else if ty = 2 then 0x40 else 0x20, fslot := if ty = 1 then some (i - 8) else none,
                    gen := BitVec.ofNat 16 (leAt b 14 2), label := BitVec.ofNat 128 (leAt b 16 16), uses := 0,
                    limit := limitOf (leAt b 32 6), beat := s.clk.beat,
                    key := BitVec.ofNat 256 (beN (if big then key else key.take 16)), secretMask := decide (s.ent.st ≠ .ready) }
  let s2 := setNode x.2 i n
  let s3 := { s2 with key := { s2.key with iseq := BitVec.ofNat 32 (leAt b 40 4), usesMark := smDel s2.key.usesMark i },
                      fl := { s2.fl with keyStore := smIns s2.fl.keyStore i n } }
  let s4 := stageNode s3 10 i (if ty = 3 then .free else old)
  if ty = 2 then ledgerImported s4 else s4

/-! ### Records of nodes (R252) -/

def nodeBytes (s : State) (i : Nat) : List Byte :=
  let n := getNode s i
  if n.st = .free then List.replicate 64 0#8
  else
    let kcv := if n.loaded ∧ 2 ≤ n.type ∧ n.type ≤ 4 then (cmac (nodeKey n) (List.replicate 16 0)).take 4 else [0, 0, 0, 0]
    layBytes 64 [(0, leBytes (handleOf s i) 4), (4, leBytes n.parent.toNat 4), (8, leBytes n.level 1), (9, leBytes n.type 1),
      (10, leBytes (nodeStCode n.st) 1), (11, leBytes (b2n n.big + 2 * b2n n.loaded + 4 * b2n n.persistent) 1),
      (12, leBytes n.owner.toNat 1), (13, leBytes (n.fslot.getD 0xFF) 1), (14, leBytes n.gen.toNat 2), (16, leBytes n.label.toNat 16),
      (32, leBytes n.uses 6), (38, leBytes n.limit 6), (44, leBytes n.beat.toNat 8), (52, ofN kcv)]

/-! ### Limits, marks and patina (R250, R254, R255, R264) -/

/-- NODE_USAGE_LIMIT. -/
def usageLimit (s : State) (i : Nat) : State :=
  let n := getNode s i
  if n.st = .active ∧ n.limit ≤ n.uses then retireNode s i else s

/-- INSTANCE_MARK_RAISE: the instance number has come within 64 of its mark. -/
def raiseInst (s : State) (i : Nat) : State :=
  let m := smGet s.key.instMark i 256
  if keeperUp s ∧ m ≤ smGet s.key.inst i 0 + 64 then
    { s with key := { s.key with instMark := smPut s.key.instMark i (m + 256) 256 } }
  else s

/-- One mask of the generator for each LOADED node, where it serves them (R264, R314). -/
def patinaDraws : List (Nat × Node) → State → State
  | [], s => s
  | p :: t, s =>
    if p.2.loaded then
      match drbgDraw s (if p.2.big then 32 else 16) with
      | some d => patinaDraws t (setNode d.2 p.1 { getNode d.2 p.1 with secretMask := false })
      | none => patinaDraws t s
    else patinaDraws t s

/-- PATINA_PASS: a pass ends, on time or not; it pauses in DOZE. -/
def patinaNow (s : State) (onTime : Bool) : State :=
  if s.pwr.st ≠ .run ∨ !s.key.ready then s
  else
    let s1 := patinaDraws s.key.nodes s
    if onTime then s1 else { s1 with key := { s1.key with patinaLate := sat 32 (s1.key.patinaLate + 1) } }

/-! ### Debug sessions (R272 to R275) -/

/-- DEBUG_OPEN: the boundary after a passed unlock's final result. -/
def debugOpenNow (s : State) : State :=
  match s.lcy.dbgDue with
  | none => s
  | some d =>
    let s1 := { s with
      key := { s.key with nodes := s.key.nodes.map fun p =>
        (p.1, if p.1 = 0 ∨ p.1 = 3 ∨ p.1 = 4 then p.2 else { p.2 with loaded := false }) },
      lcy := { s.lcy with dbg := d.1, dbgEndUs := s.clk.nowUs + d.2.2 * 60000000, dbgToken := d.2.1, dbgDue := none, dbgDueUid := 0,
                          dbgOpens := sat 32 (s.lcy.dbgOpens + 1) } }
    let s2 := stageLife s1 7 0 (dbgCode d.1) 0 (leBytes d.2.1.toNat 8)
    match findCmd s2 s.lcy.dbgDueUid with
    | some c => finishNow s2 c (okStatus c.flag (c.count % 2 = 1)) 0 []
    | none => s2

/-- A session closes: 0 LOCK, 1 window, 2 reset, 3 power state, 4 advance to RMA; the armature reloads. -/
def debugClose (s : State) (reason : Nat) : State :=
  if s.lcy.dbg = .locked then s
  else
    let s1 := stageLife s 8 (dbgCode s.lcy.dbg) 0 reason (leBytes s.lcy.dbgToken.toNat 8)
    { s1 with lcy := { s1.lcy with dbg := .locked, dbgEndUs := 0, dbgToken := 0, dbgLastClose := reason, keeperHalted := false,
                                   testMode := false },
              key := { s1.key with ready := false, prog := ⟨0, 0, true⟩ } }

/-- DEBUG_WINDOW_END: the first boundary at or after the end of WIN. -/
def debugWindow (s : State) : State :=
  if s.lcy.dbg ≠ .locked ∧ s.lcy.dbgEndUs ≤ s.clk.nowUs then debugClose s 1 else s

end Sys2Proof.Machine
end

