-- ==== Sys2Proof/Machine/Advance.lean ====
section
/-! DEFINITION. The life-cycle advance (R243, R265 to R271).

Marked choices (log entries): DEDUCED 56. -/

namespace Sys2Proof.Machine

open Sys2Proof

/-! ### Tickets (R266, R267) -/

/-- The transitions of R266 with their DISPOSITION and KEEP_REGISTRY. -/
def transitionOk (frm dest disp : Nat) (keep : Bool) : Bool :=
  match frm with
  | 0 => (dest = 1 || dest = 5) && decide (disp = 0) && !keep
  | 1 => decide (2 ≤ dest) && decide (dest ≤ 5) && decide (1 ≤ disp) && decide (disp ≤ 2) && (!keep || decide (dest ≤ 3))
  | 2 => decide (3 ≤ dest) && decide (dest ≤ 5) && decide (1 ≤ disp) && decide (disp ≤ 2) && (!keep || decide (dest = 3))
  | 3 => decide (4 ≤ dest) && decide (dest ≤ 5) && decide (1 ≤ disp) && decide (disp ≤ 2) && !keep
  | 4 => decide (dest = 5) && decide (disp = 0) && !keep
  | _ => false

/-- Check 5 of R268. -/
def ticketShape (s : State) (b : List Byte) : Bool :=
  let t := parseTicket b
  decide (leAt b 0 2 = 0x5401) && decide (t.uid = Config.deviceUid) && decide (t.frm = lcState s) &&
    transitionOk t.frm t.dest t.disposition t.keepRegistry && decide (leAt b 13 1 < 2) && decide (leAt b 14 2 = 0) &&
    (if 1 ≤ t.dest ∧ t.dest ≤ 3 then decide (t.pseed ≠ 0) else decide (t.pseed = 0))

/-! ### Progress and records -/

/-- LCY_PROGRESS goes on to `v` (R269, R377). -/
def advProgress (s : State) (v pos : Nat) : State :=
  let old := s.lcy.prog.progress
  postProgress { s with lcy := { s.lcy with prog := ⟨v, pos, decide (v < 1000)⟩ } } 3 srcLife old v pos

/-- A phase runs through its positions, PROGRESS rising with them over the phase's range (R269). -/
def advSteps (s : State) (from_ width total : Nat) (l : List Nat) : State :=
  l.foldl (fun s p => advProgress s (from_ + width * p / total) p) s

/-- Events 0 to 5 of R279. -/
def stageAdvance (s : State) (event phase : Nat) (t : Ticket) : State :=
  stageLife s event t.frm t.dest phase [BitVec.ofNat 8 t.disposition, BitVec.ofNat 8 (b2n t.keepRegistry)]

def setAdv (s : State) (a : Option Advance) : State := { s with lcy := { s.lcy with adv := a } }

/-- Every check has passed: the ticket is written, the advance runs (R269). -/
def advanceBegin (s0 : State) (uid : Nat) (t : Ticket) : State :=
  let s := if t.dest = 5 then debugClose s0 4 else s0
  let s1 := { s with fl := { s.fl with newTicket := some t },
                     lcy := { s.lcy with adv := some ⟨uid, t, 1, decide (s.ldg.st = .active), false⟩, prog := ⟨0, 0, true⟩ } }
  stageAdvance s1 0 1 t

/-- The boundary at which the advance starts: the ledger enters CLOSING (R243, step 1). -/
def advanceBoundary (s : State) : State :=
  match s.lcy.adv with
  | some a => if a.phase = 1 ∧ !a.closeDone ∧ s.ldg.st = .active then { s with ldg := { s.ldg with st := .closing } } else s
  | none => s

/-! ### Phase 1: ADVANCE_CLOSE -/

/-- Boundary c of R243: the buffer is drained, the buckets close, CARRY, LC_CLOSE and the ADVANCE record are written; what is
staged from here on belongs to the new chain (R240). -/
def closeRecords (s : State) (t : Ticket) : State :=
  let s1 := closeLedger (sealAll s) t.disposition t.frm t.dest
  let x := storeCkpt s1 2 t.disposition none
  let s2 := { x.1 with jrn := { x.1.jrn with kgen := x.1.jrn.kgen + 1, firstUncoveredKgen := x.1.jrn.kgen + 1, prevChain := x.2.2,
                                             rollDue := none } }
  writeCounter (writeCounter (stageCkpt s2 2 x.2.1 x.2.2) 4) 5

/-- The ledger is where phase 1 needs it. -/
def closeReady (s : State) : Bool :=
  if s.jrn.isOpen then decide (s.ldg.st = .closing) && ckptReady s else true

def advanceCloseNow (s : State) : State :=
  match s.lcy.adv with
  | none => s
  | some a =>
    if a.phase ≠ 1 ∨ a.closeDone ∨ !closeReady s ∨ !keeperUp s then s
    else
      let n := s.jrn.staged.length
      let s0 := advSteps s 0 200 (max n 1) ((List.range n).map (· + 1))
      let s1 := if s.jrn.isOpen then closeRecords s0 a.ticket else s0
      let s2 := setAdv s1 (some { a with closeDone := true })
      stageAdvance (advProgress s2 200 n) 1 1 a.ticket

/-! ### Phase 2: ADVANCE_COMMIT -/

/-- The fuse bits that an advance to a state programs. -/
def fuseBits (dest : Nat) : BitVec 6 := BitVec.ofNat 6 (2 ^ (dest - 1) + (if dest = 5 then 32 else 0))

/-- Both option copies mirror the life-cycle code, one at a time, OSEQ one above the other (R265, R404). -/
def mirrorOptions (s : State) (code : Nat) : State :=
  let a := { s.fl.optA with lcCode := code, oseq := s.fl.optB.oseq + 1 }
  let b := { s.fl.optB with lcCode := code, oseq := a.oseq + 1 }
  { s with fl := { s.fl with optA := a, optB := b, opts := { s.fl.opts with lcCode := code, oseq := b.oseq } } }

/-- Phase 3 begins: the key RAM of the old armature is zeroed, every node INVALID (R269, R257). -/
def zeroArmature (s : State) : State :=
  let s1 := invalidateAll s (s.key.nodes.map (·.1)) false
  { s1 with key := { s1.key with plinth := false, gens := [] } }

/-- The fuse pair, the option copies and the record of the commit; phase 3 begins with the end of phase 2. -/
def advanceCommitNow (s : State) : State :=
  match s.lcy.adv with
  | none => s
  | some a =>
    if a.phase ≠ 1 ∨ !a.closeDone ∨ !keeperUp s then s
    else
      let s1 := mirrorOptions { s with lcy := { s.lcy with fuses := s.lcy.fuses ||| fuseBits a.ticket.dest } } a.ticket.dest
      let s2 := setAdv s1 (some { a with phase := 2 })
      zeroArmature (stageAdvance (advProgress s2 300 0) 2 2 a.ticket)

/-! ### Phase 3: ADVANCE_DESTROY -/

/-- The units of the registry entries and slot records are erased; the slots are UNENROLLED. -/
def eraseRegistry (s : State) : State :=
  let chs := s.tok.recs.map (·.1)
  let s1 := { s with tok := { s.tok with reg := [], recs := [], changes := [] }, fl := { s.fl with reg := [], recs := [] } }
  chs.foldl (fun s c => pairSlot s c fun e => if e.st = .unverifiable then e else SlotEnt.reset) (flashRenew s1 2 0 (ticketOff 0))

def advanceDestroyNow (s : State) : State :=
  match s.lcy.adv with
  | none => s
  | some a =>
    if a.phase ≠ 2 ∨ !keeperUp s then s
    else
      let keep := a.ticket.keepRegistry && decide (a.ticket.dest ≠ 5)
      let s1 := zeroArmature s
      let s2 := { s1 with key := { s1.key with usesMark := [] }, fl := { s1.fl with keyStore := [] } }
      let s3 := if keep then s2 else eraseRegistry s2
      let s4 := setAdv s3 (some { a with phase := 3 })
      let units := if keep then 15 else 81
      stageAdvance (advSteps s4 300 600 (4 * units) ((List.range units).map fun k => 4 * (k + 1))) 3 3 a.ticket

/-! ### Phase 4: ADVANCE_INSTALL -/

/-- The closing node of R269, in the plinth's place. -/
def closingKey (dest : Nat) : List Nat :=
  kdf devKey (ascii "KZ FINAL RECORDS") (nBe Config.deviceUid.toNat 8 ++ [dest]) true

/-- A plinth or a closing node, with K_j and K_c under it. -/
def installRoot (s : State) (key : List Nat) : State :=
  let x := nextInst s 0
  let s1 := setNode x.2 0 { plinthNode key s.clk.beat with inst := x.1, secretMask := decide (s.ent.st ≠ .ready) }
  installKc (installKj s1 s1.jrn.kgen.toNat)

def installSystem (s0 : State) : State :=
  let s := childUse (childUse s0 0) 0
  let p := handleOf s 0
  let s1 := sysNode s 1 p 1 0 (2 ^ 20) false 0x80 "KZ TRANSPORT KEY" (trKey s 0)
  sysNode s1 2 p 1 0 (2 ^ 48 - 1) false 0x80 "KZ STORAGE KEY 1" (stKey s1)

/-- The roll for reason 2: the records drained since boundary c are sealed, KEY_ROLL follows them. -/
def rollTwo (s : State) : State :=
  let s1 := sealAll s
  let new := s1.jrn.kgen
  postRoll (stageRoll s1 2 (new - 1) new) 2 new

/-- The ledger opens at the entry to FACTORY, every bucket at 0, with a new chain (R217, R234). -/
def openLedger (s : State) : State :=
  { s with ldg := { s.ldg with cA := .zero, cB := .zero, billRes := 0, svcUs := 0, nextDailyUs := dayUs, lastPeriodicUs := s.clk.nowUs,
                               lastSummaryUs := s.clk.nowUs, h := 0, map := 0, lgen := 0 },
           mtr := { s.mtr with aDis := 0, aChg := 0, eDis := 0, eChg := 0, fbRem := 0, faultBeats := 0, gaspUs := 0 },
           jrn := { s.jrn with isOpen := true, nextSeq := 1, kgen := 0, firstUncovered := 1, firstUncoveredKgen := 0, prevChain := 0,
                               prevTag := 0 } }

/-- The counters of boundary c, from the LC_CLOSE checkpoint. -/
def countersAtClose (s : State) : Option (List Byte) :=
  (((ckptsRead s).filter fun c => c.type == 2).getLast?).map fun c => slice c.bytes 64 64

/-- A new life: plinth, system nodes, roll, LC_OPEN; the ledger is ACTIVE. -/
def installLife (s : State) (t : Ticket) : State :=
  let s0 := if t.frm = 0 then openLedger s else s
  let s1 := installSystem (installRoot s0 (plinthKey t.dest (nBe t.pseed.toNat 32)))
  let s2 := flashRenew { s1 with key := { s1.key with plinth := true, iseq := 0 },
                                 fl := { s1.fl with ticket := some t, newTicket := none } } 2 (ticketOff 0) 128
  let s3 := { s2 with ldg := { s2.ldg with st := .active } }
  let s4 := if t.frm = 0 then s3 else rollTwo s3
  let s5 := stageAdvance s4 4 4 t
  armThresholds (storeAndRecord s5 3 0 (if t.frm = 0 then none else countersAtClose s5))

/-- RECYCLED or RMA: the last records under the closing node, and the FINAL checkpoint; the chain ends, the ledger is
CLOSED. -/
def installEnd (s : State) (t : Ticket) (wasActive : Bool) : State :=
  let s1 := if chainFrom t && s.jrn.isOpen then
      let a := stageAdvance (rollTwo (installRoot s (closingKey t.dest))) 4 4 t
      let b := if wasActive then writeCounter (storeCkpt a 5 0 none).1 4 else sealAll a
      { b with key := { b.key with nodes := [] }, jrn := { b.jrn with isOpen := false, staged := [] } }
    else stageAdvance s 4 4 t
  flashRenew { s1 with ldg := { s1.ldg with st := .closed }, key := { s1.key with plinth := false, iseq := 0 },
                       fl := { s1.fl with ticket := some t, newTicket := none } } 2 (ticketOff 0) 128

def advanceInstallNow (s : State) : State :=
  match s.lcy.adv with
  | none => s
  | some a =>
    if a.phase ≠ 3 ∨ !keeperUp s ∨ engineFailed s ∨ s.cip.mode = .kat then s
    else
      let s1 := if 1 ≤ a.ticket.dest ∧ a.ticket.dest ≤ 3 then installLife s a.ticket else installEnd s a.ticket a.ledgerWasActive
      let s2 := setAdv (advProgress s1 1000 0) none
      match findCmd s2 a.uid with
      | some c => finishNow s2 c .ok a.ticket.dest []
      | none => s2

/-! ### ADVANCE_RESUME (R270) -/

/-- The close of boundary c was written: the newest checkpoint is an LC_CLOSE. -/
def closeWritten (s : State) : Bool := match (ckptsRead s).getLast? with
  | some c => c.type == 2
  | none => false

def advanceResumeNow (s : State) : State :=
  match s.lcy.adv, s.fl.newTicket with
  | none, some t =>
    if s.pwr.phase ≠ .started ∧ !(inSpillway s && decide (t.dest = 5)) then s
    else
      let past := decide (lcState s = t.dest)
      let done := past || closeWritten s || !chainFrom t
      let a : Advance := ⟨0, t, if past then 2 else 1, chainFrom t, done⟩
      let v := if past then 300 else if done then 200 else 0
      stageAdvance { s with lcy := { s.lcy with adv := some a, prog := ⟨v, 0, true⟩ } } 5 (if past then 3 else 1) t
  | _, _ => s

end Sys2Proof.Machine
end

