-- ==== Sys2Proof/Machine/Cipher.lean ====
section
/-! DEFINITION. The cipher engine: its fault checking (R284 to R287), the mask generator's seed (R290), the checks of host
messages (R300), and what CMAC, CTR and CCM give the host (R301 to R306).

Marked choices (log entries): DEDUCED 66. -/

namespace Sys2Proof.Machine

open Sys2Proof

/-! ### Engine -/

def setCip (s : State) (f : Cipher → Cipher) : State := { s with cip := f s.cip }

/-- Mode with the retired pipes as they stand. -/
def cipRunMode (c : Cipher) : CipMode := if c.retA ∧ c.retB then .failed else if c.retA ∨ c.retB then .single else .dual

def cmpTransient (s : State) : State := setCip s fun c => { c with cmpTransient := sat 32 (c.cmpTransient + 1) }

/-- The engine becomes FAILED (R287); it is recorded at the next boundary (R415). -/
def engineFails (s : State) : State := retireLater (setCip s fun c => { c with mode := .failed }) clsEngine 0 0

/-- CIPHER_MISMATCH (R285, steps 1 and 2; R286): the block is issued again; `agree`: its outputs then agree. -/
def cipMismatch (s : State) (agree : Bool) : State :=
  if !domReady s dCIPHER then s
  else match s.cip.mode with
    | .dual =>
      if agree then cmpTransient s
      else setCip s fun c => { c with mode := .kat, katRuns := sat 16 (c.katRuns + 1) }
    | .single => if agree then cmpTransient s else engineFails s
    | .failed => s
    | .kat => s

/-- A pipe fails the known-answer test: it works no more, and is recorded at the next boundary (R415). -/
def pipeFails (s : State) (i : Nat) : State :=
  retireLater (setCip s fun c => if i = 0 then { c with retA := true } else { c with retB := true }) clsPipe i 0

/-- The known-answer test of a start has ended (R418): the pipes that are not retired were tested. -/
def startKatDone (s : State) (aOk bOk : Bool) : State :=
  let s0 := setCip s fun c => { c with startKat := false }
  let badA := !s.cip.retA && !aOk
  let badB := !s.cip.retB && !bOk
  let left := (!s.cip.retA && aOk) || (!s.cip.retB && bOk)
  if !left then engineFails s0
  else
    let s1 := if badA then pipeFails s0 0 else s0
    let s2 := if badB then pipeFails s1 1 else s1
    let s3 := setCip s2 fun c => { c with mode := cipRunMode c }
    if tableRetired s3 clsEngine 0 then recordReinstate s3 clsEngine 0 else s3

/-- What the known-answer test decides (R285, steps 3 to 5; R418). -/
def katVerdict (s : State) (aOk bOk agree : Bool) : State :=
  if s.cip.startKat then startKatDone s aOk bOk
  else match aOk, bOk with
    | true, true =>
      if agree then cmpTransient (setCip s fun c => { c with mode := .dual }) else engineFails s
    | false, false => engineFails s
    | true, false => setCip (pipeFails s 1) fun c => { c with mode := .single }
    | false, true => setCip (pipeFails s 0) fun c => { c with mode := .single }

/-- CIPHER_KAT_DONE: the messages that waited go on (R285). -/
def katDone (s : State) (aOk bOk agree : Bool) : State :=
  if s.cip.mode ≠ .kat then s else releaseHeld (katVerdict s aOk bOk agree)

/-- The engine at a start: pipes as the table has them; a FAILED engine, or a pipe left alone, is tested before its first
use (R285, R418). -/
def cipherStart (s : State) : State :=
  let a := tableRetired s clsPipe 0
  let b := tableRetired s clsPipe 1
  let test := a || b || tableRetired s clsEngine 0
  setCip s fun c => { c with retA := a, retB := b, startKat := test, mode := if test then .kat else .dual }

/-- MASK_RESEED: a request of 32 bytes that does not wait; refused, the generator keeps its seed (R288, R290, R314). -/
def maskReseed (s : State) : State :=
  if !domReady s dCIPHER then s
  else match drbgDraw s 32 with
    | some d => setCip d.2 fun c => { c with maskSeeded := true }
    | none => drbgRefuse s

/-! ### Host messages (R300 to R306) -/

def hostOwned (n : Node) : Bool := n.owner.getLsbD 5

/-- A use refused by the dike (R292). -/
def dikeRefused (s : State) : State := setCip s fun c => { c with dike := sat 32 (c.dike + 1) }

/-- Checks 4 to 7 of R300. -/
def cipherJudge (s : State) (c : Cmd) : Judge :=
  if keyBusy s then .hold
  else match nodeOfHandle s c.desc.dw8.toNat with
    | none => .stop .keyInvalid 0
    | some i =>
      let n := getNode s i
      if decide (n.st = .invalid) || !n.loaded then .stop .keyInvalid 0
      else if !hostOwned n then .stop .dikeViolation 0
      else if n.st = .retired then .stop .keyUsageExhausted 0
      else if engineFailed s then .stop .abortedStop 0
      else .go

/-- A cipher command's row: a use the dike refuses is counted. -/
def runCipher (s : State) (sq op : Nat) (m : HostMem) (body : State → Cmd → List Byte → State) : State :=
  let s1 := runCmd s sq op m cipherJudge body
  match oldestCmd s sq op with
  | some c => if keeperUp s && decide (cipherJudge s c = .stop .dikeViolation 0) then dikeRefused s1 else s1
  | none => s1

/-- Blocks of a message of `n` bytes. -/
def blocksOf (n : Nat) : Nat := (n + 15) / 16

/-- Ends a message: with its output, or, where host memory failed, zeroed (R306). -/
def endMessage (s : State) (c : Cmd) (st : Status) (result : Nat) (out : List Byte) : State :=
  if !c.outOk && !out.isEmpty then zeroCmd s c .addrErr else finishNow s c st result out

/-- The node of a command that has been judged. -/
def cipherNode (s : State) (c : Cmd) : Nat := (nodeOfHandle s c.desc.dw8.toNat).getD 0

/-- DW12 to DW15 as 16 bytes, byte 0 in DW12[7:0]. -/
def descBytes16 (d : Desc) : List Nat :=
  toN (leBytes d.dw12.toNat 4 ++ leBytes d.dw13.toNat 4 ++ leBytes d.dw14.toNat 4 ++ leBytes d.dw15.toNat 4)

/-- CIPHER_CMAC (R301). -/
def cmacRun (s : State) (c : Cmd) (inp : List Byte) : State :=
  let i := cipherNode s c
  let tlen := fld c.desc.dw9 0 5
  let s1 := addBlocks (countUse s i) (max 1 (blocksOf inp.length))
  let tag := (cmac (nodeKey (getNode s i)) (toN inp)).take tlen
  if bitOf c.desc.dw9 8 then
    finishNow s1 c (if tag = (descBytes16 c.desc).take tlen then .ok else .tagMismatch) 0 []
  else endMessage s1 c .ok 0 (ofN tag)

/-- CIPHER_CTR (R302). -/
def ctrRun (s : State) (c : Cmd) (inp : List Byte) : State :=
  if inp.isEmpty then finishNow s c .ok 0 []
  else
    let i := cipherNode s c
    let n := blocksOf inp.length
    endMessage (addBlocks (countUse s i) n) c .ok n (ofN (ctr (nodeKey (getNode s i)) (descBytes16 c.desc) (toN inp)))

/-- Blocks of a CCM message (R297): B_0, associated data with its length, payload twice, and the tag's counter block. -/
def ccmBlocks (alen plen : Nat) : Nat :=
  2 + (if alen = 0 then 0 else blocksOf (alen + if alen < 0xFF00 then 2 else 6)) + 2 * blocksOf plen

/-- Nonce of CCM_SEAL (R298). -/
def sealNonce (npfx handle u : Nat) : List Nat := nBe npfx 2 ++ nBe handle 4 ++ nBe u 6

/-- CCM_SEAL (R303). -/
def ccmSealRun (s : State) (c : Cmd) (inp : List Byte) : State :=
  let i := cipherNode s c
  let n := getNode s i
  let tlen := fld c.desc.dw9 0 5
  let alen := fld c.desc.dw10 0 24
  let u := n.uses + 1
  let nonce := sealNonce (fld c.desc.dw9 16 16) c.desc.dw8.toNat u
  let r := ccmSealBytes (nodeKey n) nonce (toN (inp.take alen)) (toN (inp.drop alen)) tlen
  let s1 := addBlocks (countUse s i) (ccmBlocks alen (inp.length - alen))
  endMessage s1 c .ok (u % 2 ^ 32) (ofN (nonce ++ List.replicate 4 0 ++ r.1 ++ r.2))

/-- CCM_OPEN (R304, R305). -/
def ccmOpenRun (s : State) (c : Cmd) (inp : List Byte) : State :=
  let i := cipherNode s c
  let tlen := fld c.desc.dw9 0 5
  let nlen := fld c.desc.dw9 8 4
  let alen := fld c.desc.dw10 0 24
  let plen := inp.length - alen - tlen
  let s1 := addBlocks (countUse s i) (ccmBlocks alen plen)
  match ccmOpenBytes (nodeKey (getNode s i)) ((descBytes16 c.desc).take nlen) (toN (inp.take alen)) (toN (slice inp alen plen))
      (toN (inp.drop (alen + plen))) with
  | some pt => endMessage s1 c .ok 0 (ofN pt)
  | none => if c.outOk then zeroCmd s1 c .tagMismatch else zeroCmd s1 c .addrErr

end Sys2Proof.Machine
end

