-- ==== Sys2Proof/Machine/Entropy.lean ====
section
/-! DEFINITION. The entropy block: windows and their health tests (R308 to R311), conditioning and the pool (R312), warm-up
(R318), the requests that wait (R316), and RNG_GET (R320).

Marked choices (log entries): DEDUCED 74. -/

namespace Sys2Proof.Machine

open Sys2Proof

def setEnt (s : State) (f : Entropy → Entropy) : State := { s with ent := f s.ent }

/-! ### Windows -/

/-- The bits of a window in the order sampled: the first is the most significant of the 1024. -/
def windowBits (b : BitVec 1024) : List Bool := (List.range 1024).map fun i => b.getLsbD (1023 - i)

/-- The run of identical bits as it goes through a window, and whether it reaches 161 (R309): the length and value of the
run so far. -/
def runThrough : List Bool → Nat × Bool → Bool → (Nat × Bool) × Bool
  | [], r, f => (r, f)
  | b :: t, r, f =>
    let n := if r.1 ≠ 0 ∧ r.2 = b then r.1 + 1 else 1
    runThrough t (n, b) (f || decide (n = 161))

def onesIn (l : List Bool) : Nat := l.foldl (fun a b => if b then a + 1 else a) 0

/-- Adjacent pairs that are equal. -/
def equalPairs : List Bool → Nat
  | a :: b :: t => (if a = b then 1 else 0) + equalPairs (b :: t)
  | _ => 0

/-- The adaptive proportion test fails (R309). -/
def aptFails (l : List Bool) : Bool :=
  match l with
  | b :: _ => decide (982 ≤ if b then onesIn l else l.length - onesIn l)
  | [] => false

/-- Bias and lag-1 correlation of a window in Q1.15, clamped (R311). -/
def biasOf (l : List Bool) : BitVec 16 :=
  BitVec.ofInt 16 (clampInt (-32768) 32767 (32 * (2 * (onesIn l : Int) - l.length)))

def corrOf (l : List Bool) : BitVec 16 :=
  BitVec.ofInt 16 (clampInt (-32768) 32767 (rdiv (32768 * (2 * (equalPairs l : Int) - 1023)) 1023))

/-- Conditions a window that passed (R312): `count` windows were tested since the domain came on, this one among them. -/
def condition (srcB : Bool) (count : Nat) (b : BitVec 1024) : BitVec 128 :=
  BitVec.ofNat 128 (beN (cmac (nBe Config.conditionerKey.toNat 16)
    ([if srcB then 0x0B else 0x0A] ++ nBe count 8 ++ nBe b.toNat 128)))

/-- A pool block joins; one too many replaces the oldest (R312). -/
def poolPut (l : List (BitVec 128)) (b : BitVec 128) : List (BitVec 128) :=
  let m := l ++ [b]
  if 8 < m.length then m.drop 1 else m

/-- Warm-up progress after the bits credited (R318). -/
def warmProgress (s : State) : State :=
  let pos := min 384 s.ent.credited
  let pr := 1000 * pos / 384
  let s1 := postProgress s 6 srcEntropy s.ent.prog.progress pr pos
  setEnt s1 fun e => { e with prog := ⟨pr, pos, decide (pr < 1000)⟩ }

/-! ### Requests that wait -/

/-- A random number reaches the work that waited for it. -/
def deliver (s : State) (w : WaitReq) (bytes : List Nat) : State :=
  match w.who with
  | .chan ch =>
    match headOf s ch with
    | some j =>
      if j.nonceReady then s else nonceArrived (setHead s ch { j with nonce := beN bytes, nonceReady := true }) ch
    | none => s
  | .cmd uid =>
    match findCmd s uid with
    | none => s
    | some c =>
      if descOpcode c.desc = 0x60 then
        let c1 := { c with bytes := c.bytes ++ ofN bytes, left := c.left - 1 }
        if c1.left = 0 then finishBytes s c1 c1.bytes else putCmd s c1
      else if descOpcode c.desc = 0x32 then
        let code := BitVec.ofNat 32 (beN bytes)
        let s1 := { s with slu := { s.slu with prepare := some ⟨code, BitVec.ofNat 4 (fld c.desc.dw8 4 4), s.clk.nowUs⟩ } }
        finishNow (stageSafe s1 8 (fld c.desc.dw8 4 4)) c .ok code.toNat []
      else radDeliver s uid (beN bytes)

/-- Bytes that a waiting request draws. -/
def waitBytes (w : WaitReq) : Nat := (w.bits + 7) / 8

/-- Serves the requests that wait, class by class (R316); each is one Generate call. -/
def serveGo : Nat → State → State
  | 0, s => s
  | k + 1, s =>
    match nextWait s with
    | none => s
    | some w =>
      if w.cls ≠ 0 ∧ !keeperUp s then s
      else match drbgDraw s (waitBytes w) with
        | some d => serveGo k (deliver (removeWait d.2 w) w d.1)
        | none => drbgRefuse s

def serveWaiting (s : State) : State := serveGo (s.ent.waiting.length * 2 + 64) s

/-- A source's window has ended (ENTROPY_WINDOW_END). -/
def windowEndNow (s0 : State) (srcB : Bool) (bits : BitVec 1024) : State :=
  if !(getDom s0 dENTROPY).on ∨ s0.ent.st = .off ∨ s0.pwr.st ≠ .run then s0
  else
    let l := windowBits bits
    let run := runThrough l (if srcB then s0.ent.runB else s0.ent.runA) false
    let rep := run.2
    let apt := aptFails l
    let pass := !rep && !apt
    let s := setEnt s0 fun e =>
      let e1 := { e with winOn := e.winOn + 1, windows := sat 32 (e.windows + 1),
                         failRep := if rep then sat 32 (e.failRep + 1) else e.failRep,
                         failApt := if apt then sat 32 (e.failApt + 1) else e.failApt }
      if srcB then { e1 with bPass := pass, biasB := biasOf l, corrB := corrOf l, runB := run.1 }
      else { e1 with aPass := pass, biasA := biasOf l, corrA := corrOf l, runA := run.1 }
    if !pass then s
    else
      let s1 := setEnt s fun e => { e with pool := poolPut e.pool (condition srcB e.winOn bits),
                                           credited := if e.st = .warmup then e.credited + 128 else e.credited }
      match s1.ent.st with
      | .warmup =>
        let s2 := warmProgress s1
        if 3 ≤ s2.ent.pool.length then serveWaiting (drbgInstantiate s2) else s2
      | .starved => if 3 ≤ s1.ent.pool.length then serveWaiting (drbgReseed s1) else s1
      | _ => s1

/-- ENTROPY_WARMUP_TIMEOUT (R317, reason 0). -/
def warmupTimeout (s : State) : State := if s.ent.st = .warmup then postEntFail s 0 else s

/-- SOFT_RESEED_LIMIT (R315): the limit is reached; the generator reseeds before it serves, where the pool allows. -/
def softLimit (s : State) : State :=
  if s.ent.st = .ready ∧ softDue s ∧ 3 ≤ s.ent.pool.length ∧ s.pwr.st = .run then drbgReseed s else s

/-- HARD_RESEED_LIMIT (R315). -/
def hardLimit (s : State) : State :=
  if s.ent.st = .ready ∧ hardDue s ∧ s.pwr.st = .run then drbgLimits s else s

/-- The work of a request that timed out (R316). -/
def timeoutOne (s : State) (w : WaitReq) : State :=
  let s1 := setEnt (removeWait s w) fun e => { e with timeouts := sat 32 (e.timeouts + 1) }
  match w.who with
  | .chan ch =>
    match headOf s1 ch with
    | some j => if j.nonceReady then s1 else (coils s1 ch j).foldl arm (failTx s1 ch j .entropyTimeout false {})
    | none => s1
  | .cmd uid =>
    match findCmd s1 uid with
    | none => s1
    | some c =>
      if descOpcode c.desc = 0x60 then
        finishNow (dropWait (emitData s1 c (List.replicate (descLenOut c.desc) 0#8)) (.cmd uid)) c .entropyTimeout 0 []
      else if descOpcode c.desc = 0x32 then failCmd (stageSafe s1 8 (fld c.desc.dw8 4 4)) c .entropyTimeout
      else radEntropyTimeout s1 uid

/-- ENTROPY_WAIT_TIMEOUT: the longest waiting request has waited WAIT_MAX ms when the next boundary comes (R316). -/
def waitTimeout (s : State) : State :=
  let lim := 1000 * regF s .entCfg 16 10
  let due := fun (w : WaitReq) => decide (w.us + lim ≤ nextBoundUs s)
  match s.ent.waiting.find? due with
  | some w => timeoutOne s w
  | none => s

/-- RNG_GET (R320). -/
def rngRun (s : State) (c : Cmd) (_ : List Byte) : State :=
  let n := descLenOut c.desc
  if n = 0 then finishNow s c .ok 0 []
  else
    let k := (n + 4095) / 4096
    let s1 := putCmd s { c with left := k }
    let s2 := (List.range k).foldl (fun a i => addWait a 3 (.cmd c.uid) (8 * min 4096 (n - 4096 * i))) s1
    if s2.ent.st = .ready then serveWaiting s2 else s2

end Sys2Proof.Machine
end

