-- ==== Sys2Proof/Machine/Fetch.lean ====
section
/-! DEFINITION. The checks before any memory access (R338 to R340) and the fetcher (R331, R25, R341).

Marked choices (log entries): DEDUCED 12, 13, 14. -/

namespace Sys2Proof.Machine

open Sys2Proof

/-! ### Check 1 and check 2 -/

/-- The opcodes of R342. -/
def opcodes : List Nat :=
  [0x01, 0x02, 0x10, 0x11, 0x12, 0x13, 0x14, 0x18, 0x20, 0x21, 0x22, 0x30, 0x31, 0x32, 0x40, 0x41, 0x42, 0x48, 0x50, 0x51, 0x52,
   0x53, 0x58, 0x59, 0x5A, 0x5B, 0x60, 0x70, 0x71, 0x72, 0x73, 0x74, 0x78, 0x79]

/-- The opcodes that spillway mode accepts (R348). -/
def spillOpcodes : List Nat := [0x01, 0x02, 0x48, 0x73, 0x74]

/-! ### Check 3: reserved bits and values -/

def commonReserved (d : Desc) : Bool :=
  decide (fld d.dw0 10 6 ≠ 0) || decide (fld d.dw1 28 4 ≠ 0) || decide (fld d.dw4 24 8 ≠ 0) || decide (fld d.dw5 24 8 ≠ 0)

def polderBad (d : Desc) : Bool := decide (4 < fld d.dw8 0 3)
def channelBad (d : Desc) : Bool := decide (95 < fld d.dw8 8 7)
def ccmTlenBad (t : Nat) : Bool := decide (t < 4) || decide (16 < t) || decide (t % 2 = 1)
def allReserved : List Nat := List.replicate 8 allOnes

/-- Reserved bits and values of the operation itself, as its chapter names them; dwords that no chapter names are not
judged (log entry 12). -/
def opReserved (d : Desc) : Bool :=
  let op := descOpcode d
  let r := fun (masks : List Nat) => !descClear d masks
  if op = 0x01 ∨ op = 0x31 ∨ op = 0x40 ∨ op = 0x41 ∨ op = 0x5B ∨ op = 0x60 ∨ op = 0x70 ∨ op = 0x78 then r allReserved
  else if op = 0x02 then r (0xFFFFFF80 :: List.replicate 7 allOnes)
  else if op = 0x10 then r [0xFFFFFFF8] || polderBad d
  else if op = 0x11 then r [0xFFFF80F0] || polderBad d || channelBad d
  else if op = 0x12 then r [0xFFFFFFF0] || polderBad d
  else if op = 0x13 then
    let mode := fld d.dw8 16 3
    r [0xFFF880F8] || polderBad d || decide (5 < mode) || (decide (mode = 0 ∨ mode = 1 ∨ mode = 4) && channelBad d) ||
      (decide (mode = 1 ∨ mode = 2) && decide (fld d.dw9 20 2 = 0))
  else if op = 0x14 then r [0xFFFF80F8] || polderBad d || channelBad d
  else if op = 0x18 then r [0xFFFFFFF0] || decide (fld d.dw8 0 2 = 3)
  else if op = 0x20 then
    let p := sgn 8 (fld d.dw8 16 8)
    r [0xFE00C8C0] || decide (1 < fld d.dw8 12 2) || decide (p < -40) || decide (28 < p)
  else if op = 0x21 then r [0xF8FEC8C0] || decide (fld d.dw8 12 2 = 3) || decide (4 < fld d.dw8 24 3)
  else if op = 0x22 then r [0xFFFFC0F8] || polderBad d
  else if op = 0x30 then r [0xFFFFF000] || decide (fld d.dw8 0 4 &&& fld d.dw8 4 4 ≠ 0)
  else if op = 0x32 then r [0xFFFFFF0E] || decide (fld d.dw8 4 4 = 0)
  else if op = 0x42 then r [allOnes, 0, 0, allOnes, allOnes, allOnes, allOnes, allOnes]
  else if op = 0x48 then r [0xFFFFFFFC] || decide (fld d.dw8 0 2 = 3)
  else if op = 0x50 then r [0, 0xFFFFFEE0, allOnes, allOnes] || decide (fld d.dw9 0 5 < 4) || decide (16 < fld d.dw9 0 5)
  else if op = 0x51 then r [0, allOnes, allOnes, allOnes]
  else if op = 0x52 then r [0, 0xFFE0, 0xFF000000, allOnes, allOnes, allOnes, allOnes, allOnes] || ccmTlenBad (fld d.dw9 0 5)
  else if op = 0x53 then
    r [0, 0xFFFFF0E0, 0xFF000000, allOnes] || ccmTlenBad (fld d.dw9 0 5) || decide (fld d.dw9 8 4 < 7) ||
      decide (13 < fld d.dw9 8 4)
  else if op = 0x58 then r [0, 0xFFFFFFFE, 0, 0xFFFF0000]
  else if op = 0x59 then r (0 :: List.replicate 7 allOnes)
  else if op = 0x72 then decide (5 < fld d.dw8 0 4) || decide (4 < fld d.dw8 4 3)
  else if op = 0x73 then r (0xFFFFFFFE :: List.replicate 7 allOnes)
  else if op = 0x74 then
    let k := fld d.dw8 0 2
    r [0xFFFFFFFC, if k = 2 then 0 else allOnes, allOnes, allOnes, allOnes, allOnes, allOnes, allOnes] || decide (k = 3) ||
      (decide (k = 2) && decide (d.dw9.toNat ≠ 0x9600))
  else if op = 0x79 then
    let a := fld d.dw8 4 2
    r [0xFFFF80C8, 0xFFFFFF00, 0, 0, allOnes, allOnes, allOnes, allOnes] || decide (a = 3) ||
      (decide (a ≠ 0) && (polderBad d || channelBad d))
  else false

/-! ### Check 4: lengths, counts and sizes (R339) -/

/-- Size of a SNAPSHOT with a section mask (R61). -/
def snapSize (m : Nat) : Nat :=
  64 + ((bitList m 7).map fun i => [65536, 3072, 3072, 320, 128, 128, 528].getD i 0).foldl (· + ·) 0

/-- The operation's own rule for LEN_IN and LEN_OUT, and its counts. -/
def opLengths (s : State) (d : Desc) : Bool :=
  let op := descOpcode d
  let n := descLenIn d
  let o := descLenOut d
  let mask := descMask96 d
  if op = 0x02 then decide (snapSize (fld d.dw8 0 7) ≤ o) && decide (o ≤ 72848)
  else if op = 0x10 then decide (n = 0) && (decide (o = 0) || (decide (32 * popCount mask 96 ≤ o) && decide (o ≤ 3072)))
  else if op = 0x11 then
    decide (n = 0) && (decide (o = 0) ||
      (if bitOf d.dw8 3 || decide (roleOf s (fld d.dw8 8 7) = 0) then decide (32 ≤ o) && decide (o ≤ 512) else decide (o = 512)))
  else if op = 0x12 then
    decide (n = 0) && decide (popCount mask 96 ≤ 4) && decide (o % 64 = 0) && decide (o ≤ 1024)
  else if op = 0x13 then decide (n = 0) && (decide (o = 0) || decide (o = 64))
  else if op = 0x14 then decide (n = 0) && (decide (o = 0) || (decide (32 ≤ o) && decide (o ≤ 512)))
  else if op = 0x18 then
    let k := ((bitList mask 96).map (masterOf s)).eraseDups.length
    decide (n = 0) && decide (32 * k ≤ o) && decide (o ≤ 3072)
  else if op = 0x20 then decide (1 ≤ n) && decide (n ≤ 255) && decide (o = 0)
  else if op = 0x21 then decide (o % 64 = 0) && decide (o ≤ 65536)
  else if op = 0x22 then
    let nt := fld d.dw8 8 6
    decide (n = 0) && (decide (o = 0) || decide (o = 64)) &&
      (decide (nt = 0) || (decide (16 ≤ nt) && decide (nt ≤ planM (radProfile s))))
  else if op = 0x31 ∨ op = 0x41 then decide (n = 0) && (decide (o = 0) || decide (o = 128))
  else if op = 0x40 then
    decide (n % 64 = 0) && decide (64 ≤ n) && decide (n ≤ 1024) && (decide (o = 0) || decide (o = n / 2))
  else if op = 0x42 then decide (n = 0) && (decide (o = 0) || decide (o = 256))
  else if op = 0x48 then
    let mode := fld d.dw8 0 2
    let k := d.dw11.toNat
    decide (n = 0) && decide (1 ≤ k) && (if mode = 1 then decide (k ≤ 8192) else decide (k ≤ 65536)) &&
      (if mode = 0 then decide (64 * k ≤ o) else if mode = 1 then decide (256 * k ≤ o) else decide (o = 32))
  else if op = 0x50 then if bitOf d.dw9 8 then decide (o = 0) else decide (o = fld d.dw9 0 5)
  else if op = 0x51 then decide (o = n)
  else if op = 0x52 then
    let a := fld d.dw10 0 24
    decide (a ≤ n) && decide (o = 16 + (n - a) + fld d.dw9 0 5)
  else if op = 0x53 then
    let a := fld d.dw10 0 24 + fld d.dw9 0 5
    decide (a ≤ n) && decide (n - a < 2 ^ (8 * (15 - fld d.dw9 8 4))) && decide (o = n - a)
  else if op = 0x5A then decide (n = 0) && (decide (o = 0) || decide (o = 64))
  else if op = 0x5B then decide (n = 96) && decide (o = 0)
  else if op = 0x60 then decide (n = 0) && decide (o ≤ 65536)
  else if op = 0x70 then decide (n % 8 = 0) && decide (16 ≤ n) && decide (n ≤ 262144) && decide (o = 0)
  else if op = 0x73 then decide (1 ≤ n) && decide (n ≤ 2097152) && decide (o = 0)
  else if op = 0x78 then decide (n = 64) && decide (o = 0)
  else decide (n = 0) && decide (o = 0)

/-- LEN_OUT is 0 by the operation's rule: LEN_IN is then held against BUF_CAP. -/
def outMustBeZero (d : Desc) : Bool :=
  let op := descOpcode d
  [0x01, 0x20, 0x30, 0x32, 0x58, 0x59, 0x5B, 0x70, 0x71, 0x72, 0x73, 0x74, 0x78, 0x79].contains op ||
    (decide (op = 0x50) && bitOf d.dw9 8)

def lengthsOk (s : State) (d : Desc) : Bool :=
  opLengths s d && decide (descLenOut d ≤ descBufCap d) && (!outMustBeZero d || decide (descLenIn d ≤ descBufCap d))

/-! ### Check 5: addresses (R340) -/

/-- The rings that are enabled: base and length in bytes, without the queue named (0 to 15 SQ, 16 to 31 CQ, 32 EQ). -/
def rings (s : State) (but : Nat) : List (Nat × Nat) :=
  let sq := (List.range 16).filterMap fun n => let q := getSq s n
    if q.st ≠ .disabled ∧ n ≠ but then some (q.base.toNat, 64 * ringSize q.size) else none
  let cq := (List.range 16).filterMap fun n => let q := getCq s n
    if q.active ∧ n + 16 ≠ but then some (q.base.toNat, 16 * ringSize q.size) else none
  let eq := if s.ring.eq.active ∧ but ≠ 32 then [(s.ring.eq.base.toNat, 16 * ringSize s.ring.eq.size)] else []
  sq ++ cq ++ eq

def rangesMeet (a n b m : Nat) : Bool := decide (0 < n) && decide (0 < m) && decide (a < b + m) && decide (b < a + n)

def rangeOk (s : State) (a n : Nat) : Bool :=
  decide (n = 0) || (decide (a + n ≤ 2 ^ 64) && !((rings s 33).any fun r => rangesMeet a n r.1 r.2))

def addressesOk (s : State) (d : Desc) : Bool :=
  let a := descAddrIn d
  let b := descAddrOut d
  rangeOk s a (descLenIn d) && rangeOk s b (descLenOut d) &&
    (!rangesMeet a (descLenIn d) b (descLenOut d) || (decide (descOpcode d = 0x51) && decide (a = b)))

/-- Checks 1 to 5 of R338; `none`: all pass. -/
def checkDesc (s : State) (d : Desc) : Option Status :=
  if !opcodes.contains (descOpcode d) then some .opcodeUnsupported
  else if inSpillway s && !spillOpcodes.contains (descOpcode d) then some .busySpillway
  else if commonReserved d || opReserved d then some .opcodeUnsupported
  else if !lengthsOk s d then some .lengthErr
  else if !addressesOk s d then some .addrErr
  else none

/-! ### The fetcher -/

/-- Opcodes whose commands stage journal records: held back while the staging buffer holds more than 1024 (R25). -/
def stagingOps : List Nat :=
  [0x10, 0x11, 0x12, 0x13, 0x14, 0x18, 0x21, 0x22, 0x30, 0x32, 0x40, 0x42, 0x50, 0x51, 0x52, 0x53, 0x58, 0x59, 0x5B, 0x70, 0x71,
   0x78, 0x79]

/-- The device issues memory requests and its keeper fetches (R24, R354, R399). -/
def fetchRuns (s : State) : Bool :=
  keeperUp s && s.ring.bme && !s.ring.d3hot && domReady s dLINK &&
    (decide (s.pwr.phase = .started) || decide (s.pwr.phase = .spillway)) && decide (s.pwr.st = .run)

/-- An SQ that the fetcher serves: ACTIVE, with entries, its CQ's holding buffer not full (R331, R332). -/
def sqReady (s : State) (n : Nat) : Bool :=
  let q := getSq s n
  decide (q.st = .active) && decide (q.head ≠ q.tail) && decide ((getCq s q.cq).held.length < 64)

/-- The SQ whose turn it is: the next one after the one served last. -/
def nextSq (s : State) : Option Nat :=
  ((List.range 16).map fun i => (s.ring.turn + 1 + i) % 16).find? (sqReady s)

/-- Sets a bit of Q_ERR that names an SQ (R356). -/
def sqErr (s : State) (n : Nat) (old : Bool) (f : Ring → Ring) : State :=
  errVector { s with ring := { f s.ring with errSq := n, errEq := false } } (!old)

/-- One descriptor read (R331, R338, R341): `false`: the turn is over. -/
def fetchOne (s : State) (n : Nat) (d : Option Desc) : State × Bool :=
  let q := getSq s n
  match d with
  | none => (sqErr (setSq s n { q with st := .error }) n s.ring.fetchErr fun r => { r with fetchErr := true }, false)
  | some d =>
    if stagingOps.contains (descOpcode d) && decide (1024 < s.jrn.staged.length) then (s, false)
    else
      let q1 := { q with head := (q.head + 1) % ringSize q.size }
      let s1 := setSq s n q1
      let c : Cmd := { uid := s1.ring.nextUid, sq := n, desc := d, st := .waiting, fetchBeat := s1.clk.beat,
                       fetchUs := s1.clk.nowUs, outOk := true,
                       recs := [], left := 0, count := 0, flag := false, bytes := [], voted := false }
      let s2 := { s1 with ring := { s1.ring with nextUid := s1.ring.nextUid + 1, fetched := sat 32 (s1.ring.fetched + 1),
                                                 cmds := s1.ring.cmds ++ [c] } }
      match checkDesc s d with
      | some st => (failCmd s2 c st, true)
      | none => (s2, true)

def fetchGo : State → Nat → Nat → List (Option Desc) → State
  | s, _, _, [] => s
  | s, _, 0, _ :: _ => s
  | s, n, k + 1, d :: t =>
    if sqReady s n then
      let r := fetchOne s n d
      if r.2 then fetchGo r.1 n k t else r.1
    else s

/-- DESCRIPTOR_FETCH: one turn of one SQ, up to BURST + 1 descriptors; `ds` is what host memory returns for them. -/
def fetchTurn (s : State) (ds : List (Option Desc)) : State :=
  if !fetchRuns s then s
  else match nextSq s with
    | none => s
    | some n => fetchGo { s with ring := { s.ring with turn := n } } n ((getSq s n).burst + 1) ds

end Sys2Proof.Machine
end

