-- ==== Sys2Proof/Machine/Rings.lean ====
section
/-! DEFINITION. Doorbells (R327), the enabling and disabling of queues (R329, R330), interrupts (R356, R357), and the function
reset (R354).

Marked choices (log entries): DEDUCED 15, 16, 17, 33. -/

namespace Sys2Proof.Machine

open Sys2Proof

/-- A host memory request reaches the BARs: LINK is ready, memory space is enabled, the function is in D0 (R326). -/
def hostReach (s : State) : Bool := domReady s dLINK && s.ring.memEn && !s.ring.d3hot

/-! ### Q_ERR -/

def cqErr (s : State) (n : Nat) (old : Bool) (f : Ring → Ring) : State :=
  errVector { s with ring := { f s.ring with errCq := n, errEq := false } } (!old)

def eqErr (s : State) (old : Bool) (f : Ring → Ring) : State :=
  errVector { s with ring := { f s.ring with errEq := true } } (!old)

def setRange (r : Ring) : Ring := { r with dbRange := true }
def setDisabled (r : Ring) : Ring := { r with dbDisabled := true }
def setBusy (r : Ring) : Ring := { r with cfgBusy := true }
def setBad (r : Ring) : Ring := { r with cfgBad := true }

/-! ### Doorbells -/

/-- The value of a head doorbell names an entry the device has written (R327). -/
def releases (v size head tail : Nat) : Bool :=
  decide (v < ringSize size) && decide (unreleased size head v ≤ unreleased size head tail)

def ringSqTail (s : State) (n : Nat) (v : Word) : State :=
  let q := getSq s n
  if q.st ≠ .active then sqErr s n s.ring.dbDisabled setDisabled
  else if v.toNat < ringSize q.size then setSq s n { q with tail := v.toNat }
  else sqErr s n s.ring.dbRange setRange

def ringCqHead (s : State) (n : Nat) (v : Word) : State :=
  let q := getCq s n
  if !q.active then cqErr s n s.ring.dbDisabled setDisabled
  else if releases v.toNat q.size q.head q.tail then
    let s1 := drainHeld 64 (setCq s n { q with head := v.toNat }) n
    let q1 := getCq s1 n
    setCq s1 n { q1 with timer := decide (0 < q1.counted) }
  else cqErr s n s.ring.dbRange setRange

def ringEqHead (s : State) (v : Word) : State :=
  let q := s.ring.eq
  if !q.active then eqErr s s.ring.dbDisabled setDisabled
  else if releases v.toNat q.size q.head q.tail then
    { s with ring := { s.ring with eq := { q with head := v.toNat, timer := decide (0 < q.counted) } } }
  else eqErr s s.ring.dbRange setRange

/-- Holds an access for the end of a keeper restart: of a doorbell the last value, of a register every write in order (R24,
R327, R364). -/
def deferAccess (s : State) (key : Nat) (v : Word) : State :=
  let old := if key < 0x10000 then s.ring.deferred.filter (fun d => !(d.1 == key)) else s.ring.deferred
  { s with ring := { s.ring with deferred := old ++ [(key, v)] } }

/-- A doorbell at a BAR2 offset. -/
def ringDoorbell (s : State) (off : Nat) (v : Word) : State :=
  if off = 0x100 then ringEqHead s v
  else if off % 8 = 0 then ringSqTail s (off / 8) v
  else ringCqHead s (off / 8) v

def doorbell (s : State) (off : Nat) (v : Word) : State :=
  if !hostReach s then s else if s.flt.restarting then deferAccess s off v else ringDoorbell s off v

/-! ### Queues -/

/-- A ring at `base` would overlap another enabled ring. -/
def ringOverlaps (s : State) (but base len : Nat) : Bool := (rings s but).any fun r => rangesMeet base len r.1 r.2

/-- A command that still waits: not started, or started without a channel or the radio (R330). -/
def cmdWaits (s : State) (c : Cmd) : Bool :=
  let mine := allChans.filterMap fun ch => (getChan s ch).jobs.find? fun j => j.uid == c.uid
  let ran := mine.any fun j => jobInFlight j || decide (0 < j.attempts) || decide (0 < j.step)
  let acts := s.rad.waiting.any fun a => a.uid == c.uid && !a.inLoc && !a.inWin
  let radioBusy := (match s.rad.cur with | some a => a.uid == c.uid | none => false) ||
    (match s.rad.loc with | some l => l.uid == c.uid | none => false) ||
    (match s.rad.win with | some w => w.uid == c.uid | none => false)
  decide (c.st = .waiting) ||
    (!mine.isEmpty && !ran && !(c.recs.any fun r => optB r.status) && !radioBusy) || (mine.isEmpty && acts && !radioBusy)

/-- Takes the work of a waiting command off the channels and the radio. -/
def withdrawWork (s : State) (uid : Nat) : State :=
  dropWaiting (dropJobs s uid) uid

/-- A write of EN = 0 to an SQ (R330). -/
def drainSq (s : State) (n : Nat) : State :=
  let s1 := setSq s n { getSq s n with st := .draining }
  let waits := s1.ring.cmds.filter fun c => c.sq == n && cmdWaits s1 c
  settleSq (waits.foldl (fun s c => failCmd (withdrawWork s c.uid) c .queueDisabled) s1) n

def cfgSize (v : Word) : Nat := fld v 1 4

/-- SIZE after a write that enables nothing: a reserved value leaves the field as it was (R9). -/
def keptSize (v : Word) (old : Nat) : Nat := if 8 < cfgSize v then old else cfgSize v

/-- A write to Q_SQn_CFG (R329, R330, R348). -/
def sqCfg (s : State) (n : Nat) (v : Word) : State :=
  let q := getSq s n
  let size := cfgSize v
  let cq := fld v 8 4
  let burst := fld v 16 3
  if q.st = .disabled then
    if bitOf v 0 then
      if inSpillway s ∧ n ≠ 0 then s
      else if 8 < size ∨ !(getCq s cq).active ∨ ringOverlaps s n q.base.toNat (64 * ringSize size) then
        sqErr s n s.ring.cfgBad setBad
      else setSq s n { q with size := size, cq := cq, burst := burst, head := 0, tail := 0, st := .active }
    else setSq s n { q with size := keptSize v q.size, cq := cq, burst := burst }
  else if keptSize v q.size ≠ q.size ∨ cq ≠ q.cq then sqErr s n s.ring.cfgBusy setBusy
  else
    let s1 := setSq s n { q with burst := burst }
    if bitOf v 0 then s1 else drainSq s1 n

/-- A write to Q_CQn_CFG (R329). -/
def cqCfg (s : State) (n : Nat) (v : Word) : State :=
  let q := getCq s n
  let size := cfgSize v
  let q1 := { q with vector := fld v 8 5, ien := bitOf v 13 }
  if !q.active then
    if bitOf v 0 then
      if inSpillway s ∧ n ≠ 0 then s
      else if 8 < size ∨ ringOverlaps s (16 + n) q.base.toNat (16 * ringSize size) then cqErr s n s.ring.cfgBad setBad
      else setCq s n { q1 with size := size, head := 0, tail := 0, phase := true, active := true, held := [], counted := 0,
                               timer := false }
    else setCq s n { q1 with size := keptSize v q.size }
  else if keptSize v q.size ≠ q.size ∨ (!bitOf v 0 ∧ (List.range 16).any fun i => (getSq s i).cq == n && decide ((getSq s i).st ≠ .disabled))
  then cqErr s n s.ring.cfgBusy setBusy
  else if bitOf v 0 then cqIrq (setCq s n q1) n
  else setCq s n { q1 with active := false, held := [], counted := 0, timer := false }

/-- EV_WAKE waits for the EQ (R394). -/
def postHeldWake (s : State) : State :=
  if s.ring.heldWake && s.ring.eq.active then
    postEvent { s with ring := { s.ring with heldWake := false } } evWake srcPower
      (s.pwr.wakeCause.toNat + s.pwr.wakeTamp.toNat * 2 ^ 8 + s.pwr.wakeFrom * 2 ^ 12)
  else s

/-- A write to Q_EQ_CFG (R329, R333). -/
def eqCfg (s : State) (v : Word) : State :=
  let q := s.ring.eq
  let size := cfgSize v
  let q1 := { q with vector := fld v 8 5, ien := bitOf v 13 }
  if !q.active then
    if bitOf v 0 then
      if 8 < size ∨ ringOverlaps s 32 q.base.toNat (16 * ringSize size) then eqErr s s.ring.cfgBad setBad
      else
        let q2 := { q1 with size := size, head := 0, tail := 0, phase := true, active := true, counted := 0, timer := false }
        postHeldWake { s with ring := { s.ring with eq := q2 } }
    else { s with ring := { s.ring with eq := { q1 with size := keptSize v q.size } } }
  else if keptSize v q.size ≠ q.size then eqErr s s.ring.cfgBusy setBusy
  else if bitOf v 0 then eqIrq { s with ring := { s.ring with eq := q1 } }
  else { s with ring := { s.ring with eq := { q1 with active := false, counted := 0, timer := false } } }

/-- A base word with a half replaced: bits [11:0] stay 0. -/
def baseWith (b : BitVec 64) (hi : Bool) (v : Word) : BitVec 64 :=
  if hi then BitVec.ofNat 64 (b.toNat % 2 ^ 32 + v.toNat * 2 ^ 32)
  else BitVec.ofNat 64 (b.toNat / 2 ^ 32 * 2 ^ 32 + v.toNat / 4096 * 4096)

/-- Writes to the base registers: only while DISABLED (R329). -/
def sqBase (s : State) (n : Nat) (hi : Bool) (v : Word) : State :=
  let q := getSq s n
  let b := baseWith q.base hi v
  if q.st = .disabled ∨ b = q.base then setSq s n { q with base := b } else sqErr s n s.ring.cfgBusy setBusy

def cqBase (s : State) (n : Nat) (hi : Bool) (v : Word) : State :=
  let q := getCq s n
  let b := baseWith q.base hi v
  if !q.active ∨ b = q.base then setCq s n { q with base := b } else cqErr s n s.ring.cfgBusy setBusy

def eqBase (s : State) (hi : Bool) (v : Word) : State :=
  let q := s.ring.eq
  let b := baseWith q.base hi v
  if !q.active ∨ b = q.base then { s with ring := { s.ring with eq := { q with base := b } } }
  else eqErr s s.ring.cfgBusy setBusy

/-! ### Interrupts -/

/-- INTERRUPT_TIMER_EXPIRY of CQ 0 to 15, or of the EQ (16). -/
def timerExpiry (s : State) (n : Nat) : State :=
  if n < 16 then
    let q := getCq s n
    if q.timer && q.ien && decide (0 < q.counted) then
      sendVector (setCq s n { q with counted := 0, timer := false }) q.vector
    else s
  else
    let q := s.ring.eq
    if q.timer && q.ien && decide (0 < q.counted) then
      sendVector { s with ring := { s.ring with eq := { q with counted := 0, timer := false } } } q.vector
    else s

/-- Sends what is pending and no longer masked (R356). -/
def sendPending (s : State) : State :=
  if s.ring.msixCtl.getLsbD 0 && !s.ring.msixCtl.getLsbD 1 then
    (bitList s.ring.pba.toNat 32).foldl (fun s v =>
      if s.ring.msixMask.getLsbD v then s
      else sendVector { s with ring := { s.ring with pba := s.ring.pba &&& ~~~BitVec.ofNat 32 (2 ^ v) } } v) s
  else s

/-- A write to the MSI-X table: address, data and vector control of one vector (R356). -/
def msixWrite (s : State) (vec dw : Nat) (v : Word) : State :=
  if !hostReach s then s
  else
    let r := s.ring
    let a := smGet r.msixAddr vec 0
    if dw = 0 then
      { s with ring := { r with msixAddr := smPut r.msixAddr vec
                                              (BitVec.ofNat 64 (a.toNat / 2 ^ 32 * 2 ^ 32 + v.toNat / 4 * 4)) 0 } }
    else if dw = 1 then
      { s with ring := { r with msixAddr := smPut r.msixAddr vec (BitVec.ofNat 64 (a.toNat % 2 ^ 32 + v.toNat * 2 ^ 32)) 0 } }
    else if dw = 2 then { s with ring := { r with msixData := smPut r.msixData vec v 0 } }
    else
      let bit := BitVec.ofNat 32 (2 ^ vec)
      sendPending { s with ring := { r with msixMask := if bitOf v 0 then r.msixMask ||| bit else r.msixMask &&& ~~~bit } }

/-! ### Bus Master Enable and function reset (R354) -/

/-- Writes that waited go out in order once Bus Master Enable is 1. -/
def setBme (s : State) (on : Bool) : State :=
  if on then { s with ring := { s.ring with bme := true, out := s.ring.out ++ s.ring.heldOut, heldOut := [] } }
  else { s with ring := { s.ring with bme := false } }

/-- A function reset: commands that wait are dropped, those that run end on the chip without a trace in host memory. -/
def functionReset (s : State) : State :=
  let waits := s.ring.cmds.filter (cmdWaits s)
  let s1 := waits.foldl (fun s c => dropCmd (withdrawWork s c.uid) c.uid) s
  let r := s1.ring
  let orphans := r.cmds.map fun c => { c with sq := 16 }
  { s1 with ring := { Ring.reset with cmds := orphans, nextUid := r.nextUid, out := r.out, linkUp := r.linkUp,
                                      gen3 := r.gen3, heldWake := r.heldWake, ptmCtxValid := r.ptmCtxValid,
                                      deferred := r.deferred.filter fun d => decide (0x10000 ≤ d.1) } }

end Sys2Proof.Machine
end

