-- ==== Sys2Proof/Machine/Power.lean ====
section
/-! DEFINITION. Domains and votes (R383, R384), performance levels (R386, R387), and the power states (R388 to R394).

Marked choices (log entries): DESIGN CHOICE 30, 81; DEDUCED 20, 31, 32, 33, 34, 57, 60. -/

namespace Sys2Proof.Machine

open Sys2Proof

def setPwr (s : State) (f : Power → Power) : State := { s with pwr := f s.pwr }

/-! ### Votes -/

/-- Domains that the host queues and Q_HOLD vote for (R349, R350). -/
def hostVotes (s : State) : Nat :=
  s.ring.cmds.foldl (fun m c => if c.voted then m ||| cmdDomains s c.desc else m) s.ring.holdVotes.toNat

def asleep (s : State) : Bool := decide (s.pwr.st = .sleep) || decide (s.pwr.st = .hibernate)

/-- The state of a ledger that does not run: OFF before the entry to FACTORY, CLOSED after the last life (R217). -/
def restLedger (s : State) : LdgState := if lcState s ≤ 3 then .off else .closed

/-- The ledger wants METER: its life-cycle states with a ledger, once a start has come that far (R217, R400). -/
def ledgerWants (s : State) : Bool :=
  chainLife s && (s.pwr.tc || inSpillway s)

def ledgerPins (s : State) : Bool := decide (s.ldg.st = .active) || decide (s.ldg.st = .closing)

/-- Polder states whose domain the keeper's placement keeps on (R41). -/
def polVoted (p : Polder) : Bool :=
  match p.st with
  | .stopped | .starting | .running | .stopping | .faulted => true
  | _ => false

/-- A polder that serves channels of a bank (R383). -/
def polServes (s : State) (p b : Nat) : Bool :=
  (decide ((getPol s p).st = .running) || decide ((getPol s p).st = .stopping)) &&
    (polChans s p).any fun c => decide (bankOf c = b) && chanActive s c

/-- VOTERS of PWR_DOM_n. -/
def voters (s : State) (d : Nat) : Nat :=
  if d = 0 then 0
  else if asleep s then b2n (decide (d = dRADIO) && s.rad.sniffing) * 2 ^ 12
  else
    let kr := s.pwr.keeperRunning
    let host := b2n ((hostVotes s).testBit d)
    let keeper := b2n (kr && (decide (d = dKEEPER ∨ d = dCIPHER ∨ d = dENTROPY) ||
      (decide (d = dLINK) && (s.pwr.tc || inSpillway s)) ||
      (decide (8 ≤ d ∧ d < 13) && polVoted (getPol s (d - 8)))))
    let pols := bitMask (polList.filter fun p =>
      if d = dCIPHER then decide ((getPol s p).st = .running) else decide (13 ≤ d) && polServes s p (d - 13))
    let radio := b2n (decide (d = dRADIO) && (!s.rad.waiting.isEmpty || optB s.rad.cur || optB s.rad.loc || optB s.rad.win))
    let ledger := b2n (decide (d = dMETER) && ledgerWants s)
    let debug := b2n (decide (d = dKEEPER ∨ d = dCIPHER) && decide (s.lcy.dbg ≠ .locked))
    let arming := b2n (decide (d = dSLUICE) && decide (armedMask s ≠ 0))
    let spare := b2n (decide (8 ≤ d ∧ d < 13) && decide ((getPol s (d - 8)).st = .spare))
    let start := b2n (s.pwr.startVotes.getLsbD d)
    host + keeper * 2 + pols * 4 + radio * 2 ^ 7 + ledger * 2 ^ 8 + debug * 2 ^ 9 + arming * 2 ^ 10 + spare * 2 ^ 11 +
      start * 2 ^ 13

/-- A pin holds the domain on (R383). -/
def pinned (s : State) (d : Nat) : Bool :=
  (decide (d = dSLUICE) && anyReleased s) || (decide (d = dLINK) && !s.pwr.perst && !s.ring.linkUp) ||
    (decide (d = dMETER) && ledgerPins s)

/-- Votes have no effect (R384). -/
def domRetired (s : State) (d : Nat) : Bool :=
  (decide (8 ≤ d ∧ d < 13) && decide ((getPol s (d - 8)).st = .retired)) || (decide (13 ≤ d) && (getBank s (d - 13)).linkRetired)

def domHeld (s : State) (d : Nat) : Bool := decide (d = 0) || (!domRetired s d && (decide (voters s d ≠ 0) || pinned s d))

/-- The start has come far enough for a domain to switch on (R399, R400). -/
def phaseAllows (s : State) (d : Nat) : Bool :=
  match s.pwr.phase with
  | .aonInit => false
  | .optLoad => decide (d = dKEEPER)
  | .boot => decide (d = dKEEPER ∨ d = dSLUICE ∨ d = dCIPHER ∨ d = dENTROPY)
  | .starting => decide (d = dKEEPER ∨ d = dSLUICE ∨ d = dCIPHER ∨ d = dENTROPY) || s.pwr.tc
  | .started => true
  | .spillway => decide (d < 8 ∧ d ≠ dRADIO)

/-- The supplies that a domain needs are above their thresholds: VRF for RADIO, VANA for a bank (R380, R381). -/
def supplyAllows (s : State) (d : Nat) : Bool :=
  (d ≠ dRADIO || s.pwr.supplyOk.getLsbD 1) && (decide (d < 13) || s.pwr.supplyOk.getLsbD 0)

/-- DOMAIN_SWITCH_ON (R383, R384, R400). -/
def domainOn (s : State) (d : Nat) : State :=
  let x := getDom s d
  if x.on ∨ d = 0 ∨ domRetired s d ∨ !domHeld s d ∨ !supplyAllows s d ∨ !(phaseAllows s d || (asleep s && decide (d = dRADIO)))
  then s
  else
    let s1 := setDom s d ⟨true, false, 0⟩
    if d = dENTROPY then
      setEnt s1 fun e => { e with st := .warmup, aPass := false, bPass := false, pool := [], winOn := 0, runA := (0, false),
                                  runB := (0, false), key := 0, v := 0, reqs := 0, powerUps := (e.powerUps + 1) % 2 ^ 32,
                                  credited := 0, prog := ⟨0, 0, true⟩ }
    else if d = dLINK then functionReset s1
    else s1

/-! ### The ledger and the journal at a start (R230, R232, R236) -/

/-- A LOSS record, and LDG_STATUS.LOSS (R235, R236). -/
def stageLoss (s : State) (first count cause : Nat) : State :=
  stage { s with ldg := { s.ldg with loss := true } } 0x06 9 [(20, leBytes first 6), (26, leBytes count 4), (30, leBytes cause 1)]

/-- SEQ of the last staged record, from the counter record; one of an older chain says nothing of the chain in force, whose SEQ
may have restarted (R240). -/
def seqOfCounter (c : Option CounterRec) (kgen : BitVec 16) : Nat :=
  match c with
  | some r => if r.kgen = kgen then r.seq else 0
  | none => 0

/-- SEQ of the last record in flash, in the count that the counter record goes on with (R236, R240). -/
def seqOfLast (last : Option JRec) (kgen : BitVec 16) (ctrSeq : Nat) : Nat :=
  match last with
  | some r => if r.kgen = kgen ∨ r.seq ≤ ctrSeq then r.seq else 0
  | none => 0

/-- What the next record sealed is chained from: CHAIN of the last record sealed in the chain in force, or the TAG of the
checkpoint that ended the chain before it (R234, R240, R467). -/
def chainAtStart (s : State) (sealed_ : Option JRec) (kgen : BitVec 16) : BitVec 128 :=
  let tag := ((((ckptsRead s).filter fun c => c.type == 1 || c.type == 2).getLast?).map (·.tag)).getD 0
  match sealed_ with
  | some r => if r.kgen = kgen then r.chain.getD tag else tag
  | none => tag

/-- LOSS records of the spans that a flash error has taken (R236). -/
def stageLost (s : State) : State :=
  let l := lostSpans s
  let s1 := { s with fl := { s.fl with jrnLost := s.fl.jrnLost ++ l.flatMap fun p => (List.range p.2).map (p.1 + ·) } }
  if !s.jrn.isOpen then s1
  else l.foldl (fun s p => stageLoss s (((s.fl.journal[p.1 - s.fl.jrnBase]?).map (·.seq)).getD 0) p.2 1) s1

/-- What the keeper finds of the chain in flash. -/
def journalRecover (s : State) : State :=
  let chain := chainLife s
  let recs := journalRead s
  let last := (recs ++ s.jrn.staged).getLast?
  let ck := (ckptsRead s).getLast?
  let sealed_ := (recs.filter fun r => optB r.chain).getLast?
  let kg := flashKgen s
  let ctrSeq := seqOfCounter (startCounter s) kg
  let lastSeq := seqOfLast last kg ctrSeq
  let covered := (ck.map (·.lastSeq)).getD 0
  let j : Journal :=
    { Journal.reset with
        isOpen := chain, staged := s.jrn.staged, nextSeq := max lastSeq ctrSeq + 1, kgen := kg,
        sealedSeq := (sealed_.map (·.seq)).getD 0, sealedKgen := (sealed_.map (·.kgen)).getD 0,
        sealedChain := (sealed_.bind (·.chain)).getD 0, prevChain := chainAtStart s sealed_ kg,
        firstUncovered := if covered + 1 < 2 ^ 48 then covered + 1 else 1, firstUncoveredKgen := kg,
        prevTag := (ck.map (·.tag)).getD 0, ckptNext := (ck.map (·.number + 1)).getD 0, rollDue := s.jrn.rollDue }
  let s1 := stageLost { journalFound s with jrn := j }
  if chain ∧ lastSeq < ctrSeq then stageLoss (countStop s1) (lastSeq + 1) (ctrSeq - lastSeq) 0 else s1

/-- Records of the start that waited for the chain. -/
def flushStartRecs (s : State) : State :=
  s.pwr.startRecs.foldl (fun s r => stageRec s r.1 r.2.1 s.clk.beat r.2.2 0) (setPwr s fun p => { p with startRecs := [] })

/-- The ledger loads the newest counter record and takes the state of the life-cycle, in an unfinished advance the one that the
record holds (R217, R230, R232, R270). -/
def ledgerLoad (s0 : State) : State :=
  let s := ringFound s0
  match s.fl.counter with
  | none => { s with mtr := .reset, ldg := { Ledger.reset with st := restLedger s, vAccepted := s.ldg.vAccepted,
                                                               vRefused := s.ldg.vRefused } }
  | some r =>
    let s1 := loadCounters { s with mtr := .reset, ldg := { Ledger.reset with vAccepted := s.ldg.vAccepted,
                                                                              vRefused := s.ldg.vRefused } } r
    let st : LdgState := if !chainLife s then restLedger s
      else if optB s.fl.newTicket ∧ r.st = .closing then .closing else .active
    let ck := ((ckptsRead s).getLast?.map (·.beat)).getD 0
    let s2 := { s1 with ldg := { s1.ldg with st := st, lastPeriodicUs := s.clk.nowUs, lastSummaryUs := s.clk.nowUs,
                                             sumEDis := r.eDis, sumEChg := r.eChg, ckptBeat := ck,
                                             nextDailyUs := (r.svcUs / dayUs + 1) * dayUs } }
    armThresholds s2

/-- METER has become ready: what its loss took is loaded again. -/
def meterReady (s : State) : State :=
  flushStartRecs (journalRecover (ledgerLoad (countArea (countArea (countArea s 3) 5) 6)))

/-- DOMAIN_READY (R349, R383). -/
def domainReady (s : State) (d : Nat) : State :=
  let x := getDom s d
  if !x.on ∨ x.ready then s
  else if 13 ≤ d then bankReadyNow s (d - 13)
  else
    let s1 := setDom s d { x with ready := true }
    if d = dSLUICE then laneReturns s1 .b
    else if d = dMETER then meterReady s1
    else if d = dCIPHER then cipherStart s1
    else s1

/-- A domain loses its power and its state (R384). -/
def domainLost (s : State) (d : Nat) : State :=
  let s1 := setDom s d Dom.off
  if d = dSLUICE then
    let s2 := if laneDead s1 .b then s1 else laneDown s1 .b .off
    { s2 with slu := { s2.slu with b := ⟨.off, [], [], [], 0, false, false⟩ } }
  else if d = dLINK then
    let s2 := functionReset s1
    { s2 with ring := { s2.ring with linkUp := false, gen3 := false, ptmCtxValid := false } }
  else if d = dCIPHER then setCip s1 fun c => { Cipher.reset with retA := c.retA, retB := c.retB, blocks := c.blocks }
  else if d = dENTROPY then
    setEnt s1 fun e => { e with st := .off, aPass := false, bPass := false, pool := [], biasA := 0, biasB := 0, corrA := 0,
                                corrB := 0, key := 0, v := 0, reqs := 0, credited := 0, prog := .idle }
  else if d = dRADIO then
    { s1 with rad := { s1.rad with lock := false, antB := false, rssi := 0, heard := [], calDone := 0, calTemp := [], req := false,
                                   prio := false } }
  else if d = dMETER then { s1 with jrn := { s1.jrn with isOpen := false, staged := [] } }
  else if 13 ≤ d then
    let k := getBank s1 (d - 13)
    setBank s1 (d - 13) { Bank.reset with linkRetired := k.linkRetired, retx := k.retx, errBeats := k.errBeats }
  else s1

def holdoff (s : State) : Nat := regF s .pwrCfg 8 8

/-- DOMAIN_SWITCH_OFF: HOLDOFF further boundaries have passed with no vote and no pin (R384). -/
def domainOff (s : State) (d : Nat) : State :=
  let x := getDom s d
  if d = 0 ∨ !x.on ∨ domHeld s d ∨ x.idle ≤ holdoff s then s else domainLost s d

/-- A boundary counts for every domain that nothing holds on. -/
def countIdle (s : State) : State :=
  (List.range 16).foldl (fun s i =>
    let d := i + 1
    let x := getDom s d
    if !x.on then s else if domHeld s d then setDom s d { x with idle := 0 } else setDom s d { x with idle := min 256 (x.idle + 1) }) s

/-! ### Performance level (R386, R387) -/

def levelFloor (s : State) : Nat := if s.ring.gen3 ∨ 24 < activeCount s then 1 else 0

/-- The choice at step 2 of R33: a fall takes effect, a rise begins. -/
def levelStep (s : State) : State :=
  let f := levelFloor s
  let want := max f (regF s .plReq 0 2)
  let s1 := setPwr s fun p => { p with floor := f }
  if s1.pwr.phase ≠ .started ∨ s1.pwr.ramp then s1
  else if want < s1.pwr.plEff then setPwr s1 fun p => { p with plEff := want, plTarget := want, vsel := want }
  else if s1.pwr.plEff < want then setPwr s1 fun p => { p with plTarget := want, vsel := want, ramp := true }
  else s1

/-- VCORE_RAMP_CHECK: a rise ends, at the new level or, VCORE being short after 200 µs, at the old one. -/
def rampCheck (s : State) (reached : Bool) : State :=
  if !s.pwr.ramp then s
  else if reached then setPwr s fun p => { p with plEff := p.plTarget, ramp := false }
  else setPwr s fun p => { p with plTarget := p.plEff, vsel := p.plEff, ramp := false, rampFail := true }

/-! ### DOZE (R389) -/

def radioIdle (s : State) : Bool := s.rad.waiting.isEmpty && !optB s.rad.cur && !optB s.rad.loc && !optB s.rad.win

/-- What must have held for two boundaries. -/
def dozeOk (s : State) : Bool :=
  decide (s.pwr.phase = .started) && regB s .pwrCfg 0 && s.ring.cmds.isEmpty &&
    ((List.range 16).all fun n => decide ((getSq s n).head = (getSq s n).tail) || decide ((getSq s n).st ≠ .active)) &&
    (allChans.all fun c => (getChan s c).jobs.isEmpty) && s.jrn.staged.isEmpty && s.cfg.staged.isEmpty && !advancing s &&
    !optB s.fl.imageJob && !s.lf.calProg.active && !s.cfg.enrolProg.active && radioIdle s && !s.flt.restarting

/-- Work that a boundary brings to a polder, the keeper or patina. -/
def dozeWork (s : State) : Bool := !dozeOk s

/-- DOZE_ENTRY. -/
def dozeEnter (s : State) : State :=
  if s.pwr.st = .run ∧ 2 ≤ s.pwr.idleBounds ∧ dozeOk s ∧ s.pwr.entering = 0 then setPwr s fun p => { p with st := .doze } else s

/-- DOZE_EXIT, and every access that leaves DOZE. -/
def dozeLeave (s : State) : State :=
  if s.pwr.st = .doze then setPwr s fun p => { p with st := .run, idleBounds := 0 } else s

/-- A doorbell write of the host, which leaves DOZE (R327, R389). -/
def bell (s : State) (off : Nat) (v : Word) : State := if hostReach s then doorbell (dozeLeave s) off v else s

def countDoze (s : State) : State :=
  let s1 := if dozeOk s then setPwr s fun p => { p with idleBounds := min 2 (p.idleBounds + 1) }
    else setPwr s fun p => { p with idleBounds := 0 }
  if dozeWork s1 then dozeLeave s1 else s1

/-! ### SLEEP and HIBERNATE (R390, R391) -/

/-- A write of PWR_CTL.REQ: 2 SLEEP, 3 HIBERNATE, judged at the next boundary. -/
def requestSleep (s : State) (kind : Nat) : State :=
  if kind = 2 ∨ kind = 3 then setPwr s fun p => { p with req := kind } else s

def wakeEn (s : State) (i : Nat) : Bool := regB s .wakeEn i

/-- RTC ticks of 1/32 768 s since POR, and their bits [46:15] (PWR_RTC). -/
def rtcTicks (s : State) : Nat := s.clk.rtcMicroTicks / 1000000
def rtcSeconds (s : State) : Nat := rtcTicks s / 2 ^ 15 % 2 ^ 32

/-- A wake source that the state would have enabled is already active (R392). -/
def wakeActive (s : State) (kind : Nat) : Bool :=
  (decide (kind = 2) && wakeEn s 3 && s.slu.dhold) || s.pwr.rstHeld ||
    (decide (kind = 2) && wakeEn s 5 && decide (rtcSeconds s = s.pwr.alarm.toNat) && decide (s.pwr.alarm ≠ 0))

def noWakeSource (s : State) : Bool := decide (regF s .wakeEn 0 6 = 0)

def longBusy (s : State) : Bool := s.lf.calProg.active || s.cfg.enrolProg.active || optB s.fl.imageJob

/-- The refusal of a request at its boundary; 0: none (R390). -/
def refusal (s : State) (kind : Nat) : Nat :=
  if anyReleased s then 1
  else if s.slu.dhold then 2
  else if advancing s then 3
  else if longBusy s then 4
  else if wakeActive s kind ∨ (kind = 2 ∧ noWakeSource s) then 6
  else if inSpillway s then 7
  else 0

/-- The boundary after a request: refused, or step 1 of R391. -/
def judgeSleep (s : State) : State :=
  let k := s.pwr.req
  if k = 0 then s
  else
    let r := refusal s k
    if r ≠ 0 then setPwr s fun p => { p with req := 0, refuse := r }
    else
      let waits := s.ring.cmds.filter (cmdWaits s)
      let s1 := waits.foldl (fun s c => failCmd (withdrawWork s c.uid) c .abortedStop) s
      setPwr s1 fun p => { p with req := 0, entering := k }

/-- ENTRY_WAIT_EXPIRY: running commands did not end in time. -/
def entryExpire (s : State) : State :=
  if s.pwr.entering ≠ 0 ∧ !s.ring.cmds.isEmpty then setPwr s fun p => { p with entering := 0, refuse := 5 } else s

/-- The ledger parks: it closes the interval in progress, whose modulator bits the row does not bring (log entry 30), and
writes its PARK record (R232). -/
def parkLedger (s : State) : State :=
  if s.ldg.st = .active then
    let v := drawBits s
    let s1 := if meterRuns s then closePart v.2 v.1 else s
    writeCounter { s1 with ldg := { s1.ldg with st := .parked, svcUs := s1.ldg.svcUs + (s1.mtr.gaspUs - s.mtr.gaspUs) } } 3
  else s

/-- Step 2 of R391: a debug session closes, and its reload is over before the keeper seals (R275, R278). -/
def closeSession (s : State) : State := if s.lcy.dbg = .locked then s else armReload (debugClose s 3)

/-- POWER_DOWN_ENTRY: steps 2 to 6 of R391, once no command runs. -/
def powerDown (s : State) : State :=
  if s.pwr.entering = 0 ∨ !s.ring.cmds.isEmpty then s
  else
    let kind := s.pwr.entering
    let s1 := parkLedger (closeSession s)
    let s2 := sealAll s1
    let s3 := postSluChanges (sluList.foldl (fun s n => setOut s n { getOut s n with armed := false }) s2) (sluStates s2)
    let s4 := { s3 with rad := { s3.rad with wakeCfg := reg s3 .radWake, wakeCode := reg s3 .radWakeCode, preamble := false } }
    let s5 := functionReset s4
    let s6 := (List.range 16).foldl (fun s i => if (getDom s (i + 1)).on then domainLost s (i + 1) else s) s5
    setPwr s6 fun p => { p with st := if kind = 2 then .sleep else .hibernate, entering := 0, keeperRunning := false, vsel := 0,
                                tc := false, ramp := false, wakePulses := 0, startVotes := 0 }

end Sys2Proof.Machine
end

