-- ==== Sys2Proof/Machine/Reset.lean ====
section
/-! DEFINITION. Resets and the start sequence up to T_C (R395 to R402, R405 to R413, R374), supplies (R380 to R382), wake
(R392 to R394, R189) and the keeper restart (R23, R24).

Marked choices (log entries): DESIGN CHOICE 22, 27, 28, 81, 86, 89, 90; DEDUCED 18, 23, 24, 25, 26, 29, 38, 51, 60, 79. -/

namespace Sys2Proof.Machine

open Sys2Proof

/-! ### The reset in force and its release (R397, R398) -/

/-- The supplies that a start waits for (R382): VANA, VFL, VIO, VCORE, VAON. -/
def suppliesGood (s : State) : Bool :=
  s.pwr.supplyOk.getLsbD 0 && s.pwr.supplyOk.getLsbD 2 && s.pwr.supplyOk.getLsbD 3 && s.pwr.supplyOk.getLsbD 4 &&
    s.pwr.supplyOk.getLsbD 9

def bitAt (n i : Nat) : BitVec n := BitVec.ofNat n (2 ^ i)

/-- Phase 2 begins: RST_CAUSE takes what was gathered, and the attempt is counted (R399, R411). The level of VIO is found by
the monitors: a free value. -/
def phaseTwo (s : State) : State :=
  let v := drawFree s
  let s1 := if lcState s = 5 then v.2 else { v.2 with fl := { v.2.fl with failedStarts := min 15 (v.2.fl.failedStarts + 1) } }
  setPwr s1 fun p => { p with phase := .optLoad, rstCause := p.rstPend, rstHist := p.rstHist ||| p.rstPend, rstPend := 0,
                              startVotes := BitVec.ofNat 17 (domBit dKEEPER), vio3v3 := bitOf v.1 0 }

/-- A start begins as soon as no reset is in force and the supplies are good. -/
def tryStart (s : State) : State :=
  if s.pwr.phase = .aonInit ∧ !s.pwr.porHeld ∧ !s.pwr.rstHeld ∧ suppliesGood s then phaseTwo s else s

/-- What RST_N leaves of a lane's view of a latched sluice: the release and its lease; the fields of the last evaluation take
their reset values (R198, R466). -/
def latchedView (x : LaneSl) : LaneSl := { LaneSl.reset with released := x.released, leftUs := x.leftUs, ended := x.ended }

/-- What RST_N does to one sluice (R198, R466): a latched one stays released and armed, with its lease, its takeovers and
whether its output is FAULTED, and its flags clear; any other is withdrawn and disarmed, a stop of R425 if it was released. -/
def resetWithdraw (s : State) (n : Nat) : State :=
  let o := getOut s n
  if o.latched then
    let s1 := setLane s .a (setLaneSl s.slu.a n (latchedView (laneSl s.slu.a n)))
    let s2 := setLane s1 .b (setLaneSl s1.slu.b n (latchedView (laneSl s1.slu.b n)))
    setOut s2 n { SluOut.reset with armed := o.armed, latched := true, faulted := o.faulted, takeA := o.takeA, takeB := o.takeB,
                                    changeBeat := o.changeBeat }
  else
    let rel := (laneSl s.slu.a n).released || (laneSl s.slu.b n).released
    let s1 := setLane s .a (setLaneSl s.slu.a n .reset)
    let s2 := setOut (setLane s1 .b (setLaneSl s1.slu.b n .reset)) n { SluOut.reset with changeBeat := o.changeBeat }
    if rel then countStop (countChange (stageLane s2 1 n)) else s2

/-- The meter configuration set in force keeps the meter running over RST_N, until the image is loaded (R232, R397). -/
def meterVals (s : State) : SMap Word := s.cfg.vals.filter fun p => inMeterSet p.1

/-- What RST_N keeps of each unit (R397, R466). -/
def afterRst (s : State) : State :=
  let m := s.mtr
  { State.reset with
      pending := s.pending, clk := s.clk, mtr := m, ldg := { s.ldg with due := [] }, jrn := s.jrn,
      cfg := { CfgState.reset with vals := meterVals s, meterPend := s.cfg.meterPend, rdata := s.cfg.rdata },
      ring := { Ring.reset with out := s.ring.out, nextUid := s.ring.nextUid, heldWake := s.ring.heldWake },
      slu := { s.slu with b := Slus.reset.b, a := { s.slu.a with slots := [], toks := [] }, armDue := 0, disarmDue := 0, faultClrDue := 0, setUids := [],
                          withdrawDue := 0, prepare := none, tampActive := 0, tampNew := 0, disagree := false, tol := [] },
      rad := { Radio.reset with bins := s.rad.bins, gnt := s.rad.gnt, cnt := s.rad.cnt.filter fun p => decide (p.1 = 7) },
      key := { Keys.reset with usesMark := s.key.usesMark, instMark := s.key.instMark, inst := s.key.inst, iseq := s.key.iseq },
      lcy := { Life.reset with fuses := s.lcy.fuses, dbgFails := s.lcy.dbgFails, dbgFailUs := s.lcy.dbgFailUs,
                               dbgOpens := s.lcy.dbgOpens, dbgLastClose := s.lcy.dbgLastClose, tapInst := s.lcy.tapInst },
      cip := { Cipher.reset with blocks := s.cip.blocks },
      ent := { Entropy.reset with powerUps := s.ent.powerUps },
      pwr := { Power.reset with aonXtal := s.pwr.aonXtal, wakeCause := s.pwr.wakeCause, wakeTamp := s.pwr.wakeTamp,
                                wakeFrom := s.pwr.wakeFrom, rstCause := s.pwr.rstCause, rstHist := s.pwr.rstHist,
                                rstPend := s.pwr.rstPend, porHeld := s.pwr.porHeld, rstHeld := s.pwr.rstHeld,
                                supplyOk := s.pwr.supplyOk, wakeSignal := s.pwr.wakeSignal, perst := s.pwr.perst,
                                startRecs := s.pwr.startRecs,
                                doms := if (getDom s dMETER).on then [(0, ⟨true, true, 0⟩), (7, getDom s dMETER)]
                                  else [(0, ⟨true, true, 0⟩)] },
      flt := { Faults.reset with offCnt := s.flt.offCnt, stops := s.flt.stops, wdt := s.flt.wdt, switches := s.flt.switches,
                                 flashUe := s.flt.flashUe, gapMax := s.flt.gapMax, logDue := s.flt.logDue },
      fl := { s.fl with commitCap := none, topupUids := [], imageJob := none, opts := .restrictive } }

/-- The bits IN_OPT and IN_BOOT of the start that a reset ends. -/
def cutShort (s : State) : BitVec 11 :=
  match s.pwr.phase with
  | .optLoad => bitAt 11 9
  | .boot | .starting => bitAt 11 10
  | _ => 0

/-- RST_N (R397): every sluice without a latch is withdrawn and disarmed, lane B loses its power and lane A takes over its
switches, everything but AON and METER is reset. -/
def rstReset (s : State) (causes : BitVec 11) : State :=
  let s1 := setPwr (debugClose s 2) fun p => { p with rstPend := p.rstPend ||| causes ||| cutShort s }
  let s2 := postSluChanges (sluList.foldl resetWithdraw s1) (sluStates s1)
  let s3 := if laneDead s2 .b then s2 else laneDown s2 .b .off
  afterRst s3

/-- POR (R397, R398): what is kept is the fuses, the flash and the levels on the pins. -/
def porReset (s : State) : State :=
  { State.reset with
      pending := s.pending, clk := { Clock.reset with fresh := s.clk.fresh },
      ring := { Ring.reset with out := s.ring.out, nextUid := s.ring.nextUid },
      slu := { Slus.reset with dhold := s.slu.dhold, tampPin := s.slu.tampPin, changes := 0 },
      rad := { Radio.reset with gnt := s.rad.gnt },
      key := { Keys.reset with usesMark := s.key.usesMark, instMark := s.key.instMark, inst := s.key.inst, iseq := s.key.iseq },
      jrn := { Journal.reset with rollDue := s.jrn.rollDue },
      lcy := { Life.reset with fuses := s.lcy.fuses },
      pwr := { Power.reset with rstPend := s.pwr.rstPend ||| 1#11, rstHeld := s.pwr.rstHeld, porHeld := s.pwr.porHeld,
                                supplyOk := s.pwr.supplyOk, perst := s.pwr.perst },
      fl := { s.fl with commitCap := none, topupUids := [], imageJob := none, opts := .restrictive } }

/-- A complete power-on reset pulse. -/
def porPulse (s : State) : State :=
  let cut := cutShort s
  tryStart (setPwr (porReset s) fun p => { p with rstPend := p.rstPend ||| cut })

/-- An internal or external RST_N that begins and ends at once. -/
def rstPulse (s : State) (causes : BitVec 11) : State := tryStart (rstReset s causes)

/-! ### Wake (R392 to R394) -/

/-- The wake and its cause, journalled after the restart (R278). R235 gives that record no TYPE: it is staged as
LIFECYCLE_DEBUG with a free event byte, the power state left and WAKE_CAUSE (log entry 90). -/
def stageWake (s : State) : State :=
  let v := drawFree s
  stageSoon v.2 0x50 9 [(20, leBytes (v.1.toNat % 256) 1), (21, leBytes s.pwr.wakeFrom 1), (24, leBytes s.pwr.wakeCause.toNat 1)]

/-- A wake: its cause is written and the RST_N sequence runs; a source other than the host link drives WAKE#. -/
def wakeNow (s : State) (bit : Nat) (tamp : Nat) (causes : BitVec 11) : State :=
  let frm := if s.pwr.st = .sleep then 1 else 2
  let s1 := rstReset s (causes ||| bitAt 11 8)
  let s2 := setPwr s1 fun p => { p with wakeCause := bitAt 7 bit, wakeTamp := BitVec.ofNat 4 tamp, wakeFrom := frm,
                                        wakeSignal := decide (bit ≠ 0) }
  stageWake { s2 with ring := { s2.ring with heldWake := true } }

/-- Bit of WAKE_CAUSE. -/
def wakeBit : WakeSrc → Nat
  | .hostLink => 0
  | .wakeIn => 1
  | .uhf => 2
  | .driveHold => 3
  | .tamp _ => 4
  | .rtc => 5
  | .rstN => 6

/-- The source wakes the device from its power state (R392). -/
def wakeEnabled (s : State) (src : WakeSrc) : Bool :=
  let sleep := decide (s.pwr.st = .sleep)
  let hib := decide (s.pwr.st = .hibernate)
  match src with
  | .wakeIn => (sleep && wakeEn s 1) || hib
  | .tamp i => ((sleep && wakeEn s 4) || hib) && bitOf (reg s .tampCfg) i.val
  | .uhf => sleep && wakeEn s 2 && bitOf s.rad.wakeCfg 12 && !s.rad.retired
  | .hostLink => sleep && wakeEn s 0
  | .driveHold => sleep && wakeEn s 3
  | .rtc => sleep && wakeEn s 5
  | .rstN => sleep || hib

/-- A wake source has become active: it wakes a sleeping device, and abandons an entry that has not switched off yet
(R391, R392). -/
def wakeSource (s : State) (src : WakeSrc) : State :=
  if asleep s then
    if wakeEnabled s src then
      let tamp := match src with
        | .tamp i => 2 ^ i.val
        | _ => 0
      tryStart (wakeNow s (wakeBit src) tamp (if src = .rstN then 2#11 else 0#11))
    else s
  else if s.pwr.entering ≠ 0 ∧ src ≠ .rstN then
    let enabled := wakeEnabled (setPwr s fun p => { p with st := if p.entering = 2 then .sleep else .hibernate }) src
    if enabled then setPwr s fun p => { p with entering := 0, refuse := 6 } else s
  else s

/-- A pulse of the WAKE_IN decoder with the gap before it, as measured (R393): the third accepted one wakes. Between the
limits that must be accepted and those that must be rejected, the decoder's answer is a free value. -/
def wakePulse (s0 : State) (gapUs pulseUs : Nat) : State :=
  let v := drawFree s0
  let free := bitOf v.1 0
  let okPulse := if 100 ≤ pulseUs ∧ pulseUs ≤ 300 then true else if pulseUs < 70 ∨ 340 < pulseUs then false else free
  let okGap := if 1000 ≤ gapUs ∧ gapUs ≤ 3000 then true else if gapUs < 900 ∨ 3200 < gapUs then false else bitOf v.1 1
  let s := v.2
  if !asleep s ∧ s.pwr.entering = 0 then s0
  else if !okPulse then setPwr s fun p => { p with wakePulses := 0 }
  else if s.pwr.wakePulses = 0 ∨ !okGap then setPwr s fun p => { p with wakePulses := 1 }
  else if s.pwr.wakePulses = 1 then setPwr s fun p => { p with wakePulses := 2 }
  else wakeSource (setPwr s fun p => { p with wakePulses := 0 }) .wakeIn

/-! ### The radio sniff of SLEEP (R189) -/

/-- The sniff listens: RAD_WAKE.EN, a valid profile, SLEEP, the radio not retired. -/
def sniffOn (s : State) : Bool :=
  decide (s.pwr.st = .sleep) && bitOf s.rad.wakeCfg 12 && decide (radProfile s ≠ 0) && !tableRetired s clsRadio 0 &&
    s.pwr.supplyOk.getLsbD 1

/-- UHF_SNIFF: one window of SNIFF_WIN; a preamble keeps the receiver on. -/
def sniff (s : State) (preamble : Bool) : State :=
  if sniffOn s then { s with rad := { s.rad with sniffing := preamble, preamble := preamble } } else s

/-- SNIFF_SYNC_TIMEOUT: no sync within SNIFF_PER + 300 ms. -/
def sniffTimeout (s : State) : State :=
  if sniffOn s then { s with rad := { s.rad with sniffing := false, preamble := false } } else s

/-- DEV_WAKE of LEN 5: the code is its PAYLOAD, most significant byte first (R169, R171). -/
def devWakeNow (s : State) (t : Telegram) : State :=
  if sniffOn s ∧ s.rad.preamble ∧ tLen t = 5 ∧ tCrcOk t ∧ tType t = 0x51 then
    let code := beN (tPay t 0 4)
    if code = s.rad.wakeCode.toNat ∧ code ≠ 0 ∧ code ≠ 0xFFFFFFFF then wakeSource s .uhf
    else
      let s1 := bumpRad s 7
      { s1 with rad := { s1.rad with sniffing := false, preamble := false } }
  else s

/-! ### Supplies (R380 to R382) -/

def supplyBit : Supply → Nat
  | .vana => 0
  | .vrf => 1
  | .vfl => 2
  | .vio => 3
  | .vcore => 4
  | .vdrv b => 5 + b.val
  | .vaon => 9

def setSupply (s : State) (x : Supply) (good : Bool) : State :=
  setPwr s fun p => { p with supplyOk := if good then p.supplyOk ||| bitAt 10 (supplyBit x) else p.supplyOk &&& ~~~(bitAt 10 (supplyBit x)) }

/-- SUPPLY_WARNING: the flag and the last gasp, for VAON, VFL and VCORE. -/
def supplyWarn (s : State) (x : Supply) (l : List (Bool × Bool)) : State :=
  match x with
  | .vaon => lastGasp (setPwr s fun p => { p with vaonWarn := true }) l
  | .vfl => lastGasp (setPwr s fun p => { p with vflWarn := true }) l
  | .vcore => lastGasp (setPwr s fun p => { p with vcoreWarn := true }) l
  | _ => s

/-- SUPPLY_UNDERVOLTAGE: POR, RST_N, the radio held off, or a bank's bridges off. -/
def supplyUnder (s : State) (x : Supply) : State :=
  let s1 := setSupply s x false
  match x with
  | .vaon => setPwr (porReset s1) fun p => { p with porHeld := true, rstPend := p.rstPend ||| cutShort s }
  | .vana => rstReset s1 (bitAt 11 2)
  | .vfl => rstReset s1 (bitAt 11 3)
  | .vio => rstReset s1 (bitAt 11 4)
  | .vcore => rstReset s1 (bitAt 11 5)
  | .vrf =>
    let s2 := radioOut s1
    if (getDom s2 dRADIO).on then domainLost s2 dRADIO else s2
  | .vdrv b => bankUnder s1 b.val

/-- SUPPLY_RECOVERY: a bank may become ready, the radio may be used, a start may begin. -/
def supplyBack (s : State) (x : Supply) : State :=
  let s1 := setSupply s x true
  match x with
  | .vaon => tryStart (setPwr s1 fun p => { p with porHeld := false })
  | .vdrv b => bankBack s1 b.val
  | _ => tryStart s1

/-! ### RST_N (R396, R398) -/

/-- RST_N_ASSERT: a low pulse of `lowUs`; between 1 and 10 µs `taken` says what the filter did. -/
def rstPin (s : State) (lowUs : Nat) (taken : Bool) : State :=
  if lowUs < 1 ∨ (lowUs < 10 ∧ !taken) then s
  else
    let s1 := if asleep s then wakeNow s 6 0 2#11 else rstReset s 2#11
    setPwr s1 fun p => { p with rstHeld := true }

/-- RST_N_RELEASE. -/
def rstRelease (s : State) : State := tryStart (setPwr s fun p => { p with rstHeld := false })

/-! ### Spillway mode (R412) -/

/-- A latched sluice is HELD in spillway mode: its lease is over and is not renewed (R200). -/
def spillHold (s : State) (n : Nat) : State :=
  let hold := fun (x : LaneSl) => { x with leftUs := 0, ended := true }
  if !(getOut s n).latched then s
  else
    let was := sluState s (viewLane s) n
    let s1 := setLane s .a (setLaneSl s.slu.a n (hold (laneSl s.slu.a n)))
    let s2 := setLane s1 .b (setLaneSl s1.slu.b n (hold (laneSl s1.slu.b n)))
    if was = 2 then stageLane s2 2 n else s2

/-- Spillway mode is entered: the ROM recovery keeper runs. The reset has withdrawn and disarmed every sluice without a
latch. -/
def enterSpillway (s : State) (cause : Nat) : State :=
  let s1 := postSluChanges (sluList.foldl spillHold s) (sluStates s)
  setPwr s1 fun p => { p with phase := .spillway, spillCause := cause, rom := true, keeperRunning := true, startVotes := 0 }

def anyLatched (s : State) : Bool := sluList.any fun n => (getOut s n).latched

/-- OPTION_LOAD_DONE (R405, R407, R411, R265). -/
def optionLoad (s : State) (aOk bOk : Bool) : State :=
  if s.pwr.phase ≠ .optLoad ∨ !domReady s dKEEPER then s
  else
    let used := if aOk ∧ (!bOk ∨ s.fl.optB.oseq ≤ s.fl.optA.oseq) then 0 else if bOk then 1 else 2
    let o := if used = 0 then s.fl.optA else if used = 1 then s.fl.optB else Options.restrictive
    let s1 := setPwr { s with fl := { s.fl with opts := o }, cfg := { s.cfg with optProg := ⟨1000, 256, false⟩ } }
      fun p => { p with optA := aOk, optB := bOk, optUsed := used }
    let s2 := if used < 2 ∧ o.lcCode ≠ lcState s then
        let x := mirrorOptions s1 (lcState s)
        { x with lcy := { x.lcy with optFixed := true } }
      else s1
    if used = 2 then enterSpillway s2 2
    else if lcState s = 5 then enterSpillway s2 4
    else if o.fsThresh ≤ s.fl.failedStarts then enterSpillway s2 1
    else
      let v := domBit dKEEPER + domBit dCIPHER + domBit dENTROPY + (if anyLatched s then domBit dSLUICE else 0)
      setPwr s2 fun p => { p with phase := .boot, startVotes := BitVec.ofNat 17 v }

/-- The image that runs, and whether the one selected is invalid (R409, R410). -/
def pickImage (s : State) (aOk bOk : Bool) : Option (Bool × Bool) :=
  let o := s.fl.opts
  let valid := fun (k : KeeperImage) (good : Bool) => good && k.valid && (!o.bootPolicy.getLsbD 2 || decide (s.fl.highVersion ≤ k.version))
  let a := valid s.fl.kimgA aOk
  let b := valid s.fl.kimgB bOk
  if !a && !b then none
  else if o.bootPolicy.getLsbD 0 then
    let want := s.fl.lastActivatedB
    if (if want then b else a) then some (want, false) else some (!want, true)
  else if a && b then some (decide (s.fl.kimgA.version < s.fl.kimgB.version), false)
  else some (b, false)

/-- KEEPER_BOOT. -/
def keeperBootNow (s : State) (aOk bOk : Bool) : State :=
  if s.pwr.phase ≠ .boot ∨ !domReady s dCIPHER then s
  else match pickImage s aOk bOk with
    | none => enterSpillway s 3
    | some (imgB, fell) =>
      let v := if imgB then s.fl.kimgB.version else s.fl.kimgA.version
      let s1 := setPwr (countArea { s with fl := { s.fl with highVersion := max s.fl.highVersion v } } 0)
        fun p => { p with phase := .starting, keeperRunning := true, imageB := imgB }
      let wanted := if imgB then s.fl.kimgA else s.fl.kimgB
      if fell then stageConfig s1 4 (b2n imgB) (BitVec.ofNat 32 v) (if wanted.valid then BitVec.ofNat 32 wanted.version else 0) else s1

/-! ### The configuration image and what the keeper loads (R374, R399) -/

/-- The image taken at a start: the valid one with the higher SEQ; `true`: the newer one was invalid. -/
def takeImage (s : State) (aOk bOk : Bool) : Option (Nat × ConfigImage × Bool) :=
  match (if aOk then imageFound s false else none), (if bOk then imageFound s true else none) with
  | some a, some b => if a.seq < b.seq then some (1, b, false) else some (0, a, false)
  | some a, none => some (0, a, match s.fl.imgB with
    | some b => decide (a.seq < b.seq)
    | none => false)
  | none, some b => some (1, b, match s.fl.imgA with
    | some a => decide (b.seq < a.seq)
    | none => false)
  | none, none => none

/-- The registers of the units that the retirement table retires leave the sealed set (R372). -/
def tableExcluded (s : State) : List Nat :=
  ((allChans.filter (tableRetired s clsChannel)).flatMap chanRegs) ++ ((polList.filter (tableRetired s clsPolder)).flatMap polRegs) ++
    (if tableRetired s clsRadio 0 then radRegs else [])

/-- The image's entries become the active values, derived fields as the basic level gives them. -/
def loadImage (s : State) (aOk bOk : Bool) : State :=
  let ex := tableExcluded s
  match takeImage s aOk bOk with
  | none => { s with cfg := { s.cfg with vals := [], noImage := true, sealFirstRef := true, imageSel := 2, imgSeq := 0, excluded := ex } }
  | some (i, img, old) =>
    let rs := img.entries.filterMap fun p => (regOf p.1).map fun r => (r, p.2)
    let v := rs.foldl (fun v p => putVal v p.1 p.2) []
    let v2 := settleAll s v (rs.map (·.1))
    let s1 := { s with cfg := { s.cfg with vals := v2, imageSel := i, imgSeq := BitVec.ofNat 32 img.seq, excluded := ex, noImage := false } }
    let s2 := { s1 with cfg := { s1.cfg with sealRef := if ex.isEmpty then img.chk else imageSeal s1 img } }
    if old then stageConfig s2 3 i s2.cfg.sealLive s2.cfg.sealRef else s2

/-- Entries that waited for the keeper when a reset came are written first (R420). -/
def flushLog (s : State) : State :=
  s.flt.logDue.foldl appendEntry { s with flt := { s.flt with logDue := [] } }

/-- The retirement table applies from the first boundary (R421, R423). -/
def loadTable (s0 : State) : State :=
  let s := retirementFound s0
  let s1 := allChans.foldl (fun s c => if tableRetired s clsChannel c then modChan s c fun x => { x with retired := true } else s) s
  let s2 := polList.foldl (fun s p => if tableRetired s clsPolder p then modPol s p fun x => { x with st := .retired } else s) s1
  let s3 := (List.range 4).foldl (fun s b => if tableRetired s clsLink b then setBank s b { getBank s b with linkRetired := true } else s) s2
  { s3 with rad := { s3.rad with retired := tableRetired s3 clsRadio 0 } }

/-- Service time at a start: the ledger's, or the newest counter record's (R423). -/
def startSvc (s : State) : Nat :=
  if domReady s dMETER then s.ldg.svcUs else match startCounter s with
    | some r => r.svcUs
    | none => 0

/-- Toleration of an UNVERIFIABLE slot runs from its unit's retirement (R191, R423). -/
def loadTolerance (s : State) (c : Nat) : State :=
  let e := if (getChan s (masterOf s c)).retired then tableEntry s clsChannel (masterOf s c) else tableEntry s clsLink (bankOf c)
  match e with
  | some e => if chanRetired s c ∧ enrolled s c then startTolerance s c (startSvc s - e.svcUs) else s
  | none => s

/-- The registry and the slot records as flash has them; what has no valid copy is journalled as lost (R131, log entry 89). -/
def loadRegistry (s : State) : State :=
  let x := registryFound s
  if x.2 = 0 then x.1 else stageSoon { x.1 with ldg := { x.1.ldg with loss := true } } 0x06 9 [(26, leBytes x.2 4), (30, [2#8])]

/-- The registry, the slot records, the calibrations and the slot tables. -/
def loadTokens (s0 : State) : State :=
  let s := loadRegistry s0
  let rg := s.fl.reg.map fun p => (p.1, { p.2 with sess := p.2.sessRes })
  let s1 := { s with tok := { s.tok with reg := rg, recs := s.fl.recs, changes := [] } }
  let s2 := s1.fl.cals.foldl (fun s p => modChan s p.1 fun c => { c with cal := p.2, ftrack := clipTrack s p.1 p.2.fRes }) s1
  let sl := loadSlots s2
  let s3 := { s2 with slu := { s2.slu with a := { s2.slu.a with slots := sl },
                                           b := if laneBHolds s2 then { s2.slu.b with slots := sl } else s2.slu.b } }
  allChans.foldl loadTolerance s3

/-- The polders that start (R399). -/
def startPolders (s : State) : List Nat :=
  let spare := regF s .pldPlace 4 3
  let ok_ := fun p => !tableRetired s clsPolder p
  let sp := if spare < 5 ∧ ok_ spare then [spare] else []
  let n := (activeCount s + 23) / 24
  sp ++ ((polList.filter fun p => ok_ p && decide (p ≠ spare)).take n)

/-- CONFIG_IMAGE_LOAD: phase 4 up to T_C. -/
def configLoad (s : State) (aOk bOk : Bool) : State :=
  if s.pwr.phase ≠ .starting ∨ s.pwr.tc ∨ !keeperUp s then s
  else
    let s0 := countArea (countArea (countArea (flushLog s) 1) 2) 4
    let s1 := loadTokens (loadTable (loadImage s0 aOk bOk))
    let ps := startPolders s1
    let spare := regF s1 .pldPlace 4 3
    let s2 := ps.foldl (fun s p => modPol s p fun x => { x with st := .starting, makeSpare := decide (p = spare) }) s1
    let banks := (List.range 4).filter fun b => !(getBank s2 b).linkRetired && allChans.any fun c => decide (bankOf c = b) && chanActive s2 c
    let votes := s2.pwr.startVotes.toNat ||| bitMask (ps.map dPOLDER) ||| bitMask (banks.map dBANK)
    let s3 := if ledgerWants (setPwr s2 fun p => { p with tc := true }) then s2
      else { s2 with ldg := { s2.ldg with st := restLedger s2 } }
    setPwr s3 fun p => { p with tc := true, startVotes := BitVec.ofNat 17 votes }

/-- START_WATCHDOG (R402): phases 2 to 4 have lasted 500 ms. -/
def startTimeout (s : State) : State :=
  match s.pwr.phase with
  | .optLoad | .boot | .starting => rstPulse s (bitAt 11 7)
  | _ => s

/-! ### The keeper restart (R23, R24) -/

/-- KEEPER_WATCHDOG: the keeper restarts; a pending PREPARE is lost with it. -/
def keeperDown (s : State) : State :=
  if !s.pwr.keeperRunning ∨ s.flt.restarting ∨ !domReady s dKEEPER then s
  else { s with flt := { s.flt with restarting := true, wdt := sat 16 (s.flt.wdt + 1) }, slu := { s.slu with prepare := none } }

end Sys2Proof.Machine
end

