-- ==== Sys2Proof/Machine/Units.lean ====
section
/-! DEFINITION. Retirements at step 2 of a boundary (R96, R415 to R419) and what three failed reloads decide (R372).

Marked choices (log entries): DEDUCED 39, 79. -/

namespace Sys2Proof.Machine

open Sys2Proof

/-- Every job of a channel ends with CHANNEL_RETIRED. -/
def retireJobs : Nat → State → Nat → State
  | 0, s, _ => s
  | k + 1, s, ch => match headOf s ch with
    | some j => if j.uid = 0 then retireJobs k (popHead s ch) ch else retireJobs k (failTx s ch j .channelRetired false {}) ch
    | none => s

/-- A channel leaves its polder and its work; its slot becomes UNVERIFIABLE and, enrolled, tolerated from now on. -/
def outOfService (s : State) (ch : Nat) : State :=
  let s1 := modChan s ch fun c => { c with place := none, moveTo := none }
  let s2 := retireJobs ((getChan s1 ch).jobs.length + 20) s1 ch
  let s3 := pairSlot s2 ch fun e => { e with st := .unverifiable }
  if enrolled s3 ch then startTolerance s3 ch 0 else s3

/-- A channel, with its pair, is retired (R96, R82). -/
def retireChannel (s : State) (ch : Nat) (cause : Byte) : State :=
  if (getChan s ch).retired then s
  else
    let s1 := modChan s ch fun c => { c with retired := true, retireDue := false }
    let pair := if gangMaster s ch then [ch, ch + 1] else [ch]
    let s2 := outOfService s1 ch
    let s3 := if gangMaster s ch then modChan s2 (ch + 1) fun c => { c with place := none, moveTo := none } else s2
    recordRetire (excludeRegs s3 (pair.flatMap chanRegs)) clsChannel ch cause

/-- A bank link is retired, and its channels with it (R417). -/
def retireLink (s : State) (b : Nat) : State :=
  if (getBank s b).linkRetired then s
  else
    let s1 := setBank s b { getBank s b with linkRetired := true }
    let s2 := (allChans.filter fun c => decide (bankOf c = b)).foldl outOfService s1
    recordRetire s2 clsLink b 0

/-- One retirement of R422 takes effect. -/
def retireUnit (s : State) (r : Nat × Nat × Byte) : State :=
  let i := r.2.1
  if r.1 = clsChannel then retireChannel s i r.2.2
  else if r.1 = clsPolder then (if (getPol s i).st = .retired then s else polRetire s i r.2.2)
  else if r.1 = clsLink then retireLink s i
  else if r.1 = clsRadio then (if s.rad.retired then s else retireRadio s 0)
  else recordRetire s r.1 i 0

/-- Ascending class, then ascending index (R415). -/
def insertUnit (r : Nat × Nat × Byte) : List (Nat × Nat × Byte) → List (Nat × Nat × Byte)
  | [] => [r]
  | x :: t => if r.1 < x.1 ∨ (r.1 = x.1 ∧ r.2.1 ≤ x.2.1) then r :: x :: t else x :: insertUnit r t

/-- The retirements that a test selects take effect at this boundary. -/
def retireDueWhere (s : State) (p : Nat → Nat → Bool) : State :=
  let now := (s.flt.retireDue.filter fun r => p r.1 r.2.1).foldl (fun l r => insertUnit r l) []
  now.foldl retireUnit { s with flt := { s.flt with retireDue := s.flt.retireDue.filter fun r => !p r.1 r.2.1 } }

/-- All retirements that wait, at step 2 of R33. -/
def retireStep (s : State) : State := retireDueWhere s fun _ _ => true

/-- A unit that three failed reloads retire (R372): class 0 the channel, 1 the polder, 4 the radio. -/
def sealRetire (s : State) (u : Nat × Nat) : State :=
  if u.1 = 0 then
    let m := masterOf s u.2
    retireChannel s m (getChan s m).faultFlags
  else if u.1 = 1 then (if (getPol s u.2).st = .retired then s else polRetire s u.2 (BitVec.ofNat 8 (getPol s u.2).fault.toNat))
  else if s.rad.retired then s else retireRadio s 0

/-- SEAL_RELOAD_LIMIT (R372): RELOADS has reached 3. -/
def sealLimitNow (s : State) : State :=
  if !s.cfg.reloadDue || s.flt.restarting || decide (s.cfg.reloads < 3) then s
  else
    let s0 := { s with cfg := { s.cfg with reloadDue := false, reloads := 0, sealAfterReload := false } }
    match imageInForce s0 with
    | none => s0
    | some img =>
      let d := differing s0 img
      let units := (d.filterMap unitOfReg).eraseDups
      let others := d.filter fun o => !optB (unitOfReg o)
      let s1 := units.foldl sealRetire s0
      if others.isEmpty then { s1 with cfg := { s1.cfg with sealRef := imageSeal s1 img } }
      else
        let vals := others.foldl (fun v o => smPut v o (imageValue img o) (resetAt o)) s1.cfg.vals
        let s2 := { s1 with cfg := { s1.cfg with vals := vals, sealFault := true, eccShadow := s1.cfg.eccShadow ++ others,
                                                 staged := s1.cfg.staged.filter fun p => !others.contains p.1 } }
        excludeRegs s2 others

/-- RADIO_RETIREMENT and the other retirement rows: what waits for the boundary. -/
def retireRow (s : State) (cls idx : Nat) : State := retireDueWhere s fun c i => c == cls && i == idx

end Sys2Proof.Machine
end

