-- ==== Sys2Proof/Machine/Flags.lean ====
section
/-! DEFINITION. Flags computed from the state, and what the output pins carry: the causes of FAULT_N (R424), the sluice
switches (R195, R201), COEX, WAKE#, VSEL and MCLK_OUT (R165, R386, R394, R452). -/

namespace Sys2Proof.Machine

open Sys2Proof

/-- The causes of FAULT_N (R424), bits 0 to 6 of FLT_STATUS. -/
def faultCauses (s : State) : Nat :=
  b2n s.ldg.consErr + 2 * b2n s.lcy.noTicket + 4 * b2n (engineFailed s) + 8 * b2n s.cfg.sealFault +
    16 * b2n (inSpillway s && decide (s.pwr.spillCause ≠ 4)) + 32 * b2n (s.slu.a.down1s || s.slu.b.down1s) +
    64 * b2n (sluList.any fun n => (getOut s n).faulted)

/-- FAULT_N is driven low: not before phase 2 of a start. -/
def faultPin (s : State) : Bool := decide (faultCauses s ≠ 0) && decide (s.pwr.phase ≠ .aonInit)

/-- A lane drives its own switch of a sluice. -/
def laneDrives (s : State) (l : LaneId) (n : Nat) : Bool :=
  decide ((getLane s l).st = .active) && (laneSl (getLane s l) n).released

/-- SLn_H conducts: lane A drives it, or lane B has taken it over. -/
def switchH (s : State) (n : Nat) : Bool := laneDrives s .a n || (getOut s n).takeB

/-- SLn_L conducts: lane B drives it, or lane A has taken it over. -/
def switchL (s : State) (n : Nat) : Bool := laneDrives s .b n || (getOut s n).takeA

/-- The relay coil of a sluice is energised: both switches conduct, and the stage has neither tripped nor FAULTED (R206). -/
def sluPath (s : State) (n : Nat) : Bool :=
  switchH s n && switchL s n && !(getOut s n).tripped && !(getOut s n).faulted

/-- COEX_REQ and COEX_PRIO: held low while EN = 0 (R165). -/
def coexPins (s : State) : Bool × Bool := (coexOn s && s.rad.req, coexOn s && s.rad.prio)

/-- WAKE# is driven low (R394). -/
def wakePin (s : State) : Bool := s.pwr.wakeSignal

/-- VSEL1 and VSEL0 (R386). -/
def vselPins (s : State) : Nat := s.pwr.vsel

/-- MCLK_OUT runs while METER is on and the device neither sleeps nor is held in POR. -/
def mclkOut (s : State) : Bool := (getDom s dMETER).on && !asleep s && !s.pwr.porHeld

end Sys2Proof.Machine
end

