-- ==== Sys2Proof/Machine/RegView.lean ====
section
/-! DEFINITION. What every register of BAR0 reads (R361, R365, R379, R412, R428 to R445), and the SNAPSHOT sections that show
the same state (R60 to R63, R465).

Marked choices (log entries): DESIGN CHOICE 81, 88; DEDUCED 29, 31, 42, 65, 78. -/

namespace Sys2Proof.Machine

open Sys2Proof

/-- A word from its fields: (lowest bit, width, value). -/
def packW (l : List (Nat × Nat × Nat)) : Word :=
  BitVec.ofNat 32 (l.foldl (fun a f => a + f.2.2 % 2 ^ f.2.1 * 2 ^ f.1) 0)

def word (n : Nat) : Word := BitVec.ofNat 32 n
def hiWord (n : Nat) : Word := BitVec.ofNat 32 (n / 2 ^ 32)

/-! ### Home domains (R361) and the recovery subset (R412) -/

def span (off a b : Nat) : Bool := decide (a ≤ off) && decide (off < b)

/-- Home domain of the register at a dword offset; `none`: the offset names no register (R429). -/
def homeOf (off : Nat) : Option Nat :=
  let kp := some dKEEPER
  let lk := some dLINK
  if off < 0x400 then (if off < 8 then kp else none)
  else if off < 0x800 then
    (if off = 0x400 then kp else if off = 0x408 ∨ off = 0x40C then some dAON else if span off 0x410 0x428 then lk else none)
  else if off < 0x1000 then
    (if off < 0xA10 ∨ span off 0xA80 0xACC ∨ span off 0xB00 0xB14 then lk else none)
  else if off < 0x1800 then (if off < 0x1500 ∧ off % 0x100 < 0x10 then kp else none)
  else if off < 0x2000 then
    (if off < 0x1814 ∨ span off 0x1840 0x1870 ∨ span off 0x1900 0x19C0 ∨ span off 0x1A00 0x1A14 ∨ span off 0x1A20 0x1A34
     then kp else none)
  else if off < 0x3800 then
    (let n := (off - 0x2000) / 0x40
     let r := (off - 0x2000) % 0x40
     if r = 0x20 ∨ r = 0x24 ∨ r = 0x28 ∨ r = 0x3C then some (dBANK (bankOf n)) else kp)
  else if off < 0x4000 then
    (if off = 0x3800 ∨ span off 0x3810 0x3824 ∨ span off 0x3900 0x3F24 then kp else none)
  else if off < 0x4800 then
    (if off < 0x4020 then kp
     else if span off 0x4040 0x40C0 then (if off % 16 = 12 then some dAON else kp)
     else if span off 0x40C0 0x40C8 then kp
     else if span off 0x4100 0x4120 then (if off = 0x411C then some dAON else kp) else none)
  else if off < 0x5000 then
    (if off < 0x486C ∨ span off 0x4870 0x4878 ∨ span off 0x4C00 0x4F00 then some dAON else none)
  else if off < 0x5800 then
    (if off < 0x501C ∨ off = 0x5080 ∨ off = 0x5084 then kp
     else if off < 0x5028 ∨ span off 0x5030 0x5068 ∨ span off 0x5088 0x50B8 then some dMETER else none)
  else if off < 0x6000 then (if off = 0x5800 then kp else if off < 0x5840 then some dCIPHER else none)
  else if off < 0x6400 then
    (if off < 0x600C ∨ span off 0x6014 0x6028 then kp else if off < 0x6014 then some dENTROPY else none)
  else if off < 0x6800 then (if off < 0x6418 then kp else none)
  else if off < 0x7000 then (if off = 0x6800 ∨ span off 0x6808 0x6814 ∨ span off 0x6840 0x6854 then kp else none)
  else if off < 0x7800 then (if off < 0x702C ∨ span off 0x7030 0x7084 then some dAON else none)
  else if off < 0x8000 then
    (if off < 0x7824 ∨ span off 0x7830 0x783C ∨ span off 0x7900 0x7B00 then kp else none)
  else if off < 0x9000 then (if off < 0x804C then some dAON else none)
  else if span off 0xF000 0xF200 ∨ span off 0xF800 0xF808 then lk
  else none

/-- The recovery register subset of spillway mode; the SLU, MTR and LDG registers for reading only. -/
def recovery (off : Nat) (write : Bool) : Bool :=
  off < 8 || span off 0x408 0x410 || span off 0x800 0x810 || span off 0x900 0x910 || span off 0xA00 0xA10 || off = 0xA80 ||
    span off 0xAC0 0xACC || off = 0xB00 || off = 0xB08 || off = 0x7804 || off = 0x7834 || off = 0x6800 || off = 0x6840 ||
    span off 0x7000 0x7800 || span off 0x8000 0x9000 || span off 0xF000 0xF808 ||
    (!write && (span off 0x4800 0x5800))

/-! ### The words, block by block -/

def progWord (p : Progress) : Word := packW [(0, 10, p.progress), (16, 15, p.position), (31, 1, b2n p.active)]

def sqStCode : SqState → Nat
  | .disabled => 0 | .active => 1 | .draining => 2 | .error => 3

def sqEnabled (q : Sq) : Bool := match q.st with
  | .active | .error => true
  | _ => false

def viewSq (q : Sq) (r : Nat) : Word :=
  match r with
  | 0 => word q.base.toNat
  | 4 => hiWord q.base.toNat
  | 8 => packW [(0, 1, b2n (sqEnabled q)), (1, 4, q.size), (8, 4, q.cq), (16, 3, q.burst)]
  | _ => packW [(0, 12, q.head), (16, 12, q.tail), (28, 2, sqStCode q.st)]

def viewCq (q : Cq) (r : Nat) : Word :=
  match r with
  | 0 => word q.base.toNat
  | 4 => hiWord q.base.toNat
  | 8 => packW [(0, 1, b2n q.active), (1, 4, q.size), (8, 5, q.vector), (13, 1, b2n q.ien)]
  | _ => packW [(0, 12, q.tail), (12, 1, b2n q.phase), (16, 12, q.head), (28, 2, b2n q.active), (31, 1, b2n (!q.held.isEmpty))]

def viewEq (q : Eq) (off : Nat) : Word :=
  match off with
  | 0xA00 => word q.base.toNat
  | 0xA04 => hiWord q.base.toNat
  | 0xA08 => packW [(0, 1, b2n q.active), (1, 4, q.size), (8, 5, q.vector), (13, 1, b2n q.ien)]
  | _ => packW [(0, 12, q.tail), (12, 1, b2n q.phase), (16, 12, q.head), (28, 2, b2n q.active), (30, 1, b2n q.overflow)]

def viewErr (r : Ring) : Word :=
  packW [(0, 1, b2n r.dbRange), (1, 1, b2n r.dbDisabled), (2, 1, b2n r.cfgBusy), (3, 1, b2n r.cfgBad), (4, 1, b2n r.fetchErr),
    (8, 4, r.errSq), (12, 4, r.errCq), (16, 1, b2n r.errEq)]

/-- BEAT and Q (R432). -/
def viewBeatQ (s : State) (off : Nat) : Word :=
  let r := s.ring
  if span off 0x800 0x900 then viewSq (getSq s ((off - 0x800) / 16)) (off % 16)
  else if span off 0x900 0xA00 then viewCq (getCq s ((off - 0x900) / 16)) (off % 16)
  else if span off 0xA00 0xA10 then viewEq r.eq off
  else if span off 0xA80 0xAC0 then (let q := getCq s ((off - 0xA80) / 4); packW [(0, 8, q.cnt), (8, 10, q.time)])
  else match off with
    | 0x408 => word s.clk.beat.toNat
    | 0x40C => hiWord s.clk.beat.toNat
    | 0x410 => packW [(0, 1, b2n r.ptmAuto)]
    | 0x414 => packW [(0, 1, b2n r.ptmCtxValid), (1, 1, b2n r.ptmPairValid)]
    | 0x418 => word r.ptmB.toNat
    | 0x41C => hiWord r.ptmB.toNat
    | 0x420 => word r.ptmT.toNat
    | 0x424 => hiWord r.ptmT.toNat
    | 0xAC0 => packW [(0, 8, r.eq.cnt), (8, 10, r.eq.time)]
    | 0xAC4 => packW [(0, 14, r.eq.mask.toNat)]
    | 0xAC8 => word r.eq.dropped
    | 0xB00 => viewErr r
    | 0xB04 => packW [(0, 17, r.holdVotes.toNat)]
    | 0xB08 => packW [(0, 17, hostVotes s)]
    | 0xB0C => word r.fetched
    | 0xB10 => word r.posted
    | _ => 0

/-- The pass that runs on a polder, or 1 (R48). -/
def passNow (s : State) (p : Nat) : Nat :=
  match ((polChans s p).filter (chanBusy s)).filterMap fun c => (getChan s c).place.map (·.pass) with
  | [] => 1
  | x :: t => t.foldl min x

def passChans (s : State) (p : Nat) : Nat :=
  let k := passNow s p
  ((polChans s p).filter fun c => decide (((getChan s c).place.map (·.pass)).getD 0 = k)).length

/-- PASSES of PLD_GSTAT. -/
def inPasses (s : State) : Bool :=
  s.lf.auto && allChans.any fun c => decide (2 ≤ ((getChan s c).place.map (·.pass)).getD 0)

def viewAssign (s : State) (i : Nat) : Word :=
  packW ((List.range 8).map fun k => match (getChan s (8 * i + k)).place with
    | some pl => (4 * k, 4, 8 + pl.pol)
    | none => (4 * k, 4, 0))

def viewBank (s : State) (b : Nat) : Word :=
  let k := getBank s b
  packW [(0, 12, min 4095 k.vdrv), (16, 8, wrapInt 8 k.temp), (24, 1, b2n k.ready), (25, 1, b2n k.uv), (26, 1, b2n k.ov),
    (27, 1, b2n k.otDefer), (28, 1, b2n k.otOff), (29, 1, b2n k.linkRetired)]

/-- PLD (R433). -/
def viewPld (s : State) (off : Nat) : Word :=
  if off < 0x1800 then
    let n := (off - 0x1000) / 0x100
    let p := getPol s n
    match off % 0x100 with
    | 0 => packW [(0, 3, polStCode p.st), (8, 5, passChans s n), (16, 7, (polChans s n).length)]
    | 8 => packW [(0, 4, p.fault.toNat)]
    | 12 => packW [(0, 5, inFlight s n)]
    | _ => 0
  else if span off 0x1840 0x1870 then viewAssign s ((off - 0x1840) / 4)
  else if span off 0x1900 0x19C0 then
    let i := (off - 0x1900) / 4
    packW [(0, 16, (getChan s (2 * i)).epoch.toNat), (16, 16, (getChan s (2 * i + 1)).epoch.toNat)]
  else if span off 0x1A20 0x1A30 then viewBank s ((off - 0x1A20) / 4)
  else match off with
    | 0x1804 => packW [(0, 2, if s.lf.auto then 2 else 1), (2, 7, activeCount s), (9, 3, s.lf.spare.getD 7), (12, 1, b2n s.lf.fixedLimit),
        (13, 1, b2n s.lf.wrDropped), (14, 1, b2n (inPasses s))]
    | 0x1808 => word s.lf.migrateStale
    | 0x180C => word s.lf.migrations
    | 0x1810 => word s.lf.restarts
    | 0x1A04 => let u := leveeUse s; packW [(0, 13, u.1 / 10000000), (16, 13, u.2 / 1000000)]
    | 0x1A08 => word s.lf.defers
    | 0x1A0C => word s.lf.refused
    | 0x1A30 => progWord s.lf.calProg
    | _ => 0

/-- The bank's domain is on and the bank is ready: its channels are not UNPOWERED (R68, R92). -/
def bankPowered (s : State) (b : Nat) : Bool := domReady s (dBANK b) && (getBank s b).ready

/-- Retries of the transaction in flight, or of the last one (R95, R465). -/
def chanRetries (s : State) (n : Nat) : Nat := match (getChan s n).jobs.head? with
  | some j => if jobInFlight j then j.retries else (getChan s n).retries
  | none => (getChan s n).retries

/-- LFC_n_STATUS.STATE (R68). -/
def lfState (s : State) (n : Nat) : Nat :=
  if chanRetired s n ∧ !reinstating s n then 6
  else if gangSlave s n then 5
  else if !chanEn s n then 0
  else if !bankPowered s (bankOf n) then 7
  else match (getChan s n).jobs.head? with
    | some j => match j.phase with
      | .onAir => 2
      | .quiet => 3
      | .faultWait => 4
      | _ => 1
    | none => 1

/-- PEND: the transaction in flight uses earlier drive settings (R69). -/
def lfPend (s : State) (n : Nat) : Bool := match (getChan s (masterOf s n)).jobs.head? with
  | some j => jobInFlight j && (decide (j.set.ftw ≠ carrier s n) || decide (j.set.target ≠ driveMa s n) ||
      !(j.set.sense == reg s (.lfcSense (masterOf s n))) || !(j.set.tune == reg s (.lfcTune (masterOf s n))))
  | none => false

/-- LFC (R434). -/
def viewLfc (s : State) (off : Nat) : Word :=
  let n := (off - 0x2000) / 0x40
  let c := getChan s n
  match (off - 0x2000) % 0x40 with
  | 0x14 => packW [(0, 3, lfState s n), (3, 1, b2n c.cal.valid), (4, 1, b2n (lfPend s n)), (5, 1, b2n (capped s n)),
      (6, 1, b2n c.wrDropped), (7, 1, b2n c.detuneWarn), (8, 3, chanRetries s n)]
  | 0x18 => packW [(0, 8, c.faultFlags.toNat)]
  | 0x1C => packW [(0, 4, c.consec), (8, 8, c.crcCnt), (16, 16, c.hardCnt)]
  | 0x20 => word (carrier s n)
  | 0x24 => word (wrapInt 32 c.zre)
  | 0x28 => word (wrapInt 32 c.zim)
  | 0x2C => word c.cal.fRes
  | 0x30 => packW [(0, 16, c.cal.rTank.toNat), (16, 12, c.cal.q10.toNat)]
  | 0x34 => packW [(0, 12, c.cal.grpdly.toNat)]
  | 0x38 => packW [(0, 16, c.cal.noise.toNat)]
  | 0x3C => packW [(0, 12, c.ipk.toNat), (16, 8, c.theta.toNat)]
  | _ => 0

/-- AIR (R435). -/
def viewAir (s : State) (off : Nat) : Word :=
  if span off 0x3A80 0x3C00 then
    let m := (off - 0x3A80) / 4
    let c := getChan s m
    let r := slotRec s m
    packW [(0, 12, wrapInt 12 c.lastDev), (12, 1, b2n ((r.map (·.sigValid)).getD false)), (13, 1, b2n c.sigStale),
      (16, 8, wrapInt 8 ((r.map (·.ofs)).getD 0)), (24, 8, c.csDev)]
  else if span off 0x3C00 0x3F00 then
    let r := slotRec s ((off - 0x3C00) / 8)
    word (wrapInt 32 (if off % 8 = 0 then (r.map (·.dr)).getD 0 else (r.map (·.dx)).getD 0))
  else match off with
    | 0x3F00 => word s.lf.tbFails
    | 0x3F04 => word s.lf.csFails
    | 0x3F08 => word s.lf.collisions
    | 0x3F0C => word s.lf.foreign
    | 0x3F14 => packW [(0, 13, (s.tok.reg.filter fun p => !(p.2.st == .free)).length),
        (16, 13, (s.tok.reg.filter fun p => p.2.st == .exhausted).length)]
    | 0x3F18 => word s.lf.authOk
    | 0x3F1C => word s.lf.authFails
    | 0x3F20 => word s.lf.rekeys
    | _ => 0

/-- RAD_STATUS.STATE. -/
def radState (s : State) : Nat :=
  if s.rad.retired then 7
  else if !domReady s dRADIO then 0
  else if !calibrated s then 2
  else match s.rad.cur with
    | some a => match a.phase with
      | .lock => 3
      | .lbt => 4
      | .running => if a.kind = .range then 6 else if onAir s a then 5 else 4
    | none => if optB (winListening s) || optB (locListening s) then 4 else 1

/-- RAD (R436). -/
def viewRad (s : State) (off : Nat) : Word :=
  let o := s.fl.opts
  if span off 0x4040 0x40C0 then
    let e := (off - 0x4040) / 16
    if off % 16 = 12 then word (usedUs s e)
    else match o.bands[e]? with
      | some b => match off % 16 with
        | 0 => packW [(0, 20, b.fLow)]
        | 4 => packW [(0, 20, b.fHigh)]
        | _ => packW [(0, 1, b2n b.en), (1, 1, b2n b.lbt), (8, 8, wrapInt 8 b.pmax), (16, 16, b.duty)]
      | none => 0
  else if span off 0x4100 0x4120 then word (smGet s.rad.cnt ((off - 0x4100) / 4) 0)
  else match off with
    | 0x4004 => packW [(0, 3, radState s), (3, 1, b2n s.rad.lock), (4, 1, b2n s.rad.antB), (5, 2, radProfile s), (7, 1, b2n s.rad.clamped),
        (8, 8, s.rad.rssi.toNat)]
    | 0x40C0 => word o.chMask.toNat
    | 0x40C4 => hiWord o.chMask.toNat
    | _ => 0

def laneStCode : LaneState → Nat
  | .active => 0 | .shadow => 1 | .dead => 2 | .off => 3

/-- SLU_SLOT_m.AGREE: lane B holds a table, and its entry is lane A's. -/
def slotAgree (s : State) (m : Nat) : Bool := !(s.slu.b.st == .off) && laneSlot s.slu.a m == laneSlot s.slu.b m

def viewSluStatus (s : State) (n : Nat) : Word :=
  let x := laneSl s.slu.a n
  let o := getOut s n
  packW [(0, 3, sluState s .a n), (3, 1, b2n x.policy), (4, 1, b2n x.hard), (5, 1, b2n o.latched), (6, 1, b2n o.openLoad),
    (7, 1, b2n o.overcurrent), (8, 1, b2n o.overtemp), (9, 1, b2n o.swStuck), (12, 4, x.cause)]

/-- SLU (R437). -/
def viewSlu (s : State) (off : Nat) : Word :=
  if off < 0x4840 then
    let n := (off - 0x4800) / 16
    if off % 16 = 8 then viewSluStatus s n else if off % 16 = 12 then word ((laneSl s.slu.a n).leftUs / 1000) else 0
  else if span off 0x4C00 0x4D80 then
    let m := (off - 0x4C00) / 4
    let e := laneSlot s.slu.a m
    packW [(0, 3, slotStCode e.st), (3, 1, b2n e.mismatch), (4, 1, b2n (decide (s.pwr.phase = .aonInit) || slotAgree s m)), (16, 12, e.cause.toNat)]
  else if span off 0x4D80 0x4F00 then word (laneSlot s.slu.a ((off - 0x4D80) / 4)).lastOk.toNat
  else match off with
    | 0x4860 => packW [(0, 4, (tampPins s).toNat), (4, 4, s.slu.tampActive.toNat)]
    | 0x4864 => packW [(0, 1, b2n s.slu.dhold), (4, 4, bitMask (sluList.filter fun n => (getOut s n).latched))]
    | 0x4870 => packW [(0, 2, laneStCode s.slu.a.st), (2, 2, laneStCode s.slu.b.st), (4, 4, bitMask (sluList.filter fun n => (getOut s n).takeA)),
        (8, 4, bitMask (sluList.filter fun n => (getOut s n).takeB)), (12, 1, b2n s.slu.disagree), (16, 16, s.slu.disagreeCnt)]
    | 0x4874 => word s.slu.changes
    | _ => 0

def ldgStCode : LdgState → Nat
  | .off => 0 | .active => 1 | .parked => 2 | .closing => 3 | .closed => 4

/-- The five buckets in the order of LDG_BKT_i. -/
def bktOf (b : Buckets) : Nat → Int
  | 0 => b.balance | 1 => b.reserved | 2 => b.consumed | 3 => b.settled | _ => b.accepted

def viewLdgStatus (s : State) : Word :=
  let b := s.ldg.cA.balance
  let up := decide (s.ldg.st ≠ .off)
  packW [(0, 3, ldgStCode s.ldg.st), (3, 1, b2n (decide (b < 0))), (4, 1, b2n (up && decide (b ≤ lowLimit s))),
    (5, 1, b2n (up && decide (b ≤ minLimit s))), (6, 1, b2n s.ldg.consErr), (7, 1, b2n s.ldg.copyFix), (8, 1, b2n (hasLedgerNode s)),
    (9, 1, b2n s.ldg.loss)]

/-- MTR and LDG (R438). -/
def viewMtr (s : State) (off : Nat) : Word :=
  if span off 0x5040 0x5068 then
    let v := wrapInt 64 (bktOf s.ldg.cA ((off - 0x5040) / 8))
    if off % 8 = 0 then word v else hiWord v
  else match off with
    | 0x501C => packW [(0, 1, b2n s.mtr.iFault), (1, 1, b2n s.mtr.vFault), (2, 1, b2n s.mtr.iOvr), (3, 1, b2n s.mtr.vOvr),
        (4, 1, b2n (!s.cfg.meterPend.isEmpty)), (5, 1, b2n (meterRuns s))]
    | 0x5020 => word (wrapInt 32 s.mtr.pLast)
    | 0x5024 => word s.mtr.faultBeats
    | 0x5030 => word s.mtr.eDis.toNat
    | 0x5034 => hiWord s.mtr.eDis.toNat
    | 0x5038 => word s.mtr.eChg.toNat
    | 0x503C => hiWord s.mtr.eChg.toNat
    | 0x5088 => viewLdgStatus s
    | 0x508C => packW [(0, 10, s.ldg.billRes)]
    | 0x5090 => word s.ldg.h
    | 0x5094 => packW [(0, 16, s.ldg.h / 2 ^ 32), (16, 16, s.ldg.lgen.toNat)]
    | 0x5098 => word (wrapInt 64 s.ldg.odPeak)
    | 0x509C => hiWord (wrapInt 64 s.ldg.odPeak)
    | 0x50A0 => word s.jrn.sealedSeq
    | 0x50A4 => packW [(0, 16, s.jrn.sealedSeq / 2 ^ 32), (16, 16, s.jrn.sealedKgen.toNat)]
    | 0x50A8 => packW [(0, 12, s.jrn.staged.length), (16, 11, if domReady s dMETER then freeSectors s else 0)]
    | 0x50AC => progWord s.jrn.prog
    | 0x50B0 => packW [(0, 16, s.ldg.vAccepted), (16, 16, s.ldg.vRefused)]
    | 0x50B4 => packW [(0, 14, s.fl.ckpts.length)]
    | _ => 0

def cipModeCode : CipMode → Nat
  | .dual => 0 | .single => 1 | .failed => 2 | .kat => 3

/-- Contexts of a page (R291). -/
def pageCap (n : Nat) : Nat := if n < 5 then 32 else if n = 7 then 4 else 8

/-- CIP (R439). Between two commands no message of this model is in progress: BUSY, WAITING, CTX and SUSP read 0. -/
def viewCip (s : State) (off : Nat) : Word :=
  if span off 0x5820 0x5840 then packW [(16, 6, pageCap ((off - 0x5820) / 4))]
  else match off with
    | 0x5804 => packW [(0, 2, cipModeCode s.cip.mode), (2, 1, b2n s.cip.retA), (3, 1, b2n s.cip.retB), (4, 1, b2n s.cip.maskSeeded)]
    | 0x5808 => word s.cip.cmpTransient
    | 0x580C => packW [(0, 16, s.cip.katRuns)]
    | 0x5810 => word s.cip.dike
    | 0x5814 => word s.cip.zeroed
    | 0x5818 => word s.cip.blocks
    | 0x581C => hiWord s.cip.blocks
    | _ => 0

def entStCode : EntState → Nat
  | .off => 0 | .warmup => 1 | .ready => 2 | .starved => 3

/-- ENT (R439). -/
def viewEnt (s : State) (off : Nat) : Word :=
  let e := s.ent
  let live : Bool := match e.st with
    | .ready | .starved => true
    | _ => false
  match off with
  | 0x6004 => packW [(0, 2, entStCode e.st), (2, 1, b2n e.aPass), (3, 1, b2n e.bPass), (4, 4, e.pool.length), (8, 8, min 255 e.waiting.length),
      (16, 16, if live then min 0xFFFF ((s.clk.nowUs - e.seedUs) / 1000) else 0)]
  | 0x6008 => progWord e.prog
  | 0x600C => packW [(0, 16, e.biasA.toNat), (16, 16, e.biasB.toNat)]
  | 0x6010 => packW [(0, 16, e.corrA.toNat), (16, 16, e.corrB.toNat)]
  | 0x6014 => word e.windows
  | 0x6018 => word e.failRep
  | 0x601C => word e.failApt
  | 0x6020 => word e.timeouts
  | 0x6024 => word e.reseeds
  | _ => 0

/-- LCY_STATE.PHASE and TARGET. -/
def lcyPhase (s : State) : Nat × Nat := match s.lcy.adv with
  | some a => (if a.phase = 1 ∧ !a.closeDone then 1 else a.phase + 1, a.ticket.dest)
  | none => (0, match s.fl.newTicket with
    | some t => t.dest
    | none => 0)

def minutesLeft (s : State) : Nat :=
  if s.lcy.dbg = .locked then 0 else min 255 ((s.lcy.dbgEndUs - s.clk.nowUs + 59999999) / 60000000)

/-- KEY, LCY and DBG (R440). -/
def viewKey (s : State) (off : Nat) : Word :=
  match off with
  | 0x6400 => packW [(0, 1, b2n s.key.ready), (1, 1, b2n s.key.plinth), (2, 1, b2n (hasLedgerNode s)),
      (8, 8, bitMask ((List.range 8).filter fun f => !((getNode s (fleetIdx f)).st == .free))), (16, 9, nodesInUse s)]
  | 0x6408 => word s.key.patinaLate
  | 0x640C => progWord s.key.prog
  | 0x6410 => s.key.iseq
  | 0x6414 => packW [(0, 16, s.key.retired), (16, 16, s.key.invalidated)]
  | 0x6800 => let p := lcyPhase s
      packW [(0, 3, lcState s), (3, 1, b2n (advancing s)), (4, 3, p.1), (8, 3, p.2), (11, 1, b2n s.lcy.optFixed)]
  | 0x6808 => word Config.deviceUid.toNat
  | 0x680C => hiWord Config.deviceUid.toNat
  | 0x6810 => progWord s.lcy.prog
  | 0x6840 => packW [(0, 2, dbgCode s.lcy.dbg), (2, 2, s.fl.opts.debugLock), (4, 3, s.lcy.dbgLastClose), (8, 8, minutesLeft s), (16, 2, s.lcy.dbgFails)]
  | 0x6848 => word s.lcy.dbgToken.toNat
  | 0x684C => hiWord s.lcy.dbgToken.toNat
  | 0x6850 => word s.lcy.dbgOpens
  | _ => 0

def phaseCode : Phase → Nat
  | .aonInit => 1 | .optLoad => 2 | .boot => 3 | .starting => 4 | .started => 5 | .spillway => 6

/-- PWR_DOM_n; D0 is ready once AON_INIT is over, so that only its ON reads 1 after POR (R441). -/
def viewDom (s : State) (d : Nat) : Word :=
  let x := getDom s d
  let left := if x.on ∧ d ≠ 0 ∧ !domHeld s d then holdoff s + 1 - x.idle else 0
  packW [(0, 14, voters s d), (16, 1, b2n (pinned s d)), (17, 1, b2n x.on), (18, 1, b2n (x.ready && !(d == 0 && s.pwr.phase == .aonInit))),
    (19, 1, b2n (domRetired s d)), (20, 8, left)]

/-- PWR and RST (R441). -/
def viewPwr (s : State) (off : Nat) : Word :=
  let p := s.pwr
  if span off 0x7040 0x7084 then viewDom s ((off - 0x7040) / 4)
  else match off with
    | 0x7000 => packW [(0, 3, phaseCode p.phase), (3, 2, if p.st = .doze then 1 else 0), (5, 3, p.spillCause), (8, 1, b2n p.imageB), (9, 1, b2n p.rom),
        (10, 1, b2n p.aonXtal), (11, 1, b2n p.vio3v3), (12, 4, p.refuse)]
    | 0x7014 => packW [(0, 2, p.plEff), (2, 2, p.floor), (4, 1, b2n p.ramp), (5, 1, b2n p.rampFail), (6, 2, p.vsel)]
    | 0x7018 => packW [(0, 7, p.wakeCause.toNat), (8, 4, p.wakeTamp.toNat), (12, 2, p.wakeFrom)]
    | 0x701C => packW [(0, 11, p.rstCause.toNat)]
    | 0x7020 => packW [(0, 11, p.rstHist.toNat)]
    | 0x7024 => packW [(0, 4, s.fl.failedStarts), (8, 4, s.fl.opts.fsThresh)]
    | 0x7028 => packW [(0, 1, b2n p.optA), (1, 1, b2n p.optB), (2, 2, p.optUsed), (16, 16, s.fl.opts.oseq)]
    | 0x7030 => word (rtcTicks s)
    | 0x7034 => hiWord (rtcTicks s)
    | 0x7038 => p.alarm
    | 0x703C => packW [(0, 9, p.supplyOk.toNat), (16, 1, b2n p.vaonWarn), (17, 1, b2n p.vflWarn), (18, 1, b2n p.vcoreWarn)]
    | _ => 0

/-- CFG (R442). -/
def viewCfg (s : State) (off : Nat) : Word :=
  let c := s.cfg
  match off with
  | 0x7800 => packW [(0, 1, b2n c.hold)]
  | 0x7804 => packW [(0, 1, b2n (!c.staged.isEmpty)), (1, 1, b2n c.dirty), (2, 1, b2n c.noImage), (3, 1, b2n c.stageLost), (4, 1, b2n c.basicDrop),
      (5, 1, b2n c.reloaded), (6, 1, b2n c.sealFault), (7, 2, c.imageSel), (16, 14, c.staged.length)]
  | 0x7808 => c.sealRef
  | 0x780C => c.sealLive
  | 0x7814 => packW [(0, 2, c.reloads), (16, 16, c.upsetCount)]
  | 0x7818 => word c.upsetAddr.toNat
  | 0x781C => word c.basicDropAddr.toNat
  | 0x7820 => c.imgSeq
  | 0x7830 => progWord c.enrolProg
  | 0x7834 => progWord c.imgProg
  | 0x7838 => progWord c.optProg
  | _ => 0

/-- FLT (R443). -/
def viewFlt (s : State) (off : Nat) : Word :=
  let f := s.flt
  if span off 0x8004 0x8010 then
    let i := (off - 0x8004) / 4
    word (bitMask ((List.range 32).filter fun k => (getChan s (masterOf s (32 * i + k))).retired))
  else if span off 0x8024 0x8034 then (let b := getBank s ((off - 0x8024) / 4); packW [(0, 16, b.retx), (16, 8, b.errBeats)])
  else match off with
    | 0x8000 => packW [(0, 7, faultCauses s), (7, 1, b2n (faultPin s))]
    | 0x8010 => packW [(0, 5, bitMask (polList.filter fun p => decide ((getPol s p).st = .retired))), (5, 1, b2n s.cip.retA), (6, 1, b2n s.cip.retB),
        (7, 1, b2n (engineFailed s)), (8, 4, bitMask ((List.range 4).filter fun b => (getBank s b).linkRetired)), (12, 1, b2n s.rad.retired)]
    | 0x8014 => packW [(0, 9, s.fl.retLog.length), (16, 1, s.fl.retBank)]
    | 0x801C => packW (polList.map fun p => (4 * p, 4, (getPol s p).fcnt))
    | 0x8034 => packW [(0, 8, f.radConsec), (16, 16, f.radTotal)]
    | 0x8038 => packW [(0, 8, min 255 f.gapMax), (16, 16, f.stops)]
    | 0x803C => packW [(0, 16, f.wdt), (16, 16, f.switches)]
    | 0x8040 => packW [(0, 16, f.offAddr.toNat), (16, 5, f.offDom)]
    | 0x8044 => word f.offCnt
    | 0x8048 => packW [(0, 16, f.flashCe), (16, 16, f.flashUe)]
    | _ => 0

/-- The MSI-X table and its PBA as BAR0 shows them (R321, R356). -/
def viewMsix (s : State) (off : Nat) : Word :=
  if 0xF800 ≤ off then (if off = 0xF800 then s.ring.pba else 0)
  else
    let v := (off - 0xF000) / 16
    match off % 16 with
    | 0 => word (smGet s.ring.msixAddr v 0).toNat
    | 4 => hiWord (smGet s.ring.msixAddr v 0).toNat
    | 8 => smGet s.ring.msixData v 0
    | _ => packW [(0, 1, b2n (s.ring.msixMask.getLsbD v))]

/-- GLB_INFO (R431). -/
def glbInfo : Word := packW [(0, 8, Config.stepping.toNat), (8, 8, 1), (16, 1, b2n Config.gradeSq)]

/-- The value of a register that is not staged, and of PLD_ASSIGN. -/
def viewOwn (s : State) (off : Nat) : Word :=
  if off < 0x400 then (if off = 0 then 0x4B5A9600#32 else if off = 4 then glbInfo else 0)
  else if off < 0x1000 then viewBeatQ s off
  else if off < 0x2000 then viewPld s off
  else if off < 0x3800 then viewLfc s off
  else if off < 0x4000 then viewAir s off
  else if off < 0x4800 then viewRad s off
  else if off < 0x5000 then viewSlu s off
  else if off < 0x5800 then viewMtr s off
  else if off < 0x6000 then viewCip s off
  else if off < 0x6400 then viewEnt s off
  else if off < 0x7000 then viewKey s off
  else if off < 0x7800 then viewPwr s off
  else if off < 0x8000 then viewCfg s off
  else if off < 0x9000 then viewFlt s off
  else viewMsix s off

/-- The active value of the register at a dword offset, its domain being on. -/
def viewReg (s : State) (off : Nat) : Word :=
  if span off 0x1840 0x1870 then viewOwn s off
  else match regOf off with
    | some (.airCh m) => reg s (.airCh (masterOf s m))
    | some r => reg s r
    | none => if optB (homeOf off) then viewOwn s off else 0

/-! ### Accesses (R326, R365, R379) -/

/-- The low words of the RL/RH pairs. -/
def rlOffs : List Nat :=
  [0x408, 0x418, 0x420, 0x5030, 0x5038, 0x5040, 0x5048, 0x5050, 0x5058, 0x5060, 0x5090, 0x5098, 0x50A0, 0x5818, 0x6808, 0x6848, 0x7030]

def isRl (off : Nat) : Bool := rlOffs.contains off
def isRh (off : Nat) : Bool := decide (4 ≤ off) && rlOffs.contains (off - 4)

def pathKey (p : Path) (off : Nat) : Nat := match p with
  | .host => off
  | .debug => off + 0x10000

/-- The home domain of an access is off or not ready. -/
def poweredOff (s : State) (off : Nat) : Option Nat := match homeOf off with
  | some d => if domReady s d then none else some d
  | none => none

/-- POWERED_OFF_ACCESS (R379): what the access leaves behind. -/
def noteOff (s : State) (off d : Nat) : State :=
  let s1 := { s with flt := { s.flt with offAddr := BitVec.ofNat 16 off, offDom := d, offCnt := sat 32 (s.flt.offCnt + 1) } }
  if s.flt.offPosted.getLsbD d then s1
  else
    let s2 := { s1 with flt := { s1.flt with offPosted := s1.flt.offPosted ||| BitVec.ofNat 17 (2 ^ d) } }
    postEvent s2 evDomainOffAccess srcPower (off + 2 ^ 16 * d)

def putRdata (s : State) (w : Word) : State := { s with cfg := { s.cfg with rdata := w } }

/-- The path carries accesses: the link for the host, an open session for the debug port (R276, R326). -/
def pathOpen (s : State) : Path → Bool
  | .host => hostReach s
  | .debug => decide (s.lcy.dbg ≠ .locked)

/-- A dword read of BAR0 on one path: the word goes to `rdata`. -/
def readReg (s0 : State) (p : Path) (off : Nat) : State :=
  let s := dozeLeave s0
  if inSpillway s && !recovery off false then putRdata s 0
  else match poweredOff s off with
    | some d => putRdata (noteOff s off d) 0
    | none =>
      if isRl off then
        let s1 := { s with cfg := { s.cfg with rlShadow := smPut s.cfg.rlShadow (pathKey p off) (viewReg s (off + 4)) 0 } }
        putRdata s1 (viewReg s off)
      else if isRh off then putRdata s (smGet s.cfg.rlShadow (pathKey p (off - 4)) 0)
      else putRdata s (viewReg s off)

/-! ### SNAPSHOT sections (R465) -/

/-- Registers section: every dword of BAR0; a block whose domain is off reads as zeros (R63). -/
def snapRegs (s : State) : List Byte :=
  (List.range 0x4000).flatMap fun i =>
    let off := 4 * i
    let w := if inSpillway s && !recovery off false then 0 else match poweredOff s off with
      | some _ => 0
      | none => viewReg s off
    leBytes w.toNat 4

/-- Transaction phase of a channel record. -/
def snapPhase (s : State) (ch : Nat) : Nat := match headOf s ch with
  | none => 0
  | some j => match j.phase with
    | .quiet => 4
    | .faultWait => 5
    | .onAir => match j.frame with
      | .cal => 6
      | .loc => 7
      | _ => if downlinkOver s j s.clk.nowUs then 3 else 2
    | _ => 1

def snapChan (s : State) (n : Nat) : List Byte :=
  let c := getChan s n
  let seg := match headOf s n with
    | some j => if jobInFlight j then (s.clk.beat - j.startBeat).toNat + 1 else 0
    | none => 0
  let out := match c.lastOutcome with
    | some st => statusCode st
    | none => 0
  layBytes 32 [(0, leBytes n 1), (1, leBytes (lfState s n) 1), (2, leBytes ((c.place.map (·.pol)).getD 255) 1), (3, leBytes (snapPhase s n) 1),
    (4, leBytes c.epoch.toNat 2), (6, leBytes seg 2), (8, leBytes (chanRetries s n) 1), (9, leBytes ((c.place.map (·.pass)).getD 0) 1),
    (10, leBytes out 2), (12, leBytes c.lastBeat.toNat 8), (20, leBytes c.faultFlags.toNat 1), (21, leBytes c.consec 1)]

def snapSlotEnt (s : State) (l : LaneId) (m : Nat) : List Byte :=
  let x := getLane s l
  let e := laneSlot x m
  let here := decide (l = .a) || laneBHolds s
  let q := bitOf (reg s (.qmask (m / 32))) (m % 32) && enrolled s m
  let tol := here && q && (toleratedSlots s x).contains m
  let cnt := here && q && (countedSlot s x m || tol)
  layBytes 16 [(0, leBytes m 1), (1, leBytes (slotStCode e.st) 1), (2, leBytes (b2n e.mismatch + 2 * b2n cnt + 4 * b2n tol + 8 * b2n here) 1),
    (4, leBytes e.cause.toNat 2), (8, leBytes e.lastOk.toNat 8)]

def snapPol (s : State) (n : Nat) : List Byte :=
  let p := getPol s n
  layBytes 64 [(0, leBytes n 1), (1, leBytes (polStCode p.st) 1), (2, leBytes (passChans s n) 1), (3, leBytes (polChans s n).length 1),
    (4, leBytes (inFlight s n) 1), (5, leBytes p.fault.toNat 1), (6, leBytes p.fcnt 1),
    (7, leBytes (b2n (decide (s.lf.spare = some n)) + 2 * b2n (s.lf.auto && (polChans s n).any fun c => decide (2 ≤ ((getChan s c).place.map (·.pass)).getD 0))) 1),
    (8, leBytes (bitMask (polChans s n)) 12), (20, leBytes (reg s (.pldCfg n)).toNat 4), (24, leBytes (reg s (.airCfg n)).toNat 4)]

def queueRec (head tail st flags size tail8 : Nat) : List Byte :=
  layBytes 16 [(0, leBytes head 2), (2, leBytes tail 2), (4, leBytes st 1), (5, leBytes flags 1), (6, leBytes size 2), (8, leBytes tail8 1)]

def snapQueues (s : State) : List Byte :=
  let sq := (List.range 16).flatMap fun n =>
    let q := getSq s n
    queueRec q.head q.tail (sqStCode q.st) 0 (if q.st = .disabled then 0 else ringSize q.size) q.cq
  let cq := (List.range 16).flatMap fun n =>
    let q := getCq s n
    queueRec q.head q.tail (b2n q.active) (b2n q.phase + 2 * b2n (!q.held.isEmpty)) (if q.active then ringSize q.size else 0) q.held.length
  let e := s.ring.eq
  sq ++ cq ++ queueRec e.head e.tail (b2n e.active) (b2n e.phase + 4 * b2n e.overflow) (if e.active then ringSize e.size else 0) 0

/-- One sluice's record of R207. -/
def sluRec (s : State) (n : Nat) : List Byte :=
  let x := laneSl s.slu.a n
  let o := getOut s n
  let bst := if laneDead s .b then 255 else sluState s .b n
  layBytes 32 [(0, leBytes n 1), (1, leBytes (sluState s .a n) 1), (2, leBytes bst 1),
    (3, leBytes (b2n x.policy + 2 * b2n x.hard + 4 * b2n o.latched + 8 * b2n o.takeA + 16 * b2n o.takeB) 1), (4, leBytes x.cause 2),
    (6, leBytes (fld (viewSluStatus s n) 6 6) 2), (8, leBytes (x.leftUs / 1000) 4), (12, leBytes (x.counted % 128 + x.tolerated % 128 * 2 ^ 8) 4),
    (16, leBytes o.changeBeat.toNat 8)]

def sluReport (s : State) : List Byte := sluList.flatMap (sluRec s)

/-- The output of a SNAPSHOT with a section mask (R60, R61). -/
def snapshotBytes (s : State) (m : Nat) : List Byte :=
  let sec := fun (i : Nat) (f : Unit → List Byte) => if m.testBit i then f () else []
  let body := sec 0 (fun _ => snapRegs s) ++ sec 1 (fun _ => allChans.flatMap (snapChan s)) ++
    sec 2 (fun _ => allChans.flatMap fun c => snapSlotEnt s .a c ++ snapSlotEnt s .b c) ++ sec 3 (fun _ => polList.flatMap (snapPol s)) ++
    sec 4 (fun _ => ledgerReport s) ++ sec 5 (fun _ => sluReport s) ++ sec 6 (fun _ => snapQueues s)
  let doms := bitMask ((List.range 17).filter fun d => (getDom s d).on)
  let head := layBytes 64 [(0, leBytes s.clk.beat.toNat 8), (8, leBytes 0x4B5A9600 4), (12, leBytes (m % 128) 4), (16, leBytes doms 4),
    (20, leBytes (64 + body.length) 4), (28, leBytes glbInfo.toNat 4)]
  let crc := crc32c (toN (head ++ body))
  head.take 24 ++ leBytes crc 4 ++ head.drop 28 ++ body

end Sys2Proof.Machine
end

