-- ==== Sys2Proof/Machine/RegWrite.lean ====
section
/-! DEFINITION. Writes to the registers of BAR0 (R13, R15, R326, R329, R363, R364), and the accesses through the TAP, the PCIe
configuration space and the MSI-X table (R276, R321, R356).

Marked choices (log entries): DESIGN CHOICE 55, 75; DEDUCED 18, 33, 39, 41, 54; PRESUMED 11, 91. -/

namespace Sys2Proof.Machine

open Sys2Proof

/-! ### Writes that act at once -/

/-- Bits `lo` to `lo + n − 1` of a flag field after a W1C write. -/
def w1cField (old lo n : Nat) (v : Word) : Nat := (List.range n).foldl (fun a i =>
  if old.testBit i && !bitOf v (lo + i) then a + 2 ^ i else a) 0

/-- A flag after a W1C write of bit `i`. -/
def w1c (old : Bool) (v : Word) (i : Nat) : Bool := old && !bitOf v i

/-- CFG_CTL: HOLD and DISCARD act on arrival (R363). -/
def cfgCtl (s : State) (v : Word) : State :=
  let s1 := { s with cfg := { s.cfg with hold := bitOf v 0 } }
  if bitOf v 1 then { s1 with cfg := { s1.cfg with staged := [], imageSet := [], stageLost := true } } else s1

/-- CFG_SEAL_REF: a write clears DIRTY (R369). -/
def sealRefWrite (s : State) (v : Word) : State :=
  { s with cfg := { s.cfg with sealRef := v, dirty := false, sealFirstRef := false } }

/-- CFG_STATUS: STAGE_LOST, BASIC_DROP and RELOADED are W1C. -/
def cfgStatusWrite (s : State) (v : Word) : State :=
  { s with cfg := { s.cfg with stageLost := w1c s.cfg.stageLost v 3, basicDrop := w1c s.cfg.basicDrop v 4,
                               reloaded := w1c s.cfg.reloaded v 5 } }

/-- Q_HOLD: bits [16:3]. -/
def holdWrite (s : State) (v : Word) : State :=
  { s with ring := { s.ring with holdVotes := BitVec.ofNat 17 (fld v 3 14 * 8) } }

/-- BEAT_PTM_CTL (R324). -/
def ptmCtl (s : State) (v : Word) : State :=
  { s with ring := { s.ring with ptmAuto := bitOf v 0, ptmCapture := s.ring.ptmCapture || bitOf v 1 } }

/-- The registers of the Q block (R329, R333, R356, R357). -/
def writeQ (s : State) (off : Nat) (v : Word) : State :=
  if span off 0x800 0x900 then
    let n := (off - 0x800) / 16
    match off % 16 with
    | 0 => sqBase s n false v
    | 4 => sqBase s n true v
    | 8 => sqCfg s n v
    | _ => s
  else if span off 0x900 0xA00 then
    let n := (off - 0x900) / 16
    match off % 16 with
    | 0 => cqBase s n false v
    | 4 => cqBase s n true v
    | 8 => cqCfg s n v
    | _ => s
  else if span off 0xA80 0xAC0 then
    let n := (off - 0xA80) / 4
    setCq s n { getCq s n with cnt := fld v 0 8, time := fld v 8 10 }
  else match off with
    | 0xA00 => eqBase s false v
    | 0xA04 => eqBase s true v
    | 0xA08 => eqCfg s v
    | 0xA0C => { s with ring := { s.ring with eq := { s.ring.eq with overflow := w1c s.ring.eq.overflow v 30 } } }
    | 0xAC0 => { s with ring := { s.ring with eq := { s.ring.eq with cnt := fld v 0 8, time := fld v 8 10 } } }
    | 0xAC4 => { s with ring := { s.ring with eq := { s.ring.eq with mask := BitVec.ofNat 14 v.toNat } } }
    | 0xB00 =>
      { s with ring := { s.ring with dbRange := w1c s.ring.dbRange v 0, dbDisabled := w1c s.ring.dbDisabled v 1,
                                     cfgBusy := w1c s.ring.cfgBusy v 2, cfgBad := w1c s.ring.cfgBad v 3,
                                     fetchErr := w1c s.ring.fetchErr v 4 } }
    | 0xB04 => holdWrite s v
    | _ => s

/-- The flags of a sluice: OPEN_LOAD, OVERCURRENT, OVERTEMP and SW_STUCK. -/
def sluStatusWrite (s : State) (n : Nat) (v : Word) : State :=
  let o := getOut s n
  setOut s n { o with openLoad := w1c o.openLoad v 6, overcurrent := w1c o.overcurrent v 7, overtemp := w1c o.overtemp v 8,
                      swStuck := w1c o.swStuck v 9 }

/-- SLU_TAMP_STAT: a 1 clears a latched bit only while its PIN bit reads 0. -/
def tampWrite (s : State) (v : Word) : State :=
  let clear := BitVec.ofNat 4 (fld v 4 4) &&& ~~~(tampPins s)
  { s with slu := { s.slu with tampActive := s.slu.tampActive &&& ~~~clear } }

/-- The registers outside the Q block that a write acts on at once. -/
def writeFlags (s : State) (off : Nat) (v : Word) : State :=
  if span off 0x1000 0x1800 then
    let n := (off - 0x1000) / 0x100
    if off % 0x100 = 8 then modPol s n fun p => { p with fault := BitVec.ofNat 4 (w1cField p.fault.toNat 0 4 v) } else s
  else if span off 0x2000 0x3800 then
    let n := (off - 0x2000) / 0x40
    match (off - 0x2000) % 0x40 with
    | 0x14 => modChan s n fun c => { c with wrDropped := w1c c.wrDropped v 6 }
    | 0x18 => modChan s n fun c => { c with faultFlags := BitVec.ofNat 8 (w1cField c.faultFlags.toNat 0 8 v) }
    | _ => s
  else if span off 0x4800 0x4840 then (if off % 16 = 8 then sluStatusWrite s ((off - 0x4800) / 16) v else s)
  else match off with
    | 0x410 => ptmCtl s v
    | 0x1804 => { s with lf := { s.lf with fixedLimit := w1c s.lf.fixedLimit v 12, wrDropped := w1c s.lf.wrDropped v 13 } }
    | 0x4004 => { s with rad := { s.rad with clamped := w1c s.rad.clamped v 7 } }
    | 0x4860 => tampWrite s v
    | 0x4870 => { s with slu := { s.slu with disagree := w1c s.slu.disagree v 12 } }
    | 0x501C => { s with mtr := { s.mtr with iOvr := w1c s.mtr.iOvr v 2, vOvr := w1c s.mtr.vOvr v 3 } }
    | 0x5088 => { s with ldg := { s.ldg with consErr := w1c s.ldg.consErr v 6, copyFix := w1c s.ldg.copyFix v 7,
                                             loss := w1c s.ldg.loss v 9 } }
    | 0x6800 => { s with lcy := { s.lcy with optFixed := w1c s.lcy.optFixed v 11 } }
    | 0x7004 => requestSleep s (fld v 0 2)
    | 0x7014 => setPwr s fun p => { p with rampFail := w1c p.rampFail v 5 }
    | 0x7020 => setPwr s fun p => { p with rstHist := BitVec.ofNat 11 (w1cField p.rstHist.toNat 0 11 v) }
    | 0x7038 => setPwr s fun p => { p with alarm := v }
    | 0x703C => setPwr s fun p => { p with vaonWarn := w1c p.vaonWarn v 16, vflWarn := w1c p.vflWarn v 17,
                                           vcoreWarn := w1c p.vcoreWarn v 18 }
    | 0x7800 => cfgCtl s v
    | 0x7804 => cfgStatusWrite s v
    | 0x7808 => sealRefWrite s v
    | _ => s

/-- A write that takes effect: staged, in the meter's pending copy, or at once. -/
def writeNow (s : State) (off : Nat) (v : Word) : State :=
  if optB (regOf off) then stageWrite s off v
  else if span off 0x800 0x1000 then writeQ s off v
  else writeFlags s off v

/-- The writes that a keeper restart holds back: the Q registers and CFG_CTL (R364). -/
def keeperWrites (off : Nat) : Bool := span off 0x800 0x1000 || decide (off = 0x7800)

/-- A dword of the MSI-X table with the bytes that are enabled replaced. -/
def mergeBytes (old v : Word) (be : BitVec 4) : Word :=
  let m := (List.range 4).foldl (fun a i => if be.getLsbD i then a + 255 * 2 ^ (8 * i) else a) 0
  let k := BitVec.ofNat 32 m
  (old &&& ~~~k) ||| (v &&& k)

/-- A dword write to BAR0 on one path (R326, R379, R412, R429). -/
def writeReg (s0 : State) (p : Path) (off : Nat) (v : Word) (be : BitVec 4) : State :=
  if !pathOpen s0 p then s0
  else
    let s := dozeLeave s0
    if span off 0xF000 0xF200 then
      msixWrite s ((off - 0xF000) / 16) (off % 16 / 4) (mergeBytes (viewMsix s off) v be)
    else if inSpillway s && !recovery off true then s
    else match poweredOff s off with
      | some d => noteOff s off d
      | none =>
        if be ≠ 15#4 ∨ homeOf off = none then s
        else if s.flt.restarting ∧ keeperWrites off then deferAccess s (0x10000 + off) v
        else writeNow s off v

/-- A host write of a whole dword. -/
def hostWrite (s : State) (off : Nat) (v : Word) : State := writeReg s .host off v 15#4

/-- A read row: nothing where the path is closed. -/
def readRow (s : State) (p : Path) (off : Nat) : State := if pathOpen s p then readReg s p off else s

/-- The accesses that a keeper restart held back are acted on, oldest first (R24). -/
def runDeferred (s : State) : State :=
  s.ring.deferred.foldl (fun s d => if 0x10000 ≤ d.1 then writeNow s (d.1 - 0x10000) d.2 else ringDoorbell s d.1 d.2)
    { s with ring := { s.ring with deferred := [] } }

/-! ### The TAP (R276) -/

/-- A flash area that AUTH_OPEN may read: firmware, configuration, counter ring, checkpoints, journal. -/
def areaOpen (area : Nat) : Bool := area = 0 || area = 1 || area = 3 || area = 5 || area = 6

/-- A flash write of the debug port in OPEN (R276). The areas are those of the main array, so the option sector is outside. -/
def flashPoke (s : State) (area addr : Nat) (v : Byte) : State :=
  { s with fl := { s.fl with dbgBytes := smIns s.fl.dbgBytes (area + 8 * addr) v } }

/-- Entry of a production test mode zeroes key RAM: no node is LOADED until the session closes, and its closing reloads them all
(R275). -/
def testModeNow (s : State) : State :=
  { s with lcy := { s.lcy with testMode := true },
           key := { s.key with nodes := s.key.nodes.map fun p => (p.1, { p.2 with loaded := false }) } }

/-- EXTEST drives the boundary-scan register: while no sluice is armed; otherwise it acts as BYPASS. -/
def extestDrives (s : State) : Bool := decide (s.lcy.tapInst = .extest) && decide (armedMask s = 0)

/-- An instruction of IEEE 1149.1; EXTEST with a sluice armed is taken as BYPASS. -/
def tapLoad (s : State) (i : TapInst) : State :=
  let i1 := if i = .extest ∧ armedMask s ≠ 0 then .bypass else i
  { s with lcy := { s.lcy with tapInst := i1 } }

/-- A byte of keeper memory as the debug port reads it: the one that the port wrote last, else a free value (log entry 55). -/
def keeperByteAt (s : State) (addr : Nat) : Byte := (smFind s.lcy.keeperMem addr).getD (Config.keeperByte addr)

/-- IDCODE of the TAP: manufacturer, part and the stepping letter of GLB_INFO (R459). -/
def tapIdcode : Word := packW [(0, 1, 1), (1, 11, 0x52D), (12, 16, 0x9600), (28, 4, Config.stepping.toNat / 16)]

/-- JTAG_TAP_ACCESS (R276). What a read returns goes to `rdata`. A step of a halted keeper runs one of its instructions, of
which the manual says nothing (log entry 55). -/
def tapAccess (s : State) (op : TapOp) : State :=
  let auth := decide (s.lcy.dbg ≠ .locked)
  let full := decide (s.lcy.dbg = .opn)
  match op with
  | .bypass => tapLoad s .bypass
  | .idcode => putRdata (tapLoad s .idcode) tapIdcode
  | .samplePreload => tapLoad s .samplePreload
  | .extest => tapLoad s .extest
  | .readDbgStatus => putRdata s (viewKey s 0x6840)
  | .readGlbId => putRdata s 0x4B5A9600#32
  | .barRead off => if auth then readReg s .debug (off.toNat / 4 * 4) else s
  | .barWrite off v => writeReg s .debug (off.toNat / 4 * 4) v 15#4
  | .flashRead area addr =>
    if full || (auth && areaOpen area.val) then putRdata (dozeLeave s) (BitVec.ofNat 32 (flashByteAt s area.val addr).toNat) else s
  | .flashWrite area addr v => if full then flashPoke (dozeLeave s) area.val addr v else s
  | .keeperHalt => if full then { s with lcy := { s.lcy with keeperHalted := true } } else s
  | .keeperResume => if full then { s with lcy := { s.lcy with keeperHalted := false } } else s
  | .keeperStep => if full then dozeLeave s else s
  | .keeperRead addr => if full then putRdata (dozeLeave s) (BitVec.ofNat 32 (keeperByteAt s addr).toNat) else s
  | .keeperWrite addr v =>
    if full then
      let s1 := dozeLeave s
      { s1 with lcy := { s1.lcy with keeperMem := smIns s1.lcy.keeperMem addr v } }
    else s
  | .testMode => if full then testModeNow s else s

/-! ### PCIe configuration space (R321, R322, R460) -/

/-- The function answers configuration requests with its registers, from STARTED on or in spillway mode. -/
def configReady (s : State) : Bool := decide (s.pwr.phase = .started) || inSpillway s

/-- Places of the registers that the model needs, in dwords: the command register, the power-management status, the device
control of the PCIe capability and the MSI-X message control. The manual leaves the capability layout to the base
specification: PRESUMED (log entry 11). -/
def cfgCommand : Nat := 1
def cfgPmcsr : Nat := 17
def cfgDevCtl : Nat := 30
def cfgMsix : Nat := 44

/-- A configuration dword: identification from R321 and the option bytes, what the state holds, the rest as written or as the
base specification has it. -/
def configWord (s : State) (r : Nat) : Word :=
  let d := match smFind s.ring.pcieRegs r with
    | some w => w
    | none => Config.pcieConfigDword r
  if r = 0 then 0x96001E5D#32
  else if r = cfgCommand then (d &&& 0xFFFFFFF9#32) ||| packW [(1, 1, b2n s.ring.memEn), (2, 1, b2n s.ring.bme)]
  else if r = 2 then packW [(0, 8, Config.stepping.toNat), (8, 24, 0x108000)]
  else if r = 11 then packW [(0, 16, s.fl.opts.ssvid.toNat), (16, 16, s.fl.opts.ssid.toNat)]
  else if r = cfgPmcsr then setFld d 0 2 (if s.ring.d3hot then 3 else 0)
  else if r = cfgMsix then setFld d 30 2 (b2n (s.ring.msixCtl.getLsbD 1) + 2 * b2n (s.ring.msixCtl.getLsbD 0))
  else d

/-- A write to a configuration dword; D1 and D2 are not supported (R322), and a device control with bit 15 set is an FLR
(R354). -/
def configWrite (s : State) (r : Nat) (v : Word) : State :=
  if r = 0 ∨ r = 2 ∨ r = 11 then s
  else
    let s1 := { s with ring := { s.ring with pcieRegs := smIns s.ring.pcieRegs r v } }
    if r = cfgCommand then setBme { s1 with ring := { s1.ring with memEn := bitOf v 1 } } (bitOf v 2)
    else if r = cfgPmcsr then
      (if fld v 0 2 = 3 then { s1 with ring := { s1.ring with d3hot := true } }
       else if fld v 0 2 = 0 then { s1 with ring := { s1.ring with d3hot := false } } else s1)
    else if r = cfgMsix then
      sendPending { s1 with ring := { s1.ring with msixCtl := packW [(0, 1, b2n (bitOf v 31)), (1, 1, b2n (bitOf v 30))] |>.setWidth 2 } }
    else if r = cfgDevCtl ∧ bitOf v 15 then functionReset s1
    else s1

/-- PCIE_CONFIG_ACCESS: Request Retry Status until STARTED, which changes nothing; then a read or a write. -/
def configAccess (s : State) (r : Nat) (write : Option Word) : State :=
  if !domReady s dLINK || s.pwr.perst || !configReady s then s
  else match write with
    | none => putRdata s (configWord s r)
    | some v => configWrite s r v

end Sys2Proof.Machine
end

