-- ==== Sys2Proof/Machine/Beat.lean ====
section
/-! DEFINITION. BEAT_BOUNDARY: the actions of a boundary in the order of R33, and the evaluations of the lanes that fall at a
boundary of their own (R191, R192, R195).

Marked choices (log entries): DESIGN CHOICE 4, 5; DEDUCED 6, 20, 21, 35, 40, 47, 60, 77, 82. -/

namespace Sys2Proof.Machine

open Sys2Proof

/-! ### The beat that ends -/

/-- The bank monitors at the boundary (R92, R93); a bank the lists do not name keeps its last values. -/
def senseBanks (s : State) (b : BeatIn) : State :=
  (List.range 4).foldl (fun s k => match b.vdrv[k]?, b.temp[k]? with
    | some v, some t => bankTemp (bankSupply s k v) k t
    | _, _ => s) s

/-- What ends with the beat: error beats of the bank links (R417), telegrams on air (R187), the LF part of a LOCATE (R175). -/
def beatEnds (s : State) (b : BeatIn) : State :=
  let us := s.clk.nowUs + beatUs s
  let s1 := (List.range 4).foldl linkBeat (senseBanks s b)
  (locOver s1 us).foldl locLfEnd (txEnd s1 us)

/-! ### Step 1: the count -/

/-- BEAT_COUNT becomes k; the time and the RTC advance by the length of the beat that ended (R31, R392). -/
def countBeat (s : State) : State :=
  let us := beatUs s
  { s with clk := { s.clk with beat := s.clk.beat + 1, nowUs := s.clk.nowUs + us,
                               rtcMicroTicks := s.clk.rtcMicroTicks + 32768 * us },
           flt := { s.flt with offPosted := 0 } }

/-- The boundary that CAPTURE waits for (R324). -/
def ptmStep (s : State) (ns : BitVec 64) : State :=
  if !s.ring.ptmCapture then s
  else if s.ring.ptmCtxValid then
    { s with ring := { s.ring with ptmCapture := false, ptmPairValid := true, ptmB := s.clk.beat, ptmT := ns } }
  else { s with ring := { s.ring with ptmCapture := false, ptmPairValid := false } }

/-! ### Step 2: staged writes -/

/-- A channel's calibration is gone, from use and from flash (R77). -/
def dropCal (s : State) (n : Nat) : State :=
  let s1 := modChan s n fun c => { c with cal := .none, calDue := none, detuneWarn := false }
  { s1 with fl := { s1.fl with cals := smDel s1.fl.cals n } }

/-- The tracked carrier goes to `f` within the window of FREQ, and DETUNE_WARN tells whether the window holds it (R72). -/
def retrack (s : State) (n f : Nat) : State :=
  modChan s n fun c => { c with ftrack := clipTrack s n f, detuneWarn := decide ((f : Int) < winLo s n) || decide (winHi s n < (f : Int)) }

/-- What a change of the drive settings of channel `n` does beyond its registers: GANG clears the calibration of the pair
(R77), FREQ and the tuning window move the tracked carrier (R72). `wrote`: FREQ was written. -/
def retuneChan (s0 s : State) (n : Nat) (wrote : Bool) : State :=
  let s1 := if n % 2 = 0 ∧ gangBit s0 n ≠ gangBit s n then dropCal (dropCal s n) (n + 1) else s
  let c := getChan s1 n
  if !c.cal.valid then s1
  else if wrote ∨ reg s0 (.lfcFreq n) ≠ reg s1 (.lfcFreq n) then retrack s1 n c.cal.fRes
  else if reg s0 (.lfcTune n) ≠ reg s1 (.lfcTune n) then retrack s1 n c.ftrack
  else s1

/-- Completes CONFIG_STAGE_IMAGE with the number of its entries accepted (R376). -/
def finishImage (s : State) (accepted : Nat) : State :=
  match s.cfg.imageUid with
  | none => s
  | some u =>
    let s1 := { s with cfg := { s.cfg with imageUid := none, imageSet := [] } }
    match findCmd s1 u with
    | some c => finishNow s1 c .ok accepted []
    | none => s1

/-- All staged writes take effect together, unless HOLD holds them (R362, R363). -/
def stagedStep (s : State) : State :=
  if s.cfg.hold then s
  else
    let taken := s.cfg.imageSet.filter fun o => optB (smFind s.cfg.staged o)
    let x := takeStaged s
    let y := applySet x.1 x.2
    let s1 := y.2.2.foldl (fun s p => assignWrite s ((p.1 - 0x1840) / 4) p.2) y.1
    let freq := x.2.map (·.1) |>.filter fun o => !y.2.1.contains o
    let s2 := if x.2.isEmpty then s1
      else allChans.foldl (fun a n => retuneChan s a n (freq.contains (offOf (.lfcFreq n)))) s1
    let s3 := if x.2.any fun p => inMeterSet p.1 && !y.2.1.contains p.1 then
        stageMeterCfg s2 (crcWords (meterSet.map (reg s2))) 0
      else s2
    finishImage s3 (taken.filter fun o => !y.2.1.contains o).length

/-- CONFIG_COMMIT captures the active values of the sealed set (R375), one commit at a time. -/
def commitStep (s : State) : State :=
  if !keeperUp s ∨ optB s.fl.commitCap then s
  else match s.ring.cmds.find? fun c => decide (c.st = .running) && decide (descOpcode c.desc = 0x71) with
    | none => s
    | some c =>
      { s with fl := { s.fl with commitCap := some (c.uid, s.clk.beat, (sealSet s).map fun o => (o, sealedValue s o)) } }

/-- Step 2 of R33, with what the chapters place at it: reloads, staged writes, retirements, calibrations, placement, the
level, and the requests judged at a boundary. -/
def stepTwo (s : State) : State :=
  let s1 := freeInvalid (if domReady s dKEEPER then commitStep (stagedStep (sealReloadNow (sealLimitNow s))) else s)
  let s2 := dropMarks (applyDueChanges (levelStep (allChans.foldl calCommit (retireStep s1))))
  let s3 := staleStep (enCheck s2)
  let s4 := if s3.pwr.phase = .started then placementStep s3
    else if s3.pwr.phase = .starting then polList.foldl polUp s3 else s3
  advanceBoundary (countIdle (judgeSleep (debugWindow (debugOpenNow s4))))

/-! ### Step 5: captures -/

/-- RESULT of SLUICE_STATUS (R207). -/
def sluResult (s : State) : Nat :=
  releasedMask s + 16 * armedMask s + 256 * bitMask (sluList.filter fun n => decide (sluState s (viewLane s) n = 3)) +
    4096 * b2n s.slu.dhold + 8192 * b2n (decide (s.slu.a.st = .active)) + 16384 * b2n (decide (s.slu.b.st = .active))

/-- A report command's output: none where LEN_OUT is 0. -/
def reportOut (c : Cmd) (l : List Byte) : List Byte := if descLenOut c.desc = 0 then [] else l

/-- A command whose capture point this boundary is (R60, R207, R244, R245). -/
def captureCmd (s : State) (c : Cmd) : State :=
  if c.st ≠ .running then s
  else if descOpcode c.desc = 0x02 then finishBytes s c (snapshotBytes s (fld c.desc.dw8 0 7))
  else if descOpcode c.desc = 0x31 then finishNow s c .ok (sluResult s) (reportOut c (sluReport s))
  else if descOpcode c.desc = 0x41 then finishBytes s c (reportOut c (ledgerReport s))
  else if descOpcode c.desc = 0x42 then
    if engineFailed s then failCmd s c .abortedStop
    else if keyBusy s then s
    else if !kcHeld s then failCmd s c .keyInvalid
    else
      let x := statement s (lo64 c.desc.dw9 c.desc.dw10)
      finishBytes x.1 c (reportOut c x.2)
  else s

def captureStep (s : State) : State := if keeperUp s then s.ring.cmds.foldl captureCmd s else s

/-! ### The boundary -/

/-- LTR: 1 ms while no SQ holds an unfetched descriptor and nothing waits to be written, 50 µs otherwise (R323); sent where it
changes. -/
def ltrStep (s : State) : State :=
  let idle := ((List.range 16).all fun n => decide ((getSq s n).head = (getSq s n).tail) || decide ((getSq s n).st ≠ .active)) &&
    ((List.range 16).all fun n => (getCq s n).held.isEmpty) && s.ring.heldOut.isEmpty && s.ring.restartEv.isEmpty &&
    s.ring.restartCp.isEmpty
  let us := if idle then 1000 else 50
  if !domReady s dLINK || !s.ring.linkUp || s.ring.ltr == us then s
  else { s with ring := { s.ring with ltr := us, out := s.ring.out ++ [.ltr us] } }

/-- Steps 3 to 7 of R33. -/
def boundaryRest (s : State) (c : MeterCfg) (b : BeatIn) : State :=
  let s1 := settleDue (if domReady s dMETER then ledgerStep s c b.bits
    else if s.ldg.st = .active ∨ s.ldg.st = .closing then countStop s else s)
  let s2 := finishSets (laneStep s1)
  let s3 := leveeStep (captureStep s2)
  let s4 := if domReady s3 dKEEPER && s3.pwr.tc then sealStep s3 else s3
  countDoze (ltrStep (heldReplies s4))

/-- The boundary of the beat in progress has been carried out. -/
def closeBoundary (s : State) : State := { s with clk := { s.clk with acted := s.clk.beat } }

/-- BEAT_BOUNDARY (R33). While POR is held the device counts nothing; in SLEEP and HIBERNATE only AON counts (R31). -/
def beatBoundary (s : State) (b : BeatIn) : State :=
  if s.pwr.porHeld then s
  else if asleep s then countBeat s
  else
    let c := meterCfg s
    closeBoundary (boundaryRest (stepTwo (ptmStep (countBeat (beatEnds s b)) b.ptmNs)) c b)

/-! ### Evaluations with a row of their own -/

/-- Takes each living lane's policy, cause and counts anew from the terms as they stand; releases and leases stay. -/
def reviewLane (s : State) (l : LaneId) (n : Nat) : State :=
  if laneDead s l then s
  else
    let x := getLane s l
    let d := (decideSl s x n).sl
    setLane s l (setLaneSl x n { laneSl x n with policy := d.policy, hard := d.hard, cause := d.cause, counted := d.counted,
                                                 tolerated := d.tolerated })

def reviewLanes (s : State) : State := sluList.foldl (fun s n => reviewLane (reviewLane s .a n) .b n) s

/-- VERIFICATION_AGE_OUT: a VERIFIED slot older than SLU_VPER counts no more (R191). -/
def slotAged (s : State) (ch : Nat) : State :=
  let e := laneSlot (getLane s (viewLane s)) ch
  if e.st = .verified ∧ 100000 * regF s .vper 0 13 < slotAge s e.okUs then reviewLanes s else s

/-- TOKEN_AGE_OUT: a validated-token entry older than SLU_TOKEN_WIN qualifies no more (R192). -/
def tokenAged (s : State) (rg : Nat) : State :=
  if (getLane s (viewLane s)).toks.any fun t => decide (t.reg = rg) && decide (1000000 * regF s .tokenWin 0 10 < slotAge s t.us)
  then reviewLanes s else s

/-- LEASE_EXPIRY: the lease of a released sluice runs out at this evaluation (R195). -/
def leaseExpire (s : State) (n : Nat) : State :=
  let l := getLane s (viewLane s)
  let x := laneSl l n
  if x.released && !s.slu.withdrawDue.getLsbD n && decide (x.leftUs ≠ 0) && decide ((decideSl s l n).sl.leftUs = 0) then
    let old := sluStates s
    postSluChanges (evalSluice s n) old
  else s

end Sys2Proof.Machine
end

