-- ==== Sys2Proof/Machine/HostLf.lean ====
section
/-! DEFINITION. The host commands that run on LF channels and polders: SWEEP, AUTH_TOKEN, LOCATE, ENROL, REKEY_TOKEN,
CAL_CHANNEL and POLDER_CTL, and the end of a start with its sweep.

Marked choices (log entries): DEDUCED 45, 46, 48, 49, 63, 71. -/

namespace Sys2Proof.Machine

open Sys2Proof

/-! ### Checks that several commands share -/

def polField (d : Desc) : Nat := fld d.dw8 0 3
def chanField (d : Desc) : Nat := fld d.dw8 8 7
def maskChans (d : Desc) : List Nat := bitList (descMask96 d) 96
def tokenField (d : Desc) : BitVec 64 := BitVec.ofNat 64 (lo64 d.dw10 d.dw11)

/-- FIXED placement is in force and the descriptor's polder does not run (R151). -/
def polderNotRunning (s : State) (d : Desc) : Bool := !s.lf.auto && decide ((getPol s (polField d)).st ≠ .running)

/-- The polder that a descriptor assigns its channels to (R47). -/
def namedPol (d : Desc) : Option Nat := some (polField d)

/-- Why a channel named in a SWEEP is not run (R151): 1 DISABLED, 2 UNENROLLED, 3 UNASSIGNED; a retired channel runs into
R97 instead. A slot whose record is about to change is judged at the boundary of its start (R135). -/
def skipReason (s : State) (ch : Nat) (pol : Option Nat) (slot : Bool) : Option Nat :=
  if chanRetired s ch then none
  else if !chanEn s ch then some 1
  else if slot && !enrolled s ch && !(s.tok.changes.any fun c => c.recs.any fun p => p.1 == ch) then some 2
  else if !s.lf.auto && pol.isNone && (chanPol s ch).isNone then some 3
  else none

/-- Queues the transaction of one channel, or records why it is not run. -/
def launch (s : State) (c : Cmd) (ch : Nat) (pol : Option Nat) (kind : JobKind) (rg : Nat) : State :=
  match skipReason s ch pol (decide (kind = .sweep)) with
  | some r => authCmdStep (addRec s c.uid (notRunRec s ch r)) c.uid
  | none => enqueue s ch (newJob c.uid kind (descPrio c.desc) pol rg)

/-- One AUTH on each channel (R151). -/
def sweepOn (s : State) (c : Cmd) (chs : List Nat) (pol : Option Nat) : State :=
  chs.foldl (fun s ch => launch s c ch pol .sweep 4096) (putCmd s { c with left := chs.length })

/-! ### SWEEP -/

def sweepJudge (s : State) (c : Cmd) : Judge :=
  let chs := maskChans c.desc
  if (chs.any fun n => decide (roleOf s n ≠ 0) || gangSlave s n) || polderNotRunning s c.desc then .stop .opcodeUnsupported 0
  else if chs.isEmpty then .stop .ok 0
  else .go

def sweepRun (s : State) (c : Cmd) (_ : List Byte) : State := sweepOn s c (maskChans c.desc) (namedPol c.desc)

/-! ### AUTH_TOKEN (R152) -/

/-- The entry that an ADDRESSED AUTH_TOKEN names: of kind K, S or L. -/
def addressedEntry (s : State) (d : Desc) : Option Nat :=
  (findId s (tokenField d)).bind fun i => if (getReg s i).kind = 0 then none else some i

def authJudge (s : State) (c : Cmd) : Judge :=
  let ch := chanField c.desc
  let role := roleOf s ch
  if role = 2 ∨ gangSlave s ch ∨ polderNotRunning s c.desc then .stop .opcodeUnsupported 0 else .go

/-- A command for one token that ends without coil activity, in the one record of the command (R154): AUTH_FAIL for a token with
no entry, or in AUTH_TOKEN with one of kind M (R152, R156), KEY_USAGE_EXHAUSTED for a generation that is the last (R142). A
channel that is not run, or retired, comes first. -/
def unaddressed (s : State) (c : Cmd) (st0 : Status) (idx : Nat) (id : BitVec 64) : State :=
  let ch := chanField c.desc
  match skipReason s ch (namedPol c.desc) false with
  | some r => authCmdStep (addRec s c.uid (notRunRec s ch r)) c.uid
  | none =>
    let st : Status := if chanRetired s ch then .channelRetired else st0
    authCmdStep (addRec s c.uid
      { key := ch, status := some st, good := false, foreign := false, retried := false, migrated := false, beat := s.clk.beat,
        bytes := authRecBytes ⟨ch, slotByte s ch (roleOf s ch), statusCode st, 0, 0, 0, s.clk.beat, idx, 0, 0, id, 0⟩ }) c.uid

def authRun (s : State) (c : Cmd) (_ : List Byte) : State :=
  let ch := chanField c.desc
  let s1 := putCmd s { c with left := 1 }
  if roleOf s ch = 0 then launch s1 c ch (namedPol c.desc) .sweep 4096
  else if bitOf c.desc.dw8 3 then
    match addressedEntry s c.desc with
    | some i => launch s1 c ch (namedPol c.desc) .addressed i
    | none => unaddressed s1 c .authFail ((findId s (tokenField c.desc)).getD 0xFFFF) (tokenField c.desc)
  else launch s1 c ch (namedPol c.desc) .discover 4096

/-! ### REKEY_TOKEN (R156, R142) -/

/-- The entry to re-key: the slot's bound token, or the one named. -/
def rekeyEntry (s : State) (d : Desc) : Option Nat :=
  if roleOf s (chanField d) = 0 then (slotRec s (chanField d)).map (·.reg) else findId s (tokenField d)

def rekeyJudge (s : State) (c : Cmd) : Judge :=
  let ch := chanField c.desc
  if roleOf s ch = 2 ∨ gangSlave s ch ∨ polderNotRunning s c.desc ∨ (roleOf s ch = 0 ∧ !enrolled s ch) then
    .stop .opcodeUnsupported 0
  else .go

def rekeyRun (s : State) (c : Cmd) (_ : List Byte) : State :=
  let s1 := putCmd s { c with left := 1 }
  match rekeyEntry s c.desc with
  | none => unaddressed s1 c .authFail 0xFFFF (tokenField c.desc)
  | some i =>
    if (getReg s i).gen = 0xFFFF#16 then unaddressed s1 c .keyUsageExhausted i (getReg s i).id
    else launch s1 c (chanField c.desc) (namedPol c.desc) .rekey i

/-! ### LOCATE, LF part (R174, R125) -/

def locateJudge (s : State) (c : Cmd) : Judge :=
  let chs := maskChans c.desc
  if (chs.any fun n => decide (roleOf s n ≠ 2) || gangSlave s n) || polderNotRunning s c.desc then .stop .opcodeUnsupported 0
  else if chs.isEmpty then .stop .ok 0
  else if radioOff s then .stop .synthNotReady 0
  else if chs.all (chanRetired s) then .stop .channelRetired 0
  else .go

/-- The coils that are not retired queue one transaction, led by the lowest-numbered of them. -/
def locateRun (s : State) (c : Cmd) (_ : List Byte) : State :=
  let chs := (maskChans c.desc).filter fun n => !chanRetired s n
  let lead := chs.headD 0
  let s1 := chs.foldl (fun s n =>
    pushJob s n (newJob c.uid (.loc (decide (n = lead))) (descPrio c.desc) (namedPol c.desc) 4096)) s
  chs.foldl arm s1

/-! ### ENROL (R157, R158) -/

def enrolMode (d : Desc) : Nat := fld d.dw8 16 3
def enrolKind (d : Desc) : Nat := fld d.dw9 20 2

/-- A ROLES bit that the kind may not hold (R130). -/
def rolesBad (kind roles : Nat) : Bool :=
  decide ((if kind = 1 then 2 else if kind = 2 then 8 else if kind = 3 then 16 else 1) ≤ roles)

/-- A waiting change writes the entry of the token or the slot, so that this command waits for it (R135). -/
def enrolWaits (s : State) (d : Desc) : Bool :=
  let m := enrolMode d
  if m = 4 then s.tok.changes.any fun c => c.recs.any fun p => p.1 == chanField d
  else decide (2 ≤ m) && (sidWaits s (tokenField d) ||
    (match findId s (tokenField d) with
      | some i => (changing s).any fun p => p.1 == i
      | none => false))

/-- Checks of SLOT and KEY on the channel. -/
def enrolAirJudge (s : State) (d : Desc) : Judge :=
  let ch := chanField d
  let role := roleOf s ch
  let roleOk := if enrolMode d = 0 then decide (role = 0) else decide (role = 1) || decide (role = 3)
  if !roleOk || gangSlave s ch || !chanEn s ch || polderNotRunning s d then .stop .opcodeUnsupported 0xFFFF
  else if chanRetired s ch then .stop .channelRetired 0xFFFF
  else .go

def enrolJudge (s : State) (c : Cmd) : Judge :=
  let d := c.desc
  let m := enrolMode d
  let found := findId s (tokenField d)
  if (m = 1 ∨ m = 2) ∧ rolesBad (enrolKind d) (fld d.dw9 0 16) then .stop .opcodeUnsupported 0xFFFF
  else if m ≠ 5 ∧ (lcState s = 4 ∨ lcState s = 5 ∨ advancing s) then .stop .lifecycleDenied 0xFFFF
  else if m ≤ 1 then enrolAirJudge s d
  else if enrolWaits s d then .hold
  else if m = 2 then
    if enrolKind d = 3 then .stop .lifecycleDenied 0xFFFF
    else match findSid s (tokenField d), freeIndex s with
      | some i, _ => .stop .duplicate i
      | none, none => .stop .lengthErr 4096
      | none, some _ => .go
  else if (m = 3 ∨ m = 5) ∧ found.isNone then .stop .authFail 0xFFFF
  else .go

/-- The output of an ENROL: none where LEN_OUT is 0. -/
def enrolOut (d : Desc) (e r : List Byte) : List Byte := if descLenOut d = 0 then [] else e ++ r

/-- The slot record that an entry is bound to, as bytes. -/
def boundRec (s : State) (e : RegEntry) : List Byte :=
  match e.slot with
  | some ch => match slotRec s ch with
    | some r => recBytes ch r
    | none => List.replicate 32 0#8
  | none => List.replicate 32 0#8

/-- CFG_ENROL_PROGRESS of an air sequence that begins; with another one in progress it goes on showing that one (R377). -/
def enrolBegin (s : State) : State :=
  if s.cfg.enrolProg.active then s else { s with cfg := { s.cfg with enrolProg := ⟨0, 0, true⟩ } }

def enrolRun (s : State) (c : Cmd) (_ : List Byte) : State :=
  let d := c.desc
  let m := enrolMode d
  let ch := chanField d
  let i := (findId s (tokenField d)).getD 4096
  let e := getReg s i
  if m = 0 then
    enqueue (enrolBegin s) ch (newJob c.uid .enrolSlot (descPrio d) (namedPol d) 4096)
  else if m = 1 then
    enqueue (enrolBegin s) ch (newJob c.uid .enrolKey (descPrio d) (namedPol d) 4096)
  else if m = 2 then
    match freeIndex s with
    | none => s
    | some k =>
      let n := { RegEntry.free with id := tokenField d, kind := enrolKind d, st := .pending, fleet := fld d.dw9 16 3,
                                    roles := BitVec.ofNat 4 (fld d.dw9 0 4), sessRes := 1024 }
      addChange s ⟨[(k, n)], [], [], 2, k, 9, c.uid, true⟩
  else if m = 3 then
    let slots := e.slot.toList
    addChange s ⟨[(i, .free)], slots.map fun n => (n, none), slots.map fun n => (n, some false), 3, i, 9, c.uid, true⟩
  else if m = 4 then
    match slotRec s ch with
    | none => finishNow s c .ok 0xFFFF (enrolOut d (List.replicate 32 0#8) (List.replicate 32 0#8))
    | some r => addChange s ⟨[(r.reg, { getReg s r.reg with slot := none })], [(ch, none)], [(ch, some false)], 4, r.reg, 9, c.uid, true⟩
  else finishNow s c .ok i (enrolOut d (entryBytes e) (boundRec s e))

/-! ### CAL_CHANNEL (R74 to R79, R98) -/

/-- The channels to calibrate: either bit of a pair names the pair. -/
def calChans (s : State) (d : Desc) : List Nat := ((maskChans d).map (masterOf s)).eraseDups

def calJudge (_ : State) (c : Cmd) : Judge := if (maskChans c.desc).isEmpty then .stop .ok 0 else .go

/-- Why a channel is not calibrated: 2 RETIRED, 4 DISABLED, 6 UNASSIGNED. -/
def calSkip (s : State) (ch : Nat) (re : Bool) : Option Nat :=
  if linkRetired s ch || (chanRetired s ch && !re) then some 2
  else if !chanEn s ch then some 4
  else if !s.lf.auto && (chanPol s ch).isNone then some 6
  else none

def calOne (s : State) (c : Cmd) (ch : Nat) : State :=
  let level := fld c.desc.dw8 0 2
  let re := bitOf c.desc.dw8 3 && chanRetired s ch
  let j := newJob c.uid (.cal level (bitOf c.desc.dw8 2) re) (descPrio c.desc) none 4096
  match calSkip s ch re with
  | some o => calCmdStep (addRec s c.uid (calRec s ch o j none 0 false 0)) c.uid
  | none => enqueue s ch j

def calRun (s : State) (c : Cmd) (_ : List Byte) : State :=
  let chs := calChans s c.desc
  chs.foldl (fun s ch => calOne s c ch) (putCmd s { c with left := chs.length })

/-! ### POLDER_CTL (R55 to R58) -/

def ctlAction (d : Desc) : Nat := fld d.dw8 0 4
def ctlPolder (d : Desc) : Nat := fld d.dw8 4 3

/-- The precondition of an action. -/
def ctlAllowed (s : State) (d : Desc) : Bool :=
  let p := ctlPolder d
  let st := (getPol s p).st
  match ctlAction d with
  | 0 | 1 => decide (st = .running) || decide (st = .spare) || decide (st = .off)
  | 2 => decide (st = .stopped) || decide (st = .off)
  | 3 => decide (st = .stopped) || decide (st = .off) || (decide (st = .running) && (polChans s p).isEmpty)
  | 4 => !s.lf.auto && decide (st = .running)
  | 5 => s.lf.auto
  | _ => false

/-- The polder carries out one command at a time; a second one waits for its state. -/
def ctlJudge (s : State) (c : Cmd) : Judge :=
  let d := c.desc
  let p := getPol s (ctlPolder d)
  if 5 < ctlAction d ∨ 4 < ctlPolder d then .stop .opcodeUnsupported (polStCode p.st)
  else if (ctlAction d ≤ 3 ∧ optB p.cmdUid) ∨ (ctlAction d = 5 ∧ optB s.lf.rebalUid) then .hold
  else if !ctlAllowed s d then .stop .opcodeUnsupported (polStCode p.st)
  else .go

def ctlRun (s : State) (c : Cmd) (_ : List Byte) : State :=
  let d := c.desc
  let p := ctlPolder d
  let x := getPol s p
  match ctlAction d with
  | 0 => setPol s p { x with cmdUid := some c.uid, stopDue := true, stopNow := false }
  | 1 => setPol s p { x with cmdUid := some c.uid, stopDue := true, stopNow := true }
  | 2 => setPol s p { x with cmdUid := some c.uid, st := .starting, makeSpare := false }
  | 3 =>
    if x.st = .running then setPol s p { x with cmdUid := some c.uid, makeSpare := true, upDue := true }
    else setPol s p { x with cmdUid := some c.uid, st := .starting, makeSpare := true }
  | 4 => ((maskChans d).map (masterOf s)).eraseDups.foldl (fun s ch => askMove s ch p) s
  | 5 => { s with lf := { s.lf with rebalUid := some c.uid } }
  | _ => s

/-! ### START_COMPLETE (R399, R403) -/

/-- The ledger is as STARTED requires it. -/
def ledgerAtStart (s : State) : Bool :=
  let lc := lcState s
  if optB s.fl.newTicket then domReady s dMETER
  else if 1 ≤ lc ∧ lc ≤ 3 then decide (s.ldg.st = .active)
  else decide (s.ldg.st = .off) || decide (s.ldg.st = .closed)

def banksAtStart (s : State) : Bool :=
  (List.range 4).all fun b => !s.pwr.startVotes.getLsbD (13 + b) || (getBank s b).linkRetired || (getBank s b).ready

def polsAtStart (s : State) : Bool :=
  polList.all fun p => decide ((getPol s p).st ≠ .starting) && decide ((getPol s p).st ≠ .faulted)

def startReady (s : State) : Bool :=
  decide (s.pwr.phase = .starting) && s.pwr.tc && keeperUp s && polsAtStart s && banksAtStart s && ledgerAtStart s

def zeroDesc : Desc := ⟨0, 0, 0, 0, 0, 0, 0, 0, 0, 0, 0, 0, 0, 0, 0, 0⟩

/-- The sweep of a start: every enrolled MODULE_SLOT channel, held by no queue (R403). -/
def startSweep (s : State) : State :=
  let chs := allChans.filter fun c => decide (roleOf s c = 0) && enrolled s c && !gangSlave s c
  let c : Cmd := { uid := s.ring.nextUid, sq := 16, desc := { zeroDesc with dw0 := 0x10#32 }, st := .running, fetchBeat := s.clk.beat, fetchUs := s.clk.nowUs,
                   outOk := true, recs := [], left := 0, count := 0, flag := false, bytes := [], voted := false }
  let s1 := { s with ring := { s.ring with nextUid := s.ring.nextUid + 1, cmds := s.ring.cmds ++ [c] } }
  if chs.isEmpty then s else sweepOn s1 c chs none

/-- STARTED is reached: full placement, the failed-start counter cleared, the start sweep. -/
def startComplete (s : State) : State :=
  if !startReady s then s
  else
    let s1 := updateMode s
    let s2 := (fullPlacement s1 (runningPols s1)).foldl (fun s p => moveChan s p.1 p.2) s1
    let s3 := { s2 with lf := { s2.lf with rebalDue := false }, fl := { s2.fl with failedStarts := 0 },
                        pwr := { s2.pwr with phase := .started, startVotes := 0 } }
    if regB s3 .pwrCfg 1 then startSweep s3 else s3

end Sys2Proof.Machine
end

