-- ==== Sys2Proof/Machine/HostRad.lean ====
section
/-! DEFINITION. The host commands of the radio: RADIO_TX, RADIO_RX_WINDOW and RANGE (R186 to R188).

Marked choices (log entries): DEDUCED 53, 63. -/

namespace Sys2Proof.Machine

open Sys2Proof

/-! ### RADIO_TX -/

def radioJudge (s : State) (_ : Cmd) : Judge := if radioOff s then .stop .synthNotReady 0 else .go

/-- The telegram waits for its turn; its TYPE is byte 0 of the input. -/
def txRun (s : State) (c : Cmd) (inp : List Byte) : State :=
  let d := c.desc
  if leAt inp 0 1 < 0x80 then failCmd s c .opcodeUnsupported
  else
    let rate := fld d.dw8 8 3
    let a := newAct c.uid .tx (descPrio d) (fld d.dw8 0 6) rate (fld d.dw8 12 2) (sgn 8 (fld d.dw8 16 8))
    pushAct (putCmd s { c with bytes := inp }) { a with coexPrio := bitOf d.dw8 24, airUs := telegramUs inp.length rate }

/-! ### RADIO_RX_WINDOW -/

def windowMs (d : Desc) : Nat := fld d.dw9 0 24

def windowJudge (s : State) (c : Cmd) : Judge :=
  if radioOff s then .stop .synthNotReady 0 else if windowMs c.desc = 0 then .stop .ok 0 else .go

def windowRun (s : State) (c : Cmd) (_ : List Byte) : State :=
  let d := c.desc
  let a := newAct c.uid .window (descPrio d) (fld d.dw8 0 6) (fld d.dw8 8 3) (fld d.dw8 12 2) 0
  pushAct s { a with polder := pickPolder s (fld d.dw8 24 3) }

/-! ### RANGE -/

def rangeNt (s : State) (d : Desc) : Nat := let n := fld d.dw8 8 6; if n = 0 then radNt s else n

/-- The checks of R186 in their order. -/
def rangeJudge (s : State) (c : Cmd) : Judge :=
  if radioOff s then .stop .synthNotReady 0
  else if (planOf s).isNone then .stop .regLimit 0
  else match addressedEntry s c.desc with
    | none => .stop .authFail 0
    | some i => match keyCheck s i with
      | some st => .stop st 0
      | none => if keyBusy s then .hold else if (heardOf s i).isNone then .stop .noResponse 0 else .go

def rangeRun (s : State) (c : Cmd) (_ : List Byte) : State :=
  let d := c.desc
  let p := pickPolder s (polField d)
  pushAct s (rangeAct s c.uid (descPrio d) ((addressedEntry s d).getD 4096) (rangeNt s d) p false false 0)

/-- What a refusal leaves behind: RAD_CNT_2, or the entry EXHAUSTED (R139, R167). -/
def rangeRefused (s : State) (sq : Nat) : State :=
  if !keeperUp s then s
  else match oldestCmd s sq 0x22 with
    | none => s
    | some c => match rangeJudge s c with
      | .stop .regLimit _ => bumpRad s 2
      | .stop .keyUsageExhausted _ =>
        keyRefused s ((addressedEntry s c.desc).getD 4096) (pickPolder s (polField c.desc)) .keyUsageExhausted
      | _ => s

/-- RANGE's row. -/
def rangeRow (s : State) (sq : Nat) (m : HostMem) : State := runCmd (rangeRefused s sq) sq 0x22 m rangeJudge rangeRun

end Sys2Proof.Machine
end

