-- ==== Sys2Proof/Machine/HostSys.lean ====
section
/-! DEFINITION. The host commands of the device itself: NOP, SNAPSHOT, the sluices, the ledger, the journal, the configuration,
keeper images, RESTART, LIFECYCLE_ADVANCE and DEBUG_UNLOCK, with the end of flash writes and of a keeper restart.

Marked choices (log entries): DEDUCED 18, 40, 54, 59, 67, 68, 72, 73. -/

namespace Sys2Proof.Machine

open Sys2Proof

def always (_ : State) (_ : Cmd) : Judge := .go

/-- The body of a command that a later row completes. -/
def runs (s : State) (_ : Cmd) (_ : List Byte) : State := s

/-! ### NOP (R343) -/

/-- NOP waits until it is its SQ's oldest uncompleted command. -/
def nopJudge (s : State) (c : Cmd) : Judge :=
  if s.ring.cmds.any fun x => x.sq == c.sq && decide (x.uid < c.uid) then .hold else .go

def nopRun (s : State) (c : Cmd) (_ : List Byte) : State := finishNow s c .ok 0 []

/-! ### SLUICE_SET and SAFE_WITHDRAW (R194, R199) -/

def setJudge (s : State) (c : Cmd) : Judge :=
  let lc := lcState s
  if fld c.desc.dw8 0 4 ≠ 0 ∧ (lc = 0 ∨ lc = 4 ∨ lc = 5 ∨ advancing s) then .stop .lifecycleDenied 0 else .go

/-- The changes wait for the next boundary; of several commands the later one decides. -/
def setRun (s : State) (c : Cmd) (_ : List Byte) : State :=
  let arm := BitVec.ofNat 4 (fld c.desc.dw8 0 4)
  let dis := BitVec.ofNat 4 (fld c.desc.dw8 4 4)
  { s with slu := { s.slu with armDue := (s.slu.armDue ||| arm) &&& ~~~dis, disarmDue := (s.slu.disarmDue ||| dis) &&& ~~~arm,
                               faultClrDue := s.slu.faultClrDue ||| BitVec.ofNat 4 (fld c.desc.dw8 8 4),
                               setUids := s.slu.setUids ++ [c.uid] } }

/-- The pending PREPARE that a CONFIRM meets. -/
def confirmOk (s : State) (c : Cmd) : Bool :=
  match s.slu.prepare with
  | none => false
  | some p => p.mask == BitVec.ofNat 4 (fld c.desc.dw8 4 4) && p.code == c.desc.dw9 &&
      decide (c.fetchUs ≤ p.us + 1000000 * regF s .safeCfg 0 8)

/-- PREPARE: its code is drawn from the generator as a keeper's request (R314). -/
def prepareRun (s : State) (c : Cmd) : State :=
  let s1 := addWait s 1 (.cmd c.uid) 32
  if s1.ent.st = .ready then serveWaiting s1 else s1

def safeRun (s : State) (c : Cmd) (_ : List Byte) : State :=
  if !bitOf c.desc.dw8 0 then prepareRun s c
  else
    let mask := fld c.desc.dw8 4 4
    let s1 := stageSafe { s with slu := { s.slu with prepare := none } } 9 mask
    if confirmOk s c then
      { s1 with slu := { s1.slu with withdrawDue := s1.slu.withdrawDue ||| BitVec.ofNat 4 mask, setUids := s1.slu.setUids ++ [c.uid] } }
    else failCmd s1 c .authFail

/-! ### The ledger and the journal (R228, R245, R246) -/

/-- Work under armature nodes waits for the load of the armature (R256) and for the test of the pipes (R285). -/
def keysJudge (s : State) (_ : Cmd) : Judge := if keyBusy s then .hold else .go

/-- Checks 1 to 5 of every voucher; the movements wait for the next boundary. -/
def topupRun (s : State) (c : Cmd) (inp : List Byte) : State :=
  if engineFailed s then failCmd s c .abortedStop
  else
    let vs := (List.range (descLenIn c.desc / 64)).map fun i => slice inp (64 * i) 64
    let x := judgeAll s (pendingWindow s) vs
    { x.1 with ldg := { x.1.ldg with due := x.1.ldg.due ++ x.2.map fun v => (c.uid, v) } }

def journalJudge (s : State) (c : Cmd) : Judge :=
  if fld c.desc.dw8 0 2 = 2 ∧ keyBusy s then .hold else .go

def journalRun (s : State) (c : Cmd) (_ : List Byte) : State :=
  let d := c.desc
  let start := d.dw9.toNat + fld d.dw10 0 16 * 2 ^ 32
  let k := d.dw11.toNat
  if fld d.dw8 0 2 = 0 then
    let x := readRecs s start k
    finishNow (countRead s start k) c .ok x.2 x.1
  else if fld d.dw8 0 2 = 1 then
    let x := readCkpts s d.dw9.toNat k
    finishNow s c .ok x.2 x.1
  else if engineFailed s then failCmd s c .abortedStop
  else if !kjUsable s then failCmd s c .keyInvalid
  else
    let x := verifyChain s start k
    finishBytes x.1 c x.2

/-! ### The configuration image (R375, R376) -/

def imageJudge (s : State) (_ : Cmd) : Judge := if optB s.cfg.imageUid then .hold else .go

def imageRun (s : State) (c : Cmd) (inp : List Byte) : State :=
  let n := descLenIn c.desc
  let es := imageEntries inp
  if s.cfg.hold then failCmd s c .opcodeUnsupported
  else if crc32c (toN (inp.take (n - 4))) ≠ leAt inp (n - 4) 4 then failCmd s c .tagMismatch
  else if leAt inp 0 2 ≠ 0x4301 ∨ n ≠ 16 + 8 * leAt inp 2 2 then failCmd s c .lengthErr
  else match firstBad none 0 es with
    | some i => finishNow s c .opcodeUnsupported i []
    | none =>
      let ws := es.filter fun e => !s.cfg.eccShadow.contains e.1
      { s with cfg := { s.cfg with staged := ws.foldl (fun m e => smIns m e.1 e.2) s.cfg.staged, imageSet := ws.map (·.1),
                                   imageUid := some c.uid } }

/-- The configuration is in flash (R375): it becomes the image in force; or the write failed. -/
def commitDone (s : State) (good : Bool) : State :=
  match s.fl.commitCap with
  | none => s
  | some (uid, beat, es) =>
    let s1 := { s with fl := { s.fl with commitCap := none } }
    if !good then match findCmd s1 uid with
      | some c => finishCmd s1 c .abortedStop 0 beat []
      | none => s1
    else
      let chk := crcWords (es.map (·.2))
      let seq := s.cfg.imgSeq.toNat + 1
      let img : ConfigImage := ⟨seq, chk, es⟩
      let toB := decide (s.cfg.imageSel = 0)
      let s2 := flashRenew { s1 with fl := if toB then { s1.fl with imgB := some img } else { s1.fl with imgA := some img },
                                     cfg := { s1.cfg with imageSel := b2n toB, imgSeq := BitVec.ofNat 32 seq, noImage := false } }
        1 (0x40000 * b2n toB) 0x40000
      let s3 := stageConfig s2 2 0 s2.cfg.sealLive s2.cfg.sealRef
      match findCmd s3 uid with
      | some c => finishCmd s3 c .ok chk beat []
      | none => s3

/-! ### Keeper images (R346, R408, R409) -/

def imageKey : List Nat := kdf devKey (ascii "KZ KEEPER IMAGE1") (nBe Config.deviceUid.toNat 8) false

/-- FORMAT, DEVICE_UID, LENGTH, the zero fields and the version rule of R409. -/
def keeperShape (s : State) (b : List Byte) (n : Nat) : Bool :=
  let len := leAt b 8 4
  decide (leAt b 0 2 = 0x4901) && decide (leAt b 2 2 = 0) && decide (leAt b 12 8 = Config.deviceUid.toNat) &&
    decide (leNat (slice b 20 28) = 0) && decide (n = 64 + len) && decide (16 ≤ len) && decide (len % 16 = 0) &&
    (!s.fl.opts.bootPolicy.getLsbD 2 || decide (s.fl.highVersion ≤ leAt b 4 4))

/-- TAG of an image; in RMA the device secret cannot be read, and no TAG verifies. -/
def keeperTagOk (s : State) (b : List Byte) (n : Nat) : Bool :=
  decide (lcState s ≠ 5) && (cmac imageKey (toN (b.take 48 ++ slice b 64 (n - 64))) == toN (slice b 48 16))

/-- The image that IMAGE_LOAD writes: the one that does not run. -/
def inactiveB (s : State) : Bool := !s.pwr.imageB

def loadJudge (s : State) (_ : Cmd) : Judge := if optB s.fl.imageJob then .hold else .go

def loadRun (s : State) (c : Cmd) (inp : List Byte) : State :=
  let n := descLenIn c.desc
  let kib := (n + 1023) / 1024
  let s1 := { s with cfg := { s.cfg with imgProg := ⟨900, kib, true⟩ } }
  let s2 := postProgress s1 5 srcKeeper 0 900 kib
  if keeperShape s inp n && keeperTagOk s inp n then
    { s2 with fl := { s2.fl with imageJob := some (c.uid, ⟨leAt inp 4 4, leAt inp 8 4, true⟩, bitOf c.desc.dw8 0) } }
  else failCmd { s2 with cfg := { s2.cfg with imgProg := ⟨900, kib, false⟩ } } c .tagMismatch

/-- The keeper restarts: what waits for it waits, and a pending PREPARE is lost (R23, R24, R199). -/
def keeperRestart (s : State) (uids : List Nat) : State :=
  { s with flt := { s.flt with restarting := true, restartUids := s.flt.restartUids ++ uids }, slu := { s.slu with prepare := none } }

/-- The keeper restarts on one of its images. -/
def keeperSwitch (s : State) (toB : Bool) (uid : Nat) : State :=
  let v := if toB then s.fl.kimgB.version else s.fl.kimgA.version
  keeperRestart { s with fl := { s.fl with lastActivatedB := toB, highVersion := max s.fl.highVersion v },
                         flt := { s.flt with switches := sat 16 (s.flt.switches + 1) },
                         pwr := { s.pwr with imageB := toB } } [uid]

/-- A keeper image is in flash (R346, R413), or its write failed. -/
def loadDone (s : State) (good : Bool) : State :=
  match s.fl.imageJob with
  | none => s
  | some (uid, k, act) =>
    let toB := inactiveB s
    let p := s.cfg.imgProg
    let s1 := { s with fl := { s.fl with imageJob := none },
                       cfg := { s.cfg with imgProg := ⟨if good then 1000 else p.progress, p.position, false⟩ } }
    match findCmd s1 uid with
    | none => s1
    | some c =>
      if !good then failCmd s1 c .abortedStop
      else
        let fl := if toB then { s1.fl with kimgB := k } else { s1.fl with kimgA := k }
        let s2 := postProgress (flashRenew { s1 with fl := fl } 0 (0x200000 * b2n toB) 0x200000) 5 srcKeeper p.progress 1000 p.position
        if !act then finishNow s2 c .ok 0 []
        else if inSpillway s2 then finishNow { s2 with fl := { s2.fl with lastActivatedB := toB } } c .ok 0 []
        else keeperSwitch s2 toB uid

/-- FLASH_WRITE_DONE: what completes with it needs the keeper. -/
def flashDone (s : State) (op : FlashOp) (good : Bool) : State :=
  if !keeperUp s then s
  else match op with
    | .configCommit => commitDone s good
    | .imageLoad => loadDone s good
    | .ledgerTopup => match s.fl.topupUids with
      | [] => s
      | t :: rest => finishTopup { s with fl := { s.fl with topupUids := rest } } t.1 t.2 good

/-! ### RESTART (R347, R413) and the end of a restart (R24) -/

/-- The image that does not run is valid (R409). -/
def otherImageOk (s : State) : Bool :=
  let k := if inactiveB s then s.fl.kimgB else s.fl.kimgA
  k.valid && (!s.fl.opts.bootPolicy.getLsbD 2 || decide (s.fl.highVersion ≤ k.version))

def restartRun (s : State) (c : Cmd) (_ : List Byte) : State :=
  let kind := fld c.desc.dw8 0 2
  if kind = 0 then keeperRestart s [c.uid]
  else if kind = 1 then
    if inSpillway s then failCmd s c .opcodeUnsupported
    else if otherImageOk s then keeperSwitch s (inactiveB s) c.uid
    else failCmd s c .tagMismatch
  else
    let s1 := if inSpillway s then { s with fl := { s.fl with failedStarts := s.fl.opts.fsThresh - 2 } } else s
    rstPulse s1 (bitAt 11 6)

/-- KEEPER_RESTART_DONE: what waited is posted and acted on, in the order it came; the RESTART commands complete. -/
def restartDone (s : State) : State :=
  if !s.flt.restarting then s
  else
    let evs := s.ring.restartEv
    let cps := s.ring.restartCp
    let uids := s.flt.restartUids
    let s1 := flushLog { s with flt := { s.flt with restarting := false, restartUids := [] },
                                ring := { s.ring with restartEv := [], restartCp := [] } }
    let s2 := evs.foldl writeEvent s1
    let s3 := cps.foldl (fun s p => postCompletion s p.1 p.2) s2
    let s4 := uids.foldl (fun s u => match findCmd s u with
      | some c => finishNow s c .ok 0 []
      | none => s) s3
    runDeferred s4

/-! ### LIFECYCLE_ADVANCE (R268) -/

/-- The number of the first check that fails: 2 to 6; 0 where all pass. -/
def advanceCheck (s : State) (b : List Byte) : Nat :=
  if advancing s then 2
  else if s.slu.dhold ∨ anyReleased s then 3
  else if s.lcy.dbg ≠ .locked ∧ (parseTicket b).dest ≠ 5 then 4
  else if !ticketShape s b then 5
  else if !ticketTagOk b then 6
  else 0

/-- A refused TAG is journalled as event 6, with the codes the ticket names. -/
def advanceRun (s : State) (c : Cmd) (inp : List Byte) : State :=
  let n := advanceCheck s inp
  let t := parseTicket inp
  if engineFailed s ∧ (n = 0 ∨ n = 6) then failCmd s c .abortedStop
  else if n = 0 then advanceBegin s c.uid t
  else
    let s1 := if n = 6 then stageLife s 6 t.frm t.dest 6 [] else s
    finishNow s1 c .lifecycleDenied n []

/-! ### DEBUG_UNLOCK (R272, R273) -/

def unlockAction (d : Desc) : Nat := fld d.dw8 4 2

/-- The debug lock permits an action in this life-cycle state (R272). -/
def lockPermits (s : State) (action : Nat) : Bool :=
  let lc := lcState s
  let k := s.fl.opts.debugLock
  if action = 2 then decide (k = 0) && decide (lc = 1) else decide (k ≤ 1) && decide (1 ≤ lc) && decide (lc ≤ 3)

/-- The number of the check, 2 or 3, that denies an opening; 0: none. -/
def unlockDenied (s : State) (d : Desc) : Nat :=
  if s.lcy.dbg ≠ .locked ∨ (3 ≤ s.lcy.dbgFails ∧ s.clk.nowUs < s.lcy.dbgFailUs + 600000000) ∨ !lockPermits s (unlockAction d) ∨
      advancing s ∨ anyReleased s ∨ s.slu.dhold then 2
  else match findId s (tokenField d) with
    | none => 3
    | some i =>
      let e := getReg s i
      if e.st = .active ∧ e.kind = 3 ∧ e.roles.getLsbD 3 then 0 else 3

def unlockJudge (s : State) (c : Cmd) : Judge :=
  let d := c.desc
  let role := roleOf s (chanField d)
  if unlockAction d = 0 then .go
  else if !(role = 1 ∨ role = 3) ∨ gangSlave s (chanField d) ∨ polderNotRunning s d then .stop .opcodeUnsupported 0
  else .go

def unlockRun (s : State) (c : Cmd) (_ : List Byte) : State :=
  let d := c.desc
  enqueue s (chanField d) (newJob c.uid .unlock (descPrio d) (namedPol d) ((findId s (tokenField d)).getD 4096))

/-- DEBUG_UNLOCK's row: LOCK at once, a denial before any vote, else the AUTH. -/
def unlockRow (s : State) (sq : Nat) (m : HostMem) : State :=
  if !keeperUp s then s
  else match oldestCmd s sq 0x79 with
    | none => s
    | some c =>
      if unlockAction c.desc = 0 then finishNow (debugClose s 0) c .ok 0 []
      else if unlockJudge s c = .go ∧ unlockDenied s c.desc ≠ 0 then unlockRefuse s c (unlockDenied s c.desc) 0
      else runCmd s sq 0x79 m unlockJudge unlockRun

end Sys2Proof.Machine
end

