-- ==== Sys2Proof/Machine/HostKey.lean ====
section
/-! DEFINITION. The host commands on the armature: KEY_DERIVE, KEY_INVALIDATE, KEY_INFO and KEY_IMPORT (R259 to R263).

Marked choices (log entries): DEDUCED 53. -/

namespace Sys2Proof.Machine

open Sys2Proof

/-- The row of a command whose use of a node the dike may refuse: the refusal is counted (R253, R292). -/
def runDike (s : State) (sq op : Nat) (m : HostMem) (own : State → Cmd → Judge) (body : State → Cmd → List Byte → State) : State :=
  let refused : Bool := match oldestCmd s sq op with
    | some c => keeperUp s && decide (own s c = .stop .dikeViolation 0)
    | none => false
  let s1 := runCmd s sq op m own body
  if refused then dikeRefused s1 else s1

/-! ### KEY_DERIVE -/

/-- The ACTIVE child of a node with a label. -/
def activeChild (s : State) (p : Nat) (label : BitVec 128) : Option Nat :=
  (s.key.nodes.find? fun n => n.2.parent == BitVec.ofNat 32 (handleOf s p) && n.2.label == label && decide (n.2.st = .active)).map
    (·.1)

def descLabel (d : Desc) : BitVec 128 :=
  BitVec.ofNat 128 (d.dw12.toNat + d.dw13.toNat * 2 ^ 32 + d.dw14.toNat * 2 ^ 64 + d.dw15.toNat * 2 ^ 96)

/-- Generation of the next derivation under a parent with a label (R254). -/
def nextGen (s : State) (p : Nat) (label : BitVec 128) : Nat :=
  match topGen s (BitVec.ofNat 32 (handleOf s p)) label with
  | some g => g + 1
  | none => 0

/-- Checks 3 to 6 of R259 on the parent; 7 to 9 follow in the order of the table. -/
def deriveJudge (s : State) (c : Cmd) : Judge :=
  let d := c.desc
  if advancing s then .stop .lifecycleDenied 0
  else if keyBusy s then .hold
  else match nodeOfHandle s d.dw8.toNat with
    | none => .stop .keyInvalid 0
    | some p =>
      let n := getNode s p
      if n.st = .invalid ∨ !n.loaded then .stop .keyInvalid 0
      else if n.owner ≠ 0x20#8 then .stop .dikeViolation 0
      else if n.st = .retired then .stop .keyUsageExhausted 0
      else if 6 < n.level + 1 then .stop .lengthErr 0
      else match activeChild s p (descLabel d) with
        | some i => .stop .ok (handleOf s i)
        | none =>
          if 0xFFFF < nextGen s p (descLabel d) then .stop .keyUsageExhausted 0
          else if (freeHostIndex s).isNone then .stop .lengthErr 0
          else if engineFailed s then .stop .abortedStop 0
          else .go

def deriveRun (s : State) (c : Cmd) (_ : List Byte) : State :=
  let d := c.desc
  match nodeOfHandle s d.dw8.toNat, freeHostIndex s with
  | some p, some i =>
    let s1 := deriveNode s p (descLabel d) (bitOf d.dw9 0) (d.dw10.toNat + fld d.dw11 0 16 * 2 ^ 32) (nextGen s p (descLabel d)) i
    finishNow s1 c .ok (handleOf s1 i) []
  | _, _ => failCmd s c .keyInvalid

/-! ### KEY_INVALIDATE and KEY_INFO -/

def invalidateJudge (s : State) (c : Cmd) : Judge :=
  if !s.key.ready then .hold
  else match nodeOfHandle s c.desc.dw8.toNat with
    | none => .stop .keyInvalid 0
    | some i => let t := (getNode s i).type; if t = 4 ∨ t = 5 then .go else .stop .dikeViolation 0

def invalidateRun (s : State) (c : Cmd) (_ : List Byte) : State :=
  let l := subtree s ((nodeOfHandle s c.desc.dw8.toNat).getD 0)
  finishNow (invalidateAll s l true) c .ok l.length []

/-- The index that KEY_INFO names: by handle, or by DW9 where DW8 is 0. -/
def infoIndex (s : State) (d : Desc) : Option Nat := if d.dw8 = 0 then some (fld d.dw9 0 8) else nodeOfHandle s d.dw8.toNat

def infoJudge (s : State) (c : Cmd) : Judge :=
  if keyBusy s then .hold else if (infoIndex s c.desc).isNone then .stop .keyInvalid 0 else .go

def infoRun (s : State) (c : Cmd) (_ : List Byte) : State :=
  finishBytes s c (reportOut c (nodeBytes s ((infoIndex s c.desc).getD 0)))

/-! ### KEY_IMPORT -/

def importJudge (s : State) (_ : Cmd) : Judge :=
  let lc := lcState s
  if lc = 0 ∨ 3 < lc ∨ advancing s ∨ s.ldg.st = .closing then .stop .lifecycleDenied 0
  else if s.lcy.dbg ≠ .locked ∨ !s.key.ready then .stop .keyInvalid 0
  else if s.cip.mode = .kat then .hold
  else .go

/-- Checks 4 to 8 of R263 on the blob; with no plinth there is no K_tr to open it under, and a key use completes with KEY_INVALID
(R249). -/
def importRun (s : State) (c : Cmd) (b : List Byte) : State :=
  if !blobShape b then failCmd s c .opcodeUnsupported
  else if BitVec.ofNat 64 (leAt b 4 8) ≠ Config.deviceUid ∨ leAt b 12 1 ≠ lcState s then failCmd s c .keyInvalid
  else if !nodeLive s 1 then failCmd s c .keyInvalid
  else if engineFailed s then failCmd s c .abortedStop
  else match blobKey s b with
    | none => failCmd s c .tagMismatch
    | some key =>
      if !blobFresh s b then failCmd s c .voucherReplay
      else match blobIndex s b with
        | none => failCmd s c .lengthErr
        | some i =>
          let s1 := importNode s b i key
          finishNow s1 c .ok (handleOf s1 i) []

end Sys2Proof.Machine
end

