-- ==== Sys2Proof/Machine/RowsBeat.lean ====
section
/-! DEFINITION. The rows of the beat boundary and of what falls at one: the seal, leases, ages and the levee (R33, R90,
R191, R192, R195, R369 to R372, R423). -/

namespace Sys2Proof.Machine

open Sys2Proof

/-- The boundary with all that it orders (R33). -/
def execBeatBoundary (b : BeatIn) (s : State) : Out := .next (beatBoundary s b)

/-- Steps 2 and 3 of R370, or the reference alone (R371). -/
def execSealReload (s : State) : Out := .next (sealReloadNow s)

/-- RELOADS has reached 3 (R372). -/
def execSealReloadLimit (s : State) : Out := .next (sealLimitNow s)

/-- DIRTY has stood for GRACE seconds (R369). -/
def execSealGraceExpiry (s : State) : Out := .next (sealGraceNow s)

/-- The lease of a sluice runs out (R195). -/
def execLeaseExpiry (n : Fin 4) (s : State) : Out := .next (leaseExpire s n.val)

/-- A slot's last VERIFIED result has become too old (R191). -/
def execVerificationAgeOut (ch : Fin 96) (s : State) : Out := .next (slotAged s ch.val)

/-- A validated-token entry has become too old (R192). -/
def execTokenAgeOut (reg : Fin 4096) (s : State) : Out := .next (tokenAged s reg.val)

/-- The toleration of a slot has lasted UV_HOURS (R191, R423). -/
def execToleranceExpiry (ch : Fin 96) (s : State) : Out := .next (tolExpire s ch.val)

/-- The head of a channel has been deferred DEFER_MAX times (R90). -/
def execLeveeDeferLimit (ch : Fin 96) (s : State) : Out := .next (deferLimit s ch.val)

end Sys2Proof.Machine
end

