-- ==== Sys2Proof/Machine/RowsCommand.lean ====
section
/-! DEFINITION. The rows of the host commands (R342): each runs the oldest command of its opcode that may start on its SQ
(R338, R349, R352).

Marked choices (log entries): DEDUCED 6. -/

namespace Sys2Proof.Machine

open Sys2Proof

/-- The command completes in its turn (R343). -/
def execNop (sq : Fin 16) (m : HostMem) (s : State) : Out := .next (runCmd s sq.val 0x01 m nopJudge nopRun)

/-- The capture falls at step 5 of the next boundary (R60). -/
def execSnapshot (sq : Fin 16) (m : HostMem) (s : State) : Out := .next (runCmd s sq.val 0x02 m always runs)

/-- One AUTH on each named slot (R151). -/
def execSweep (sq : Fin 16) (m : HostMem) (s : State) : Out := .next (runCmd s sq.val 0x10 m sweepJudge sweepRun)

/-- Discovery or one addressed token (R152). -/
def execAuthToken (sq : Fin 16) (m : HostMem) (s : State) : Out := .next (runCmd s sq.val 0x11 m authJudge authRun)

/-- The LF wake on the zone coils, then the radio (R175). -/
def execLocate (sq : Fin 16) (m : HostMem) (s : State) : Out := .next (runCmd s sq.val 0x12 m locateJudge locateRun)

/-- A registry change, with its air sequence where the mode has one (R157). -/
def execEnrol (sq : Fin 16) (m : HostMem) (s : State) : Out := .next (runCmd s sq.val 0x13 m enrolJudge enrolRun)

/-- READ_INFO, REKEY and a closing AUTH (R142). -/
def execRekeyToken (sq : Fin 16) (m : HostMem) (s : State) : Out := .next (runCmd s sq.val 0x14 m rekeyJudge rekeyRun)

/-- Calibration of the named channels (R76). -/
def execCalChannel (sq : Fin 16) (m : HostMem) (s : State) : Out := .next (runCmd s sq.val 0x18 m calJudge calRun)

/-- One telegram of the host (R187). -/
def execRadioTx (sq : Fin 16) (m : HostMem) (s : State) : Out := .next (runCmd s sq.val 0x20 m radioJudge txRun)

/-- A receive window (R188). -/
def execRadioRxWindow (sq : Fin 16) (m : HostMem) (s : State) : Out := .next (runCmd s sq.val 0x21 m windowJudge windowRun)

/-- One range exchange (R186). -/
def execRange (sq : Fin 16) (m : HostMem) (s : State) : Out := .next (rangeRow s sq.val m)

/-- Arming, disarming and fault clearing at the next boundary (R194). -/
def execSluiceSet (sq : Fin 16) (m : HostMem) (s : State) : Out := .next (runCmd s sq.val 0x30 m setJudge setRun)

/-- The capture falls at the next boundary (R207). -/
def execSluiceStatus (sq : Fin 16) (m : HostMem) (s : State) : Out := .next (runCmd s sq.val 0x31 m always runs)

/-- PREPARE or CONFIRM (R199). -/
def execSafeWithdraw (sq : Fin 16) (m : HostMem) (s : State) : Out := .next (runCmd s sq.val 0x32 m always safeRun)

/-- The vouchers are checked, their movements wait for the next boundary (R228). -/
def execLedgerTopup (sq : Fin 16) (m : HostMem) (s : State) : Out := .next (runCmd s sq.val 0x40 m keysJudge topupRun)

/-- The capture falls at the next boundary (R244). -/
def execLedgerQuery (sq : Fin 16) (m : HostMem) (s : State) : Out := .next (runCmd s sq.val 0x41 m always runs)

/-- The statement is formed at the next boundary (R245). -/
def execLedgerCheckpoint (sq : Fin 16) (m : HostMem) (s : State) : Out := .next (runCmd s sq.val 0x42 m keysJudge runs)

/-- Records, checkpoints or a verification (R246). -/
def execJournalRead (sq : Fin 16) (m : HostMem) (s : State) : Out := .next (runCmd s sq.val 0x48 m journalJudge journalRun)

/-- An AES-CMAC tag (R301). -/
def execCipherCmac (sq : Fin 16) (m : HostMem) (s : State) : Out := .next (runCipher s sq.val 0x50 m cmacRun)

/-- CTR data (R302). -/
def execCipherCtr (sq : Fin 16) (m : HostMem) (s : State) : Out := .next (runCipher s sq.val 0x51 m ctrRun)

/-- A sealed message (R303). -/
def execCcmSeal (sq : Fin 16) (m : HostMem) (s : State) : Out := .next (runCipher s sq.val 0x52 m ccmSealRun)

/-- A message opened (R304, R305). -/
def execCcmOpen (sq : Fin 16) (m : HostMem) (s : State) : Out := .next (runCipher s sq.val 0x53 m ccmOpenRun)

/-- A host node under a parent (R259). -/
def execKeyDerive (sq : Fin 16) (m : HostMem) (s : State) : Out := .next (runDike s sq.val 0x58 m deriveJudge deriveRun)

/-- A host node with its descendants becomes INVALID (R260). -/
def execKeyInvalidate (sq : Fin 16) (m : HostMem) (s : State) : Out := .next (runDike s sq.val 0x59 m invalidateJudge invalidateRun)

/-- The record of a node (R261). -/
def execKeyInfo (sq : Fin 16) (m : HostMem) (s : State) : Out := .next (runCmd s sq.val 0x5A m infoJudge infoRun)

/-- A wrapped blob (R263). -/
def execKeyImport (sq : Fin 16) (m : HostMem) (s : State) : Out := .next (runCmd s sq.val 0x5B m importJudge importRun)

/-- Generator output (R320). -/
def execRngGet (sq : Fin 16) (m : HostMem) (s : State) : Out := .next (runCmd s sq.val 0x60 m always rngRun)

/-- An image staged as one group (R376). -/
def execConfigStageImage (sq : Fin 16) (m : HostMem) (s : State) : Out := .next (runCmd s sq.val 0x70 m imageJudge imageRun)

/-- The capture falls at the next boundary (R375). -/
def execConfigCommit (sq : Fin 16) (m : HostMem) (s : State) : Out := .next (runCmd s sq.val 0x71 m always runs)

/-- An action on a polder (R55). -/
def execPolderCtl (sq : Fin 16) (m : HostMem) (s : State) : Out := .next (runCmd s sq.val 0x72 m ctlJudge ctlRun)

/-- A keeper image for the inactive slot (R346). -/
def execImageLoad (sq : Fin 16) (m : HostMem) (s : State) : Out := .next (runCmd s sq.val 0x73 m loadJudge loadRun)

/-- The keeper or the device restarts (R347). -/
def execRestart (sq : Fin 16) (m : HostMem) (s : State) : Out := .next (runCmd s sq.val 0x74 m always restartRun)

/-- The ticket is checked, the advance begins (R268). -/
def execLifecycleAdvance (sq : Fin 16) (m : HostMem) (s : State) : Out := .next (runCmd s sq.val 0x78 m always advanceRun)

/-- A session is locked, or an unlock begins (R273). -/
def execDebugUnlock (sq : Fin 16) (m : HostMem) (s : State) : Out := .next (unlockRow s sq.val m)

end Sys2Proof.Machine
end

