-- ==== Sys2Proof/Machine/RowsLedger.lean ====
section
/-! DEFINITION. The rows of the meter, the ledger and the journal (R212, R228, R229, R234 to R240, R467). -/

namespace Sys2Proof.Machine

open Sys2Proof

/-- Voucher movements at their boundary (R221, R228). -/
def execVoucherApply (s : State) : Out := .next (voucherStep s)

/-- A modulator input stops, or moves again (R212). -/
def execMeterInputFault (vInput : Bool) (faulted : Bool) (s : State) : Out := .next (inputFault s vInput faulted)

/-- A PERIODIC counter record (R229). -/
def execCounterRecordPeriodic (s : State) : Out := .next (periodicCounter s)

/-- A METER_SUMMARY record (R235). -/
def execMeterSummaryPeriod (s : State) : Out := .next (meterSummary s)

/-- The oldest staged record goes to flash (R234). -/
def execJournalSeal (s : State) : Out := .next (journalSealOne s)

/-- CHAIN fields of the records drained unsealed (R467). -/
def execJournalChainCatchup (s : State) : Out := .next (chainCatchup s)

/-- A DAILY checkpoint (R238). -/
def execDailyCheckpoint (s : State) : Out := .next (dailyCkpt s)

/-- The oldest journal sector is erased (R239). -/
def execJournalCompaction (s : State) : Out := .next (journalCompact s)

/-- The journal goes on under the next KGEN (R240). -/
def execJournalRoll (s : State) : Out := .next (journalRollNow s)

/-- A flash write under way has ended (R228, R346, R375). -/
def execFlashWriteDone (op : FlashOp) (ok : Bool) (s : State) : Out := .next (flashDone s op ok)

end Sys2Proof.Machine
end

