-- ==== Sys2Proof/Machine/RowsLf.lean ====
section
/-! DEFINITION. The rows of the LF channels, the banks and the polders (R39 to R59, R76 to R98, R113, R416, R417). A row of an
event that falls at a beat boundary acts where that boundary has not been carried out yet (log entry 82).

Marked choices (log entries): DEDUCED 82. -/

namespace Sys2Proof.Machine

open Sys2Proof

/-- The exchange of a channel has ended with these replies (R113). -/
def execUplinkReply (ch : Fin 96) (r : AirResult) (s : State) : Out := .next (takeMsg s (.air ch.val r))

/-- Committed results take effect (R77). -/
def execCalibrationCommit (ch : Fin 96) (s : State) : Out := .next (calCommit s ch.val)

/-- The last calibration step of a channel has ended (R76, R79). -/
def execCalibrationDone (ch : Fin 96) (r : CalResult) (s : State) : Out := .next (calibrationDone s ch.val r)

/-- A channel fault ends the attempt (R94). -/
def execChannelFault (ch : Fin 96) (f : ChFault) (s : State) : Out := .next (chanFault s ch.val f)

/-- A faulted transaction restarts (R95). -/
def execFaultRetry (ch : Fin 96) (s : State) : Out :=
  .next (if atBoundary s then resumeOne s (masterOf s ch.val) .faultWait else s)

/-- A moved transaction restarts (R51). -/
def execMigrationRestart (ch : Fin 96) (s : State) : Out :=
  .next (if atBoundary s then resumeOne s (masterOf s ch.val) .quiet else s)

/-- CONSEC has reached RETIRE_AT (R96). -/
def execChannelRetirement (ch : Fin 96) (s : State) : Out := .next (retireRow s clsChannel (masterOf s ch.val))

/-- The soft start of a bank has ended (R92). -/
def execBankReady (b : Fin 4) (s : State) : Out := .next (bankReadyNow s b.val)

/-- The supply of a bank as its monitor sees it, in 10 mV (R93). -/
def execBankSupplyFault (b : Fin 4) (vdrv : Nat) (s : State) : Out := .next (bankSupply s b.val vdrv)

/-- The temperature of a bank as its monitor sees it, in °C (R93). -/
def execBankTemperatureChange (b : Fin 4) (temp : Int) (s : State) : Out := .next (bankTemp s b.val temp)

/-- A frame of a bank link with its retransmissions (R417). -/
def execBankLinkFrameError (b : Fin 4) (retx : Fin 4) (undelivered : Bool) (s : State) : Out :=
  .next (linkFrame s b.val retx.val undelivered)

/-- ERR_BEATS has reached LINK_MAX (R417). -/
def execBankLinkRetirement (b : Fin 4) (s : State) : Out := .next (retireRow s clsLink b.val)

/-- PLD_n_FAULT.ACK_MISS (R39, R43). -/
def execPolderAckTimeout (p : Fin 5) (s : State) : Out := .next (polFault s p.val 0)

/-- MEM_UE, PAGE_ERR or SELFTEST_FAIL (R43). -/
def execPolderFault (p : Fin 5) (k : PldFault) (s : State) : Out :=
  .next (polFault s p.val (match k with | .memUe => 1 | .selfTest => 2 | .pageErr => 3))

/-- The channels of a faulted polder move (R43). -/
def execPolderFailover (p : Fin 5) (s : State) : Out := .next (if atBoundary s then postMoves (failover s p.val) else s)

/-- The self-test after a fault has ended (R416). -/
def execPolderFaultSelfTestDone (p : Fin 5) (pass : Bool) (s : State) : Out := .next (faultSelfTest s p.val pass)

/-- The self-test of a start has ended (R55, R58). -/
def execPolderStartSelfTestDone (p : Fin 5) (pass : Bool) (s : State) : Out := .next (startSelfTest s p.val pass)

/-- The loopback self-test of the spare, at a multiple of 1024 beats (R42). -/
def execSpareSelfTest (pass : Bool) (s : State) : Out :=
  .next (match s.lf.spare with
    | some p => if pass ∨ s.clk.beat.toNat % 1024 ≠ 0 then s else polFault s p 2
    | none => s)

/-- CLEAR_H hours without a fault (R416). -/
def execPolderFcntClear (p : Fin 5) (s : State) : Out := .next (fcntClear s p.val)

/-- The rebalance of AUTO placement (R49). -/
def execRebalance (s : State) : Out := .next (if atBoundary s then postMoves (rebalanceStep s) else s)

/-- A channel that waits for its new place moves, once idle (R49). -/
def execChannelMoveWhenIdle (ch : Fin 96) (s : State) : Out :=
  .next (if atBoundary s && keeperUp s then postMoves (moveIdle s [masterOf s ch.val]) else s)

/-- The next pass of a polder begins (R48). -/
def execNextPassStart (p : Fin 5) (s : State) : Out := .next (if atBoundary s then nextPass s p.val else s)

end Sys2Proof.Machine
end

