-- ==== Sys2Proof/Machine/RowsLife.lean ====
section
/-! DEFINITION. The rows of the cipher engine, the armature, the registry, the entropy source, the life-cycle advance, the
debug session and the retirement table (R135, R140, R143, R243, R250 to R257, R264, R269 to R275, R285 to R288, R310 to
R317, R421). -/

namespace Sys2Proof.Machine

open Sys2Proof

/-- A compare mismatch, or a failed inverse check (R285). -/
def execCipherMismatch (agree : Bool) (s : State) : Out := .next (cipMismatch s agree)

/-- The known-answer test has ended (R285). -/
def execCipherKatDone (aOk bOk agree : Bool) (s : State) : Out := .next (katDone s aOk bOk agree)

/-- The mask generator asks for a seed (R288). -/
def execMaskReseed (s : State) : Out := .next (maskReseed s)

/-- A patina pass ends (R264). -/
def execPatinaPass (onTime : Bool) (s : State) : Out := .next (patinaNow s onTime)

/-- An uncorrectable error in key RAM (R257). -/
def execKeyRamError (i : Fin 256) (s : State) : Out := .next (ramError s i.val)

/-- USES has reached LIMIT (R254). -/
def execNodeUsageLimit (i : Fin 256) (s : State) : Out := .next (usageLimit s i.val)

/-- The keeper raises a USES mark (R255). -/
def execUsesMarkRaise (i : Fin 256) (s : State) : Out := .next (if keeperUp s then raiseUses s i.val else s)

/-- The keeper raises an instance mark (R250). -/
def execInstanceMarkRaise (i : Fin 256) (s : State) : Out := .next (raiseInst s i.val)

/-- The keeper raises SESS_RES (R140). -/
def execSessResRaise (i : Fin 4096) (s : State) : Out := .next (if keeperUp s then raiseSess s i.val else s)

/-- A confirmed re-key is committed at its boundary (R143). -/
def execRekeyConfirm (i : Fin 4096) (s : State) : Out :=
  .next (applyDueWhere (fun c => decide (c.action = 6) && decide (c.reg = i.val)) s)

/-- The changes that nothing in flight uses apply (R135). -/
def execRegistryChangeApply (s : State) : Out := .next (applyDueChanges s)

/-- A window of a noise source has ended (R310). -/
def execEntropyWindowEnd (srcB : Bool) (bits : BitVec 1024) (s : State) : Out := .next (windowEndNow s srcB bits)

/-- Not READY 3 ms after ENTROPY came on (R317). -/
def execEntropyWarmupTimeout (s : State) : Out := .next (warmupTimeout s)

/-- The soft reseed limit (R315). -/
def execSoftReseedLimit (s : State) : Out := .next (softLimit s)

/-- The hard reseed limit (R315). -/
def execHardReseedLimit (s : State) : Out := .next (hardLimit s)

/-- A request has waited WAIT_MAX (R316). -/
def execEntropyWaitTimeout (s : State) : Out := .next (waitTimeout s)

/-- Boundary c of an advance (R243). -/
def execAdvanceClose (s : State) : Out := .next (advanceCloseNow s)

/-- The fuse pair of the new state (R269). -/
def execAdvanceCommit (s : State) : Out := .next (advanceCommitNow s)

/-- The old life is destroyed (R269). -/
def execAdvanceDestroy (s : State) : Out := .next (advanceDestroyNow s)

/-- The new life is installed (R269). -/
def execAdvanceInstall (s : State) : Out := .next (advanceInstallNow s)

/-- An interrupted advance goes on (R270). -/
def execAdvanceResume (s : State) : Out := .next (advanceResumeNow s)

/-- A debug session opens (R274). -/
def execDebugOpen (s : State) : Out := .next (debugOpenNow s)

/-- A debug session reaches the end of its window (R275). -/
def execDebugWindowEnd (s : State) : Out := .next (debugWindow s)

/-- A full bank of the retirement table is compacted (R421). -/
def execRetirementTableSwap (s : State) : Out := .next (swapTable s)

end Sys2Proof.Machine
end

