-- ==== Sys2Proof/Machine/RowsPower.lean ====
section
/-! DEFINITION. The rows of the supplies, the resets, the start, the domains, the power states and the link (R23, R24, R26,
R323, R324, R379 to R415, R462). -/

namespace Sys2Proof.Machine

open Sys2Proof

/-- A supply falls below its warning threshold; the sample pairs are those of the part of the interval so far (R382, R231). -/
def execSupplyWarning (x : Supply) (bits : List (Bool × Bool)) (s : State) : Out := .next (supplyWarn s x bits)

/-- A supply falls below its undervoltage threshold (R380). -/
def execSupplyUndervoltage (x : Supply) (s : State) : Out := .next (supplyUnder s x)

/-- A supply rises above its rising threshold (R380). -/
def execSupplyRecovery (x : Supply) (s : State) : Out := .next (supplyBack s x)

/-- A power-on reset (R397). -/
def execPor (s : State) : Out := .next (porPulse s)

/-- A low pulse on RST_N (R396, R397). -/
def execRstNAssert (lowUs : Nat) (taken : Bool) (s : State) : Out := .next (rstPin s lowUs taken)

/-- RST_N is high again (R398). -/
def execRstNRelease (s : State) : Out := .next (rstRelease s)

/-- The option loader has ended (R405). -/
def execOptionLoadDone (aOk bOk : Bool) (s : State) : Out := .next (optionLoad s aOk bOk)

/-- The armature is loaded (R256). -/
def execArmatureLoadDone (ticketOk : Bool) (s : State) : Out := .next (armLoaded s ticketOk)

/-- The boot ROM takes a keeper image (R410). -/
def execKeeperBoot (aOk bOk : Bool) (s : State) : Out := .next (keeperBootNow s aOk bOk)

/-- The configuration image is applied (R374). -/
def execConfigImageLoad (aOk bOk : Bool) (s : State) : Out := .next (configLoad s aOk bOk)

/-- A domain switches on (R383, R400). -/
def execDomainSwitchOn (d : Fin 17) (s : State) : Out := .next (domainOn s d.val)

/-- A domain is ready (R349). -/
def execDomainReady (d : Fin 17) (s : State) : Out := .next (domainReady s d.val)

/-- A domain switches off (R384). -/
def execDomainSwitchOff (d : Fin 17) (s : State) : Out := .next (domainOff s d.val)

/-- STARTED is reached (R399). -/
def execStartComplete (s : State) : Out := .next (startComplete s)

/-- The start has taken too long (R402). -/
def execStartWatchdog (s : State) : Out := .next (startTimeout s)

/-- The keeper restarts (R23). -/
def execKeeperWatchdog (s : State) : Out := .next (keeperDown s)

/-- The keeper resumes (R24). -/
def execKeeperRestartDone (s : State) : Out := .next (restartDone s)

/-- The link enters or leaves 8.0 GT/s (R323). -/
def execLinkSpeedChange (gen3 : Bool) (s : State) : Out :=
  .next (if domReady s dLINK then { s with ring := { s.ring with gen3 := gen3 } } else s)

/-- The end of a rise of VCORE (R387). -/
def execVcoreRampCheck (reached : Bool) (s : State) : Out := .next (rampCheck s reached)

/-- A PTM dialogue where AUTO and a valid context ask for one; `valid` is the context afterwards (R324). -/
def execPtmDialogue (valid : Bool) (s : State) : Out :=
  .next (if domReady s dLINK then
      { s with ring := { s.ring with ptmCtxValid := valid,
                                     out := if s.ring.ptmAuto ∧ s.ring.ptmCtxValid then s.ring.out ++ [.ptmRequest] else s.ring.out } }
    else s)

/-- DOZE is entered (R389). -/
def execDozeEntry (s : State) : Out := .next (dozeEnter s)

/-- DOZE is left (R389). -/
def execDozeExit (s : State) : Out := .next (dozeLeave s)

/-- The entry into SLEEP or HIBERNATE switches off (R391). -/
def execPowerDownEntry (s : State) : Out := .next (powerDown s)

/-- Running commands did not end in time (R391). -/
def execEntryWaitExpiry (s : State) : Out := .next (entryExpire s)

/-- A wake source becomes active (R392, R394). -/
def execWake (src : WakeSrc) (s : State) : Out := .next (wakeSource s src)

/-- A pulse on WAKE_IN with the gap before it (R393). -/
def execWakeInPattern (gapUs : Nat) (pulseUs : Nat) (s : State) : Out := .next (wakePulse s gapUs pulseUs)

/-- One sniff (R189). -/
def execUhfSniff (preamble : Bool) (s : State) : Out := .next (sniff s preamble)

/-- A DEV_WAKE telegram (R189). -/
def execDevWake (t : Telegram) (s : State) : Out := .next (devWakeNow s t)

/-- No sync after a preamble (R189). -/
def execSniffSyncTimeout (s : State) : Out := .next (sniffTimeout s)

/-- RTC seconds have reached PWR_RTC_ALARM (R392). -/
def execRtcAlarm (s : State) : Out := .next (if s.pwr.alarm.toNat ≤ rtcSeconds s then wakeSource s .rtc else s)

/-- The crystal becomes the AON clock, not during a SLEEP entry (R462). -/
def execAonClockSwitch (s : State) : Out :=
  .next (if s.pwr.entering ≠ 0 ∨ s.pwr.phase = .aonInit then s else setPwr s fun p => { p with aonXtal := true })

/-- The crystal has stopped (R462). -/
def execAonCrystalFail (s : State) : Out := .next (setPwr s fun p => { p with aonXtal := false })

/-- PERST# deasserts: a wake source, and the link trains (R26, R392). -/
def execPerstDeassert (s : State) : Out := .next (wakeSource (setPwr s fun p => { p with perst := false }) .hostLink)

/-- The link reaches L0 (R394). -/
def execLinkL0Reached (s : State) : Out :=
  .next (if domReady s dLINK ∧ !s.pwr.perst then
      setPwr { s with ring := { s.ring with linkUp := true } } fun p => { p with wakeSignal := false }
    else s)

/-- WAKE# has been low for 100 ms (R394). -/
def execWakeSignalTimeout (s : State) : Out := .next (setPwr s fun p => { p with wakeSignal := false })

end Sys2Proof.Machine
end

