-- ==== Sys2Proof/Machine/RowsRadio.lean ====
section
/-! DEFINITION. The rows of the radio (R161 to R188, R419). -/

namespace Sys2Proof.Machine

open Sys2Proof

/-- The scheduler looks at the next activity; `lock` and `clear` are what the synthesiser and listen-before-talk say (R163,
R167). -/
def execRadioActivityStart (lock : Bool) (clear : Bool) (s : State) : Out := .next (activityStart s lock clear)

/-- No lock within 500 µs (R162). -/
def execSynthLockTimeout (s : State) : Out := .next (lockTimeout s)

/-- The lock is lost, during a tone where one is named (R162). -/
def execSynthLockLost (tone : Option (Fin 64)) (s : State) : Out := .next (lockLost s (tone.map Fin.val))

/-- The synthesiser calibrates for an entry at a die temperature (R161). -/
def execRadioCalibration (e : Fin 8) (r : RadioCal) (s : State) : Out := .next (radioCal s e.val r)

/-- No grant within WAIT (R165). -/
def execCoexGrantTimeout (s : State) : Out := .next (grantTimeout s)

/-- COEX_GNT rises (R165). -/
def execCoexGntRise (s : State) : Out := .next (grantRise s)

/-- COEX_GNT falls (R165). -/
def execCoexGntFall (s : State) : Out := .next (grantFall s)

/-- Listen-before-talk looks again (R167). -/
def execLbtRetry (clear : Bool) (s : State) : Out := .next (lbtRetryNow s clear)

/-- The duty window takes a new bin (R168). -/
def execDutyBinRoll (s : State) : Out := .next (rollBins s)

/-- A LOC_REPLY telegram (R176). -/
def execLocReply (t : Telegram) (s : State) : Out := .next (takeMsg s (.locReply t))

/-- A round of reply slots has ended with so many slots in collision (R175). -/
def execLocatePollRoundEnd (collided : Nat) (s : State) : Out := .next (pollRoundEnd s collided)

/-- A RANGE_REPORT telegram with what the device measured (R183). -/
def execRangeReport (t : Telegram) (m : RangeMeas) (s : State) : Out := .next (takeMsg s (.rangeReport t m))

/-- No report by the deadline (R181). -/
def execRangeReportTimeout (s : State) : Out := .next (rangeTimeout s)

/-- An ACCESS telegram (R188). -/
def execAccessTelegram (t : Telegram) (s : State) : Out := .next (takeMsg s (.access t))

/-- A telegram of TYPE 0x80 or above (R188). -/
def execHostTelegramRx (t : Telegram) (s : State) : Out := .next (hostTelegram s t)

/-- A receive window has ended (R188). -/
def execRxWindowEnd (s : State) : Out := .next (windowEnd s)

/-- CONSEC has reached RAD_MAX (R419). -/
def execRadioRetirement (s : State) : Out := .next (retireRow s clsRadio 0)

end Sys2Proof.Machine
end

