-- ==== Sys2Proof/Machine/RowsRing.lean ====
section
/-! DEFINITION. The rows of the doorbells, the fetcher and the register accesses (R13, R326 to R333, R363 to R365, R379). A
write row is the host's write of the whole dword it names.

Marked choices (log entries): DEDUCED 33, 77. -/

namespace Sys2Proof.Machine

open Sys2Proof

/-- BAR2 offset 8·n: the tail of SQ n (R327). -/
def execSqTailDoorbell (sq : Fin 16) (v : Word) (s : State) : Out := .next (bell s (8 * sq.val) v)

/-- BAR2 offset 8·n + 4: the head of CQ n (R332). -/
def execCqHeadDoorbell (cq : Fin 16) (v : Word) (s : State) : Out := .next (bell s (8 * cq.val + 4) v)

/-- BAR2 offset 0x100: the head of the EQ (R327, R333). -/
def execEqHeadDoorbell (v : Word) (s : State) : Out := .next (bell s 0x100 v)

/-- One turn of the fetcher (R331, R338). -/
def execDescriptorFetch (ds : List (Option Desc)) (s : State) : Out := .next (fetchTurn s ds)

/-- Q_SQn_CFG with EN = 1 (R329). -/
def execSqEnable (sq : Fin 16) (v : Word) (s : State) : Out := .next (hostWrite s (0x808 + 16 * sq.val) (v ||| 1#32))

/-- Q_SQn_CFG with EN = 0 (R330). -/
def execSqDisable (sq : Fin 16) (v : Word) (s : State) : Out := .next (hostWrite s (0x808 + 16 * sq.val) (v &&& ~~~1#32))

/-- Q_CQn_CFG with EN = 1 (R329). -/
def execCqEnable (cq : Fin 16) (v : Word) (s : State) : Out := .next (hostWrite s (0x908 + 16 * cq.val) (v ||| 1#32))

/-- Q_CQn_CFG with EN = 0 (R329). -/
def execCqDisable (cq : Fin 16) (v : Word) (s : State) : Out := .next (hostWrite s (0x908 + 16 * cq.val) (v &&& ~~~1#32))

/-- Q_EQ_CFG with EN = 1 (R329, R394). -/
def execEqEnable (v : Word) (s : State) : Out := .next (hostWrite s 0xA08 (v ||| 1#32))

/-- Q_EQ_CFG with EN = 0 (R333). -/
def execEqDisable (v : Word) (s : State) : Out := .next (hostWrite s 0xA08 (v &&& ~~~1#32))

/-- Q_HOLD (R350). -/
def execQHoldWrite (v : Word) (s : State) : Out := .next (hostWrite s 0xB04 v)

/-- CFG_CTL with DISCARD = 0 (R363). -/
def execCfgHold (on : Bool) (s : State) : Out := .next (hostWrite s 0x7800 (packW [(0, 1, b2n on)]))

/-- CFG_CTL with DISCARD = 1 and HOLD as it stands (R363). -/
def execCfgDiscard (s : State) : Out := .next (hostWrite s 0x7800 (packW [(0, 1, b2n s.cfg.hold), (1, 1, 1)]))

/-- CFG_SEAL_REF (R369). -/
def execCfgSealRefWrite (v : Word) (s : State) : Out := .next (hostWrite s 0x7808 v)

/-- PWR_CTL.REQ = 2 (R390). -/
def execSleepRequest (s : State) : Out := .next (hostWrite s 0x7004 2#32)

/-- PWR_CTL.REQ = 3 (R390). -/
def execHibernateRequest (s : State) : Out := .next (hostWrite s 0x7004 3#32)

/-- BEAT_PTM_CTL with CAPTURE = 1 and AUTO as it stands (R324). -/
def execPtmCapture (s : State) : Out := .next (hostWrite s 0x410 (packW [(0, 1, b2n s.ring.ptmAuto), (1, 1, 1)]))

/-- A read of the RL register at an offset; of any other register the row does nothing (R13, R365). -/
def execRlRead (path : Path) (off : BitVec 16) (s : State) : Out :=
  .next (if isRl (off.toNat / 4 * 4) then readRow s path (off.toNat / 4 * 4) else s)

/-- An access to a register whose home domain is off or not ready; of any other the row does nothing (R379). -/
def execPoweredOffAccess (path : Path) (off : BitVec 16) (write : Bool) (s : State) : Out :=
  let o := off.toNat / 4 * 4
  .next (if (poweredOff s o).isNone then s else if write then writeReg s path o 0 15#4 else readRow s path o)

/-- A write to the register at an offset with its byte enables, on one access path (R13, R326). -/
def execRegisterWrite (path : Path) (off : BitVec 16) (v : Word) (be : BitVec 4) (s : State) : Out :=
  .next (writeReg s path (off.toNat / 4 * 4) v be)

/-- The moderation timer of CQ `q`, or of the EQ for 16 (R357). -/
def execInterruptTimerExpiry (q : Fin 17) (s : State) : Out := .next (timerExpiry s q.val)

/-- FLR, hot reset, link down or PERST# (R354). -/
def execFunctionReset (s : State) : Out := .next (functionReset s)

/-- Bus Master Enable (R354). -/
def execBusMasterEnableChange (on : Bool) (s : State) : Out := .next (setBme s on)

/-- A dword of the MSI-X table, a BAR0 access (R356, R389). -/
def execMsixTableWrite (vec : Fin 32) (dw : Fin 4) (v : Word) (s : State) : Out :=
  .next (if pathOpen s .host then msixWrite (dozeLeave s) vec.val dw.val v else s)

/-- A configuration request (R321, R322, R460). -/
def execPcieConfigAccess (reg : Fin 1024) (write : Option Word) (s : State) : Out := .next (configAccess s reg.val write)

/-- The TAP and the debug path (R276). -/
def execJtagTapAccess (op : TapOp) (s : State) : Out := .next (tapAccess s op)

end Sys2Proof.Machine
end

