-- ==== Sys2Proof/Machine/RowsSluice.lean ====
section
/-! DEFINITION. The rows of the release lanes, the sluice stages, DRIVE_HOLD and the tamper inputs (R197, R201, R202, R206,
R208, R424).

Marked choices (log entries): DEDUCED 70. -/

namespace Sys2Proof.Machine

open Sys2Proof

/-- A lane is dead (R201). -/
def execLaneDeath (l : LaneId) (c : LaneCause) (s : State) : Out := .next (laneDies s l c)

/-- A lane returns in SHADOW (R202). -/
def execLaneReturn (l : LaneId) (s : State) : Out := .next (laneReturns s l)

/-- A shadow lane becomes ACTIVE (R202). -/
def execLaneRejoin (l : LaneId) (s : State) : Out := .next (laneRejoins s l)

/-- A lane has been DEAD for more than 1 s (R424). -/
def execLaneDownTimeout (l : LaneId) (s : State) : Out := .next (laneTimeout s l)

/-- A current-limit trip, or a thermal shutdown (R206). -/
def execSluiceStageTrip (n : Fin 4) (thermal : Bool) (s : State) : Out := .next (stageTrip s n.val thermal)

/-- Three failed retries without DRIVE_HOLD (R206). -/
def execSluiceOutputFaulted (n : Fin 4) (s : State) : Out := .next (outputFaulted s n.val)

/-- An open load sets OPEN_LOAD and changes nothing else (R206). -/
def execSluiceOpenLoad (n : Fin 4) (s : State) : Out := .next (setOut s n.val { getOut s n.val with openLoad := true })

/-- The filtered level of DRIVE_HOLD (R197); a change leaves DOZE, and asserting is a wake source (R389, R392). -/
def execDriveHoldChange (level : Bool) (s : State) : Out :=
  let s1 := { s with slu := { s.slu with dhold := level } }
  .next (if level = s.slu.dhold then s else if level then wakeSource (dozeLeave s1) .driveHold else dozeLeave s1)

/-- A TAMP input after its debounce (R208); a change leaves DOZE and is a wake source (R389, R392). -/
def execTamperChange (i : Fin 4) (level : Bool) (s : State) : Out :=
  let m := BitVec.ofNat 4 (2 ^ i.val)
  let s1 := { s with slu := { s.slu with tampPin := if level then s.slu.tampPin ||| m else s.slu.tampPin &&& ~~~m } }
  .next (if level = s.slu.tampPin.getLsbD i.val then s else wakeSource (dozeLeave s1) (.tamp i))

end Sys2Proof.Machine
end

