-- ==== Sys2Proof/Machine/Dispatch.lean ====
section
/-! DEFINITION. What each command does to everything but the queue: one arm for each row of spec/opcode_table.json. -/

namespace Sys2Proof.Machine

open Sys2Proof

def exec (i : Instr) (s : State) : Host.Outcome State Fault Refusal :=
  match i with
  | .nop sq m => Sys2Proof.Machine.execNop sq m s
  | .snapshot sq m => Sys2Proof.Machine.execSnapshot sq m s
  | .sweep sq m => Sys2Proof.Machine.execSweep sq m s
  | .authToken sq m => Sys2Proof.Machine.execAuthToken sq m s
  | .locate sq m => Sys2Proof.Machine.execLocate sq m s
  | .enrol sq m => Sys2Proof.Machine.execEnrol sq m s
  | .rekeyToken sq m => Sys2Proof.Machine.execRekeyToken sq m s
  | .calChannel sq m => Sys2Proof.Machine.execCalChannel sq m s
  | .radioTx sq m => Sys2Proof.Machine.execRadioTx sq m s
  | .radioRxWindow sq m => Sys2Proof.Machine.execRadioRxWindow sq m s
  | .range sq m => Sys2Proof.Machine.execRange sq m s
  | .sluiceSet sq m => Sys2Proof.Machine.execSluiceSet sq m s
  | .sluiceStatus sq m => Sys2Proof.Machine.execSluiceStatus sq m s
  | .safeWithdraw sq m => Sys2Proof.Machine.execSafeWithdraw sq m s
  | .ledgerTopup sq m => Sys2Proof.Machine.execLedgerTopup sq m s
  | .ledgerQuery sq m => Sys2Proof.Machine.execLedgerQuery sq m s
  | .ledgerCheckpoint sq m => Sys2Proof.Machine.execLedgerCheckpoint sq m s
  | .journalRead sq m => Sys2Proof.Machine.execJournalRead sq m s
  | .cipherCmac sq m => Sys2Proof.Machine.execCipherCmac sq m s
  | .cipherCtr sq m => Sys2Proof.Machine.execCipherCtr sq m s
  | .ccmSeal sq m => Sys2Proof.Machine.execCcmSeal sq m s
  | .ccmOpen sq m => Sys2Proof.Machine.execCcmOpen sq m s
  | .keyDerive sq m => Sys2Proof.Machine.execKeyDerive sq m s
  | .keyInvalidate sq m => Sys2Proof.Machine.execKeyInvalidate sq m s
  | .keyInfo sq m => Sys2Proof.Machine.execKeyInfo sq m s
  | .keyImport sq m => Sys2Proof.Machine.execKeyImport sq m s
  | .rngGet sq m => Sys2Proof.Machine.execRngGet sq m s
  | .configStageImage sq m => Sys2Proof.Machine.execConfigStageImage sq m s
  | .configCommit sq m => Sys2Proof.Machine.execConfigCommit sq m s
  | .polderCtl sq m => Sys2Proof.Machine.execPolderCtl sq m s
  | .imageLoad sq m => Sys2Proof.Machine.execImageLoad sq m s
  | .restart sq m => Sys2Proof.Machine.execRestart sq m s
  | .lifecycleAdvance sq m => Sys2Proof.Machine.execLifecycleAdvance sq m s
  | .debugUnlock sq m => Sys2Proof.Machine.execDebugUnlock sq m s
  | .sqTailDoorbell sq v => Sys2Proof.Machine.execSqTailDoorbell sq v s
  | .cqHeadDoorbell cq v => Sys2Proof.Machine.execCqHeadDoorbell cq v s
  | .eqHeadDoorbell v => Sys2Proof.Machine.execEqHeadDoorbell v s
  | .descriptorFetch ds => Sys2Proof.Machine.execDescriptorFetch ds s
  | .sqEnable sq v => Sys2Proof.Machine.execSqEnable sq v s
  | .sqDisable sq v => Sys2Proof.Machine.execSqDisable sq v s
  | .cqEnable cq v => Sys2Proof.Machine.execCqEnable cq v s
  | .cqDisable cq v => Sys2Proof.Machine.execCqDisable cq v s
  | .eqEnable v => Sys2Proof.Machine.execEqEnable v s
  | .eqDisable v => Sys2Proof.Machine.execEqDisable v s
  | .qHoldWrite v => Sys2Proof.Machine.execQHoldWrite v s
  | .cfgHold on => Sys2Proof.Machine.execCfgHold on s
  | .cfgDiscard => Sys2Proof.Machine.execCfgDiscard s
  | .cfgSealRefWrite v => Sys2Proof.Machine.execCfgSealRefWrite v s
  | .sleepRequest => Sys2Proof.Machine.execSleepRequest s
  | .hibernateRequest => Sys2Proof.Machine.execHibernateRequest s
  | .ptmCapture => Sys2Proof.Machine.execPtmCapture s
  | .rlRead path off => Sys2Proof.Machine.execRlRead path off s
  | .poweredOffAccess path off write => Sys2Proof.Machine.execPoweredOffAccess path off write s
  | .registerWrite path off v be => Sys2Proof.Machine.execRegisterWrite path off v be s
  | .interruptTimerExpiry q => Sys2Proof.Machine.execInterruptTimerExpiry q s
  | .beatBoundary b => Sys2Proof.Machine.execBeatBoundary b s
  | .sealReload => Sys2Proof.Machine.execSealReload s
  | .sealReloadLimit => Sys2Proof.Machine.execSealReloadLimit s
  | .sealGraceExpiry => Sys2Proof.Machine.execSealGraceExpiry s
  | .leaseExpiry n => Sys2Proof.Machine.execLeaseExpiry n s
  | .verificationAgeOut ch => Sys2Proof.Machine.execVerificationAgeOut ch s
  | .tokenAgeOut reg => Sys2Proof.Machine.execTokenAgeOut reg s
  | .toleranceExpiry ch => Sys2Proof.Machine.execToleranceExpiry ch s
  | .leveeDeferLimit ch => Sys2Proof.Machine.execLeveeDeferLimit ch s
  | .uplinkReply ch r => Sys2Proof.Machine.execUplinkReply ch r s
  | .calibrationCommit ch => Sys2Proof.Machine.execCalibrationCommit ch s
  | .channelFault ch f => Sys2Proof.Machine.execChannelFault ch f s
  | .faultRetry ch => Sys2Proof.Machine.execFaultRetry ch s
  | .channelRetirement ch => Sys2Proof.Machine.execChannelRetirement ch s
  | .bankReady b => Sys2Proof.Machine.execBankReady b s
  | .bankSupplyFault b vdrv => Sys2Proof.Machine.execBankSupplyFault b vdrv s
  | .bankTemperatureChange b temp => Sys2Proof.Machine.execBankTemperatureChange b temp s
  | .bankLinkFrameError b retx undelivered => Sys2Proof.Machine.execBankLinkFrameError b retx undelivered s
  | .bankLinkRetirement b => Sys2Proof.Machine.execBankLinkRetirement b s
  | .polderAckTimeout p => Sys2Proof.Machine.execPolderAckTimeout p s
  | .polderFault p k => Sys2Proof.Machine.execPolderFault p k s
  | .polderFailover p => Sys2Proof.Machine.execPolderFailover p s
  | .polderFaultSelfTestDone p pass => Sys2Proof.Machine.execPolderFaultSelfTestDone p pass s
  | .polderStartSelfTestDone p pass => Sys2Proof.Machine.execPolderStartSelfTestDone p pass s
  | .spareSelfTest pass => Sys2Proof.Machine.execSpareSelfTest pass s
  | .polderFcntClear p => Sys2Proof.Machine.execPolderFcntClear p s
  | .rebalance => Sys2Proof.Machine.execRebalance s
  | .channelMoveWhenIdle ch => Sys2Proof.Machine.execChannelMoveWhenIdle ch s
  | .migrationRestart ch => Sys2Proof.Machine.execMigrationRestart ch s
  | .nextPassStart p => Sys2Proof.Machine.execNextPassStart p s
  | .laneDeath l c => Sys2Proof.Machine.execLaneDeath l c s
  | .laneReturn l => Sys2Proof.Machine.execLaneReturn l s
  | .laneRejoin l => Sys2Proof.Machine.execLaneRejoin l s
  | .laneDownTimeout l => Sys2Proof.Machine.execLaneDownTimeout l s
  | .sluiceStageTrip n thermal => Sys2Proof.Machine.execSluiceStageTrip n thermal s
  | .sluiceOutputFaulted n => Sys2Proof.Machine.execSluiceOutputFaulted n s
  | .sluiceOpenLoad n => Sys2Proof.Machine.execSluiceOpenLoad n s
  | .driveHoldChange level => Sys2Proof.Machine.execDriveHoldChange level s
  | .tamperChange idx level => Sys2Proof.Machine.execTamperChange idx level s
  | .voucherApply => Sys2Proof.Machine.execVoucherApply s
  | .meterInputFault vInput faulted => Sys2Proof.Machine.execMeterInputFault vInput faulted s
  | .counterRecordPeriodic => Sys2Proof.Machine.execCounterRecordPeriodic s
  | .meterSummaryPeriod => Sys2Proof.Machine.execMeterSummaryPeriod s
  | .journalSeal => Sys2Proof.Machine.execJournalSeal s
  | .journalChainCatchup => Sys2Proof.Machine.execJournalChainCatchup s
  | .dailyCheckpoint => Sys2Proof.Machine.execDailyCheckpoint s
  | .journalCompaction => Sys2Proof.Machine.execJournalCompaction s
  | .journalRoll => Sys2Proof.Machine.execJournalRoll s
  | .supplyWarning x bits => Sys2Proof.Machine.execSupplyWarning x bits s
  | .supplyUndervoltage x => Sys2Proof.Machine.execSupplyUndervoltage x s
  | .por => Sys2Proof.Machine.execPor s
  | .rstNAssert lowUs taken => Sys2Proof.Machine.execRstNAssert lowUs taken s
  | .rstNRelease => Sys2Proof.Machine.execRstNRelease s
  | .optionLoadDone aOk bOk => Sys2Proof.Machine.execOptionLoadDone aOk bOk s
  | .armatureLoadDone ticketOk => Sys2Proof.Machine.execArmatureLoadDone ticketOk s
  | .keeperBoot aOk bOk => Sys2Proof.Machine.execKeeperBoot aOk bOk s
  | .configImageLoad aOk bOk => Sys2Proof.Machine.execConfigImageLoad aOk bOk s
  | .domainSwitchOn d => Sys2Proof.Machine.execDomainSwitchOn d s
  | .domainReady d => Sys2Proof.Machine.execDomainReady d s
  | .domainSwitchOff d => Sys2Proof.Machine.execDomainSwitchOff d s
  | .startComplete => Sys2Proof.Machine.execStartComplete s
  | .startWatchdog => Sys2Proof.Machine.execStartWatchdog s
  | .keeperWatchdog => Sys2Proof.Machine.execKeeperWatchdog s
  | .keeperRestartDone => Sys2Proof.Machine.execKeeperRestartDone s
  | .functionReset => Sys2Proof.Machine.execFunctionReset s
  | .busMasterEnableChange on => Sys2Proof.Machine.execBusMasterEnableChange on s
  | .linkSpeedChange gen3 => Sys2Proof.Machine.execLinkSpeedChange gen3 s
  | .vcoreRampCheck reached => Sys2Proof.Machine.execVcoreRampCheck reached s
  | .ptmDialogue valid => Sys2Proof.Machine.execPtmDialogue valid s
  | .dozeEntry => Sys2Proof.Machine.execDozeEntry s
  | .dozeExit => Sys2Proof.Machine.execDozeExit s
  | .powerDownEntry => Sys2Proof.Machine.execPowerDownEntry s
  | .wake src => Sys2Proof.Machine.execWake src s
  | .wakeInPattern gapUs pulseUs => Sys2Proof.Machine.execWakeInPattern gapUs pulseUs s
  | .uhfSniff preamble => Sys2Proof.Machine.execUhfSniff preamble s
  | .devWake t => Sys2Proof.Machine.execDevWake t s
  | .rtcAlarm => Sys2Proof.Machine.execRtcAlarm s
  | .aonClockSwitch => Sys2Proof.Machine.execAonClockSwitch s
  | .aonCrystalFail => Sys2Proof.Machine.execAonCrystalFail s
  | .radioActivityStart lock clear => Sys2Proof.Machine.execRadioActivityStart lock clear s
  | .synthLockTimeout => Sys2Proof.Machine.execSynthLockTimeout s
  | .synthLockLost tone => Sys2Proof.Machine.execSynthLockLost tone s
  | .radioCalibration e r => Sys2Proof.Machine.execRadioCalibration e r s
  | .coexGrantTimeout => Sys2Proof.Machine.execCoexGrantTimeout s
  | .coexGntRise => Sys2Proof.Machine.execCoexGntRise s
  | .coexGntFall => Sys2Proof.Machine.execCoexGntFall s
  | .lbtRetry clear => Sys2Proof.Machine.execLbtRetry clear s
  | .dutyBinRoll => Sys2Proof.Machine.execDutyBinRoll s
  | .locReply t => Sys2Proof.Machine.execLocReply t s
  | .locatePollRoundEnd collided => Sys2Proof.Machine.execLocatePollRoundEnd collided s
  | .rangeReport t m => Sys2Proof.Machine.execRangeReport t m s
  | .rangeReportTimeout => Sys2Proof.Machine.execRangeReportTimeout s
  | .accessTelegram t => Sys2Proof.Machine.execAccessTelegram t s
  | .hostTelegramRx t => Sys2Proof.Machine.execHostTelegramRx t s
  | .rxWindowEnd => Sys2Proof.Machine.execRxWindowEnd s
  | .radioRetirement => Sys2Proof.Machine.execRadioRetirement s
  | .cipherMismatch agree => Sys2Proof.Machine.execCipherMismatch agree s
  | .cipherKatDone aOk bOk agree => Sys2Proof.Machine.execCipherKatDone aOk bOk agree s
  | .maskReseed => Sys2Proof.Machine.execMaskReseed s
  | .patinaPass onTime => Sys2Proof.Machine.execPatinaPass onTime s
  | .keyRamError idx => Sys2Proof.Machine.execKeyRamError idx s
  | .nodeUsageLimit idx => Sys2Proof.Machine.execNodeUsageLimit idx s
  | .usesMarkRaise idx => Sys2Proof.Machine.execUsesMarkRaise idx s
  | .instanceMarkRaise idx => Sys2Proof.Machine.execInstanceMarkRaise idx s
  | .sessResRaise idx => Sys2Proof.Machine.execSessResRaise idx s
  | .rekeyConfirm idx => Sys2Proof.Machine.execRekeyConfirm idx s
  | .registryChangeApply => Sys2Proof.Machine.execRegistryChangeApply s
  | .entropyWindowEnd srcB bits => Sys2Proof.Machine.execEntropyWindowEnd srcB bits s
  | .entropyWarmupTimeout => Sys2Proof.Machine.execEntropyWarmupTimeout s
  | .softReseedLimit => Sys2Proof.Machine.execSoftReseedLimit s
  | .hardReseedLimit => Sys2Proof.Machine.execHardReseedLimit s
  | .entropyWaitTimeout => Sys2Proof.Machine.execEntropyWaitTimeout s
  | .advanceClose => Sys2Proof.Machine.execAdvanceClose s
  | .advanceCommit => Sys2Proof.Machine.execAdvanceCommit s
  | .advanceDestroy => Sys2Proof.Machine.execAdvanceDestroy s
  | .advanceInstall => Sys2Proof.Machine.execAdvanceInstall s
  | .advanceResume => Sys2Proof.Machine.execAdvanceResume s
  | .debugOpen => Sys2Proof.Machine.execDebugOpen s
  | .debugWindowEnd => Sys2Proof.Machine.execDebugWindowEnd s
  | .retirementTableSwap => Sys2Proof.Machine.execRetirementTableSwap s
  | .supplyRecovery x => Sys2Proof.Machine.execSupplyRecovery x s
  | .perstDeassert => Sys2Proof.Machine.execPerstDeassert s
  | .linkL0Reached => Sys2Proof.Machine.execLinkL0Reached s
  | .wakeSignalTimeout => Sys2Proof.Machine.execWakeSignalTimeout s
  | .entryWaitExpiry => Sys2Proof.Machine.execEntryWaitExpiry s
  | .sniffSyncTimeout => Sys2Proof.Machine.execSniffSyncTimeout s
  | .calibrationDone ch r => Sys2Proof.Machine.execCalibrationDone ch r s
  | .flashWriteDone op ok => Sys2Proof.Machine.execFlashWriteDone op ok s
  | .jtagTapAccess op => Sys2Proof.Machine.execJtagTapAccess op s
  | .pcieConfigAccess reg write => Sys2Proof.Machine.execPcieConfigAccess reg write s
  | .msixTableWrite vec dw v => Sys2Proof.Machine.execMsixTableWrite vec dw v s

end Sys2Proof.Machine
end

