-- ==== Sys2Proof/Safety.lean ====
section
/-! DEFINITION. What a sound state of the block is, in the terms that statements use. -/

namespace Sys2Proof.Machine

open Sys2Proof

/-- R218 of one set of buckets: the conservation equation, and four that are never negative. -/
def BucketsOk (b : Buckets) : Prop :=
  b.balance + b.reserved + b.consumed + b.settled = b.accepted ∧ 0 ≤ b.reserved ∧ 0 ≤ b.consumed ∧ 0 ≤ b.settled ∧ 0 ≤ b.accepted

/-- The ledger keeps R218 in its counters and in its newest flash record, its two copies agree (R223), and the billing residue
is below one whole Wh (R220). -/
def LedgerOk (s : State) : Prop :=
  BucketsOk s.ldg.cA ∧ s.ldg.cB = s.ldg.cA ∧ s.ldg.billRes < 1000 ∧
    ∀ r, s.fl.counter = some r → BucketsOk r.bkt ∧ r.billRes < 1000

/-- Flash `f` once the device has written something: it renews what the debug port wrote over it and the words in error there
(R276, R414), so that `g`, the flash after, says which of those remain. -/
def rewritten (f g : Flash) : Flash := { f with dbgBytes := g.dbgBytes, weak := g.weak, bad := g.bad }

/-! ### A host command that begins and completes -/

/-- A command as it runs: its queue votes for its domains, and host memory does what the row says (R341, R349). -/
def runningCmd (c : Cmd) (m : HostMem) : Cmd := { c with voted := true, st := .running, outOk := m.outOk }

/-- The state in which a command's work begins. -/
def begun (s : State) (c : Cmd) (m : HostMem) : State := putCmd s (runningCmd c m)

/-- `c` is the oldest command with the opcode that may start on the SQ (R352), the keeper runs, the domains it needs are
ready (R349), and host memory returns its input (R341). -/
structure Begins (s : State) (sq : Fin 16) (op : Nat) (m : HostMem) (c : Cmd) (inp : List Byte) : Prop where
  keeper : keeperUp s = true
  oldest : oldestCmd s sq.val op = some c
  ready : domsReady s (cmdDomains s c.desc) = true
  input : (if descLenIn c.desc = 0 then some [] else m.inp) = some inp

/-- The CQ of an SQ takes a completion at once: it is ACTIVE, holds nothing back and has room (R332), the keeper does not
restart (R24) and the function is a bus master (R354). -/
structure CqTakes (s : State) (sq : Nat) : Prop where
  bus : s.ring.bme = true
  keeper : s.flt.restarting = false
  active : (getCq s (getSq s sq).cq).active = true
  noneHeld : (getCq s (getSq s sq).cq).held = []
  room : let q := getCq s (getSq s sq).cq; unreleased q.size q.head q.tail + 1 < ringSize q.size

/-- What the host sees of a command that completes in the beat in progress: its output, then its one completion at the CQ's
tail, then at most one message of the CQ's vector; the command is gone (R332, R335, R351, R353, R357). -/
def Posted (s t : State) (c : Cmd) (st : Status) (result : Nat) (out : List Byte) : Prop :=
  let n := (getSq s c.sq).cq
  let q := getCq s n
  (∃ irq, t.ring.out = s.ring.out ++ (if out = [] then [] else [.data (BitVec.ofNat 64 (descAddrOut c.desc)) out]) ++
      [.completion (q.base + BitVec.ofNat 64 (16 * q.tail)) n q.tail q.phase (getSq s c.sq).head
        ⟨BitVec.ofNat 16 (descCmdId c.desc), st, BitVec.ofNat 32 result, beat32 s, c.sq, descNoirq c.desc⟩] ++ irq ∧
    (irq = [] ∨ ∃ a d, irq = [.msix q.vector a d])) ∧ ∀ x ∈ t.ring.cmds, x.uid ≠ c.uid

/-- A command completes so, and nothing but the rings changes. -/
def PostedOnly (s t : State) (c : Cmd) (st : Status) (result : Nat) (out : List Byte) : Prop :=
  Posted s t c st result out ∧ t = { s with ring := t.ring }

/-! ### A host access that lands -/

/-- A host access to an offset is carried out: memory space is reached (R326), the offset may be written in the mode in force
(R412), its home domain, where it has one, is ready (R379), no keeper restart holds it back (R364). -/
structure Lands (s : State) (off : Nat) : Prop where
  reach : hostReach s = true
  recovery : (inSpillway s && !recovery off true) = false
  home : poweredOff s off = none
  keeper : s.flt.restarting = false

/-! ### A start that begins -/

/-- Phase 2 begins (R398, R399, R411): RST_CAUSE and RST_HIST take the resets gathered, the attempt is counted except in RMA,
and beside the power registers only the free value of the VIO level is drawn. -/
structure StartBegins (s t : State) : Prop where
  phase : t.pwr.phase = .optLoad
  cause : t.pwr.rstCause = s.pwr.rstPend
  hist : t.pwr.rstHist = s.pwr.rstHist ||| s.pwr.rstPend
  taken : t.pwr.rstPend = 0
  counted : t.fl.failedStarts = if lcState s = 5 then s.fl.failedStarts else min 15 (s.fl.failedStarts + 1)
  rest : t = { s with clk := { s.clk with fresh := s.clk.fresh + 1 }, fl := { s.fl with failedStarts := t.fl.failedStarts },
                      pwr := t.pwr }

/-- What a power-on reset keeps (R397): the fuses and what flash holds; time starts at 0. -/
structure PorKeeps (s t : State) : Prop where
  fuses : t.lcy.fuses = s.lcy.fuses
  journal : t.fl.journal = s.fl.journal ∧ t.fl.ckpts = s.fl.ckpts ∧ t.fl.counter = s.fl.counter
  beat : t.clk.beat = 0
  latches : ∀ n, n < 4 → (getOut t n).latched = false ∧ (getOut t n).armed = false
  histories : t.pwr.wakeCause = 0

/-- What RST_N keeps (R397): AON time, the meter, the credit, the fuses, the journal in flash; a sluice without a latch is
disarmed, one with a latch stays armed. -/
structure RstKeeps (s t : State) : Prop where
  fuses : t.lcy.fuses = s.lcy.fuses
  clock : t.clk = { s.clk with fresh := t.clk.fresh }
  meter : t.mtr = s.mtr
  credit : t.ldg.cA = s.ldg.cA ∧ t.ldg.cB = s.ldg.cB ∧ t.ldg.h = s.ldg.h ∧ t.ldg.map = s.ldg.map
  journal : t.fl.journal = s.fl.journal
  sluices : ∀ n, n < 4 → (getOut t n).armed = ((getOut s n).armed && (getOut s n).latched) ∧
    (getOut t n).latched = (getOut s n).latched

end Sys2Proof.Machine
end

