-- ==== Sys2Proof/Certificates/Slice0/Obligations.lean ====
section
/-! DEFINITION. The statements about the KZ9600 model, family by family: what each command does from a state that lets it run,
what it leaves alone, and what every step keeps. -/

section

open Sys2Proof Sys2Proof.Machine

/-! ### Every step -/

/-- A step takes the command at the front of the queue and runs it with the queue's rest; on an empty queue the block idles
(the queue, its order and the idling are the model's own: log entry 2). -/
def Obligations.StepRunsFront : Prop :=
  (∀ (c : Instr) (rest : List Instr) (s : State), s.pending = c :: rest → step s = exec c { s with pending := rest }) ∧
    ∀ s : State, s.pending = [] → step s = .next s

/-- Every command answers a next state, in every state, and leaves the queue behind it as it is (log entries 1 and 2). -/
def Obligations.EveryCommandAnswers : Prop :=
  ∀ (c : Instr) (s : State), ∃ t, exec c s = .next t ∧ t.pending = s.pending

/-- R218 is kept by every step: where the buckets of the counters and of the newest flash record balance and only BALANCE may
be negative, the two counter copies agree (R223) and less than one whole Wh is left to bill (R220), the same holds after any
command. Counts are unbounded integers here: R218's 64 bits are not claimed. -/
def Obligations.LedgerStaysConserved : Prop :=
  ∀ s t : State, LedgerOk s → step s = .next t → LedgerOk t

/-- The ledger's invariant holds at reset: every counter is 0 and flash holds no counter record (the flash contents of a
shipped part: log entry 10). -/
def Obligations.LedgerConservedAtReset : Prop := LedgerOk State.reset

/-- BEAT_COUNT never decreases and never skips a value but by a power-on reset (R31): a step leaves it, or a BEAT_BOUNDARY
adds 1, or POR (its own row, or VAON below its threshold) clears it. -/
def Obligations.BeatCountNeverSkips : Prop :=
  ∀ s t : State, step s = .next t →
    t.clk.beat = s.clk.beat ∨
    (∃ b rest, s.pending = .beatBoundary b :: rest ∧ t.clk.beat = s.clk.beat + 1) ∨
    ((∃ rest, s.pending = .por :: rest ∨ s.pending = .supplyUndervoltage .vaon :: rest) ∧ t.clk.beat = 0)

/-- Fuses are only ever added, and only by the commit of an advance (R265, R269). -/
def Obligations.FusesOnlyAddedByCommit : Prop :=
  ∀ s t : State, step s = .next t →
    t.lcy.fuses = s.lcy.fuses ∨
    (∃ rest, s.pending = .advanceCommit :: rest) ∧ ∀ i : Nat, s.lcy.fuses.getLsbD i = true → t.lcy.fuses.getLsbD i = true

/-- What POR leaves: BEAT_COUNT 0 (R31), every SQ and CQ and the EQ DISABLED, Q_HOLD 0 (R329, R350), the debug session LOCKED
(R272), every sluice withdrawn and disarmed (R198), no pending write and HOLD 0 (R364), every staged register at its reset
value, PHASE AON_INIT with the AON domain alone on (R399); nothing waits in the model's own queue. -/
def Obligations.ResetState : Prop :=
  State.reset.pending = [] ∧ State.reset.clk.beat = 0 ∧
    (∀ n, (getSq State.reset n).st = .disabled) ∧ (∀ n, (getCq State.reset n).active = false) ∧
    State.reset.ring.eq.active = false ∧ State.reset.ring.holdVotes = 0 ∧ State.reset.ring.out = [] ∧
    State.reset.lcy.dbg = .locked ∧ State.reset.cfg.staged = [] ∧ State.reset.cfg.hold = false ∧
    (∀ r, reg State.reset r = regReset r) ∧
    (∀ n, (getOut State.reset n).armed = false ∧ (getOut State.reset n).latched = false) ∧ anyReleased State.reset = false ∧
    State.reset.pwr.phase = .aonInit ∧ (∀ d, (getDom State.reset d).on = decide (d = 0))

/-! ### Host commands -/

/-- NOP (R343): the device accepts no reserved bit in DW8 to DW15, and no length; the command completes with OK and RESULT 0
once it is its SQ's oldest uncompleted command, and not before; with FENCE = 1 nothing later of its SQ starts before it has
completed (R352). -/
def Obligations.NopCompletesInTurn : Prop :=
  (∀ (s : State) (d : Desc), descOpcode d = 0x01 → checkDesc s d = none →
    (∀ w ∈ descOps d, w = 0) ∧ descLenIn d = 0 ∧ descLenOut d = 0) ∧
  (∀ (s : State) (sq : Fin 16) (m : HostMem) (c : Cmd), Begins s sq 0x01 m c [] →
    (∀ x ∈ s.ring.cmds, x.sq = sq.val → c.uid ≤ x.uid) → CqTakes s sq.val →
    ∃ t, exec (.nop sq m) s = .next t ∧ PostedOnly s t c .ok 0 []) ∧
  (∀ (s : State) (sq : Fin 16) (m : HostMem) (c x : Cmd), oldestCmd s sq.val 0x01 = some c → x ∈ s.ring.cmds →
    x.sq = sq.val → x.uid < c.uid → exec (.nop sq m) s = .next s) ∧
  ∀ (s : State) (sq op : Nat) (c x : Cmd), c ∈ s.ring.cmds → c.sq = sq → descFence c.desc = true →
    oldestCmd s sq op = some x → x.uid ≤ c.uid

/-- SNAPSHOT, SLUICE_STATUS, LEDGER_QUERY, LEDGER_CHECKPOINT and CONFIG_COMMIT begin at their row: the command runs, its queue
votes for its domains, and nothing else changes; what they capture falls at the next boundary (R60, R207, R244, R245, R375). A
boundary's captures complete the commands that run (step 5 of R33): a lone SNAPSHOT with the sections it asks for, a lone
SLUICE_STATUS with its report and a lone LEDGER_QUERY with its report, where LEN_OUT asks for them. -/
def Obligations.CapturesBeginAndComplete : Prop :=
  (∀ (s : State) (sq : Fin 16) (m : HostMem) (c : Cmd) (inp : List Byte),
    (Begins s sq 0x02 m c inp → exec (.snapshot sq m) s = .next (begun s c m)) ∧
    (Begins s sq 0x31 m c inp → exec (.sluiceStatus sq m) s = .next (begun s c m)) ∧
    (Begins s sq 0x41 m c inp → exec (.ledgerQuery sq m) s = .next (begun s c m)) ∧
    (Begins s sq 0x42 m c inp → keyBusy s = false → exec (.ledgerCheckpoint sq m) s = .next (begun s c m)) ∧
    (Begins s sq 0x71 m c inp → exec (.configCommit sq m) s = .next (begun s c m))) ∧
  (∀ (s : State) (c : Cmd), keeperUp s = true → s.ring.cmds = [c] → c.st = .running → c.sq < 16 → c.outOk = true →
    CqTakes s c.sq →
    (descOpcode c.desc = 0x02 → PostedOnly s (captureStep s) c .ok (snapshotBytes s (fld c.desc.dw8 0 7)).length
      (snapshotBytes s (fld c.desc.dw8 0 7))) ∧
    (descOpcode c.desc = 0x31 → PostedOnly s (captureStep s) c .ok (sluResult s)
      (if descLenOut c.desc = 0 then [] else sluReport s)) ∧
    (descOpcode c.desc = 0x41 → PostedOnly s (captureStep s) c .ok
      (if descLenOut c.desc = 0 then [] else ledgerReport s).length (if descLenOut c.desc = 0 then [] else ledgerReport s)))

/-- KEY_INFO returns the record of the node that its handle or its index names, nothing where LEN_OUT is 0 (R261);
JOURNAL_READ returns journal records or checkpoints, RESULT the number of them (R246), and counts the words of the records that
SECDED corrects (R414). Neither changes more than the rings. -/
def Obligations.ReportsComplete : Prop :=
  ∀ (s : State) (sq : Fin 16) (m : HostMem) (c : Cmd) (inp : List Byte), CqTakes s sq.val → m.outOk = true →
    (∀ i, Begins s sq 0x5A m c inp → keyBusy s = false → infoIndex s c.desc = some i →
      ∃ t, exec (.keyInfo sq m) s = .next t ∧
        PostedOnly s t c .ok (if descLenOut c.desc = 0 then [] else nodeBytes s i).length
          (if descLenOut c.desc = 0 then [] else nodeBytes s i)) ∧
    (Begins s sq 0x48 m c inp → fld c.desc.dw8 0 2 = 0 →
      let k := c.desc.dw9.toNat + fld c.desc.dw10 0 16 * 2 ^ 32
      let x := readRecs s k c.desc.dw11.toNat
      ∃ t, exec (.journalRead sq m) s = .next t ∧ PostedOnly (countRead s k c.desc.dw11.toNat) t c .ok x.2 x.1 ∧
        t = { s with ring := t.ring, flt := t.flt } ∧ (s.fl.weak = [] → t.flt = s.flt)) ∧
    (Begins s sq 0x48 m c inp → fld c.desc.dw8 0 2 = 1 →
      let x := readCkpts s c.desc.dw9.toNat c.desc.dw11.toNat
      ∃ t, exec (.journalRead sq m) s = .next t ∧ PostedOnly s t c .ok x.2 x.1)

/-- The cipher commands on a usable host node: CIPHER_CMAC gives the first TLEN bytes of the tag or the verdict on the one
given, CIPHER_CTR the data, CCM_SEAL the nonce, ciphertext and tag, CCM_OPEN the plaintext of a message whose tag verifies
(R301 to R304); each counts one use of the node (R254), and no other node, nor anything outside the rings, the armature and
the engine, changes. -/
def Obligations.CipherCommandsComplete : Prop :=
  ∀ (s : State) (sq : Fin 16) (m : HostMem) (c : Cmd) (inp : List Byte) (i : Nat), CqTakes s sq.val → m.outOk = true →
    cipherJudge s c = .go → nodeOfHandle s c.desc.dw8.toNat = some i → (getNode s i).uses + 1 < (getNode s i).limit →
    let d := c.desc
    let n := getNode s i
    let msg := padTo (descLenIn d) inp
    let used := fun t : State => (getNode t i).uses = n.uses + 1 ∧ (∀ j, j ≠ i → getNode t j = getNode s j) ∧
      t = { s with ring := t.ring, key := t.key, cip := t.cip }
    (Begins s sq 0x50 m c inp → bitOf d.dw9 8 = false → ∃ t, exec (.cipherCmac sq m) s = .next t ∧ used t ∧
      Posted s t c .ok 0 (ofN ((cmac (nodeKey n) (toN msg)).take (fld d.dw9 0 5)))) ∧
    (Begins s sq 0x50 m c inp → bitOf d.dw9 8 = true → ∃ t, exec (.cipherCmac sq m) s = .next t ∧ used t ∧
      Posted s t c (if (cmac (nodeKey n) (toN msg)).take (fld d.dw9 0 5) = (descBytes16 d).take (fld d.dw9 0 5) then .ok
        else .tagMismatch) 0 []) ∧
    (Begins s sq 0x51 m c inp → msg ≠ [] → ∃ t, exec (.cipherCtr sq m) s = .next t ∧ used t ∧
      Posted s t c .ok ((msg.length + 15) / 16) (ofN (ctr (nodeKey n) (descBytes16 d) (toN msg)))) ∧
    (Begins s sq 0x52 m c inp → ∃ t, exec (.ccmSeal sq m) s = .next t ∧ used t ∧
      let alen := fld d.dw10 0 24
      let nonce := sealNonce (fld d.dw9 16 16) d.dw8.toNat (n.uses + 1)
      let r := ccmSealBytes (nodeKey n) nonce (toN (msg.take alen)) (toN (msg.drop alen)) (fld d.dw9 0 5)
      Posted s t c .ok ((n.uses + 1) % 2 ^ 32) (ofN (nonce ++ List.replicate 4 0 ++ r.1 ++ r.2))) ∧
    (∀ pt, Begins s sq 0x53 m c inp →
      (let alen := fld d.dw10 0 24
       let plen := msg.length - alen - fld d.dw9 0 5
       ccmOpenBytes (nodeKey n) ((descBytes16 d).take (fld d.dw9 8 4)) (toN (msg.take alen)) (toN (slice msg alen plen))
        (toN (msg.drop (alen + plen)))) = some pt →
      ∃ t, exec (.ccmOpen sq m) s = .next t ∧ used t ∧ Posted s t c .ok 0 (ofN pt))

/-- KEY_DERIVE enters an ACTIVE node of type HOST_DERIVED under its parent, with the key that R248 derives, and counts one use
of the parent (R254, R259); KEY_INVALIDATE removes the node with its descendants, those on which an operation is in flight
once it has ended (R257, R260). RESULT is the new handle, and the number of nodes. KEY_IMPORT of a blob that passes every
check of R263 enters its node, ACTIVE and PERSISTENT, under the plinth, with the key, generation, label and limit of the blob,
USES 0, of a ledger node 1 for the K_v derived from it (R226, R254); ISEQ becomes the blob's; RESULT is the handle. -/
def Obligations.KeyCommandsComplete : Prop :=
  (∀ (s : State) (sq : Fin 16) (m : HostMem) (c : Cmd) (inp : List Byte), CqTakes s sq.val →
    (∀ p i, Begins s sq 0x58 m c inp → deriveJudge s c = .go → nodeOfHandle s c.desc.dw8.toNat = some p →
      freeHostIndex s = some i → (getNode s p).uses + 1 < (getNode s p).limit →
      ∃ t, exec (.keyDerive sq m) s = .next t ∧ Posted s t c .ok (handleOf t i) [] ∧
        (let n := getNode t i
         n.st = .active ∧ n.type = 5 ∧ n.loaded = true ∧ n.owner = 0x20#8 ∧ n.uses = 0 ∧ n.level = (getNode s p).level + 1 ∧
           n.parent = BitVec.ofNat 32 (handleOf s p) ∧ n.label = descLabel c.desc ∧ n.beat = s.clk.beat ∧
           n.gen = BitVec.ofNat 16 (nextGen s p (descLabel c.desc)) ∧
           n.key = BitVec.ofNat 256 (beN (kdf (nodeKey (getNode s p)) (toN (leBytes (descLabel c.desc).toNat 16))
             (nBe Config.deviceUid.toNat 8 ++ nBe (nextGen s p (descLabel c.desc)) 2) (bitOf c.desc.dw9 0)))) ∧
        (getNode t p).uses = (getNode s p).uses + 1 ∧ (∀ j, j ≠ i → j ≠ p → getNode t j = getNode s j) ∧
        t = { s with ring := t.ring, key := t.key, cip := t.cip }) ∧
    (∀ i, Begins s sq 0x59 m c inp → s.key.ready = true → nodeOfHandle s c.desc.dw8.toNat = some i →
      ((getNode s i).type = 4 ∨ (getNode s i).type = 5) →
      ∃ t, exec (.keyInvalidate sq m) s = .next t ∧ Posted s t c .ok (subtree s i).length [] ∧
        (∀ j ∈ subtree s i, (getNode s j).st = .active ∨ (getNode s j).st = .retired →
          smFind t.fl.keyStore j = none ∧ (nodeBusy s j = false → getNode t j = Node.free) ∧
          (nodeBusy s j = true → getNode t j = { getNode s j with st := .invalid, loaded := false, key := 0 })) ∧
        (∀ j, j ∉ subtree s i → getNode t j = getNode s j) ∧
        t = { s with ring := t.ring, key := t.key, jrn := t.jrn, pwr := { s.pwr with startRecs := t.pwr.startRecs },
                     fl := { s.fl with keyStore := t.fl.keyStore } })) ∧
  (∀ (s : State) (sq : Fin 16) (m : HostMem) (c : Cmd) (inp : List Byte) (key : List Nat) (i : Nat),
    Begins s sq 0x5B m c inp → importJudge s c = .go → CqTakes s sq.val →
    let b := padTo (descLenIn c.desc) inp
    let ty := leAt b 2 1
    blobShape b = true → BitVec.ofNat 64 (leAt b 4 8) = Config.deviceUid → leAt b 12 1 = lcState s → engineFailed s = false →
    nodeLive s 1 = true → blobKey s b = some key → blobFresh s b = true → blobIndex s b = some i →
    (∀ j ∈ subtree s i, 2 < j) → (ty = 2 → 1 < limitOf (leAt b 32 6)) →
    (∀ j, j = 1 ∨ j = 2 → (getNode s j).uses + 1 < (getNode s j).limit) →
    ∃ t, exec (.keyImport sq m) s = .next t ∧ Posted s t c .ok (handleOf t i) [] ∧
      (let n := getNode t i
       n.st = .active ∧ n.loaded = true ∧ n.persistent = true ∧ n.type = ty + 1 ∧ n.level = 1 ∧
         n.uses = (if ty = 2 then 1 else 0) ∧
         n.gen = BitVec.ofNat 16 (leAt b 14 2) ∧ n.label = BitVec.ofNat 128 (leAt b 16 16) ∧ n.limit = limitOf (leAt b 32 6) ∧
         n.key = BitVec.ofNat 256 (beN (if leAt b 13 1 = 1 then key else key.take 16)) ∧
         smFind t.fl.keyStore i = some { n with uses := 0 }) ∧
      t.key.iseq = BitVec.ofNat 32 (leAt b 40 4) ∧ t.tok = s.tok ∧ t.slu = s.slu ∧ t.lf = s.lf ∧ t.lcy = s.lcy ∧ t.mtr = s.mtr)

/-- RNG_GET for 1 to 4096 bytes while the generator is READY, within its reseed limits, with nobody waiting: one Generate
request gives the bytes and leaves its new key and V (R313, R320). -/
def Obligations.RngGetCompletes : Prop :=
  ∀ (s : State) (sq : Fin 16) (m : HostMem) (c : Cmd),
    Begins s sq 0x60 m c [] → CqTakes s sq.val → m.outOk = true → c.bytes = [] →
    1 ≤ descLenOut c.desc → descLenOut c.desc ≤ 4096 →
    s.ent.st = .ready → softDue s = false → hardDue s = false → s.ent.waiting = [] →
    let g := drbgGenerate (nBe s.ent.key.toNat 32) s.ent.v.toNat (descLenOut c.desc)
    ∃ t, exec (.rngGet sq m) s = .next t ∧ Posted s t c .ok (ofN g.1).length (ofN g.1) ∧
      t = { s with ring := t.ring,
                   ent := { s.ent with key := BitVec.ofNat 256 (beN g.2.1), v := BitVec.ofNat 128 g.2.2, reqs := s.ent.reqs + 1 } }

/-- A sequence of LF work is asked of channels that have a transaction in flight: SWEEP queues one AUTH on each named slot,
AUTH_TOKEN one on a slot, one with the addressed token, or a discovery, REKEY_TOKEN its sequence, ENROL its air sequence,
DEBUG_UNLOCK its AUTH, CAL_CHANNEL one calibration for each named channel, LOCATE one transaction on each coil; the work
stands behind what is queued (R37), and nothing starts at the command itself (R76, R142, R151, R152, R157, R175, R273). -/
def Obligations.LfCommandsQueue : Prop :=
  ∀ (s : State) (sq : Fin 16) (m : HostMem) (c : Cmd),
    let d := c.desc
    let ch := chanField d
    let busy := fun n => ∃ j, headOf s n = some j ∧ jobInFlight j = true
    let job := fun kind reg => newJob c.uid kind (descPrio d) (some (polField d)) reg
    let with_ := fun n => putCmd s { runningCmd c m with left := n }
    (Begins s sq 0x10 m c [] → sweepJudge s c = .go →
      (∀ n ∈ maskChans d, busy n ∧ skipReason s n (some (polField d)) true = none) →
      exec (.sweep sq m) s = .next ((maskChans d).foldl (fun z n => pushJob z n (job .sweep 4096)) (with_ (maskChans d).length))) ∧
    (Begins s sq 0x11 m c [] → authJudge s c = .go → busy ch → roleOf s ch = 0 → skipReason s ch (some (polField d)) true = none →
      exec (.authToken sq m) s = .next (pushJob (with_ 1) ch (job .sweep 4096))) ∧
    (∀ i, Begins s sq 0x11 m c [] → authJudge s c = .go → busy ch → roleOf s ch ≠ 0 →
      skipReason s ch (some (polField d)) false = none → bitOf d.dw8 3 = true → addressedEntry s d = some i →
      exec (.authToken sq m) s = .next (pushJob (with_ 1) ch (job .addressed i))) ∧
    (Begins s sq 0x11 m c [] → authJudge s c = .go → busy ch → roleOf s ch ≠ 0 → skipReason s ch (some (polField d)) false = none →
      bitOf d.dw8 3 = false → exec (.authToken sq m) s = .next (pushJob (with_ 1) ch (job .discover 4096))) ∧
    (∀ i, Begins s sq 0x14 m c [] → rekeyJudge s c = .go → busy ch → skipReason s ch (some (polField d)) false = none →
      rekeyEntry s d = some i → (getReg s i).gen ≠ 0xFFFF#16 → exec (.rekeyToken sq m) s = .next (pushJob (with_ 1) ch (job .rekey i))) ∧
    (Begins s sq 0x13 m c [] → enrolJudge s c = .go → busy ch → enrolMode d ≤ 1 → s.cfg.enrolProg.active = false →
      exec (.enrol sq m) s = .next (pushJob { begun s c m with cfg := { s.cfg with enrolProg := ⟨0, 0, true⟩ } } ch
        (job (if enrolMode d = 0 then .enrolSlot else .enrolKey) 4096))) ∧
    (∀ i, Begins s sq 0x79 m c [] → unlockAction d ≠ 0 → unlockJudge s c = .go → unlockDenied s d = 0 → busy ch →
      findId s (tokenField d) = some i → exec (.debugUnlock sq m) s = .next (pushJob (begun s c m) ch (job .unlock i))) ∧
    (Begins s sq 0x18 m c [] → calJudge s c = .go →
      (∀ n ∈ calChans s d, busy n ∧ calSkip s n (bitOf d.dw8 3 && chanRetired s n) = none) →
      exec (.calChannel sq m) s = .next ((calChans s d).foldl (fun z n => pushJob z n (newJob c.uid
        (.cal (fld d.dw8 0 2) (bitOf d.dw8 2) (bitOf d.dw8 3 && chanRetired s n)) (descPrio d) none 4096))
        (with_ (calChans s d).length))) ∧
    (Begins s sq 0x12 m c [] → locateJudge s c = .go → (∀ n ∈ maskChans d, busy n) →
      let coils := (maskChans d).filter fun n => !chanRetired s n
      exec (.locate sq m) s = .next (coils.foldl (fun z n => pushJob z n (job (.loc (decide (n = coils.headD 0))) 4096))
        (begun s c m)))

/-- RADIO_TX, RADIO_RX_WINDOW and RANGE take their place behind the activities that wait, with what their descriptors name; a
RANGE takes its 48 bits from the generator at once where it serves them (R163, R167, R179, R186 to R188, R314). -/
def Obligations.RadioCommandsQueue : Prop :=
  ∀ (s : State) (sq : Fin 16) (m : HostMem) (c : Cmd) (inp : List Byte),
    let d := c.desc
    (Begins s sq 0x20 m c inp → radioOff s = false → 0x80 ≤ leAt (padTo (descLenIn d) inp) 0 1 →
      exec (.radioTx sq m) s = .next
        { putCmd s { runningCmd c m with bytes := padTo (descLenIn d) inp } with
          rad := { s.rad with waiting := s.rad.waiting ++
            [{ newAct c.uid .tx (descPrio d) (fld d.dw8 0 6) (fld d.dw8 8 3) (fld d.dw8 12 2) (sgn 8 (fld d.dw8 16 8)) with
               coexPrio := bitOf d.dw8 24, airUs := telegramUs (padTo (descLenIn d) inp).length (fld d.dw8 8 3),
               seedReady := true }] } }) ∧
    (Begins s sq 0x21 m c inp → radioOff s = false → windowMs d ≠ 0 →
      exec (.radioRxWindow sq m) s = .next
        { begun s c m with
          rad := { s.rad with waiting := s.rad.waiting ++
            [{ newAct c.uid .window (descPrio d) (fld d.dw8 0 6) (fld d.dw8 8 3) (fld d.dw8 12 2) 0 with
               polder := pickPolder s (fld d.dw8 24 3), seedReady := true }] } }) ∧
    (∀ i, Begins s sq 0x22 m c inp → rangeJudge s c = .go → addressedEntry s d = some i →
      s.ent.st = .ready → softDue s = false → hardDue s = false → (∀ w ∈ s.ent.waiting, w.cls ≠ 0) →
      let g := drbgGenerate (nBe s.ent.key.toNat 32) s.ent.v.toNat 6
      exec (.range sq m) s = .next
        { begun s c m with
          ent := { s.ent with key := BitVec.ofNat 256 (beN g.2.1), v := BitVec.ofNat 128 g.2.2, reqs := s.ent.reqs + 1 },
          rad := { s.rad with waiting := s.rad.waiting ++
            [{ rangeAct s c.uid (descPrio d) i (rangeNt s d) (pickPolder s (polField d)) false false 0 with
               seed := beN g.1, seedReady := true }] } })

/-- SLUICE_SET notes what the next boundary arms, disarms and clears, the later command deciding (R194); a CONFIRM of
SAFE_WITHDRAW that meets its PREPARE asks the next boundary for the withdrawal, one that does not completes with AUTH_FAIL;
either step takes the PREPARE away and is journalled where a chain is open (R199, R235). -/
def Obligations.SluiceCommandsTakeEffect : Prop :=
  ∀ (s : State) (sq : Fin 16) (m : HostMem) (c : Cmd),
    let d := c.desc
    let arm := BitVec.ofNat 4 (fld d.dw8 0 4)
    let dis := BitVec.ofNat 4 (fld d.dw8 4 4)
    (Begins s sq 0x30 m c [] → setJudge s c = .go →
      exec (.sluiceSet sq m) s = .next
        { begun s c m with
          slu := { s.slu with armDue := (s.slu.armDue ||| arm) &&& ~~~dis, disarmDue := (s.slu.disarmDue ||| dis) &&& ~~~arm,
                              faultClrDue := s.slu.faultClrDue ||| BitVec.ofNat 4 (fld d.dw8 8 4),
                              setUids := s.slu.setUids ++ [c.uid] } }) ∧
    (Begins s sq 0x32 m c [] → bitOf d.dw8 0 = true → confirmOk s c = true →
      ∃ t, exec (.safeWithdraw sq m) s = .next t ∧
        t = { begun s c m with
              slu := { s.slu with prepare := none, withdrawDue := s.slu.withdrawDue ||| dis, setUids := s.slu.setUids ++ [c.uid] },
              jrn := (stageSafe s 9 (fld d.dw8 4 4)).jrn }) ∧
    (Begins s sq 0x32 m c [] → bitOf d.dw8 0 = true → CqTakes s sq.val → s.slu.prepare = none →
      ∃ t, exec (.safeWithdraw sq m) s = .next t ∧ Posted s t c .authFail 0 [] ∧
        t = { s with ring := t.ring, jrn := (stageSafe s 9 (fld d.dw8 4 4)).jrn })

/-- LEDGER_TOPUP judges its vouchers in order and leaves the movements to the next boundary: no bucket changes at the command
(R221, R227, R228). -/
def Obligations.LedgerTopupQueues : Prop :=
  ∀ (s : State) (sq : Fin 16) (m : HostMem) (c : Cmd) (inp : List Byte),
    Begins s sq 0x40 m c inp → keyBusy s = false → engineFailed s = false →
    ∃ (t : State) (vs : List Voucher), exec (.ledgerTopup sq m) s = .next t ∧ vs.length = descLenIn c.desc / 64 ∧
      t.ldg = { s.ldg with due := s.ldg.due ++ vs.map fun v => (c.uid, v) } ∧
      (∀ v ∈ vs, s.ldg.st ≠ .active → v.refused = some .lifecycleDenied) ∧ t.ring = (begun s c m).ring ∧
      t = { s with ring := t.ring, ldg := t.ldg, key := t.key, cip := t.cip, jrn := t.jrn,
                   pwr := { s.pwr with startRecs := t.pwr.startRecs }, fl := { s.fl with keyStore := t.fl.keyStore } }

/-- CONFIG_STAGE_IMAGE stages a good image whole (R376); IMAGE_LOAD takes a valid image for the slot that does not run and is
at 900 of 1000 (R346, R377); LIFECYCLE_ADVANCE with a good ticket writes it and begins phase 1 with the fuses as they are
(R268, R269); RESTART of the keeper, or on its other image, holds back what needs the keeper (R24, R347, R413). -/
def Obligations.DeviceCommandsBegin : Prop :=
  ∀ (s : State) (sq : Fin 16) (m : HostMem) (c : Cmd) (inp : List Byte),
    let b := padTo (descLenIn c.desc) inp
    (Begins s sq 0x70 m c inp → s.cfg.imageUid = none → s.cfg.hold = false →
      crc32c (toN (b.take (descLenIn c.desc - 4))) = leAt b (descLenIn c.desc - 4) 4 → leAt b 0 2 = 0x4301 →
      descLenIn c.desc = 16 + 8 * leAt b 2 2 → firstBad none 0 (imageEntries b) = none →
      let ws := (imageEntries b).filter fun e => !s.cfg.eccShadow.contains e.1
      exec (.configStageImage sq m) s = .next
        { begun s c m with
          cfg := { s.cfg with staged := ws.foldl (fun z e => smIns z e.1 e.2) s.cfg.staged, imageSet := ws.map (·.1),
                              imageUid := some c.uid } }) ∧
    (Begins s sq 0x73 m c inp → s.fl.imageJob = none → keeperShape s b (descLenIn c.desc) = true →
      keeperTagOk s b (descLenIn c.desc) = true →
      ∃ t, exec (.imageLoad sq m) s = .next t ∧
        t = { s with ring := t.ring, cfg := { s.cfg with imgProg := ⟨900, (descLenIn c.desc + 1023) / 1024, true⟩ },
                     fl := { s.fl with imageJob := some (c.uid, ⟨leAt b 4 4, leAt b 8 4, true⟩, bitOf c.desc.dw8 0) } }) ∧
    (Begins s sq 0x78 m c inp → engineFailed s = false → advanceCheck s b = 0 → s.lcy.dbg = .locked →
      ∃ t, exec (.lifecycleAdvance sq m) s = .next t ∧
        t = { s with ring := t.ring, jrn := t.jrn, pwr := { s.pwr with startRecs := t.pwr.startRecs },
                     fl := { s.fl with newTicket := some (parseTicket b) },
                     lcy := { s.lcy with adv := some ⟨c.uid, parseTicket b, 1, decide (s.ldg.st = .active), false⟩,
                                         prog := ⟨0, 0, true⟩ } }) ∧
    (Begins s sq 0x74 m c inp → fld c.desc.dw8 0 2 = 0 →
      exec (.restart sq m) s = .next
        { begun s c m with flt := { s.flt with restarting := true, restartUids := s.flt.restartUids ++ [c.uid] },
                           slu := { s.slu with prepare := none } }) ∧
    (Begins s sq 0x74 m c inp → fld c.desc.dw8 0 2 = 1 → inSpillway s = false → otherImageOk s = true →
      ∃ t, exec (.restart sq m) s = .next t ∧ t.pwr = { s.pwr with imageB := inactiveB s } ∧ t.flt.restarting = true ∧
        t.flt.restartUids = s.flt.restartUids ++ [c.uid] ∧ t.fl.lastActivatedB = inactiveB s ∧ t.slu.prepare = none ∧
        t = { begun s c m with pwr := t.pwr, flt := t.flt, slu := t.slu, fl := t.fl })

/-- POLDER_CTL: STOP_DRAIN and STOP_NOW wait for the next boundary, START and MAKE_SPARE of a polder without power run its
self-test, MAKE_SPARE of an idle RUNNING polder waits for the next boundary, REBALANCE is noted (R55 to R58). -/
def Obligations.PolderCtlTakesEffect : Prop :=
  ∀ (s : State) (sq : Fin 16) (m : HostMem) (c : Cmd), Begins s sq 0x72 m c [] → ctlJudge s c = .go →
    let p := ctlPolder c.desc
    let x := getPol s p
    (ctlAction c.desc ≤ 1 → exec (.polderCtl sq m) s = .next (setPol (begun s c m) p
      { x with cmdUid := some c.uid, stopDue := true, stopNow := decide (ctlAction c.desc = 1) })) ∧
    (ctlAction c.desc = 2 → exec (.polderCtl sq m) s = .next (setPol (begun s c m) p
      { x with cmdUid := some c.uid, st := .starting, makeSpare := false })) ∧
    (ctlAction c.desc = 3 → x.st ≠ .running → exec (.polderCtl sq m) s = .next (setPol (begun s c m) p
      { x with cmdUid := some c.uid, st := .starting, makeSpare := true })) ∧
    (ctlAction c.desc = 3 → x.st = .running → exec (.polderCtl sq m) s = .next (setPol (begun s c m) p
      { x with cmdUid := some c.uid, makeSpare := true, upDue := true })) ∧
    (ctlAction c.desc = 5 → exec (.polderCtl sq m) s = .next { begun s c m with lf := { s.lf with rebalUid := some c.uid } })

/-! ### Doorbells, queues and registers -/

/-- A doorbell that names an index of its ring is acted on at once (R327): an SQ's TAIL, a CQ's HEAD (with nothing held back),
the EQ's HEAD, whose timer restarts while counted entries remain (R357). One to a queue that is not ACTIVE, or with a value
that is no index, is dropped and sets DB_DISABLED or DB_RANGE. -/
def Obligations.DoorbellsActAtOnce : Prop :=
  ∀ (s : State) (n : Fin 16) (v : Word), hostReach s = true → s.flt.restarting = false →
    let z := dozeLeave s
    let sq := getSq s n.val
    let cq := getCq s n.val
    let eq := s.ring.eq
    (sq.st = .active → v.toNat < ringSize sq.size →
      exec (.sqTailDoorbell n v) s = .next (setSq z n.val { sq with tail := v.toNat })) ∧
    (cq.active = true → cq.held = [] → releases v.toNat cq.size cq.head cq.tail = true →
      ∃ t, exec (.cqHeadDoorbell n v) s = .next t ∧
        (∀ i, getCq t i = if i = n.val then { cq with head := v.toNat, timer := decide (0 < cq.counted) } else getCq s i) ∧
        t = { z with ring := { s.ring with cqs := t.ring.cqs } }) ∧
    (eq.active = true → releases v.toNat eq.size eq.head eq.tail = true →
      exec (.eqHeadDoorbell v) s = .next
        { z with ring := { z.ring with eq := { eq with head := v.toNat, timer := decide (0 < eq.counted) } } }) ∧
    (sq.st ≠ .active → ∃ t, exec (.sqTailDoorbell n v) s = .next t ∧ t.ring.dbDisabled = true ∧ t.ring.errSq = n.val ∧
      t.ring.sqs = s.ring.sqs ∧ t.ring.cqs = s.ring.cqs ∧ t = { z with ring := t.ring }) ∧
    (sq.st = .active → ringSize sq.size ≤ v.toNat → ∃ t, exec (.sqTailDoorbell n v) s = .next t ∧ t.ring.dbRange = true ∧
      t.ring.errSq = n.val ∧ t.ring.sqs = s.ring.sqs ∧ t.ring.cqs = s.ring.cqs ∧ t = { z with ring := t.ring }) ∧
    (cq.active = true → releases v.toNat cq.size cq.head cq.tail = false → ∃ t, exec (.cqHeadDoorbell n v) s = .next t ∧
      t.ring.dbRange = true ∧ t.ring.errCq = n.val ∧ t.ring.sqs = s.ring.sqs ∧ t.ring.cqs = s.ring.cqs ∧
      t = { z with ring := t.ring })

/-- One fetched descriptor (R331): the SQ whose turn it is gives up one entry, HEAD moves on, and a descriptor that passes the
checks of R338 becomes a waiting command stamped with the beat; one that fails them completes with that status; a failed read
puts the SQ into ERROR and sets FETCH_ERR (R341). -/
def Obligations.DescriptorFetchTakesOne : Prop :=
  ∀ (s : State) (n : Nat) (d : Desc), fetchRuns s = true → nextSq s = some n →
    let q := getSq s n
    let c : Cmd := { uid := s.ring.nextUid, sq := n, desc := d, st := .waiting, fetchBeat := s.clk.beat, fetchUs := s.clk.nowUs,
                     outOk := true, recs := [], left := 0, count := 0, flag := false, bytes := [], voted := false }
    let took := setSq { s with ring := { s.ring with turn := n, nextUid := s.ring.nextUid + 1, fetched := sat 32 (s.ring.fetched + 1),
                                                     cmds := s.ring.cmds ++ [c] } } n { q with head := (q.head + 1) % ringSize q.size }
    ((stagingOps.contains (descOpcode d) = false ∨ s.jrn.staged.length ≤ 1024) → checkDesc s d = none →
      exec (.descriptorFetch [some d]) s = .next took) ∧
    (∀ st, (stagingOps.contains (descOpcode d) = false ∨ s.jrn.staged.length ≤ 1024) → checkDesc s d = some st → CqTakes s n →
      ∃ t, exec (.descriptorFetch [some d]) s = .next t ∧ PostedOnly took t c st 0 []) ∧
    (stagingOps.contains (descOpcode d) = true → 1024 < s.jrn.staged.length →
      exec (.descriptorFetch [some d]) s = .next { s with ring := { s.ring with turn := n } }) ∧
    ∃ t, exec (.descriptorFetch [none]) s = .next t ∧ getSq t n = { q with st := .error } ∧ t.ring.fetchErr = true ∧
      t.ring.cmds = s.ring.cmds ∧ t = { s with ring := t.ring }

/-- A write of EN = 1 to a DISABLED queue enables it with the fields written, HEAD and TAIL 0 and the first phase 1, where
SIZE is listed, the ring overlaps no other and, for an SQ, its CQ is ACTIVE (R329); otherwise it sets CFG_BAD and the queue is
as it was. A write of EN = 0 that changes neither SIZE nor CQ: an SQ with no command fetched is DISABLED at once (R330), a CQ
that no SQ which is not DISABLED is bound to, and the EQ, are DISABLED (R329, R333). A CQ still bound sets CFG_BUSY and stays.
-/
def Obligations.QueuesEnableAndDisable : Prop :=
  (∀ (s : State) (n : Fin 16) (v : Word),
    let z := dozeLeave s
    let sq := getSq s n.val
    let cq := getCq s n.val
    let eq := s.ring.eq
    let w := v ||| 1#32
    let size := cfgSize w
    (Lands s (0x808 + 16 * n.val) → sq.st = .disabled → size ≤ 8 → (getCq s (fld w 8 4)).active = true →
      ringOverlaps s n.val sq.base.toNat (64 * ringSize size) = false →
      exec (.sqEnable n v) s = .next (setSq z n.val
        { sq with size := size, cq := fld w 8 4, burst := fld w 16 3, head := 0, tail := 0, st := .active })) ∧
    (Lands s (0x908 + 16 * n.val) → cq.active = false → size ≤ 8 →
      ringOverlaps s (16 + n.val) cq.base.toNat (16 * ringSize size) = false →
      exec (.cqEnable n v) s = .next (setCq z n.val
        { cq with size := size, vector := fld w 8 5, ien := bitOf w 13, head := 0, tail := 0, phase := true, active := true,
                  held := [], counted := 0, timer := false })) ∧
    (Lands s 0xA08 → eq.active = false → size ≤ 8 → ringOverlaps s 32 eq.base.toNat (16 * ringSize size) = false →
      s.ring.heldWake = false →
      exec (.eqEnable v) s = .next { z with ring := { z.ring with
        eq := { eq with size := size, vector := fld w 8 5, ien := bitOf w 13, head := 0, tail := 0, phase := true, active := true,
                        counted := 0, timer := false } } }) ∧
    (Lands s (0x808 + 16 * n.val) → sq.st = .disabled →
      (8 < size ∨ (getCq s (fld w 8 4)).active = false ∨ ringOverlaps s n.val sq.base.toNat (64 * ringSize size) = true) →
      ∃ t, exec (.sqEnable n v) s = .next t ∧ t.ring.cfgBad = true ∧ t.ring.errSq = n.val ∧ t.ring.sqs = s.ring.sqs ∧
        t = { z with ring := t.ring })) ∧
  (∀ (s : State) (n : Fin 16) (v : Word),
    let z := dozeLeave s
    let w := v &&& ~~~1#32
    let sq := getSq s n.val
    let cq := getCq s n.val
    let eq := s.ring.eq
    (Lands s (0x808 + 16 * n.val) → sq.st ≠ .disabled → cfgSize w = sq.size → fld w 8 4 = sq.cq →
      (∀ c ∈ s.ring.cmds, c.sq ≠ n.val) →
      ∃ t, exec (.sqDisable n v) s = .next t ∧
        (∀ i, getSq t i = if i = n.val then { sq with burst := fld w 16 3, st := .disabled } else getSq s i) ∧
        t = { z with ring := { s.ring with sqs := t.ring.sqs } }) ∧
    (Lands s (0x908 + 16 * n.val) → cq.active = true → cfgSize w = cq.size →
      (∀ i, i < 16 → (getSq s i).cq = n.val → (getSq s i).st = .disabled) →
      exec (.cqDisable n v) s = .next (setCq z n.val
        { cq with vector := fld w 8 5, ien := bitOf w 13, active := false, held := [], counted := 0, timer := false })) ∧
    (Lands s 0xA08 → eq.active = true → cfgSize w = eq.size →
      exec (.eqDisable v) s = .next { z with ring := { z.ring with
        eq := { eq with vector := fld w 8 5, ien := bitOf w 13, active := false, counted := 0, timer := false } } }) ∧
    (∀ i, Lands s (0x908 + 16 * n.val) → cq.active = true → i < 16 → (getSq s i).cq = n.val → (getSq s i).st ≠ .disabled →
      ∃ t, exec (.cqDisable n v) s = .next t ∧ t.ring.cfgBusy = true ∧ t.ring.errCq = n.val ∧ t.ring.cqs = s.ring.cqs ∧
        t = { z with ring := t.ring }))

/-- The control writes act on arrival: Q_HOLD keeps bits [16:3] as votes (R350); CFG_CTL sets or clears HOLD and, with
DISCARD, empties the staging set and sets STAGE_LOST (R363); CFG_SEAL_REF takes its value and clears DIRTY (R369); PWR_CTL
asks for SLEEP or HIBERNATE at the next boundary (R390); BEAT_PTM_CTL asks for a capture (R324). A host write to a staged
register takes its pending slot, the later of two writes standing in it (R13, R15, R362); one with a byte enable missing is
dropped (R326); one to a dword that names no register changes nothing (R429). -/
def Obligations.RegisterWritesAct : Prop :=
  (∀ (s : State) (v : Word) (on : Bool),
    let z := dozeLeave s
    (Lands s 0xB04 → exec (.qHoldWrite v) s = .next
      { z with ring := { z.ring with holdVotes := BitVec.ofNat 17 (fld v 3 14 * 8) } }) ∧
    (Lands s 0x7800 → exec (.cfgHold on) s = .next { z with cfg := { z.cfg with hold := on } }) ∧
    (Lands s 0x7800 → exec .cfgDiscard s = .next { z with cfg := { z.cfg with staged := [], imageSet := [], stageLost := true } }) ∧
    (Lands s 0x7808 → exec (.cfgSealRefWrite v) s = .next
      { z with cfg := { z.cfg with sealRef := v, dirty := false, sealFirstRef := false } }) ∧
    (Lands s 0x7004 → exec .sleepRequest s = .next { z with pwr := { z.pwr with req := 2 } }) ∧
    (Lands s 0x7004 → exec .hibernateRequest s = .next { z with pwr := { z.pwr with req := 3 } }) ∧
    (Lands s 0x410 → exec .ptmCapture s = .next { z with ring := { z.ring with ptmCapture := true } })) ∧
  (∀ (s : State) (off : BitVec 16) (v w : Word) (be : BitVec 4), off.toNat % 4 = 0 → Lands s off.toNat →
    (∀ r, regOf off.toNat = some r → s.cfg.eccShadow.contains off.toNat = false →
      (meterLocked s && inMeterSet off.toNat) = false →
      ∃ t u, exec (.registerWrite .host off v 15#4) s = .next t ∧ smGet t.cfg.staged off.toNat 0 = v ∧
        (∀ o, o ≠ off.toNat → smGet t.cfg.staged o 0 = smGet s.cfg.staged o 0) ∧
        t = { dozeLeave s with cfg := { s.cfg with staged := t.cfg.staged } } ∧
        exec (.registerWrite .host off w 15#4) t = .next u ∧ smGet u.cfg.staged off.toNat 0 = w) ∧
    (be ≠ 15#4 → span off.toNat 0xF000 0xF200 = false →
      exec (.registerWrite .host off v be) s = .next (dozeLeave s)) ∧
    (homeOf off.toNat = none → exec (.registerWrite .host off v be) s = .next (dozeLeave s)))

/-- A read of an RL register leaves the RH word of the same value in its path's shadow, which the other path's reads do not
touch (R13, R14). An access to a register whose home domain is off or not ready returns 0 or is dropped, latches its offset
and domain, is counted, and posts EV_DOMAIN_OFF_ACCESS at most once per domain in a beat (R379). -/
def Obligations.RegisterReads : Prop :=
  ∀ (s : State) (p : Path) (off : BitVec 16), off.toNat % 4 = 0 → pathOpen s p = true →
    let o := off.toNat
    let z := dozeLeave s
    (isRl o = true → poweredOff s o = none → (inSpillway s && !recovery o false) = false →
      ∃ t, exec (.rlRead p off) s = .next t ∧ t.cfg.rdata = viewReg z o ∧
        smGet t.cfg.rlShadow (pathKey p o) 0 = viewReg z (o + 4) ∧
        (∀ k, k ≠ pathKey p o → smGet t.cfg.rlShadow k 0 = smGet s.cfg.rlShadow k 0) ∧
        t = { z with cfg := { s.cfg with rdata := t.cfg.rdata, rlShadow := t.cfg.rlShadow } }) ∧
    (∀ d, poweredOff s o = some d → (inSpillway s && !recovery o false) = false →
      ∃ t, exec (.poweredOffAccess p off false) s = .next t ∧ t.cfg = { s.cfg with rdata := 0 } ∧
        t.flt.offAddr = off ∧ t.flt.offDom = d ∧ t.flt.offCnt = sat 32 (s.flt.offCnt + 1) ∧
        (s.flt.offPosted.getLsbD d = true → t.ring = s.ring ∧ t.flt.offPosted = s.flt.offPosted) ∧
        t = { z with cfg := t.cfg, flt := t.flt, ring := t.ring }) ∧
    (∀ d, poweredOff s o = some d → (inSpillway s && !recovery o true) = false → span o 0xF000 0xF200 = false →
      ∃ t, exec (.poweredOffAccess p off true) s = .next t ∧ t.cfg = s.cfg ∧
        t.flt.offAddr = off ∧ t.flt.offDom = d ∧ t.flt.offCnt = sat 32 (s.flt.offCnt + 1) ∧
        (s.flt.offPosted.getLsbD d = true → t.ring = s.ring ∧ t.flt.offPosted = s.flt.offPosted) ∧
        t = { z with flt := t.flt, ring := t.ring })

/-- A moderation timer that runs on counted entries of a queue with IEN = 1 sends its vector once and stops (R357); Bus Master
Enable at 1 sends what waited, in order, at 0 it holds what comes (R354); a function reset, where no command waits, disables
every queue, withdraws every vote of Q_HOLD and lets the running commands end without a trace in host memory, and touches
nothing outside the rings; an MSI-X table write stores address and data (R356). -/
def Obligations.RingEventsTakeEffect : Prop :=
  ∀ (s : State) (n : Fin 16) (vec : Fin 32) (v : Word),
    (let q := getCq s n.val
     q.timer = true → q.ien = true → 0 < q.counted → s.ring.bme = true → s.ring.msixCtl = 1#2 →
      s.ring.msixMask.getLsbD q.vector = false →
      ∃ t, exec (.interruptTimerExpiry ⟨n.val, by omega⟩) s = .next t ∧
        t.ring.out = s.ring.out ++ [.msix q.vector (smGet s.ring.msixAddr q.vector 0) (smGet s.ring.msixData q.vector 0)] ∧
        getCq t n.val = { q with counted := 0, timer := false } ∧ t = { s with ring := t.ring }) ∧
    exec (.busMasterEnableChange true) s = .next
      { s with ring := { s.ring with bme := true, out := s.ring.out ++ s.ring.heldOut, heldOut := [] } } ∧
    exec (.busMasterEnableChange false) s = .next { s with ring := { s.ring with bme := false } } ∧
    ((∀ c ∈ s.ring.cmds, cmdWaits s c = false) → ∃ t, exec .functionReset s = .next t ∧
      (∀ i, (getSq t i).st = .disabled ∧ (getCq t i).active = false) ∧ t.ring.eq.active = false ∧ t.ring.holdVotes = 0 ∧
      t.ring.cmds = s.ring.cmds.map (fun c => { c with sq := 16 }) ∧ t.ring.out = s.ring.out ∧
      t.ring.bme = false ∧ t.ring.memEn = false ∧ t = { s with ring := t.ring }) ∧
    (hostReach s = true → exec (.msixTableWrite vec 2 v) s = .next
      { dozeLeave s with ring := { s.ring with msixData := smPut s.ring.msixData vec.val v 0 } }) ∧
    (hostReach s = true → ∃ t, exec (.msixTableWrite vec 1 v) s = .next t ∧
      smGet t.ring.msixAddr vec.val 0 = BitVec.ofNat 64 ((smGet s.ring.msixAddr vec.val 0).toNat % 2 ^ 32 + v.toNat * 2 ^ 32) ∧
      t = { dozeLeave s with ring := { s.ring with msixAddr := t.ring.msixAddr } })

/-- The link: a change of speed is noted while LINK is ready (R323); a PTM dialogue asks once where AUTO and a valid context
stand, and leaves the context it found (R324); a configuration read gives a word and changes nothing else, and configuration
requests before STARTED change nothing (R460); through the TAP, GLB_ID reads 0x4B5A9600 at any time, and flash is read only in
a debug session that allows it (R276, R431). The AON clock and WAKE# (R394, R462): the crystal is taken except in phase 1 and
during a SLEEP entry, and given up when it stops; WAKE# is released at L0, which the link reaches only powered and out of
PERST#, or after its time. -/
def Obligations.LinkPortAndClock : Prop :=
  (∀ (s : State) (on : Bool) (r : Fin 1024) (w : Option Word) (a : Fin 7) (addr : Nat),
    (domReady s dLINK = true → exec (.linkSpeedChange on) s = .next { s with ring := { s.ring with gen3 := on } }) ∧
    (domReady s dLINK = true → exec (.ptmDialogue on) s = .next
      { s with ring := { s.ring with ptmCtxValid := on,
                                     out := if s.ring.ptmAuto ∧ s.ring.ptmCtxValid then s.ring.out ++ [.ptmRequest]
                                       else s.ring.out } }) ∧
    (domReady s dLINK = true → s.pwr.perst = false → configReady s = true →
      exec (.pcieConfigAccess r none) s = .next (putRdata s (configWord s r.val))) ∧
    (s.pwr.phase ≠ .started → s.pwr.phase ≠ .spillway → exec (.pcieConfigAccess r w) s = .next s) ∧
    exec (.jtagTapAccess .readGlbId) s = .next (putRdata s 0x4B5A9600#32) ∧
    (s.lcy.dbg = .locked → exec (.jtagTapAccess (.flashRead a addr)) s = .next s) ∧
    (s.lcy.dbg = .opn → exec (.jtagTapAccess .keeperHalt) s = .next { s with lcy := { s.lcy with keeperHalted := true } })) ∧
  (∀ s : State,
    (s.pwr.entering = 0 → s.pwr.phase ≠ .aonInit → exec .aonClockSwitch s = .next { s with pwr := { s.pwr with aonXtal := true } }) ∧
    (s.pwr.entering ≠ 0 ∨ s.pwr.phase = .aonInit → exec .aonClockSwitch s = .next s) ∧
    exec .aonCrystalFail s = .next { s with pwr := { s.pwr with aonXtal := false } } ∧
    exec .wakeSignalTimeout s = .next { s with pwr := { s.pwr with wakeSignal := false } } ∧
    (domReady s dLINK = true → s.pwr.perst = false → exec .linkL0Reached s = .next { s with
      ring := { s.ring with linkUp := true }, pwr := { s.pwr with wakeSignal := false } }) ∧
    (domReady s dLINK = false ∨ s.pwr.perst = true → exec .linkL0Reached s = .next s))

/-! ### LF channels, banks and polders -/

/-- The bank monitors (R92, R93): a supply below 7.5 V sets its undervoltage flag, above 7.8 V clears it; above 40 V sets the
overvoltage flag, below 39 V clears it; a die above 135 °C defers first segments, above 150 °C stops the bank, below 125 °C
clears both; the bank's transactions end their attempt where a flag that stops its bridges rises, and a bank on which nothing
runs is not touched by that. A bank whose domain is on and whose supply is good becomes ready. A frame of a bank link adds its
retransmissions to the count; the first undelivered one of a beat ends the attempts of the bank's transactions with CRC, a
later one only counts; a retired link counts nothing (R417). The supply of a bank (R93, R381): its undervoltage keeps the
bank's bridges off, its recovery clears that, and its bit of the supply status follows; how low or high the supply reads is
the model's free value (R380 gives only the thresholds: log entry 61). -/
def Obligations.BanksAct : Prop :=
  (∀ (s : State) (b : Fin 4) (v : Nat) (temp : Int),
    let k := getBank s b.val
    (let uv := decide (v < 750) || (k.uv && decide (v ≤ 780))
     let ov := decide (4000 < v) || (k.ov && decide (3900 ≤ v))
     ∃ m, getBank m b.val = { k with vdrv := v, uv := uv, ov := ov } ∧ (∀ j, j ≠ b.val → getBank m j = getBank s j) ∧
       (v < 750 → m.pwr.supplyOk.getLsbD (5 + b.val) = false) ∧ (780 < v → m.pwr.supplyOk.getLsbD (5 + b.val) = true) ∧
       m = { s with lf := { s.lf with banks := m.lf.banks }, pwr := { s.pwr with supplyOk := m.pwr.supplyOk } } ∧
       exec (.bankSupplyFault b v) s =
         .next (if (uv = true ∧ k.uv = false) ∨ (ov = true ∧ k.ov = false) then bankFault m b.val .supply else m)) ∧
    (let hot := decide (135 < temp) || (k.otDefer && decide (125 ≤ temp))
     let crit := decide (150 < temp) || (k.otOff && decide (125 ≤ temp))
     let m := setBank s b.val { k with temp := temp, otDefer := hot, otOff := crit }
     exec (.bankTemperatureChange b temp) s = .next (if crit = true ∧ k.otOff = false then bankFault m b.val .supply else m)) ∧
    (∀ f, (∀ c, bankOf c = b.val → (getChan s c).jobs = []) → bankFault s b.val f = s) ∧
    (let d := getDom s (dBANK b.val)
     d.on = true → s.pwr.supplyOk.getLsbD (5 + b.val) = true →
      exec (.bankReady b) s = .next (setBank (setDom s (dBANK b.val) { d with ready := true }) b.val { k with ready := true }))) ∧
  (∀ (s : State) (b : Fin 4) (r : Fin 4) (lost : Bool),
    let k := getBank s b.val
    let m := setBank s b.val { k with retx := sat 16 (k.retx + r.val), errNow := k.errNow || lost }
    (k.linkRetired = false → lost = true → k.errNow = false →
      exec (.bankLinkFrameError b r lost) s = .next (bankFault m b.val .crc)) ∧
    (k.linkRetired = false → (lost = false ∨ k.errNow = true) → exec (.bankLinkFrameError b r lost) s = .next m) ∧
    (k.linkRetired = true → exec (.bankLinkFrameError b r lost) s = .next s)) ∧
  (∀ (s : State) (b : Fin 4), (∀ c, bankOf c = b.val → (getChan s c).jobs = []) →
    (∃ t, exec (.supplyUndervoltage (.vdrv b)) s = .next t ∧ (getBank t b.val).uv = true ∧ (getBank t b.val).vdrv < 750 ∧
      t.pwr.supplyOk.getLsbD (5 + b.val) = false ∧ (∀ j, j ≠ b.val → getBank t j = getBank s j) ∧
      t = { s with lf := { s.lf with banks := t.lf.banks }, clk := { s.clk with fresh := t.clk.fresh },
                   pwr := { s.pwr with supplyOk := t.pwr.supplyOk } }) ∧
    ((getBank s b.val).ov = false → (getBank s b.val).vdrv ≤ 4000 →
      ∃ t, exec (.supplyRecovery (.vdrv b)) s = .next t ∧ (getBank t b.val).uv = false ∧ 780 < (getBank t b.val).vdrv ∧
      t.pwr.supplyOk.getLsbD (5 + b.val) = true ∧ (∀ j, j ≠ b.val → getBank t j = getBank s j) ∧
      t = { s with lf := { s.lf with banks := t.lf.banks }, clk := { s.clk with fresh := t.clk.fresh },
                   pwr := { s.pwr with supplyOk := t.pwr.supplyOk } }))

/-- A retirement that waits for its boundary (R96, R415, R417, R419): the channel, the bank's channels or the radio leave
service, and the flash table takes one entry with the class, the index, the beat and the service time; a bank's or a channel's
transactions are none here. A retirement nobody has asked for does not happen. A full bank of the retirement table is
compacted to the other bank (R421): one entry for each unit that is retired, none reinstated, under ESEQ numbers that go on from
the last (log entry 51), and every unit is as it was; a bank with room is left alone. -/
def Obligations.RetirementsTakeEffect : Prop :=
  (∀ (s : State) (ch : Fin 96) (b : Fin 4) (cause : Byte),
    s.flt.restarting = false → s.fl.retLog.length < 256 →
    let due := fun (cls i : Nat) => s.flt.retireDue.filter fun r => r.1 == cls && r.2.1 == i
    let entry := fun (cls i : Nat) (x : Byte) => (⟨cls, i, false, x, s.clk.beat, s.ldg.svcUs,
      (s.fl.retLog.getLast?.map (·.eseq + 1)).getD 0⟩ : RetEntry)
    let c := masterOf s ch.val
    (due 1 c = [(1, c, cause)] → (getChan s c).jobs = [] → (getChan s c).retired = false →
      ∃ t, exec (.channelRetirement ch) s = .next t ∧ (getChan t c).retired = true ∧ (getChan t c).place = none ∧
        (laneSlot t.slu.a c).st = .unverifiable ∧ t.fl.retLog = s.fl.retLog ++ [entry 1 c cause] ∧
        (∀ i, i ≠ c → i ≠ c + 1 → getChan t i = getChan s i) ∧
        t.flt.retireDue = s.flt.retireDue.filter (fun r => !(r.1 == 1 && r.2.1 == c))) ∧
    (due 5 b.val = [(5, b.val, 0)] → (∀ i, bankOf i = b.val → (getChan s i).jobs = []) → (getBank s b.val).linkRetired = false →
      ∃ t, exec (.bankLinkRetirement b) s = .next t ∧ (getBank t b.val).linkRetired = true ∧
        (∀ i, i < 96 → bankOf i = b.val → (getChan t i).place = none ∧ (laneSlot t.slu.a i).st = .unverifiable) ∧
        (∀ i, bankOf i ≠ b.val → getChan t i = getChan s i) ∧ t.fl.retLog = s.fl.retLog ++ [entry 5 b.val 0]) ∧
    (due 6 0 = [(6, 0, cause)] → s.rad.retired = false → s.ring.cmds = [] → s.rad.cur = none → s.rad.waiting = [] →
      s.rad.loc = none → s.rad.win = none →
      ∃ t, exec .radioRetirement s = .next t ∧ t.rad.retired = true ∧ t.fl.retLog = s.fl.retLog ++ [entry 6 0 0]) ∧
    (due 1 c = [] → exec (.channelRetirement ch) s = .next s) ∧ (due 5 b.val = [] → exec (.bankLinkRetirement b) s = .next s) ∧
    (due 6 0 = [] → exec .radioRetirement s = .next s)) ∧
  (∀ s : State,
    (bankEntries ≤ s.fl.retLog.length → ∃ t, exec .retirementTableSwap s = .next t ∧
      (∀ cls i, tableRetired t cls i = tableRetired s cls i) ∧ (∀ e ∈ t.fl.retLog, e.reinstated = false ∧ ∃ x ∈ s.fl.retLog, e = { x with eseq := e.eseq }) ∧
      t.fl.retLog.map (·.eseq) =
        (List.range t.fl.retLog.length).map (fun i => (s.fl.retLog.getLast?.map (·.eseq + 1)).getD 0 + i) ∧
      t.fl.retLog.Pairwise (fun a b => ¬ (a.cls = b.cls ∧ a.idx = b.idx)) ∧ t.fl.retBank = 1 - s.fl.retBank ∧
      t = { s with fl := { s.fl with retLog := t.fl.retLog, retBank := t.fl.retBank, dbgBytes := t.fl.dbgBytes,
                                     weak := t.fl.weak, bad := t.fl.bad } }) ∧
    (s.fl.retLog.length < bankEntries → exec .retirementTableSwap s = .next s))

/-- A polder fault sets its flag, asks for the failover at the next boundary and marks the beat as unserved while the polder
runs (R39, R42, R43, R425). A count of faults is cleared after CLEAR_H hours without one; a self-test after a fault brings the
polder back, as the spare where there is none, or retires it where it fails or the count has reached its limit (R416). The
self-test of a start asks for service at the next boundary, or leaves the polder FAULTED (R55). -/
def Obligations.PolderFaultsAndTests : Prop :=
  ∀ (s : State) (p : Fin 5) (k : PldFault),
    let x := getPol s p.val
    let hurt := fun (bit : Nat) => setPol s p.val { x with
      fault := x.fault ||| BitVec.ofNat 4 (2 ^ bit), failoverDue := true,
      unserved := x.unserved || decide (x.st = .running) || decide (x.st = .stopping) }
    (x.st ≠ .off → x.st ≠ .retired → x.st ≠ .faulted →
      exec (.polderAckTimeout p) s = .next (hurt 0) ∧
      exec (.polderFault p k) s = .next (hurt (match k with | .memUe => 1 | .selfTest => 2 | .pageErr => 3)) ∧
      (s.lf.spare = some p.val → s.clk.beat.toNat % 1024 = 0 → exec (.spareSelfTest false) s = .next (hurt 2))) ∧
    exec (.spareSelfTest true) s = .next s ∧
    (0 < x.fcnt → regF s .fltPld 8 8 * 3600000000 ≤ s.clk.nowUs - x.lastFaultUs →
      exec (.polderFcntClear p) s = .next (setPol s p.val { x with fcnt := 0 })) ∧
    (x.st = .faulted → x.fcnt < regF s .fltPld 0 3 → x.cmdUid = none →
      exec (.polderFaultSelfTestDone p true) s = .next (match s.lf.spare with
        | none => setPol { s with lf := { s.lf with spare := some p.val } } p.val { x with st := .spare }
        | some _ => setPol s p.val { x with st := .running })) ∧
    (x.st = .faulted → s.flt.retireDue = [] → ∃ t, exec (.polderFaultSelfTestDone p false) s = .next t ∧
      getPol t p.val = { x with fault := x.fault ||| 4#4 } ∧
      t.flt.retireDue = [(2, p.val, BitVec.ofNat 8 (x.fault ||| 4#4).toNat)] ∧
      t = { s with lf := { s.lf with pols := t.lf.pols }, flt := { s.flt with retireDue := t.flt.retireDue } }) ∧
    (x.st = .starting → x.upDue = false → domReady s (dPOLDER p.val) = true →
      exec (.polderStartSelfTestDone p true) s = .next (setPol s p.val { x with upDue := true })) ∧
    (x.st = .starting → x.upDue = false → domReady s (dPOLDER p.val) = true → s.pwr.phase ≠ .starting → x.cmdUid = none →
      exec (.polderStartSelfTestDone p false) s = .next (setPol s p.val { x with
        st := .faulted, fault := x.fault ||| 4#4, fcnt := min 15 (x.fcnt + 1), lastFaultUs := s.clk.nowUs,
        cmdUid := none, makeSpare := false, stopNow := false }))

/-- The failover of a polder (R43, R50, R416), at the boundary that has not been carried out (log entry 82): it is FAULTED and
its count rises; where a spare without a fault stands by and the polder holds channels, every channel moves to the spare with
its pass and position, its epoch one higher, and the spare runs; where no channel moves and no failover is due, nothing
changes. AUTO rebalancing (R48, R49): after the row each channel of the full placement over the RUNNING polders has its place,
or waits to be idle to take it; a rebalance that is not wanted moves nothing. A channel that waits and is idle takes its place
where that has room, its epoch one higher where the polder changes (R50). -/
def Obligations.FailoverAndMoves : Prop :=
  (∀ (s : State) (p : Fin 5) (q : Nat),
    (atBoundary s = true → (getPol s p.val).failoverDue = true → (getPol s p.val).st ≠ .starting → s.lf.spare = some q →
      q ≠ p.val → (getPol s q).failoverDue = false → (polHeads s p.val).isEmpty = false →
      ∃ t, exec (.polderFailover p) s = .next t ∧ (getPol t p.val).st = .faulted ∧ (getPol t p.val).failoverDue = false ∧
        (getPol t p.val).fcnt = min 15 ((getPol s p.val).fcnt + 1) ∧ (getPol t q).st = .running ∧ t.lf.spare = none ∧
        (∀ c, c < 96 → gangSlave s c = false → ∀ pl, (getChan s c).place = some pl → pl.pol = p.val →
          (getChan t c).place = some { pl with pol := q } ∧ (getChan t c).epoch = (getChan s c).epoch + 1) ∧
        (∀ c, c < 96 → gangSlave s c = false → chanPol s c ≠ some p.val →
          (getChan t c).place = (getChan s c).place ∧ (getChan t c).epoch = (getChan s c).epoch)) ∧
    (atBoundary s = false ∨ ((getPol s p.val).failoverDue = false ∧ s.lf.moved = []) → exec (.polderFailover p) s = .next s)) ∧
  (∀ (s : State) (ch : Fin 96) (pl : Place),
    let c := masterOf s ch.val
    (atBoundary s = true → rebalanceWanted s = true → ∃ t, exec .rebalance s = .next t ∧ t.lf.rebalDue = false ∧ t.lf.rebalUid = none ∧
      ∀ x ∈ fullPlacement s (runningPols s), (getChan t x.1).place = some x.2 ∨ (getChan t x.1).moveTo = some x.2) ∧
    (atBoundary s = false → exec .rebalance s = .next s) ∧
    (atBoundary s = true → rebalanceWanted s = false → keeperUp s = true → s.lf.moved = [] →
      exec .rebalance s = .next { s with lf := { s.lf with rebalDue := false } }) ∧
    (atBoundary s = true → keeperUp s = true → (getChan s c).moveTo = some pl → pl.pos < 24 → (getPol s pl.pol).st = .running →
      pl.pol < 5 → chanActive s c = true → chanIdle s c = true → movedNow s c = false → seatFits s c pl [c] = true →
      ∃ t, exec (.channelMoveWhenIdle ch) s = .next t ∧ (getChan t c).place = some pl ∧ (getChan t c).moveTo = none ∧
        (getChan t c).epoch = (match (getChan s c).place with
          | some old => if old.pol = pl.pol then (getChan s c).epoch else (getChan s c).epoch + 1
          | none => (getChan s c).epoch) ∧
        (∀ i, i ≠ c → i ≠ c + 1 → (getChan t i).place = (getChan s i).place ∧ (getChan t i).epoch = (getChan s i).epoch)) ∧
    ((getChan s c).moveTo = none → s.lf.moved = [] → exec (.channelMoveWhenIdle ch) s = .next s))

/-- The next pass of a polder (R48, R88 to R90, R93), at a boundary (log entry 82): one offered first segment whose bank is
not too hot and that fits what is left of the budget starts on air with the reservation of R88; one whose bank is too hot or
that does not fit is deferred and counted, below the limit; with none offered nothing changes. The limit of deferrals (R90): a
transaction of a SWEEP, the last of its command, whose first segment has been deferred DEFER_MAX times completes with
LEVEE_DEFERRED and PLD_LEVEE_REFUSED rises by 1; its command completes with that status; a transaction below the limit is left
alone. -/
def Obligations.PassesAdmitAndDefer : Prop :=
  (∀ (s : State) (p : Fin 5) (ch : Nat) (j : Job), s.lf.moved = [] → atBoundary s = true →
    let mine := (allChans.filter fun c => decide (chanPol s c = some p.val)).filter (offered s)
    (mine = [] → exec (.nextPassStart p) s = .next s) ∧
    (mine = [ch] → headOf s ch = some j → isLoc j = false → startPol s ch j = some p.val →
      bankHot s (bankOf ch) = false → leveeFits s (reservation s ch (carrier s ch)) = true →
      ∃ t h, exec (.nextPassStart p) s = .next t ∧ headOf t ch = some h ∧ h.phase = .onAir ∧ h.uid = j.uid ∧
        h.startUs = s.clk.nowUs ∧ h.startBeat = s.clk.beat ∧ h.resv = some (reservation s ch (carrier s ch)) ∧
        h.attempts = j.attempts + 1 ∧ ∀ c, c ≠ ch → getChan t c = getChan s c) ∧
    (mine = [ch] → headOf s ch = some j → isLoc j = false →
      (bankHot s (bankOf ch) = true ∨ leveeFits s (reservation s ch (carrier s ch)) = false) →
      j.defers + 1 < regF s .leveeCfg 24 8 →
      exec (.nextPassStart p) s =
        .next (setHead { s with lf := { s.lf with defers := sat 32 (s.lf.defers + 1) } } ch { j with defers := j.defers + 1 }))) ∧
  (∀ (s : State) (ch : Fin 96) (j : Job) (c : Cmd),
    (getChan s ch.val).jobs = [j] → j.phase = .waitAdmit → 0 < regF s .leveeCfg 24 8 →
    (regF s .leveeCfg 24 8 ≤ j.defers → j.kind = .sweep → findCmd s j.uid = some c → c.left = 1 → c.recs = [] → c.sq < 16 →
      descOpcode c.desc = 0x10 → c.outOk = true → CqTakes s c.sq →
      ∃ t out, exec (.leveeDeferLimit ch) s = .next t ∧ t.lf.refused = sat 32 (s.lf.refused + 1) ∧
        (getChan t ch.val).jobs = [] ∧ (getChan t ch.val).lastOutcome = some .leveeDeferred ∧
        (∀ i, i ≠ ch.val → getChan t i = getChan s i) ∧ Posted s t c .leveeDeferred 256 out) ∧
    (j.defers < regF s .leveeCfg 24 8 → exec (.leveeDeferLimit ch) s = .next s))

/-- Faults of a transaction on air (R94, R95): its flag is set and counted by class; a transaction with retries left waits,
with its bridge off, for the second boundary after the fault and for a fresh nonce, its reservation kept. A transaction starts
again, at a boundary (log entry 82): after a fault, one retry more (R95), or after a move, one restart more, counted (R51); it
keeps its reservation and no other channel changes. -/
def Obligations.FaultsRetryAndRestart : Prop :=
  (∀ (s : State) (ch : Fin 96) (f : ChFault) (j : Job),
    let c := masterOf s ch.val
    let x := getChan s c
    (headOf s c = some j → j.phase = .onAir → isLoc j = false → j.retries < regF s .lfRetry 0 3 →
      ∃ t n r, exec (.channelFault ch f) s = .next t ∧
        getChan t c = { x with
          faultFlags := x.faultFlags ||| BitVec.ofNat 8 (2 ^ faultBit f),
          crcCnt := if f = .crc then sat 8 (x.crcCnt + 1) else x.crcCnt,
          hardCnt := if isHard f then sat 16 (x.hardCnt + 1) else x.hardCnt,
          jobs := { j with hardSeen := j.hardSeen || isHard f, faults := j.faults ||| BitVec.ofNat 8 (2 ^ faultBit f),
                           heldReply := none, phase := .faultWait, notBeforeBeat := s.clk.beat + 2, nonce := n,
                           nonceReady := r } :: x.jobs.drop 1 } ∧
        (∀ i, i ≠ c → getChan t i = getChan s i) ∧
        t = { s with lf := { s.lf with chans := t.lf.chans }, ent := t.ent, ring := t.ring }) ∧
    ((headOf s c).isNone = true → exec (.channelFault ch f) s = .next s)) ∧
  (∀ (s : State) (ch : Fin 96) (j : Job),
    let c := masterOf s ch.val
    let again := fun (t : State) (h : Job) => headOf t c = some h ∧ h.phase = .onAir ∧ h.uid = j.uid ∧ h.resv = j.resv ∧
      h.startUs = s.clk.nowUs ∧ h.startBeat = s.clk.beat ∧ h.attempts = j.attempts + 1 ∧ ∀ i, i ≠ c → getChan t i = getChan s i
    headOf s c = some j → isLoc j = false → bankUp s (bankOf c) = true →
    (atBoundary s = true → resumeDue s c .faultWait = true → ∃ t h, exec (.faultRetry ch) s = .next t ∧ again t h ∧ h.retries = j.retries + 1 ∧
      h.restarts = j.restarts ∧ t.lf.restarts = s.lf.restarts) ∧
    (atBoundary s = true → resumeDue s c .quiet = true → ∃ t h, exec (.migrationRestart ch) s = .next t ∧ again t h ∧ h.retries = j.retries ∧
      h.restarts = j.restarts + 1 ∧ t.lf.restarts = sat 32 (s.lf.restarts + 1)) ∧
    (resumeDue s c .faultWait = false → exec (.faultRetry ch) s = .next s) ∧
    (resumeDue s c .quiet = false → exec (.migrationRestart ch) s = .next s))

/-- A reply (R35, R113, R147): one whose paired write would fall in the last 20 µs of the beat is held over the boundary; a
SWEEP transaction that hears nothing ends with NO_RESPONSE; one that passes every finding makes its MODULE_SLOT slot VERIFIED
in lane A's table, without a mismatch and stamped with the beat. -/
def Obligations.RepliesDecideSlots : Prop :=
  ∀ (s : State) (ch : Fin 96) (j : Job) (r : AirResult) (x : RawReply) (rest : List RawReply) (w : BitVec 96),
    headOf s ch.val = some j → j.phase = .onAir → j.kind = .sweep → j.frame = .auth → j.heldReply = none →
    bankUp s (bankOf ch.val) = true → jobEndUs s j < nextBoundUs s → keyBusy s = false →
    let j1 := measured j r
    let s1 := setHead s ch.val j1
    (r.late = true → exec (.uplinkReply ch r) s = .next (setHead s ch.val { j with heldReply := some r })) ∧
    (r.late = false → r.slots = [] → (getChan s ch.val).jobs = [j] →
      ∃ t, exec (.uplinkReply ch r) s = .next t ∧ (getChan t ch.val).lastOutcome = some .noResponse ∧
        (getChan t ch.val).consec = 0 ∧ (getChan t ch.val).jobs = []) ∧
    (r.late = false → r.slots = x :: rest → decodeReply x = .bits w → replyCrcOk w = true → (getChan s ch.val).jobs = [j] →
      (findings s1 ch.val j1 x w true true).status = .ok → j.set.role = 0 → j.attempts ≠ 0 →
      ((laneSlot s.slu.a ch.val).st = .unverified ∨ (laneSlot s.slu.a ch.val).st = .verified ∨
        (laneSlot s.slu.a ch.val).st = .duplicate) →
      ∃ t, exec (.uplinkReply ch r) s = .next t ∧ (laneSlot t.slu.a ch.val).st = .verified ∧
        (laneSlot t.slu.a ch.val).mismatch = false ∧ (laneSlot t.slu.a ch.val).lastOk = s.clk.beat ∧
        (getChan t ch.val).lastOutcome = some (okStatus (decide (0 < j.retries)) (decide (0 < j.restarts))) ∧
        (getChan t ch.val).jobs = [])

/-- A calibration (R76, R77, R79): its last step gives the channel what it measured, holds the result for the next boundary
where COMMIT asks for it, and ends the transaction; at that boundary the result takes effect, in use and in flash, with the
tracked carrier clipped to its window and DETUNE_WARN as the window says. -/
def Obligations.CalibrationsComplete : Prop :=
  ∀ (s : State) (ch : Fin 96) (r : CalResult) (j : Job) (l : Nat) (commit : Bool) (k : Cal),
    ((getChan s ch.val).jobs = [j] → j.kind = .cal l commit false → j.uid ≠ 0 → j.phase = .onAir →
      jobEndUs s j < nextBoundUs s → (r.resonance = true ∨ 2 ≤ l) →
      ∃ t, exec (.calibrationDone ch r) s = .next t ∧
        (let c := getChan t ch.val
         c.ipk = r.ipk ∧ c.theta = r.theta ∧ c.zre = r.zre ∧ c.zim = r.zim ∧ c.jobs = [] ∧
           c.lastOutcome = some (okStatus (decide (0 < j.retries)) (decide (0 < j.restarts))) ∧ c.cal = (getChan s ch.val).cal ∧
           c.calDue = if commit = true ∧ l ≤ 1 then some (calOf (getChan s ch.val).cal r l) else (getChan s ch.val).calDue) ∧
        (∀ i, i ≠ ch.val → getChan t i = getChan s i)) ∧
    ((getChan s ch.val).calDue = some k → ∃ t, exec (.calibrationCommit ch) s = .next t ∧
      getChan t ch.val = { getChan s ch.val with
        cal := k, calDue := none, ftrack := clipTrack s ch.val k.fRes,
        detuneWarn := decide ((k.fRes : Int) < winLo s ch.val) || decide (winHi s ch.val < (k.fRes : Int)) } ∧
      smGet t.fl.cals ch.val Cal.none = k ∧ (∀ i, i ≠ ch.val → getChan t i = getChan s i) ∧
      t = { s with lf := { s.lf with chans := t.lf.chans }, fl := { s.fl with cals := t.fl.cals } }) ∧
    ((getChan s ch.val).calDue = none → exec (.calibrationCommit ch) s = .next s)

/-! ### The beat boundary, the seal, ages and leases -/

/-- A beat boundary counts one beat (R31, R33) and blows no fuse; in SLEEP and HIBERNATE it only counts (AON alone is
powered); while POR is held nothing counts (log entries 20 and 21). -/
def Obligations.BoundariesCount : Prop :=
  ∀ (s : State) (b : BeatIn),
    (s.pwr.porHeld = false → ∃ t, exec (.beatBoundary b) s = .next t ∧ t.clk.beat = s.clk.beat + 1 ∧ t.lcy.fuses = s.lcy.fuses) ∧
    (s.pwr.porHeld = false → asleep s = true → exec (.beatBoundary b) s = .next { s with
      clk := { s.clk with beat := s.clk.beat + 1, nowUs := s.clk.nowUs + beatUs s,
                          rtcMicroTicks := s.clk.rtcMicroTicks + 32768 * beatUs s },
      flt := { s.flt with offPosted := 0 } }) ∧
    (s.pwr.porHeld = true → exec (.beatBoundary b) s = .next s)

/-- The sealed set (R444): with no unit retired it holds 763 registers, so many from each source. -/
def Obligations.SealedSetHolds763 : Prop :=
  ∀ s : State, s.cfg.excluded = [] →
    let from_ := fun (a b : Nat) => ((sealSet s).filter fun o => decide (a ≤ o) && decide (o < b)).length
    (sealSet s).length = 763 ∧ from_ 0x0400 0x1000 = 1 ∧ from_ 0x1000 0x2000 = 8 ∧ from_ 0x2000 0x3800 = 480 ∧
      from_ 0x3800 0x4000 = 103 ∧ from_ 0x4000 0x4800 = 7 ∧ from_ 0x4800 0x5000 = 17 ∧ from_ 0x5000 0x5800 = 9 ∧
      from_ 0x5800 0x7000 = 4 ∧ from_ 0x7000 0x7800 = 3 ∧ from_ 0x7800 0x8000 = 129 ∧ from_ 0x8000 0x8800 = 2

/-- A wrong reference (R371): where a reload is due and no sealed register differs from the committed image, CFG_SEAL_REF
takes the image's SEAL, RELOADS stays, no register is written, and no unit is retired. -/
def Obligations.WrongReferenceNeverReloads : Prop :=
  ∀ (s : State) (img : ConfigImage), s.cfg.reloadDue = true → s.flt.restarting = false → s.cfg.reloads < 3 →
    imageInForce s = some img → differing s img = [] →
    ∃ t, exec .sealReload s = .next t ∧ t.cfg.sealRef = img.chk ∧ t.cfg.reloads = s.cfg.reloads ∧ t.cfg.vals = s.cfg.vals ∧
      t.cfg.staged = s.cfg.staged ∧ t.cfg.reloaded = s.cfg.reloaded ∧ t.cfg.excluded = s.cfg.excluded ∧ t = { s with cfg := t.cfg }

/-- A reload (R370): every register of the sealed set takes the committed image's value, pending writes to sealed registers
are gone and STAGE_LOST is set where there was one, other pending writes stay, RELOADED is set, and nothing but the
configuration, the journal and the records of a start changes; without one due nothing changes. DIRTY that has stood for GRACE
seconds clears (R369). Three failed reloads (R372): registers that still differ and belong to no channel, polder or radio
raise SEAL_FAULT, run from the shadow with the image's values and leave the sealed set, and RELOADS is cleared; below 3
nothing happens. -/
def Obligations.ReloadsRestoreTheImage : Prop :=
  (∀ (s : State) (img : ConfigImage),
    (s.cfg.reloadDue = true → s.flt.restarting = false → s.cfg.reloads < 3 → imageInForce s = some img → differing s img ≠ [] →
      ∃ t, exec .sealReload s = .next t ∧ (∀ o ∈ sealSet s, smGet t.cfg.vals o (resetAt o) = imageValue img o) ∧
        (∀ x ∈ t.cfg.staged, x ∈ s.cfg.staged ∧ ∀ r, regOf x.1 = some r → isSealed r = false) ∧
        (∀ x ∈ s.cfg.staged, (∀ r, regOf x.1 = some r → isSealed r = false) → x ∈ t.cfg.staged) ∧
        ((∃ x ∈ s.cfg.staged, ∃ r, regOf x.1 = some r ∧ isSealed r = true) → t.cfg.stageLost = true) ∧
        t.cfg.reloaded = true ∧ t.cfg.reloads = s.cfg.reloads ∧ t = { s with cfg := t.cfg, jrn := t.jrn, pwr := t.pwr }) ∧
    (s.cfg.reloadDue = false → exec .sealReload s = .next s) ∧
    (s.cfg.dirty = true → s.cfg.dirtyUs + 1000000 * regF s .sealCfg 0 8 ≤ s.clk.nowUs →
      exec .sealGraceExpiry s = .next { s with cfg := { s.cfg with dirty := false } }) ∧
    (s.cfg.dirty = false → exec .sealGraceExpiry s = .next s)) ∧
  (∀ (s : State) (img : ConfigImage),
    (s.cfg.reloadDue = true → s.flt.restarting = false → 3 ≤ s.cfg.reloads → imageInForce s = some img → differing s img ≠ [] →
      (∀ o ∈ differing s img, unitOfReg o = none) →
      ∃ t, exec .sealReloadLimit s = .next t ∧ t.cfg.sealFault = true ∧ t.cfg.reloads = 0 ∧
        (∀ o ∈ differing s img, o ∈ t.cfg.eccShadow ∧ o ∈ t.cfg.excluded ∧ smGet t.cfg.vals o (resetAt o) = imageValue img o) ∧
        t.cfg.sealRef = imageSeal t img ∧ t = { s with cfg := t.cfg }) ∧
    (s.cfg.reloads < 3 → exec .sealReloadLimit s = .next s))

/-- A lease that runs out (R195): the sluice is withdrawn, or stays released with nothing left while DRIVE_HOLD is asserted
(HELD); a sluice that is not released is left alone. A VERIFIED slot or a validated token that has become too old is counted
no more (R191, R192): each living lane takes its terms anew, every release and every lease stays, and nothing outside the
lanes changes. Young ones change nothing. A toleration that has lasted UV_HOURS ends (R191, R423). -/
def Obligations.LeasesAndAges : Prop :=
  (∀ (s : State) (n : Fin 4), s.slu.a.st = .active →
    let x := laneSl s.slu.a n.val
    (x.released = true → s.slu.withdrawDue.getLsbD n.val = false → x.leftUs ≠ 0 →
      (decideSl s s.slu.a n.val).sl.leftUs = 0 →
      ∃ t, exec (.leaseExpiry n) s = .next t ∧ (laneSl t.slu.a n.val).leftUs = 0 ∧
        (laneSl t.slu.a n.val).released = s.slu.dhold ∧
        (∀ i, i ≠ n.val → laneSl t.slu.a i = laneSl s.slu.a i ∧ laneSl t.slu.b i = laneSl s.slu.b i)) ∧
    (x.released = false → exec (.leaseExpiry n) s = .next s)) ∧
  (∀ (s : State) (ch : Fin 96) (rg : Fin 4096),
    let reviewed := fun (t : State) =>
      (∀ l n, n < 4 → laneDead s l = false →
        (let d := (decideSl s (getLane s l) n).sl
         laneSl (getLane t l) n = { laneSl (getLane s l) n with
           policy := d.policy, hard := d.hard, cause := d.cause, counted := d.counted, tolerated := d.tolerated })) ∧
      t = { s with slu := { s.slu with a := { s.slu.a with sl := t.slu.a.sl }, b := { s.slu.b with sl := t.slu.b.sl } } }
    let e := laneSlot (getLane s (viewLane s)) ch.val
    let old := (getLane s (viewLane s)).toks.any fun t => t.reg == rg.val && decide (1000000 * regF s .tokenWin 0 10 < slotAge s t.us)
    (e.st = .verified → 100000 * regF s .vper 0 13 < slotAge s e.okUs →
      ∃ t, exec (.verificationAgeOut ch) s = .next t ∧ reviewed t) ∧
    (slotAge s e.okUs ≤ 100000 * regF s .vper 0 13 → exec (.verificationAgeOut ch) s = .next s) ∧
    (old = true → ∃ t, exec (.tokenAgeOut rg) s = .next t ∧ reviewed t) ∧
    (old = false → exec (.tokenAgeOut rg) s = .next s) ∧
    (∀ v, smFind s.slu.tol ch.val = some v → tolLimit s ≤ tolAge s v →
      exec (.toleranceExpiry ch) s = .next { s with slu := { s.slu with tol := smDel s.slu.tol ch.val } }) ∧
    (∀ v, smFind s.slu.tol ch.val = some v → tolAge s v < tolLimit s → exec (.toleranceExpiry ch) s = .next s))

/-! ### Lanes and sluices -/

/-- A lane dies (R201): its ACTIVE partner takes over its switch in every sluice it holds released, its own view unchanged;
with no ACTIVE partner nothing drives a switch, every release that lane A's latch does not hold is withdrawn, and one that it
holds stays for the lane that returns (R198, R202; log entry 86). A dead lane does not die again. A readback disagreement
marks its sluice. A lane returns in SHADOW with its partner's view of every sluice, or, where there is no ACTIVE partner, with
every sluice withdrawn but those that lane A's latch holds; alone it becomes ACTIVE at the next boundary, beside an ACTIVE
partner once its view and every slot entry agree, and then takes its switches back. A lane DEAD for more than 1 s is shown
(R202, R424). -/
def Obligations.LanesDieAndReturn : Prop :=
  (∀ (s : State) (l : LaneId),
    let p := other l
    let take := fun (t : State) (x : LaneId) (n : Nat) => match x with | .a => (getOut t n).takeA | .b => (getOut t n).takeB
    (laneDead s l = false → (getLane s p).st = .active → ∃ t, exec (.laneDeath l .noEdge) s = .next t ∧ (getLane t l).st = .dead ∧
      getLane t p = getLane s p ∧
      (∀ n, n < 4 → take t l n = false ∧ take t p n = (take s p n || (laneSl (getLane s p) n).released)) ∧
      t = { s with slu := t.slu, jrn := t.jrn }) ∧
    (laneDead s l = false → (getLane s p).st ≠ .active → ∃ t, exec (.laneDeath l .noEdge) s = .next t ∧ (getLane t l).st = .dead ∧
      ((getLane s p).st = .shadow → (getLane t p).st = .shadow ∧ (getLane t p).fresh = true) ∧
      (∀ n, n < 4 → take t .a n = false ∧ take t .b n = false ∧
        (let x := laneSl (getLane s (viewLane s)) n
         if (getOut s n).latched = true ∧ x.released = true then laneSl t.slu.a n = x ∧ laneSl t.slu.b n = x
         else (laneSl t.slu.a n).released = false ∧ (laneSl t.slu.b n).released = false)) ∧
      t = { s with slu := t.slu, jrn := t.jrn, flt := t.flt, ring := t.ring }) ∧
    (∀ n : Fin 4, laneDead s l = false → ∃ t, exec (.laneDeath l (.stuck n)) s = .next t ∧
      (getLane t l).st = .dead ∧ (getOut t n.val).swStuck = true) ∧
    (∀ c, laneDead s l = true → exec (.laneDeath l c) s = .next s)) ∧
  (∀ (s : State) (l : LaneId),
    let x := getLane s l
    let p := getLane s (other l)
    (laneDead s l = true → (l = .b → domReady s dSLUICE = true) → ∃ t, exec (.laneReturn l) s = .next t ∧
      (getLane t l).st = .shadow ∧ (p.st = .active → (getLane t l).sl = p.sl ∧ (getLane t l).fresh = false) ∧
      (p.st ≠ .active → (getLane t l).sl = latchedSl s ∧ (getLane t l).fresh = true) ∧
      (l = .b → (getLane t l).slots = s.slu.a.slots ∧ (getLane t l).toks = s.slu.a.toks) ∧ t = setLane s l (getLane t l)) ∧
    (laneDead s l = false → exec (.laneReturn l) s = .next s) ∧
    (x.st = .shadow → x.fresh = true → exec (.laneRejoin l) s =
      .next (stageLane (setLane s l { x with st := .active, fresh := false }) 4 0)) ∧
    (x.st = .shadow → x.fresh = false → p.st = .active → (∀ n, n < 4 → laneSl x n = laneSl p n) → slotsAgree s = true →
      ∃ t, exec (.laneRejoin l) s = .next t ∧ getLane t l = { x with st := .active } ∧ getLane t (other l) = p ∧
        (∀ n, n < 4 → (match l with | .a => (getOut t n).takeB | .b => (getOut t n).takeA) = false) ∧
        t = { s with slu := t.slu, jrn := t.jrn }) ∧
    (x.st ≠ .shadow → exec (.laneRejoin l) s = .next s) ∧
    (x.st = .dead → 1000000 < s.clk.nowUs - x.downSinceUs →
      exec (.laneDownTimeout l) s = .next (setLane s l { x with down1s := true })) ∧
    (x.st ≠ .dead → exec (.laneDownTimeout l) s = .next s))

/-- The output stages (R206): a trip of a stage that conducts opens its path, sets OVERCURRENT or OVERTEMP and is a stop
(R425, item 1: log entry 60); after the third failed retry without DRIVE_HOLD the output is FAULTED; an open load sets
OPEN_LOAD and changes nothing else. DRIVE_HOLD and the tamper inputs (R197, R208, R389): a new level is taken, the device
leaves DOZE, and, awake with no power entry under way, nothing else happens; the level it already has changes nothing. -/
def Obligations.SluiceInputsAndOutputs : Prop :=
  (∀ (s : State) (n : Fin 4) (hot : Bool),
    let o := getOut s n.val
    ((laneSl s.slu.a n.val).released = true ∨ (laneSl s.slu.b n.val).released = true → o.tripped = false → o.faulted = false →
      exec (.sluiceStageTrip n hot) s = .next (countStop (setOut s n.val
        { o with tripped := true, overcurrent := o.overcurrent || !hot, overtemp := o.overtemp || hot }))) ∧
    ((laneSl s.slu.a n.val).released = false → (laneSl s.slu.b n.val).released = false →
      exec (.sluiceStageTrip n hot) s = .next s) ∧
    (o.tripped = true → 3 ≤ o.failedRetries → s.slu.dhold = false → o.faulted = false →
      ∃ t, exec (.sluiceOutputFaulted n) s = .next t ∧ (getOut t n.val).faulted = true ∧ t.slu.a = s.slu.a ∧ t.slu.b = s.slu.b ∧
        (∀ i, i ≠ n.val → (getOut t i).faulted = (getOut s i).faulted ∧ (getOut t i).armed = (getOut s i).armed) ∧
        t = { s with slu := { s.slu with outs := t.slu.outs }, jrn := t.jrn, ring := t.ring }) ∧
    (s.slu.dhold = true → exec (.sluiceOutputFaulted n) s = .next s) ∧
    exec (.sluiceOpenLoad n) s = .next (setOut s n.val { o with openLoad := true })) ∧
  (∀ (s : State) (i : Fin 4) (v : Bool),
    (asleep s = false → s.pwr.entering = 0 → v ≠ s.slu.dhold →
      exec (.driveHoldChange v) s = .next (dozeLeave { s with slu := { s.slu with dhold := v } })) ∧
    (v = s.slu.dhold → exec (.driveHoldChange v) s = .next s) ∧
    (asleep s = false → s.pwr.entering = 0 → v ≠ s.slu.tampPin.getLsbD i.val →
      ∃ t, exec (.tamperChange i v) s = .next t ∧ t.slu.tampPin.getLsbD i.val = v ∧
        (∀ j : Nat, j ≠ i.val → t.slu.tampPin.getLsbD j = s.slu.tampPin.getLsbD j) ∧
        t = dozeLeave { s with slu := { s.slu with tampPin := t.slu.tampPin } }) ∧
    (v = s.slu.tampPin.getLsbD i.val → exec (.tamperChange i v) s = .next s))

/-! ### Meter, ledger, journal and flash -/

/-- Vouchers at their boundary (R219, R226, R228): a TOPUP, RESERVE, UNRESERVE, SETTLE or FORFEIT whose bucket allows it moves
its amount in both counter copies, marks its serial in the window, is counted and written in a VOUCHER counter record; one
whose bucket does not allow it moves nothing, marks nothing and is counted as refused; with none due nothing happens. -/
def Obligations.VouchersMoveCredit : Prop :=
  ∀ (s : State) (u : Nat) (v : Voucher), s.ldg.due = [(u, v)] → v.refused = none → v.lgen = s.ldg.lgen →
    1 ≤ v.type → v.type ≤ 5 →
    let b := s.ldg.cA
    let move := match v.type with
      | 1 => bktTopup v.amount | 2 => bktReserve v.amount | 3 => bktUnreserve v.amount | 4 => bktSettle v.amount
      | _ => bktForfeit v.amount
    let fits := match v.type with
      | 1 => decide (b.accepted + v.amount ≤ 2 ^ 62) | 2 => decide ((v.amount : Int) ≤ b.balance)
      | 4 => decide ((v.amount : Int) ≤ b.consumed) | _ => decide ((v.amount : Int) ≤ b.reserved)
    let recorded := fun (t : State) => ∃ r, t.fl.counter = some r ∧ r.kind = 1 ∧ r.rseq = s.ldg.rseq + 1 ∧ r.bkt = t.ldg.cA ∧
      r.h = t.ldg.h ∧ r.map = t.ldg.map ∧ r.beat = s.clk.beat
    (fits = true → ∃ t, exec .voucherApply s = .next t ∧ t.ldg.cA = move s.ldg.cA ∧ t.ldg.cB = move s.ldg.cB ∧
      (t.ldg.h, t.ldg.map) = windowPut s.ldg.h s.ldg.map v.serial ∧ t.ldg.vAccepted = sat 16 (s.ldg.vAccepted + 1) ∧
      t.ldg.vRefused = s.ldg.vRefused ∧ t.ldg.due = [] ∧ recorded t ∧
      t = { s with ldg := t.ldg, jrn := t.jrn, ring := t.ring, fl := t.fl }) ∧
    (fits = false → ∃ t, exec .voucherApply s = .next t ∧ t.ldg.cA = s.ldg.cA ∧ t.ldg.cB = s.ldg.cB ∧ t.ldg.h = s.ldg.h ∧
      t.ldg.map = s.ldg.map ∧ t.ldg.vAccepted = s.ldg.vAccepted ∧ t.ldg.vRefused = sat 16 (s.ldg.vRefused + 1) ∧
      t.ldg.due = [] ∧ recorded t ∧ t = { s with ldg := t.ldg, jrn := t.jrn, ring := t.ring, fl := t.fl })

/-- Meter and periodic rows (R212, R228, R229, R235): an input that stops, or moves again, sets or clears its own state and
keeps the fault of the interval; a PERIODIC counter record that is due holds the counters as they stand; a METER_SUMMARY that
is due is staged while a chain is open and starts the next period; neither moves credit; what is not due does nothing. -/
def Obligations.MeterRowsRecord : Prop :=
  ∀ (s : State) (on : Bool),
    let m := s.mtr
    exec (.meterInputFault false on) s = .next { s with mtr := { m with
      iStuck := on, iFault := m.iFault || on, faulted := m.faulted || on } } ∧
    exec (.meterInputFault true on) s = .next { s with mtr := { m with
      vStuck := on, vFault := m.vFault || on, faulted := m.faulted || on } } ∧
    (counterDue s = true → ∃ t, exec .counterRecordPeriodic s = .next t ∧ t = { s with
      fl := { rewritten s.fl t.fl with counter := some (counterNow s 0),
                                       ring := (s.fl.counter.toList ++ s.fl.ring).take 3839 },
      ldg := { s.ldg with rseq := s.ldg.rseq + 1, lastPeriodicUs := s.clk.nowUs } }) ∧
    (counterDue s = false → exec .counterRecordPeriodic s = .next s) ∧
    (summaryDue s = true → s.jrn.isOpen = true → s.jrn.staged.length < 2048 → ∃ t r, exec .meterSummaryPeriod s = .next t ∧
      t.jrn.staged = s.jrn.staged ++ [r] ∧ r.type = 1 ∧ r.source = 0 ∧ r.seq = s.jrn.nextSeq ∧ r.beat = s.clk.beat ∧
      t.jrn.nextSeq = s.jrn.nextSeq + 1 ∧ t.ldg.cA = s.ldg.cA ∧
      t = { s with jrn := { s.jrn with staged := t.jrn.staged, nextSeq := t.jrn.nextSeq },
                   ldg := { s.ldg with lastSummaryUs := s.clk.nowUs, sumEDis := m.eDis, sumEChg := m.eChg, sumFaults := 0 } }) ∧
    (summaryDue s = false → exec .meterSummaryPeriod s = .next s) ∧
    (s.ldg.due = [] → exec .voucherApply s = .next s)

/-- Sealing (R25, R234, R467): the oldest staged record goes to flash, with the CHAIN that K_j gives it after its predecessor
where K_j is held, unsealed where it is not; records drained unsealed take their CHAIN fields later, and nothing else of them
changes; credit, meter and staged records that wait are as they were. Checkpoints, compaction and rolls (R237 to R240): a
DAILY checkpoint that is due is stored under the next number; the oldest sector goes once every record in it is covered and
fewer than 4 are erased; a roll stores a ROLL checkpoint and goes on under the next KGEN with a new K_j; none of them moves
credit. -/
def Obligations.JournalSealsAndHouse : Prop :=
  (∀ (s : State) (r : JRec) (rest : List JRec), keeperUp s = true → engineFailed s = false → keyBusy s = false →
    (s.jrn.staged = r :: rest → unsealed s.fl.journal = false → kjHeld s = true → (getNode s 3).uses + 1 < (getNode s 3).limit →
      ∃ t, exec .journalSeal s = .next t ∧ t.jrn.staged = rest ∧
        t.fl.journal = s.fl.journal ++ [{ r with chain := some (chainOf s s.jrn.prevChain r) }] ∧
        t.jrn.sealedSeq = r.seq ∧ t.jrn.sealedKgen = r.kgen ∧ t.jrn.sealedChain = chainOf s s.jrn.prevChain r ∧
        t.ldg = s.ldg ∧ t.mtr = s.mtr) ∧
    (s.jrn.staged = r :: rest → kjHeld s = false → ∃ t, exec .journalSeal s = .next t ∧ t = { s with
      jrn := { s.jrn with staged := rest }, fl := { rewritten s.fl t.fl with journal := s.fl.journal ++ [r] } }) ∧
    (s.jrn.staged = [] → exec .journalSeal s = .next s) ∧
    (unsealed s.fl.journal = true → kjHeld s = true → ∃ t, exec .journalChainCatchup s = .next t ∧
      unsealed t.fl.journal = false ∧
      t.fl.journal.map (fun x => { x with chain := none }) = s.fl.journal.map (fun x => { x with chain := none }) ∧
      t.ldg = s.ldg ∧ t.mtr = s.mtr) ∧
    (unsealed s.fl.journal = false → exec .journalChainCatchup s = .next s)) ∧
  (∀ s : State,
    (dailyDue s = true → s.fl.ckpts.length + 64 ≤ 8192 → ∃ t c, exec .dailyCheckpoint s = .next t ∧
      t.fl.ckpts = s.fl.ckpts ++ [c] ∧ c.type = 0 ∧ c.number = s.jrn.ckptNext ∧ c.beat = s.clk.beat ∧
      t.jrn.ckptNext = s.jrn.ckptNext + 1 ∧ t.ldg.cA = s.ldg.cA ∧ t.ldg.cB = s.ldg.cB ∧ t.ldg.svcUs < t.ldg.nextDailyUs) ∧
    (dailyDue s = false → exec .dailyCheckpoint s = .next s) ∧
    (freeSectors s < 4 → keeperUp s = true → (∀ r ∈ s.fl.journal.take sectorRecs, uncovered s r = false) →
      ∃ t, exec .journalCompaction s = .next t ∧ t.fl.journal = s.fl.journal.drop sectorRecs ∧
        t = { s with fl := { rewritten s.fl t.fl with journal := t.fl.journal, jrnBase := s.fl.jrnBase + sectorRecs },
                     jrn := { s.jrn with compactPlanned := t.jrn.compactPlanned, prog := t.jrn.prog }, ring := t.ring }) ∧
    (4 ≤ freeSectors s → exec .journalCompaction s = .next s) ∧
    (∀ k, rollReason s = some k → ckptReady s = true → kjHeld s = true → s.lcy.adv = none → s.fl.ckpts.length + 64 ≤ 8192 →
      ∃ t c, exec .journalRoll s = .next t ∧ t.fl.ckpts = s.fl.ckpts ++ [c] ∧ c.type = 1 ∧ t.jrn.kgen = s.jrn.kgen + 1 ∧
        t.jrn.rollDue = none ∧ (getNode t 3).gen = s.jrn.kgen + 1 ∧ t.ldg.cA = s.ldg.cA ∧ t.ldg.cB = s.ldg.cB) ∧
    (rollReason s = none → exec .journalRoll s = .next s))

/-- The end of a flash write (R228, R346, R375): a configuration becomes the image in force in the area that did not hold it,
one sequence number further, and its command completes with the image's SEAL; a keeper image fills the slot that does not run;
a LEDGER_TOPUP completes with the counts of its vouchers. A write that failed changes no image and completes with
ABORTED_STOP. Nothing under way changes nothing. -/
def Obligations.FlashWritesComplete : Prop :=
  ∀ (s : State) (u : Nat) (beat : BitVec 64) (es : List (Nat × Word)) (k : KeeperImage) (c : Cmd) (good : Bool),
    keeperUp s = true → findCmd s u = some c → c.sq < 16 → c.outOk = true → CqTakes s c.sq →
    (s.fl.commitCap = some (u, beat, es) → beat = s.clk.beat →
      ∃ t, exec (.flashWriteDone .configCommit good) s = .next t ∧ t.fl.commitCap = none ∧
        Posted s t c (if good then .ok else .abortedStop) (if good then (crcWords (es.map (·.2))).toNat else 0) [] ∧
        (good = true → imageInForce t = some ⟨s.cfg.imgSeq.toNat + 1, crcWords (es.map (·.2)), es⟩ ∧
          t.cfg.imageSel = (if s.cfg.imageSel = 0 then 1 else 0)) ∧
        (good = false → t.fl.imgA = s.fl.imgA ∧ t.fl.imgB = s.fl.imgB ∧ t.cfg = s.cfg) ∧
        t = { s with fl := t.fl, cfg := t.cfg, jrn := t.jrn, pwr := t.pwr, ring := t.ring }) ∧
    (s.fl.imageJob = some (u, k, false) →
      ∃ t, exec (.flashWriteDone .imageLoad good) s = .next t ∧ t.fl.imageJob = none ∧
        (∀ x ∈ t.ring.cmds, x.uid ≠ c.uid) ∧ t.ring.posted = sat 32 (s.ring.posted + 1) ∧
        (if good then (if s.pwr.imageB then t.fl.kimgA = k ∧ t.fl.kimgB = s.fl.kimgB else t.fl.kimgB = k ∧ t.fl.kimgA = s.fl.kimgA)
         else t.fl.kimgA = s.fl.kimgA ∧ t.fl.kimgB = s.fl.kimgB)) ∧
    (s.fl.topupUids = [(u, beat)] → beat = s.clk.beat → descLenOut c.desc = 0 → (∀ r ∈ c.recs, r.good = true) →
      ∃ t, exec (.flashWriteDone .ledgerTopup good) s = .next t ∧ t.fl.topupUids = [] ∧
        Posted s t c (if good then .ok else .abortedStop) (if good then c.recs.length else 0) [] ∧ t.ldg = s.ldg) ∧
    (s.fl.topupUids = [] → exec (.flashWriteDone .ledgerTopup good) s = .next s) ∧
    (s.fl.imageJob = none → exec (.flashWriteDone .imageLoad good) s = .next s) ∧
    (s.fl.commitCap = none → exec (.flashWriteDone .configCommit good) s = .next s)

/-! ### Supplies, resets and the start -/

/-- Supplies (R231, R380 to R382, R397): a warning of VAON, VFL or VCORE shows its flag and, with the ledger running, writes a
LAST_GASP counter record of the counters as they then stand; undervoltage of VANA, VFL, VIO or VCORE is an internal RST_N with
its own cause bit; undervoltage of VRF switches RADIO off; of VAON holds the device under POR until recovery. With every
supply good again and no reset held, recovery begins the start. -/
def Obligations.SuppliesAct : Prop :=
  ∀ (s : State) (x : Supply) (l : List (Bool × Bool)),
    let warns := x = .vaon ∨ x = .vfl ∨ x = .vcore
    let flag := match x with
      | .vaon => { s.pwr with vaonWarn := true }
      | .vfl => { s.pwr with vflWarn := true }
      | .vcore => { s.pwr with vcoreWarn := true }
      | _ => s.pwr
    let k := supplyBit x
    (meterRuns s = false ∨ ¬ warns → exec (.supplyWarning x l) s = .next { s with pwr := flag }) ∧
    (warns → meterRuns s = true → ∃ t r, exec (.supplyWarning x l) s = .next t ∧ t.fl.counter = some r ∧ r.kind = 2 ∧
      r.rseq = s.ldg.rseq + 1 ∧ r.bkt = t.ldg.cA ∧ r.eDis = t.mtr.eDis ∧ r.beat = s.clk.beat ∧ t.ldg.rseq = s.ldg.rseq + 1 ∧
      t = { s with pwr := flag, mtr := t.mtr, ldg := t.ldg, fl := { rewritten s.fl t.fl with counter := some r, ring := t.fl.ring } }) ∧
    (x = .vana ∨ x = .vfl ∨ x = .vio ∨ x = .vcore → ∃ t, exec (.supplyUndervoltage x) s = .next t ∧ RstKeeps s t ∧
      t.pwr.phase = .aonInit ∧ t.pwr.supplyOk.getLsbD k = false ∧
      t.pwr.rstPend.getLsbD (match x with | .vana => 2 | .vfl => 3 | .vio => 4 | _ => 5) = true) ∧
    (∃ t, exec (.supplyUndervoltage .vaon) s = .next t ∧ PorKeeps s t ∧ t.pwr.porHeld = true ∧ t.pwr.phase = .aonInit ∧
      t.pwr.rstPend.getLsbD 0 = true) ∧
    (∃ t, exec (.supplyUndervoltage .vrf) s = .next t ∧ t.pwr.supplyOk.getLsbD 1 = false ∧ (getDom t dRADIO).on = false ∧
      t.clk.beat = s.clk.beat ∧ t.ldg.cA = s.ldg.cA ∧ t.mtr = s.mtr) ∧
    ((∀ b, x ≠ .vdrv b) → let m := setSupply s x true
      let p := if x = .vaon then setPwr m fun p => { p with porHeld := false } else m
      (p.pwr.phase = .aonInit → p.pwr.porHeld = false → p.pwr.rstHeld = false → suppliesGood p = true →
        ∃ t, exec (.supplyRecovery x) s = .next t ∧ StartBegins p t) ∧
      (p.pwr.phase ≠ .aonInit ∨ p.pwr.porHeld = true ∨ p.pwr.rstHeld = true ∨ suppliesGood p = false →
        exec (.supplyRecovery x) s = .next p))

/-- POR and RST_N (R396 to R398): POR starts time at 0 and clears every latch, keeping fuses and flash; a low pulse of 10 µs
or more, and one between 1 and 10 µs that the filter takes, is a reset that keeps AON time, meter, credit and latched sluices
and holds the device until the release; any other pulse does nothing. With the supplies good the release begins the start,
with the causes gathered. -/
def Obligations.ResetsKeepAndClear : Prop :=
  ∀ (s : State) (us : Nat) (taken : Bool),
    (∃ t, exec .por s = .next t ∧ PorKeeps s t ∧
      (suppliesGood s = true → s.pwr.porHeld = false → s.pwr.rstHeld = false →
        t.pwr.phase = .optLoad ∧ t.pwr.rstCause = (s.pwr.rstPend ||| 1#11 ||| cutShort s)) ∧
      (suppliesGood s = false ∨ s.pwr.porHeld = true ∨ s.pwr.rstHeld = true → t.pwr.phase = .aonInit ∧
        t.pwr.rstPend = (s.pwr.rstPend ||| 1#11 ||| cutShort s))) ∧
    (us < 1 ∨ (us < 10 ∧ taken = false) → exec (.rstNAssert us taken) s = .next s) ∧
    (1 ≤ us → 10 ≤ us ∨ taken = true → ∃ t, exec (.rstNAssert us taken) s = .next t ∧ RstKeeps s t ∧ t.pwr.rstHeld = true ∧
      t.pwr.phase = .aonInit ∧ t.pwr.rstPend.getLsbD 1 = true ∧ t.key.nodes = [] ∧ t.lf.chans = [] ∧ t.tok.reg = []) ∧
    (let p := setPwr s fun p => { p with rstHeld := false }
     (s.pwr.phase = .aonInit → s.pwr.porHeld = false → suppliesGood s = true →
       ∃ t, exec .rstNRelease s = .next t ∧ StartBegins p t) ∧
     (s.pwr.phase ≠ .aonInit ∨ s.pwr.porHeld = true ∨ suppliesGood s = false → exec .rstNRelease s = .next p))

/-- Phases 2 and 3 (R256, R405, R407, R410 to R412): the option load takes the valid copy with the higher OSEQ, A when they
are equal, and goes on to BOOT, or to spillway with cause OPTIONS, RMA or FAILED_STARTS; the armature load ends READY, empty
in BLANK and, without a good ticket in a state with a plinth, with NO_TICKET; the boot ROM starts the image its policy
selects, or enters spillway with cause NO_IMAGE. -/
def Obligations.StartLoadsAndBoots : Prop :=
  ∀ (s : State) (a b : Bool),
    let useA := a && (!b || decide (s.fl.optB.oseq ≤ s.fl.optA.oseq))
    let o := if useA then s.fl.optA else s.fl.optB
    let spill := fun (t : State) (c : Nat) => t.pwr.phase = .spillway ∧ t.pwr.spillCause = c ∧ t.pwr.rom = true
    (s.pwr.phase = .optLoad → domReady s dKEEPER = true →
      (a = false → b = false → ∃ t, exec (.optionLoadDone a b) s = .next t ∧ spill t 2 ∧ t.fl.opts = .restrictive ∧ t.pwr.optUsed = 2) ∧
      (a = true ∨ b = true → ∃ t, exec (.optionLoadDone a b) s = .next t ∧ t.pwr.optUsed = (if useA then 0 else 1) ∧
        t.pwr.optA = a ∧ t.pwr.optB = b ∧ t.clk = s.clk ∧ t.fl.opts.lcCode = lcState s ∧
        (o.lcCode = lcState s → t.fl.opts = o ∧ t.lcy = s.lcy) ∧
        (lcState s = 5 → spill t 4) ∧
        (lcState s ≠ 5 → o.fsThresh ≤ s.fl.failedStarts → spill t 1) ∧
        (lcState s ≠ 5 → s.fl.failedStarts < o.fsThresh → t.pwr.phase = .boot))) ∧
    (s.pwr.phase ≠ .optLoad → exec (.optionLoadDone a b) s = .next s) ∧
    (s.key.ready = true → exec (.armatureLoadDone a) s = .next s) ∧
    (s.key.ready = false → s.pwr.phase = .boot → s.key.nodes = [] → s.fl.newTicket = none →
      (lcState s = 0 → ∃ t, exec (.armatureLoadDone a) s = .next t ∧ t.key.ready = true ∧ t.key.nodes = [] ∧ t.key.plinth = false) ∧
      (1 ≤ lcState s → lcState s ≤ 3 → (a = false ∨ ticketFound s = none) → ∃ t, exec (.armatureLoadDone a) s = .next t ∧
        t.key.ready = true ∧ t.key.nodes = [] ∧ t.key.plinth = false ∧ t.lcy.noTicket = true) ∧
      (1 ≤ lcState s → lcState s ≤ 3 → a = true → ticketFound s ≠ none → usesMarkOf s 0 < 2 ^ 48 - 1 →
        ∃ t, exec (.armatureLoadDone a) s = .next t ∧
        t.key.ready = true ∧ t.key.plinth = true ∧ (getNode t 0).st = .active ∧ (getNode t 1).st = .active)) ∧
    (s.pwr.phase = .boot → domReady s dCIPHER = true →
      (pickImage s a b = none → ∃ t, exec (.keeperBoot a b) s = .next t ∧ spill t 3) ∧
      (∀ imgB fell, pickImage s a b = some (imgB, fell) → ∃ t, exec (.keeperBoot a b) s = .next t ∧ t.pwr.phase = .starting ∧
        t.pwr.imageB = imgB ∧ t.pwr.keeperRunning = true ∧
        t.fl.highVersion = max s.fl.highVersion (if imgB then s.fl.kimgB.version else s.fl.kimgA.version))) ∧
    (s.pwr.phase ≠ .boot → exec (.keeperBoot a b) s = .next s)

/-- Phases 4 and 5 (R374, R399, R402, R411, R420): retirement entries that waited for the keeper are written; the image of the
higher SEQ among the valid ones in flash becomes the active configuration at T_C, with none of them NO_IMAGE is set; STARTED
is reached when polders, banks and ledger are as R399 asks, and clears the failed-start counter; a start that takes too long
is an internal RST_N with START_WDT in RST_CAUSE. -/
def Obligations.StartReachesStarted : Prop :=
  ∀ (s : State) (a b : Bool),
    let imgA := imageFound (flushLog s) false
    let imgB := imageFound (flushLog s) true
    (s.pwr.phase = .starting → s.pwr.tc = false → keeperUp s = true → ∃ t, exec (.configImageLoad a b) s = .next t ∧
      t.pwr.tc = true ∧ t.pwr.phase = .starting ∧ t.clk = s.clk ∧ t.ldg.cA = s.ldg.cA ∧
      ((a = false ∨ imgA = none) → (b = false ∨ imgB = none) → t.cfg.noImage = true ∧ t.cfg.vals = []) ∧
      (∀ i, a = true → imgA = some i → (b = false ∨ imgB = none ∨ ∃ j, imgB = some j ∧ j.seq ≤ i.seq) →
        t.cfg.noImage = false ∧ t.cfg.imageSel = 0 ∧ t.cfg.imgSeq = BitVec.ofNat 32 i.seq) ∧
      (∀ j, b = true → imgB = some j → (a = false ∨ imgA = none ∨ ∃ i, imgA = some i ∧ i.seq < j.seq) →
        t.cfg.noImage = false ∧ t.cfg.imageSel = 1 ∧ t.cfg.imgSeq = BitVec.ofNat 32 j.seq)) ∧
    (s.pwr.phase ≠ .starting ∨ s.pwr.tc = true → exec (.configImageLoad a b) s = .next s) ∧
    (startReady s = true → ∃ t, exec .startComplete s = .next t ∧ t.pwr.phase = .started ∧ t.fl.failedStarts = 0 ∧
      t.pwr.startVotes = 0 ∧ t.clk.beat = s.clk.beat ∧ t.ldg.cA = s.ldg.cA ∧ t.lcy.fuses = s.lcy.fuses) ∧
    (startReady s = false → exec .startComplete s = .next s) ∧
    (s.pwr.phase = .optLoad ∨ s.pwr.phase = .boot ∨ s.pwr.phase = .starting → suppliesGood s = true → s.pwr.porHeld = false →
      s.pwr.rstHeld = false → ∃ t, exec .startWatchdog s = .next t ∧ t.pwr.phase = .optLoad ∧ t.pwr.rstCause.getLsbD 7 = true ∧
        t.clk.beat = s.clk.beat ∧ t.mtr = s.mtr ∧ t.ldg.cA = s.ldg.cA ∧ t.lcy.fuses = s.lcy.fuses) ∧
    (s.pwr.phase = .aonInit ∨ s.pwr.phase = .started ∨ s.pwr.phase = .spillway → exec .startWatchdog s = .next s)

/-! ### Domains, power states, wakes and the link -/

/-- Domains (R317, R379, R383, R384, R400): one that a vote or pin holds, whose supplies are there and whose phase has come,
switches on and is not ready; it becomes ready, ENTROPY warming up, METER with the newest counter record loaded; one that
nothing has held for HOLDOFF further boundaries switches off and loses its state. A domain already on, already ready or still
held is left alone. The keeper restart (R23, R24): the watchdog stops a running keeper, counts it in WDT_CNT and loses a
pending PREPARE; when the keeper resumes, nothing waits for it any more, and with nothing deferred that is all. -/
def Obligations.DomainsAndKeeperRestart : Prop :=
  (∀ (s : State) (d : Fin 17), d.val ≠ 0 →
    let x := getDom s d.val
    (x.on = false → domRetired s d.val = false → domHeld s d.val = true → supplyAllows s d.val = true → phaseAllows s d.val = true →
      ∃ t, exec (.domainSwitchOn d) s = .next t ∧ getDom t d.val = ⟨true, false, 0⟩ ∧
        (d.val = dENTROPY → t.ent.st = .warmup ∧ t.ent.pool = [] ∧ t.ent.powerUps = (s.ent.powerUps + 1) % 2 ^ 32) ∧
        (d.val ≠ dENTROPY → d.val ≠ dLINK → t = setDom s d.val ⟨true, false, 0⟩)) ∧
    (x.on = true ∨ domHeld s d.val = false → exec (.domainSwitchOn d) s = .next s) ∧
    (x.on = true → x.ready = false → d.val < 13 → ∃ t, exec (.domainReady d) s = .next t ∧ domReady t d.val = true ∧
      t.clk = s.clk ∧
      (d.val ≠ dSLUICE → d.val ≠ dMETER → d.val ≠ dCIPHER → t = setDom s d.val { x with ready := true }) ∧
      (d.val = dMETER → ∀ r, startCounter s = some r → 1 ≤ lcState s → lcState s ≤ 3 → s.fl.newTicket = none →
        t.ldg.st = .active ∧ t.ldg.cA = r.bkt ∧ t.ldg.cB = r.bkt ∧ t.mtr.eDis = r.eDis ∧ t.mtr.eChg = r.eChg ∧ t.ldg.h = r.h ∧
          t.ldg.map = r.map ∧ t.ldg.rseq = r.rseq)) ∧
    (x.on = true → x.ready = false → 13 ≤ d.val → s.pwr.supplyOk.getLsbD (d.val - 8) = true →
      exec (.domainReady d) s = .next (setBank (setDom s d.val { x with ready := true }) (d.val - 13)
        { getBank s (d.val - 13) with ready := true })) ∧
    (x.on = false ∨ x.ready = true → exec (.domainReady d) s = .next s) ∧
    (x.on = true → domHeld s d.val = false → regF s .pwrCfg 8 8 < x.idle → ∃ t, exec (.domainSwitchOff d) s = .next t ∧
      getDom t d.val = ⟨false, false, 0⟩ ∧ t.clk = s.clk ∧ t.lcy.fuses = s.lcy.fuses ∧
      (d.val = dENTROPY → t.ent.st = .off ∧ t.ent.key = 0 ∧ t.ent.v = 0 ∧ t.ent.pool = []) ∧
      (d.val = dCIPHER → t.cip.mode = Cipher.reset.mode ∧ t.cip.blocks = s.cip.blocks) ∧
      (13 ≤ d.val → (getBank t (d.val - 13)).ready = false)) ∧
    (x.on = false ∨ domHeld s d.val = true ∨ x.idle ≤ regF s .pwrCfg 8 8 → exec (.domainSwitchOff d) s = .next s)) ∧
  (∀ s : State,
    (s.pwr.keeperRunning = true → s.flt.restarting = false → domReady s dKEEPER = true → exec .keeperWatchdog s = .next
      { s with flt := { s.flt with restarting := true, wdt := sat 16 (s.flt.wdt + 1) }, slu := { s.slu with prepare := none } }) ∧
    (s.pwr.keeperRunning = false ∨ s.flt.restarting = true → exec .keeperWatchdog s = .next s) ∧
    (s.flt.restarting = true → s.flt.logDue = [] → s.ring.restartEv = [] → s.ring.restartCp = [] → s.flt.restartUids = [] →
      s.ring.deferred = [] → exec .keeperRestartDone s = .next { s with flt := { s.flt with restarting := false } }) ∧
    (s.flt.restarting = true → s.ring.deferred = [] → s.flt.restartUids = [] → ∃ t, exec .keeperRestartDone s = .next t ∧
      t.flt.restarting = false ∧ t.ring.restartEv = [] ∧ t.ring.restartCp = [] ∧ t.flt.logDue = [] ∧ t.clk = s.clk ∧ t.ldg = s.ldg) ∧
    (s.flt.restarting = false → exec .keeperRestartDone s = .next s))

/-- Power states (R386 to R391): a rise of VCORE that arrives gives the new level, one that does not keeps the old one with
RAMP_FAIL; DOZE is entered after two idle boundaries and left on its exit; running commands that outlast ENTRY_WAIT end an
entry with REFUSE 5; an entry with no command left parks an ACTIVE ledger behind a PARK record of the counters as the interval
in progress leaves them, disarms every sluice and switches every domain but AON off, keeping credit and AON time. -/
def Obligations.PowerStatesChange : Prop :=
  ∀ (s : State) (reached : Bool),
    let p := s.pwr
    (p.ramp = true → exec (.vcoreRampCheck reached) s = .next { s with pwr :=
      if reached then { p with plEff := p.plTarget, ramp := false }
      else { p with plTarget := p.plEff, vsel := p.plEff, ramp := false, rampFail := true } }) ∧
    (p.ramp = false → exec (.vcoreRampCheck reached) s = .next s) ∧
    (p.st = .run → 2 ≤ p.idleBounds → dozeOk s = true → p.entering = 0 → exec .dozeEntry s = .next { s with pwr := { p with st := .doze } }) ∧
    (p.idleBounds < 2 ∨ dozeOk s = false → exec .dozeEntry s = .next s) ∧
    (p.st = .doze → exec .dozeExit s = .next { s with pwr := { p with st := .run, idleBounds := 0 } }) ∧
    (p.st ≠ .doze → exec .dozeExit s = .next s) ∧
    (p.entering ≠ 0 → s.ring.cmds ≠ [] → exec .entryWaitExpiry s = .next { s with pwr := { p with entering := 0, refuse := 5 } }) ∧
    (p.entering = 0 ∨ s.ring.cmds = [] → exec .entryWaitExpiry s = .next s) ∧
    (p.entering ≠ 0 → s.ring.cmds = [] → ∃ t, exec .powerDownEntry s = .next t ∧
      t.pwr.st = (if p.entering = 2 then .sleep else .hibernate) ∧ t.pwr.entering = 0 ∧ t.pwr.keeperRunning = false ∧ t.pwr.vsel = 0 ∧
      (∀ d, 1 ≤ d → d ≤ 16 → (getDom t d).on = false) ∧ (∀ n, n < 4 → (getOut t n).armed = false) ∧
      t.clk = { s.clk with fresh := t.clk.fresh } ∧ t.lcy.fuses = s.lcy.fuses ∧ t.lcy.dbg = .locked ∧
      (s.ldg.st ≠ .active ∨ meterRuns s = false → t.ldg.cA = s.ldg.cA) ∧
      (s.ldg.st = .active → t.ldg.st = .parked ∧ ∃ r, t.fl.counter = some r ∧ r.kind = 3 ∧ r.bkt = t.ldg.cA ∧
        r.eDis = t.mtr.eDis)) ∧
    (p.entering = 0 ∨ s.ring.cmds ≠ [] → exec .powerDownEntry s = .next s)

/-- Wakes (R391 to R394, R189): a source enabled in the power state wakes the device, with its bit in WAKE_CAUSE, WAKE# driven
unless it was the host link, and AON time, meter and credit kept; one that is not enabled does nothing; before the domains are
off it abandons the entry with REFUSE 6. The WAKE_IN decoder counts pulses and gaps within the accepted limits and restarts on
a rejected pulse; DEV_WAKE wakes on its own code and is counted on another. -/
def Obligations.WakesWake : Prop :=
  ∀ (s : State) (src : WakeSrc) (gap pulse : Nat) (amble : Bool) (tg : Telegram),
    let p := s.pwr
    let woke := fun (bit : Nat) (t : State) => t.pwr.wakeCause = BitVec.ofNat 7 (2 ^ bit) ∧ t.pwr.st = .run ∧
      t.pwr.wakeSignal = decide (bit ≠ 0) ∧ t.ring.heldWake = true ∧ t.clk.beat = s.clk.beat ∧ t.mtr = s.mtr ∧ t.ldg.cA = s.ldg.cA ∧
      t.lcy.fuses = s.lcy.fuses
    let counts := fun (n : Nat) => (Host.Outcome.next { s with
      clk := { s.clk with fresh := s.clk.fresh + 1 }, pwr := { p with wakePulses := n } } : Host.Outcome State Fault Refusal)
    (asleep s = true → wakeEnabled s src = true → ∃ t, exec (.wake src) s = .next t ∧ woke (wakeBit src) t) ∧
    (asleep s = true → wakeEnabled s src = false → exec (.wake src) s = .next s) ∧
    (asleep s = false → p.entering = 0 → exec (.wake src) s = .next s) ∧
    (asleep s = false → p.entering ≠ 0 → src ≠ .rstN →
      wakeEnabled { s with pwr := { p with st := if p.entering = 2 then .sleep else .hibernate } } src = true →
      exec (.wake src) s = .next { s with pwr := { p with entering := 0, refuse := 6 } }) ∧
    (asleep s = true → 100 ≤ pulse → pulse ≤ 300 → 1000 ≤ gap → gap ≤ 3000 →
      (p.wakePulses = 0 → exec (.wakeInPattern gap pulse) s = counts 1) ∧
      (p.wakePulses = 1 → exec (.wakeInPattern gap pulse) s = counts 2) ∧
      (p.wakePulses = 2 → wakeEnabled s .wakeIn = true → ∃ t, exec (.wakeInPattern gap pulse) s = .next t ∧ woke 1 t)) ∧
    (asleep s = true → pulse < 70 ∨ 340 < pulse → exec (.wakeInPattern gap pulse) s = counts 0) ∧
    (asleep s = false → p.entering = 0 → exec (.wakeInPattern gap pulse) s = .next s) ∧
    (sniffOn s = true → exec (.uhfSniff amble) s = .next { s with rad := { s.rad with sniffing := amble, preamble := amble } } ∧
      exec .sniffSyncTimeout s = .next { s with rad := { s.rad with sniffing := false, preamble := false } }) ∧
    (sniffOn s = false → exec (.uhfSniff amble) s = .next s ∧ exec .sniffSyncTimeout s = .next s ∧ exec (.devWake tg) s = .next s) ∧
    (sniffOn s = true → s.rad.preamble = true → tLen tg = 5 → tCrcOk tg = true → tType tg = 0x51 →
      let code := beN (tPay tg 0 4)
      (code = s.rad.wakeCode.toNat → code ≠ 0 → code ≠ 0xFFFFFFFF → wakeEnabled s .uhf = true →
        ∃ t, exec (.devWake tg) s = .next t ∧ woke 2 t) ∧
      (code ≠ s.rad.wakeCode.toNat ∨ code = 0 ∨ code = 0xFFFFFFFF → ∃ t, exec (.devWake tg) s = .next t ∧ smGet t.rad.cnt 7 0 = sat 32 (smGet s.rad.cnt 7 0 + 1) ∧
        t = { s with rad := { s.rad with cnt := t.rad.cnt, sniffing := false, preamble := false } })) ∧
    (p.alarm.toNat ≤ rtcSeconds s → asleep s = true → wakeEnabled s .rtc = true → ∃ t, exec .rtcAlarm s = .next t ∧ woke 5 t) ∧
    (rtcSeconds s < p.alarm.toNat → exec .rtcAlarm s = .next s) ∧
    (asleep s = true → wakeEnabled s .hostLink = true → ∃ t, exec .perstDeassert s = .next t ∧ woke 0 t) ∧
    (asleep s = false → p.entering = 0 → exec .perstDeassert s = .next { s with pwr := { p with perst := false } })

/-! ### The radio -/

/-- The radio scheduler (R161 to R168, R187, R419): the next waiting activity whose frequencies, power, duty, lock, grant and
listen-before-talk pass gets under way, its power cut to PMAX, sending the telegram of its body; its air time is charged to its
entry when it ends; one that the duty refuses ends with REG_LIMIT, one without lock with SYNTH_NOT_READY, one without grant with
COEX_DENIED, each counted; a grant or a clear channel lets a waiting one go on; a calibration of an enabled entry marks it; the
duty window drops its oldest bin. How much of a telegram cut short counts is a free value up to what was planned (log entry
62). -/
def Obligations.RadioSchedulerRuns : Prop :=
  ∀ (s : State) (a : RadAct) (lock clear good : Bool) (e : Fin 8) (temp : Int) (tone : Option (Fin 64)) (us : Nat),
    let r := s.rad
    let alone := a.inLoc = false ∧ a.inWin = false
    let ended := fun (i : Nat) (t : State) => t.rad.cur = none ∧ smGet t.rad.cnt i 0 = sat 32 (smGet r.cnt i 0 + 1) ∧ t.ldg = s.ldg
    let counted := fun (i : Nat) (t : State) => ended i t ∧ t.rad.bins = r.bins ∧ t.clk = s.clk
    let part := fun (t : State) => ∀ n, actEntry s a = some n →
      ∃ x, x ≤ a.airUs - 64 * a.dead.length ∧ smGet t.rad.bins (64 * n) 0 = smGet r.bins (64 * n) 0 + x
    let went := fun (t : State) => ∃ x, t.rad.cur = some x ∧ x.uid = a.uid ∧ x.phase = .running ∧ x.startUs = s.clk.nowUs
    let enabled := ((bandsOf s)[e.val]?.map (·.en)).getD false
    let marked := { s with rad := { r with calDone := r.calDone ||| BitVec.ofNat 8 (2 ^ e.val), calTemp := smPut r.calTemp e.val temp 0 } }
    (radioUp s = true → r.cur = none → nextAct s = some a → a.kind = .tx → coexOn s = false → calibrated s = true →
      ∀ n b, actEntry s a = some n → (bandsOf s)[n]? = some b →
        (dutyOk s b n a.airUs = true → b.lbt = false ∨ clear = true → ∃ t, exec (.radioActivityStart true clear) s = .next t ∧ went t ∧
          t.rad.cur = some { a with
            pwr := min a.pwr b.pmax, clamped := decide (b.pmax < a.pwr), phase := .running, startUs := s.clk.nowUs,
            sent := telegramBytes (match findCmd s a.uid with | some c => toN c.bytes | none => []) } ∧
          t.rad.bins = r.bins ∧ t.rad.waiting = r.waiting.erase a ∧ t = { s with rad := t.rad, flt := { s.flt with radConsec := 0 } }) ∧
        (dutyOk s b n a.airUs = false → alone → ∃ t, exec (.radioActivityStart true clear) s = .next t ∧ counted 2 t)) ∧
    (r.cur = some a → a.kind = .tx → a.phase = .running → a.dead = [] → a.startUs + a.airUs ≤ us → ∀ n, actEntry s a = some n →
      (txEnd s us).rad.cur = none ∧ smGet (txEnd s us).rad.bins (64 * n) 0 = smGet r.bins (64 * n) 0 + a.airUs) ∧
    (radioUp s = false ∨ (r.cur = none ∧ nextAct s = none) → exec (.radioActivityStart lock clear) s = .next s) ∧
    (r.cur = some a → a.phase = .lock → r.lock = false → alone → ∃ t, exec .synthLockTimeout s = .next t ∧ counted 0 t ∧
      t.flt.radTotal = sat 16 (s.flt.radTotal + 1)) ∧
    (r.cur = none ∨ r.lock = true → exec .synthLockTimeout s = .next s) ∧
    (r.cur = none → exec (.synthLockLost tone) s = .next { s with rad := { r with lock := false } }) ∧
    (r.cur = some a → a.phase = .running → a.kind = .range → ∀ k, tone = some k → exec (.synthLockLost tone) s = .next { s with
      rad := { r with cur := some { a with dead := if a.dead.contains k.val then a.dead else a.dead ++ [k.val] } } }) ∧
    (r.cur = some a → tone = none → alone → sending s a = true → ∃ t, exec (.synthLockLost tone) s = .next t ∧ ended 0 t ∧ part t ∧
      t.rad.lock = false) ∧
    (r.cur = some a → tone = none → sending s a = false →
      exec (.synthLockLost tone) s = .next { s with rad := { r with lock := false } }) ∧
    (radioUp s = true → enabled = true → (r.calDone.getLsbD e.val = false ∨
        r.cur = none ∧ r.loc = none ∧ r.win = none ∧ 20 < (temp - smGet r.calTemp e.val 0).natAbs) →
      exec (.radioCalibration e ⟨true, temp⟩) s = .next marked ∧
      ∃ t, exec (.radioCalibration e ⟨false, temp⟩) s = .next t ∧ t.flt.radTotal = sat 16 (s.flt.radTotal + 1) ∧ t.rad = r) ∧
    (radioUp s = false ∨ enabled = false → exec (.radioCalibration e ⟨good, temp⟩) s = .next s) ∧
    (r.cur = some a → a.phase = .lock → needsGrant s a = true → r.gnt = false → alone → ∃ t,
      exec .coexGrantTimeout s = .next t ∧ counted 1 t) ∧
    (r.cur = none ∨ r.gnt = true → exec .coexGrantTimeout s = .next s) ∧
    (r.cur = some a → a.phase = .lock → r.lock = true → a.kind = .locate → ∃ t, exec .coexGntRise s = .next t ∧ went t ∧ t.rad.gnt = true) ∧
    (r.cur = none → exec .coexGntRise s = .next { s with rad := { r with gnt := true } } ∧
      exec .coexGntFall s = .next { s with rad := { r with gnt := false } }) ∧
    (r.cur = some a → a.phase = .running → a.kind = .tx → s.clk.nowUs < a.startUs + a.airUs → coexOn s = true → alone →
      ∃ t, exec .coexGntFall s = .next t ∧ ended 1 t ∧ part t ∧ t.rad.gnt = false) ∧
    (r.cur = some a → a.phase = .lbt → a.kind = .tx →
      (r.lock = true → needsGrant s a = false ∨ r.gnt = true → ∃ t, exec (.lbtRetry true) s = .next t ∧ went t) ∧
      (r.lock = false → exec (.lbtRetry true) s = .next { s with rad := { r with cur := some { a with phase := .lock } } }) ∧
      (a.lbtTries < 4 → exec (.lbtRetry false) s = .next { s with rad := { r with cur := some { a with lbtTries := a.lbtTries + 1 } } }) ∧
      (4 ≤ a.lbtTries → alone → ∃ t, exec (.lbtRetry false) s = .next t ∧ counted 2 t)) ∧
    (r.cur = none → exec (.lbtRetry clear) s = .next s) ∧
    (∃ t, exec .dutyBinRoll s = .next t ∧ (∀ n b, b < 59 → smGet t.rad.bins (64 * n + b + 1) 0 = smGet r.bins (64 * n + b) 0) ∧
      (∀ n, smGet t.rad.bins (64 * n) 0 = 0) ∧ t = { s with rad := { r with bins := t.rad.bins } })

/-- What the radio hears (R164, R170, R172, R175, R176, R181, R183, R188): a telegram is judged only where the radio listens for
it, and noted with the aerial that receives it; a failed CRC is counted in RAD_CNT_3, a wrong nonce or exchange in RAD_CNT_6; a
reply or ACCESS of an unknown token is recorded as foreign, a host telegram as it stands; a collision in a round asks for a
POLL, at most three times, and a round without one ends a LOCATE that ranges nothing; a report that passes gives its distance
and, near enough, the validated key; a range without report ends NO_RESPONSE; a window ends with OK and its records. Where uses
of keys wait, a telegram that needs one is held (R256, R285). -/
def Obligations.RadioReceives : Prop :=
  ∀ (s : State) (tg : Telegram) (m : RangeMeas) (k : Nat) (l : LocSess) (w : Win) (a : RadAct) (c : Cmd),
    let r := s.rad
    let free := keyBusy s = false
    let good := tLen tg ≠ 0 ∧ tCrcOk tg = true
    let bad := tLen tg ≠ 0 ∧ tCrcOk tg = false
    let h := { s with rad := { r with rssi := if rxAerial s tg then tg.rssiB else tg.rssiA, antB := rxAerial s tg } }
    let ignored := fun (i : Instr) => ∃ t, exec i s = .next t ∧ smGet t.rad.cnt 3 0 = sat 32 (smGet r.cnt 3 0 + 1) ∧
      t = { s with rad := { r with cnt := t.rad.cnt } }
    let heard := fun (b : List Byte) (t : State) => ∃ x d, findCmd t w.uid = some d ∧ d.recs = c.recs ++ [x] ∧ x.bytes = b ∧
      t.rad.rssi = h.rad.rssi ∧ t.rad.antB = h.rad.antB
    let held := fun (i : Instr) (x : HeldMsg) => exec i s = .next { s with cip := { s.cip with held := s.cip.held ++ [x] } }
    (keyBusy s = true → held (.locReply tg) (.locReply tg) ∧ held (.rangeReport tg m) (.rangeReport tg m) ∧
      held (.accessTelegram tg) (.access tg)) ∧
    (locListening s = none → (free → exec (.locReply tg) s = .next s) ∧ exec (.locatePollRoundEnd k) s = .next s) ∧
    (locListening s = some l →
      (free → bad → ignored (.locReply tg)) ∧
      (free → good → tType tg = 0x21 → tLen tg = 27 + 4 * l.ncoil → tPay tg 8 4 = nBe l.nonce.toNat 4 →
        let id := BitVec.ofNat 64 (beN (tPay tg 0 8))
        findId s id = none → (∀ x ∈ l.found, x.id ≠ id) → (l.found.filter fun y => y.status == .ok).length < 16 →
        ∃ t x, exec (.locReply tg) s = .next t ∧ t.rad.loc = some { l with found := l.found ++ [x] } ∧ x.id = id ∧
          x.status = .foreignToken ∧ x.foreign = true ∧ t.lf = s.lf) ∧
      (0 < k → l.repolls < 3 → ∃ t x, exec (.locatePollRoundEnd k) s = .next t ∧ t.rad.cur = none ∧
        t.rad.loc = some { l with repolls := l.repolls + 1, q := min (l.q + 1) 4 } ∧ t.rad.waiting = r.waiting ++ [x] ∧
        x.kind = .poll ∧ x.uid = l.uid) ∧
      (findCmd s l.uid = some c → bitOf c.desc.dw8 3 = false → ∃ t, exec (.locatePollRoundEnd 0) s = .next t ∧
        t.rad.loc = none ∧ t.rad.cur = none)) ∧
    (ranging s = none → (free → exec (.rangeReport tg m) s = .next s) ∧ exec .rangeReportTimeout s = .next s) ∧
    (ranging s = some a → planOf s ≠ none → free → bad → ignored (.rangeReport tg m)) ∧
    (ranging s = some a → a.inLoc = false → a.inWin = false → free → ∀ p, planOf s = some p → good → tType tg = 0x32 →
      tLen tg = 29 + a.nt → let e := getReg s a.reg
      tPay tg 0 4 = nBe (e.id.toNat % 2 ^ 32) 4 → tPay tg 4 6 = nBe a.seed 6 →
      let st := beN (tPay tg (18 + a.nt) 2)
      let v := uhfJudge (dropAct h) a.uid a.polder e.id.toNat st (beN (tPay tg (20 + a.nt) 8))
        (mRange e a p.num st (tPay tg 10 (8 + a.nt)))
      let f := judgeRange v.st (validTones p a (toneOrder h a) (beN (tPay tg 10 8)) (tPay tg 18 a.nt) m)
      let counts := v.status = .ok ∧ f.status = .ok ∧ f.dist ≤ 100 * regF s .radRangeLim 8 8
      ∃ t, exec (.rangeReport tg m) s = .next t ∧ t.rad.cur = none ∧
        (counts → t.lf.authOk = sat 32 (s.lf.authOk + 1)) ∧ (¬ counts → t.lf.authOk = s.lf.authOk)) ∧
    (ranging s = some a → a.inLoc = false → a.inWin = false → findCmd s a.uid = some c → c.sq < 16 → c.outOk = true → CqTakes s c.sq →
      let out := (locBytes (rangeBlank s a .noResponse) 0 false).take (descLenOut c.desc)
      ∃ t, exec .rangeReportTimeout s = .next t ∧ t.rad.cur = none ∧ Posted s t c .noResponse out.length out) ∧
    (winListening s = none → (free → exec (.accessTelegram tg) s = .next s) ∧ exec (.hostTelegramRx tg) s = .next s) ∧
    (winListening s = some w → bad → (free → ignored (.accessTelegram tg)) ∧ ignored (.hostTelegramRx tg)) ∧
    (winListening s = some w → good → w.cap = 0 → findCmd s w.uid = some c →
      (free → tType tg = 0x41 → tLen tg = 23 → findId s (BitVec.ofNat 64 (beN (tPay tg 0 8))) = none →
        ∃ t, exec (.accessTelegram tg) s = .next t ∧ heard (winBytes h tg 0xFFFF .foreignToken true) t) ∧
      (0x80 ≤ tType tg → ∃ t, exec (.hostTelegramRx tg) s = .next t ∧ heard (winBytes h tg 0xFFFF .ok false) t)) ∧
    (r.win = some w → w.endUs ≤ nextBoundUs s → r.cur = none → findCmd s w.uid = some c → c.uid = w.uid → c.sq < 16 → c.outOk = true →
      CqTakes s c.sq → ∃ t, exec .rxWindowEnd s = .next t ∧ t.rad.win = none ∧
        Posted s t c .ok c.recs.length ((c.recs.flatMap (·.bytes)).take (descLenOut c.desc))) ∧
    (r.win = none ∨ (r.win = some w ∧ nextBoundUs s < w.endUs) → exec .rxWindowEnd s = .next s)

/-! ### Cipher engine, keys, registry, entropy, life cycle -/

/-- The cipher engine checks itself (R285 to R288, R418): a mismatch that the second issue does not confirm is only counted,
one that stays makes two pipes run the known-answer test and one pipe FAILED; the test retires the pipe that fails it, takes
the engine FAILED where both fail or both pass and still disagree, and what waited for it is judged afterwards; the mask
generator takes a fresh seed. -/
def Obligations.EngineChecksItself : Prop :=
  ∀ (s : State) (x y z : Bool),
    let c := s.cip
    let failed := fun (t : State) => t.cip = { c with mode := .failed } ∧
      t.flt.retireDue.any (fun r => r.1 == clsEngine && r.2.1 == 0) = true ∧ t = { s with cip := t.cip, flt := { s.flt with retireDue := t.flt.retireDue } }
    let transient := sat 32 (c.cmpTransient + 1)
    (domReady s dCIPHER = true →
      (c.mode = .dual ∨ c.mode = .single → exec (.cipherMismatch true) s = .next { s with cip := { c with cmpTransient := transient } }) ∧
      (c.mode = .dual → exec (.cipherMismatch false) s = .next { s with cip := { c with mode := .kat, katRuns := sat 16 (c.katRuns + 1) } }) ∧
      (c.mode = .single → ∃ t, exec (.cipherMismatch false) s = .next t ∧ failed t)) ∧
    (domReady s dCIPHER = false → exec (.cipherMismatch x) s = .next s) ∧
    (c.mode = .kat → c.startKat = false →
      exec (.cipherKatDone true true true) s = .next
        (releaseHeld { s with cip := { c with mode := .dual, cmpTransient := transient } }) ∧
      (∃ t, exec (.cipherKatDone true true false) s = .next (releaseHeld t) ∧ failed t) ∧
      (∃ t, exec (.cipherKatDone false false x) s = .next (releaseHeld t) ∧ failed t) ∧
      (∃ t, exec (.cipherKatDone true false x) s = .next (releaseHeld t) ∧ t.cip = { c with mode := .single, retB := true } ∧
        t.flt.retireDue.any (fun r => r.1 == clsPipe && r.2.1 == 1) = true) ∧
      (∃ t, exec (.cipherKatDone false true x) s = .next (releaseHeld t) ∧ t.cip = { c with mode := .single, retA := true } ∧
        t.flt.retireDue.any (fun r => r.1 == clsPipe && r.2.1 == 0) = true)) ∧
    (c.held = [] → releaseHeld s = s) ∧
    (c.mode ≠ .kat → exec (.cipherKatDone x y z) s = .next s) ∧
    (domReady s dCIPHER = true → s.ent.st = .ready → softDue s = false → hardDue s = false → ∃ t, exec .maskReseed s = .next t ∧
      t.cip = { c with maskSeeded := true } ∧ t.ent.reqs = s.ent.reqs + 1 ∧ t = { s with cip := t.cip, ent := t.ent }) ∧
    (domReady s dCIPHER = true → s.ent.st = .warmup → exec .maskReseed s = .next s)

/-- The key tree keeps its limits (R250, R254, R255, R257, R264): a node at its limit is RETIRED, K_j asking for a roll and
K_tr replaced by its next generation, a use of the plinth; an error in key RAM takes a node and its children that key RAM alone
holds, INVALID as long as an operation uses them and free without one, and a persistent node comes back with its key and its
USES; USES and instance marks rise before they are reached; a patina pass changes no key and counts when late. -/
def Obligations.KeysKeepLimits : Prop :=
  ∀ (s : State) (i : Fin 256) (onTime : Bool),
    let n := getNode s i.val
    let still := fun (t : State) => t.ldg = s.ldg ∧ t.mtr = s.mtr ∧ t.clk = s.clk ∧ t.cfg = s.cfg ∧ t.slu = s.slu
    (n.st = .active → n.limit ≤ n.uses → ∃ t, exec (.nodeUsageLimit i) s = .next t ∧ still t ∧
      t.key.retired = sat 16 (s.key.retired + 1) ∧ (∀ j, j ≠ i.val → (i.val = 1 → j ≠ 0) → getNode t j = getNode s j) ∧
      (i.val = 1 → getNode t 0 = { getNode s 0 with uses := (getNode s 0).uses + 1 }) ∧
      (i.val ≠ 1 → getNode t i.val = { n with st := .retired }) ∧
      (i.val = 1 → (getNode t 1).st = .active ∧ (getNode t 1).uses = 0 ∧ (getNode t 1).gen = BitVec.ofNat 16 (n.gen.toNat + 1)) ∧
      (i.val = 3 → t.jrn.rollDue ≠ none)) ∧
    (n.st ≠ .active ∨ n.uses < n.limit → exec (.nodeUsageLimit i) s = .next s) ∧
    let gone := fun (t : State) (k : Nat) => (getNode t k).st = if nodeBusy s k then .invalid else .free
    (n.st ≠ .free → n.st ≠ .invalid → ∃ t, exec (.keyRamError i) s = .next t ∧ still t ∧ (n.persistent = false → gone t i.val) ∧
      (n.persistent = true → (getNode t i.val).key = n.key ∧ (getNode t i.val).uses = n.uses ∧ (getNode t i.val).st = n.st) ∧
      (∀ k, k ≠ 0 → (getNode s k).st ≠ .free → (getNode s k).st ≠ .invalid → (getNode s k).persistent = false →
        (getNode s k).parent.toNat = handleOf s i.val → gone t k)) ∧
    (n.st = .free ∨ n.st = .invalid → exec (.keyRamError i) s = .next s) ∧
    (let m := usesMarkOf s i.val
     (keeperUp s = true → n.persistent = true → m ≤ n.uses + 1024 → exec (.usesMarkRaise i) s = .next { s with
       key := { s.key with usesMark := smPut s.key.usesMark i.val (m + 4096) 4096 } }) ∧
     (keeperUp s = false ∨ n.persistent = false ∨ n.uses + 1024 < m → exec (.usesMarkRaise i) s = .next s)) ∧
    (let m := smGet s.key.instMark i.val 256
     let v := smGet s.key.inst i.val 0
     (keeperUp s = true → m ≤ v + 64 → exec (.instanceMarkRaise i) s = .next { s with
       key := { s.key with instMark := smPut s.key.instMark i.val (m + 256) 256 } }) ∧
     (keeperUp s = false ∨ v + 64 < m → exec (.instanceMarkRaise i) s = .next s)) ∧
    (s.pwr.st = .run → s.key.ready = true → ∃ t, exec (.patinaPass onTime) s = .next t ∧ still t ∧
      (∀ j, { getNode t j with secretMask := false } = { getNode s j with secretMask := false }) ∧
      t.key.patinaLate = if onTime then s.key.patinaLate else sat 32 (s.key.patinaLate + 1)) ∧
    (s.pwr.st ≠ .run ∨ s.key.ready = false → exec (.patinaPass onTime) s = .next s)

/-- The registry (R132, R135, R140, R143): SESS_RES rises by 1024, in flash too, once SESS comes within 512 of it; a change
that waits is written, entry and flash copy alike, at a boundary at which no transaction in flight uses it, a confirmed re-key
being counted; a blocked one, or a restarting keeper, leaves all as it is. -/
def Obligations.RegistryChangesApply : Prop :=
  ∀ (s : State) (i : Fin 4096) (c : RegChange) (x : RegEntry),
    let e := getReg s i.val
    (keeperUp s = true → e.st ≠ .free → e.sessRes < 0xFFFFFFFF → e.sessRes ≤ e.sess + 512 → ∃ t, exec (.sessResRaise i) s = .next t ∧
      getReg t i.val = { e with sessRes := min (e.sessRes + 1024) 0xFFFFFFFF, wseq := (e.wseq + 1) % 2 ^ 32 } ∧
      smGet t.fl.reg i.val RegEntry.free = getReg t i.val ∧ (∀ j, j ≠ i.val → getReg t j = getReg s j) ∧
      t = { s with tok := { s.tok with reg := t.tok.reg }, fl := { rewritten s.fl t.fl with reg := t.fl.reg } }) ∧
    (keeperUp s = false ∨ e.st = .free ∨ e.sess + 512 < e.sessRes → exec (.sessResRaise i) s = .next s) ∧
    (s.flt.restarting = false → s.tok.changes = [c] → c.action = 6 → c.reg = i.val → c.entries = [(i.val, x)] → c.recs = [] → c.slotFx = [] →
      e.st ≠ .free → e.id = x.id → (changeBlocked { s with tok := { s.tok with changes := [] } } c = false → ∃ t, exec (.rekeyConfirm i) s = .next t ∧
        exec .registryChangeApply s = .next t ∧ getReg t i.val = { e with
          gen := x.gen, pend := false, sess := 1, sessRes := 1024, st := .active, wseq := (e.wseq + 1) % 2 ^ 32 } ∧
        smGet t.fl.reg i.val RegEntry.free = getReg t i.val ∧ (∀ j, j ≠ i.val → getReg t j = getReg s j) ∧ t.tok.changes = [] ∧
        t.lf.rekeys = sat 32 (s.lf.rekeys + 1) ∧
        t = { s with tok := t.tok, fl := { rewritten s.fl t.fl with reg := t.fl.reg }, lf := { s.lf with rekeys := t.lf.rekeys }, jrn := t.jrn }) ∧
      (changeBlocked { s with tok := { s.tok with changes := [] } } c = true → exec (.rekeyConfirm i) s = .next s ∧
        exec .registryChangeApply s = .next s)) ∧
    (s.flt.restarting = true ∨ s.tok.changes = [] → exec (.rekeyConfirm i) s = .next s ∧ exec .registryChangeApply s = .next s)

/-- The entropy block (R309 to R317): a window that fails a test is counted and discarded; one that passes both gives one pool
block and, in warm-up, 128 bits, three blocks making the generator READY; at the soft limit a full enough pool reseeds, at the
hard limit an empty one leaves it STARVED with the event; a warm-up that takes too long posts reason 0; a request that waits
too long is given up and counted. -/
def Obligations.EntropyIsHeld : Prop :=
  ∀ (s : State) (srcB : Bool) (w : BitVec 1024) (q : WaitReq) (uid : Nat) (c : Cmd),
    let e := s.ent
    let bits := windowBits w
    let rep := (runThrough bits (if srcB then e.runB else e.runA) false).2
    let apt := aptFails bits
    let run := (getDom s dENTROPY).on = true ∧ e.st ≠ .off ∧ s.pwr.st = .run
    let block := condition srcB (e.winOn + 1) w
    let only := fun (t : State) => t = { s with ent := t.ent } ∧ t.ent.windows = sat 32 (e.windows + 1) ∧ t.ent.winOn = e.winOn + 1
    let reseeded := fun (t : State) => t.ent.st = .ready ∧ t.ent.pool = e.pool.drop 3 ∧ t.ent.reqs = 0 ∧ t.ent.seedUs = s.clk.nowUs ∧
      t.ent.reseeds = sat 32 (e.reseeds + 1) ∧ t = { s with ent := t.ent }
    (run → rep = true ∨ apt = true → ∃ t, exec (.entropyWindowEnd srcB w) s = .next t ∧ only t ∧ t.ent.pool = e.pool ∧
      t.ent.credited = e.credited ∧ t.ent.st = e.st ∧ (if srcB then t.ent.bPass else t.ent.aPass) = false ∧
      t.ent.failRep = (if rep then sat 32 (e.failRep + 1) else e.failRep) ∧ t.ent.failApt = (if apt then sat 32 (e.failApt + 1) else e.failApt)) ∧
    (run → rep = false → apt = false →
      (e.st = .ready → ∃ t, exec (.entropyWindowEnd srcB w) s = .next t ∧ only t ∧ t.ent.pool = poolPut e.pool block ∧
        (if srcB then t.ent.bPass else t.ent.aPass) = true ∧ t.ent.st = .ready) ∧
      (e.st = .warmup → e.pool.length < 2 → ∃ t, exec (.entropyWindowEnd srcB w) s = .next t ∧ t.ent.pool = e.pool ++ [block] ∧
        t.ent.credited = e.credited + 128 ∧ t.ent.st = .warmup ∧ t.ldg = s.ldg ∧ t.key = s.key) ∧
      (e.st = .warmup → e.pool.length = 2 → e.waiting = [] → ∃ t, exec (.entropyWindowEnd srcB w) s = .next t ∧ t.ent.st = .ready ∧
        t.ent.pool = [] ∧ t.ent.reqs = 0 ∧ t.ldg = s.ldg ∧ t.key = s.key)) ∧
    (¬ run → exec (.entropyWindowEnd srcB w) s = .next s) ∧
    (e.st = .warmup → exec .entropyWarmupTimeout s = .next (postEvent s evEntropyFail srcEntropy (0 + e.pool.length * 2 ^ 8))) ∧
    (e.st ≠ .warmup → exec .entropyWarmupTimeout s = .next s) ∧
    (e.st = .ready → s.pwr.st = .run →
      (softDue s = true → 3 ≤ e.pool.length → ∃ t, exec .softReseedLimit s = .next t ∧ reseeded t) ∧
      (hardDue s = true → 3 ≤ e.pool.length → ∃ t, exec .hardReseedLimit s = .next t ∧ reseeded t) ∧
      (hardDue s = true → e.pool.length < 3 → exec .hardReseedLimit s =
        .next (postEvent { s with ent := { e with st := .starved } } evEntropyFail srcEntropy (1 + e.pool.length * 2 ^ 8)))) ∧
    (softDue s = false → exec .softReseedLimit s = .next s) ∧ (hardDue s = false → exec .hardReseedLimit s = .next s) ∧
    (e.waiting.find? (fun r => decide (r.us + 1000 * regF s .entCfg 16 10 ≤ nextBoundUs s)) = some q → q.who = .cmd uid →
      findCmd s uid = some c → descOpcode c.desc = 0x60 → ∃ t, exec .entropyWaitTimeout s = .next t ∧
        t.ent.timeouts = sat 32 (e.timeouts + 1) ∧ (∀ r ∈ t.ent.waiting, r.who ≠ .cmd uid) ∧ ∀ d ∈ t.ring.cmds, d.uid ≠ uid) ∧
    ((∀ r ∈ e.waiting, nextBoundUs s < r.us + 1000 * regF s .entCfg 16 10) → exec .entropyWaitTimeout s = .next s)

/-- A life-cycle advance runs its phases in order (R243, R269, R270): the close returns RESERVED and applies the disposition
without losing credit, behind an LC_CLOSE checkpoint and an ADVANCE counter record; the commit programs the fuses of the new
state and no other, and empties key RAM, a node in use being INVALID until its operation ends; the destruction erases the key
store and, unless it is kept, the registry; the installation ends the advance with the ledger ACTIVE under a plinth, or CLOSED
without; an advance that power loss cut short resumes where it was, one to RMA in spillway mode too. Debug sessions (R274,
R275): one that is due opens with the state, the token and the window it was unlocked for, and takes the keys out of use but
for plinth, K_j and K_c; at the end of its window it closes with reason 1 and the armature loads again, after which every node
is present and what waited for a key is judged. -/
def Obligations.AdvanceAndDebug : Prop :=
  (∀ (s : State) (a : Advance) (k : Ticket),
    let emptied := fun (t : State) => ∀ i, (getNode t i).st = .free ∨ ((getNode t i).st = .invalid ∧
      ((getNode s i).st = .invalid ∨ (nodeBusy s i = true ∧ (getNode t i).key = 0)))
    (s.lcy.adv = some a → keeperUp s = true → a.phase = 1 → a.closeDone = false → closeReady s = true →
      ∃ t, exec .advanceClose s = .next t ∧ t.lcy.adv = some { a with closeDone := true } ∧ t.lcy.prog.progress = 200 ∧
        t.lcy.fuses = s.lcy.fuses ∧ (s.jrn.isOpen = false → t.ldg = s.ldg) ∧
        (s.jrn.isOpen = true → t.ldg.cA.reserved = 0 ∧ t.ldg.cA.consumed = s.ldg.cA.consumed ∧ t.ldg.cA.accepted = s.ldg.cA.accepted ∧
          t.ldg.cA.balance + t.ldg.cA.settled = s.ldg.cA.balance + s.ldg.cA.reserved + s.ldg.cA.settled ∧
          (a.ticket.disposition = 1 → t.ldg.cA.settled = s.ldg.cA.settled) ∧
          (∃ r, t.fl.counter = some r ∧ r.kind = 5 ∧ r.bkt = t.ldg.cA) ∧ ∃ c, t.fl.ckpts.getLast? = some c ∧ c.type = 2)) ∧
    (s.lcy.adv = some a → keeperUp s = true → a.phase = 1 → a.closeDone = true → ∃ t, exec .advanceCommit s = .next t ∧
      t.lcy.fuses = (s.lcy.fuses ||| fuseBits a.ticket.dest) ∧ t.lcy.adv = some { a with phase := 2 } ∧ t.key.plinth = false ∧
      emptied t ∧ t.fl.optA.lcCode = a.ticket.dest ∧ t.fl.optB.lcCode = a.ticket.dest ∧ t.ldg.cA = s.ldg.cA) ∧
    (s.lcy.adv = some a → keeperUp s = true → a.phase = 2 → ∃ t, exec .advanceDestroy s = .next t ∧
      t.lcy.adv = some { a with phase := 3 } ∧ t.lcy.prog.progress = 900 ∧ t.fl.keyStore = [] ∧ emptied t ∧
      (a.ticket.keepRegistry = false ∨ a.ticket.dest = 5 → t.tok.reg = [] ∧ t.fl.reg = [] ∧ t.tok.recs = [] ∧ t.fl.recs = []) ∧
      (a.ticket.keepRegistry = true → a.ticket.dest ≠ 5 → t.tok = s.tok ∧ t.fl.reg = s.fl.reg) ∧ t.ldg.cA = s.ldg.cA) ∧
    (s.lcy.adv = some a → a.phase = 3 → s.cip.mode = .kat → exec .advanceInstall s = .next s) ∧
    (s.lcy.adv = some a → keeperUp s = true → engineFailed s = false → s.cip.mode ≠ .kat → a.phase = 3 → ∃ t, exec .advanceInstall s = .next t ∧
      t.lcy.adv = none ∧ t.lcy.prog.progress = 1000 ∧ t.fl.newTicket = none ∧ t.fl.ticket = some a.ticket ∧ t.lcy.fuses = s.lcy.fuses ∧
      (1 ≤ a.ticket.dest → a.ticket.dest ≤ 3 → t.ldg.st = .active ∧ t.key.plinth = true) ∧
      (a.ticket.dest = 0 ∨ 3 < a.ticket.dest → t.ldg.st = .closed ∧ t.key.plinth = false)) ∧
    (s.lcy.adv = none → exec .advanceClose s = .next s ∧ exec .advanceCommit s = .next s ∧ exec .advanceDestroy s = .next s ∧
      exec .advanceInstall s = .next s) ∧
    (s.lcy.adv = none → s.fl.newTicket = some k → s.pwr.phase = .started ∨ (inSpillway s = true ∧ k.dest = 5) → ∃ t b, exec .advanceResume s = .next t ∧ t.lcy.adv = some b ∧
      b.ticket = k ∧ b.uid = 0 ∧ b.phase = (if lcState s = k.dest then 2 else 1) ∧ t.lcy.fuses = s.lcy.fuses ∧ t.ldg = s.ldg) ∧
    (s.fl.newTicket = some k → s.pwr.phase ≠ .started → inSpillway s = false ∨ k.dest ≠ 5 → exec .advanceResume s = .next s) ∧
    (s.lcy.adv ≠ none ∨ s.fl.newTicket = none → exec .advanceResume s = .next s)) ∧
  (∀ (s : State) (st : DbgState) (tok : BitVec 64) (win : Nat),
    (s.lcy.dbgDue = some (st, tok, win) → ∃ t, exec .debugOpen s = .next t ∧ t.lcy.dbg = st ∧ t.lcy.dbgToken = tok ∧
      t.lcy.dbgEndUs = s.clk.nowUs + win * 60000000 ∧ t.lcy.dbgDue = none ∧ t.lcy.dbgOpens = sat 32 (s.lcy.dbgOpens + 1) ∧
      t.key.nodes = s.key.nodes.map (fun p => (p.1, if p.1 = 0 ∨ p.1 = 3 ∨ p.1 = 4 then p.2 else { p.2 with loaded := false })) ∧
      t.lcy.fuses = s.lcy.fuses ∧ t.ldg = s.ldg) ∧
    (s.lcy.dbgDue = none → exec .debugOpen s = .next s) ∧
    (s.lcy.dbg ≠ .locked → s.lcy.dbgEndUs ≤ s.clk.nowUs → ∃ t, exec .debugWindowEnd s = .next t ∧ t.lcy.dbg = .locked ∧
      t.lcy.dbgLastClose = 1 ∧ t.lcy.dbgToken = 0 ∧ t.key.ready = false ∧ t.key.nodes = s.key.nodes ∧ t.lcy.fuses = s.lcy.fuses ∧ t.ldg = s.ldg) ∧
    (s.lcy.dbg = .locked ∨ s.clk.nowUs < s.lcy.dbgEndUs → exec .debugWindowEnd s = .next s) ∧
    (s.key.ready = false → s.pwr.phase ≠ .aonInit → s.pwr.phase ≠ .optLoad → s.key.nodes ≠ [] → ∀ ok, ∃ t,
      exec (.armatureLoadDone ok) s = .next (releaseHeld t) ∧ t.key.ready = true ∧
      t.key.nodes.map (fun p => (p.1, p.2.st, p.2.key, p.2.uses)) = s.key.nodes.map (fun p => (p.1, p.2.st, p.2.key, p.2.uses)) ∧
      (∀ p ∈ t.key.nodes, p.2.st ≠ .invalid → p.2.loaded = true) ∧ t.ldg = s.ldg))

/-- LEDGER_TOPUP and the ends of flash writes run on every operand (R227, R228, R346, R375, R413): a TOPUP with one voucher that
passes checks 1 to 5 counts the voucher key's use and leaves the voucher, unrefused, to the next boundary; a configuration
written is the image in force and its command completes, whatever beat its values were captured in; a keeper image written
fills the slot that does not run, and the keeper restarts on it where that was asked; a counter record written completes its
TOPUP with the counts of accepted and refused vouchers; a write that failed completes with ABORTED_STOP. -/
def Obligations.TopupsAndFlashWritesRun : Prop :=
  (∀ (s : State) (sq : Fin 16) (m : HostMem) (c : Cmd) (inp : List Byte),
    let b := slice (padTo 64 inp) 0 64
    let w := pendingWindow s
    let v : Voucher := ⟨leAt b 2 1, leAt b 12 6, BitVec.ofNat 16 (leAt b 18 2), leAt b 20 8, BitVec.ofNat 32 (leAt b 28 4), none⟩
    let z := countUse (begun s c m) 5
    Begins s sq 0x40 m c inp → keyBusy s = false → engineFailed s = false → descLenIn c.desc = 64 → s.ldg.st = .active →
      nodeLive s 16 = true → nodeLive s 5 = true → voucherShape s b = true → voucherTagOk s b = true →
      serialFresh w.1 w.2 v.serial = true →
      exec (.ledgerTopup sq m) s = .next { z with ldg := { z.ldg with due := z.ldg.due ++ [(c.uid, v)] } }) ∧
  (∀ (s : State) (u : Nat) (beat : BitVec 64) (es : List (Nat × Word)) (k : KeeperImage) (act : Bool) (c : Cmd)
    (rest : List (Nat × BitVec 64)), keeperUp s = true → findCmd s u = some c →
    (s.fl.commitCap = some (u, beat, es) →
      exec (.flashWriteDone .configCommit false) s =
        .next (finishCmd { s with fl := { s.fl with commitCap := none } } c .abortedStop 0 beat []) ∧
      ∃ z, exec (.flashWriteDone .configCommit true) s = .next (finishCmd z c .ok (crcWords (es.map (·.2))) beat []) ∧
        z.fl.commitCap = none ∧ imageInForce z = some ⟨s.cfg.imgSeq.toNat + 1, crcWords (es.map (·.2)), es⟩ ∧
        z.cfg = { s.cfg with imageSel := if s.cfg.imageSel = 0 then 1 else 0, imgSeq := BitVec.ofNat 32 (s.cfg.imgSeq.toNat + 1),
                             noImage := false } ∧
        z = { s with fl := z.fl, cfg := z.cfg, jrn := z.jrn, pwr := z.pwr, ring := z.ring }) ∧
    (s.fl.imageJob = some (u, k, act) →
      (∃ z, exec (.flashWriteDone .imageLoad false) s = .next (failCmd z c .abortedStop) ∧ z.fl = { s.fl with imageJob := none } ∧
        z = { s with fl := z.fl, cfg := z.cfg }) ∧
      ∃ z, z.fl.imageJob = none ∧ (s.pwr.imageB = true → z.fl.kimgA = k ∧ z.fl.kimgB = s.fl.kimgB) ∧
        (s.pwr.imageB = false → z.fl.kimgB = k ∧ z.fl.kimgA = s.fl.kimgA) ∧ z.cfg.imgProg.progress = 1000 ∧
        z = { s with fl := z.fl, cfg := z.cfg, ring := z.ring } ∧
        (act = false → exec (.flashWriteDone .imageLoad true) s = .next (finishNow z c .ok 0 [])) ∧
        (act = true → inSpillway s = true → exec (.flashWriteDone .imageLoad true) s =
          .next (finishNow { z with fl := { z.fl with lastActivatedB := !s.pwr.imageB } } c .ok 0 [])) ∧
        (act = true → inSpillway s = false → ∃ t, exec (.flashWriteDone .imageLoad true) s = .next t ∧
          t.pwr.imageB = !s.pwr.imageB ∧ t.flt.restarting = true ∧ t.flt.restartUids = s.flt.restartUids ++ [u] ∧
          t.fl.highVersion = max s.fl.highVersion k.version ∧ t.ring = z.ring)) ∧
    (s.fl.topupUids = (u, beat) :: rest →
      let z := { s with fl := { s.fl with topupUids := rest } }
      let refused := c.recs.filter fun r => !r.good
      exec (.flashWriteDone .ledgerTopup false) s = .next (finishCmd z c .abortedStop 0 beat []) ∧
      exec (.flashWriteDone .ledgerTopup true) s = .next (finishCmd z c ((refused.head?.map fun r => r.status.getD .ok).getD .ok)
        (BitVec.ofNat 32 ((c.recs.filter (·.good)).length + 256 * refused.length)) beat
        (if descLenOut c.desc = 0 then [] else c.recs.flatMap (·.bytes)))))

end
end

