-- ==== Sys2Proof/Laws/Crypto.lean ====
section
/-! SUPPORT. What the cryptographic functions give: AES blocks and CMAC tags of 16 bytes, each below 256, and the bytes that
`ofN` and `leBytes` lay out read back as the numbers they were. -/

namespace Sys2Proof.Machine

open Sys2Proof

/-- A list of `n` byte values. -/
def IsBytes (n : Nat) (l : List Nat) : Prop := l.length = n ∧ ∀ x ∈ l, x < 256

theorem isBytes_append {a b : Nat} {x y : List Nat} (hx : IsBytes a x) (hy : IsBytes b y) : IsBytes (a + b) (x ++ y) :=
  ⟨by simp [hx.1, hy.1], fun z hz => (List.mem_append.1 hz).elim (hx.2 z) (hy.2 z)⟩

theorem isBytes_map {n : Nat} {l : List Nat} {f : Nat → Nat} (hl : l.length = n) (hf : ∀ x ∈ l, f x < 256) : IsBytes n (l.map f) :=
  ⟨by simp [hl], fun z hz => by obtain ⟨x, hx, rfl⟩ := List.mem_map.1 hz; exact hf x hx⟩

theorem isBytes_take {n k : Nat} {l : List Nat} (h : IsBytes n l) (hk : k ≤ n) : IsBytes k (l.take k) :=
  ⟨by simp [h.1, hk], fun z hz => h.2 z (List.mem_of_mem_take hz)⟩

theorem isBytes_drop {n k : Nat} {l : List Nat} (h : IsBytes n l) : IsBytes (n - k) (l.drop k) :=
  ⟨by simp [h.1], fun z hz => h.2 z (List.mem_of_mem_drop hz)⟩

theorem getD_lt {l : List Nat} (h : ∀ x ∈ l, x < 256) (i : Nat) : l.getD i 0 < 256 := by
  rw [List.getD_eq_getElem?_getD]
  cases e : l[i]? with
  | none => simp
  | some v => exact h v (List.mem_of_getElem? e)

set_option maxRecDepth 20000 in
theorem sboxTable_lt : sboxTable.all (fun x => decide (x < 256)) = true := rfl

theorem sbox_lt (n : Nat) : sbox n < 256 :=
  getD_lt (fun x hx => of_decide_eq_true (List.all_eq_true.1 sboxTable_lt x hx)) n

theorem xor_lt {a b : Nat} (ha : a < 256) (hb : b < 256) : a ^^^ b < 256 := Nat.xor_lt_two_pow (n := 8) ha hb

set_option maxRecDepth 20000 in
theorem xtime_all : (List.range 256).all (fun n => decide (xtime n < 256)) = true := rfl

theorem xtime_lt {n : Nat} (h : n < 256) : xtime n < 256 := by
  exact of_decide_eq_true (List.all_eq_true.1 xtime_all n (List.mem_range.2 h))

theorem isBytes_xorL {n : Nat} {a b : List Nat} (ha : IsBytes n a) (hb : IsBytes n b) : IsBytes n (xorL a b) := by
  refine ⟨by simp [xorL, ha.1, hb.1], ?_⟩
  obtain ⟨la, ha⟩ := ha
  obtain ⟨lb, hb⟩ := hb
  clear la lb
  induction a generalizing b with
  | nil => simp [xorL]
  | cons x t ih =>
    cases b with
    | nil => simp [xorL]
    | cons y u =>
      intro z hz
      simp only [xorL, List.zipWith_cons_cons, List.mem_cons] at hz
      rcases hz with rfl | hz
      · exact xor_lt (ha x (by simp)) (hb y (by simp))
      · exact ih (fun w hw => ha w (by simp [hw])) (fun w hw => hb w (by simp [hw])) z hz

theorem isBytes_nBe (n k : Nat) : IsBytes k (nBe n k) := by
  induction k generalizing n with
  | zero => exact ⟨rfl, by simp [nBe]⟩
  | succ k ih => exact isBytes_append (ih _) ⟨rfl, by simp; omega⟩

/-! ### AES -/

theorem isBytes_mixCol {c : List Nat} (h : ∀ x ∈ c, x < 256) : IsBytes 4 (mixCol c) := by
  have g := fun i => getD_lt h i
  have t := fun i => xtime_lt (g i)
  refine ⟨rfl, fun x hx => ?_⟩
  simp only [mixCol, List.mem_cons, List.not_mem_nil, or_false] at hx
  rcases hx with rfl | rfl | rfl | rfl <;>
    first
      | exact xor_lt (xor_lt (xor_lt (t _) (xor_lt (t _) (g _))) (g _)) (g _)
      | exact xor_lt (xor_lt (xor_lt (g _) (t _)) (xor_lt (t _) (g _))) (g _)
      | exact xor_lt (xor_lt (xor_lt (g _) (g _)) (t _)) (xor_lt (t _) (g _))
      | exact xor_lt (xor_lt (xor_lt (xor_lt (t _) (g _)) (g _)) (g _)) (t _)

theorem isBytes_shiftRows {b : List Nat} (h : ∀ x ∈ b, x < 256) : IsBytes 16 (shiftRows b) :=
  isBytes_map rfl fun i _ => getD_lt h i

theorem sub_lt (b : List Nat) : ∀ x ∈ b.map sbox, x < 256 := by
  intro x hx
  obtain ⟨y, -, rfl⟩ := List.mem_map.1 hx
  exact sbox_lt y

theorem isBytes_columns {l : List Nat} (h : IsBytes 16 l) : IsBytes 16 ((chunks 4 l).flatMap mixCol) := by
  have e : chunks 4 l = [l.take 4, (l.drop 4).take 4, ((l.drop 4).drop 4).take 4, (((l.drop 4).drop 4).drop 4).take 4] := by
    simp [chunks, h.1, chunksGo]
  have m := fun (c : List Nat) (hc : ∀ x ∈ c, x ∈ l) => isBytes_mixCol (c := c) fun x hx => h.2 x (hc x hx)
  rw [e]
  have a := m (l.take 4) fun x hx => List.mem_of_mem_take hx
  have b := m ((l.drop 4).take 4) fun x hx => List.mem_of_mem_drop (List.mem_of_mem_take hx)
  have c := m (((l.drop 4).drop 4).take 4) fun x hx => List.mem_of_mem_drop (List.mem_of_mem_drop (List.mem_of_mem_take hx))
  have d := m ((((l.drop 4).drop 4).drop 4).take 4) fun x hx =>
    List.mem_of_mem_drop (List.mem_of_mem_drop (List.mem_of_mem_drop (List.mem_of_mem_take hx)))
  simpa [List.flatMap_cons] using isBytes_append a (isBytes_append b (isBytes_append c d))

/-- Round keys of 16 byte values each. -/
def KeysOk (ks : List (List Nat)) : Prop := ∀ k ∈ ks, IsBytes 16 k

theorem isBytes_aesRounds {ks : List (List Nat)} (hk : KeysOk ks) {b : List Nat} (hb : IsBytes 16 b) : IsBytes 16 (aesRounds ks b) := by
  induction ks generalizing b with
  | nil => exact hb
  | cons k t ih =>
    have sr := isBytes_shiftRows (b := b.map sbox) (sub_lt b)
    cases t with
    | nil => exact isBytes_xorL sr (hk k (by simp))
    | cons u v => exact ih (fun x hx => hk x (by simp [hx])) (isBytes_xorL (isBytes_columns sr) (hk k (by simp)))

theorem isBytes_aesWith {ks : List (List Nat)} (hk : KeysOk ks) {b : List Nat} (hb : IsBytes 16 b) : IsBytes 16 (aesWith ks b) := by
  cases ks with
  | nil => exact hb
  | cons k t => exact isBytes_aesRounds (fun x hx => hk x (by simp [hx])) (isBytes_xorL hb (hk k (by simp)))

/-- Key words: four byte values each. -/
def WordsOk (ws : List (List Nat)) : Prop := ∀ w ∈ ws, IsBytes 4 w

theorem isBytes_expandStep {nk i rc : Nat} (hrc : rc < 256) {ws : List (List Nat)} (h : WordsOk ws) (hn : 0 < nk) (hl : nk ≤ ws.length) :
    let prev := ws.getD 0 []
    let t := if i % nk = 0 then
        match (prev.drop 1 ++ prev.take 1).map sbox with
        | b :: r => (b ^^^ rc) :: r
        | [] => []
      else if 6 < nk ∧ i % nk = 4 then prev.map sbox
      else prev
    IsBytes 4 (xorL (ws.getD (nk - 1) []) t) := by
  intro prev t
  have mem : ∀ j, j < ws.length → ws.getD j [] ∈ ws := by
    intro j hj
    rw [List.getD_eq_getElem?_getD, List.getElem?_eq_getElem hj]
    exact List.getElem_mem hj
  have hp : IsBytes 4 prev := h _ (mem 0 (by omega))
  refine isBytes_xorL (h _ (mem _ (by omega))) ?_
  show IsBytes 4 t
  have rot : IsBytes 4 ((prev.drop 1 ++ prev.take 1).map sbox) := isBytes_map (by simp [hp.1]) fun x _ => sbox_lt x
  unfold t
  split
  · cases e : (prev.drop 1 ++ prev.take 1).map sbox with
    | nil => rw [e] at rot; exact absurd rot.1 (by simp)
    | cons b r =>
      rw [e] at rot
      refine ⟨by simpa using rot.1, fun x hx => ?_⟩
      rcases List.mem_cons.1 hx with rfl | hx
      · exact xor_lt (rot.2 b (by simp)) hrc
      · exact rot.2 x (by simp [hx])
  · split
    · exact isBytes_map hp.1 fun x _ => sbox_lt x
    · exact hp

theorem wordsOk_expandGo {nk : Nat} (hn : 0 < nk) : ∀ (k i rc : Nat) (ws : List (List Nat)), rc < 256 → WordsOk ws → nk ≤ ws.length →
    WordsOk (expandGo nk k i rc ws) ∧ (expandGo nk k i rc ws).length = ws.length + k := by
  intro k
  induction k with
  | zero => intro i rc ws _ h _; exact ⟨h, rfl⟩
  | succ k ih =>
    intro i rc ws hrc h hl
    have st := isBytes_expandStep (i := i) hrc h hn hl
    have := ih (i + 1) (if i % nk = 0 then xtime rc else rc) (_ :: ws) (by split; exact xtime_lt hrc; exact hrc)
      (fun w hw => by rcases List.mem_cons.1 hw with rfl | hw; exact st; exact h w hw) (by simp; omega)
    exact ⟨this.1, this.2.trans (by rw [List.length_cons]; omega)⟩

theorem isBytes_flatten {ws : List (List Nat)} (h : WordsOk ws) : IsBytes (4 * ws.length) ws.flatten := by
  induction ws with
  | nil => exact ⟨rfl, by simp⟩
  | cons w t ih =>
    have := isBytes_append (h w (by simp)) (ih fun x hx => h x (by simp [hx]))
    simpa [Nat.mul_add, Nat.add_comm] using this

theorem isBytes_chunksGo {m : Nat} : ∀ (k : Nat) (l : List Nat), IsBytes (m * k) l → ∀ c ∈ chunksGo m k l, IsBytes m c := by
  intro k
  induction k with
  | zero => intro l _ c hc; simp [chunksGo] at hc
  | succ k ih =>
    intro l h c hc
    rcases List.mem_cons.1 hc with rfl | hc
    · exact isBytes_take h (by rw [Nat.mul_succ]; omega)
    · refine ih (l.drop m) ?_ c hc
      have := isBytes_drop (k := m) h
      rwa [Nat.mul_succ, Nat.add_sub_cancel] at this

theorem isBytes_chunks {m k : Nat} (hm : 0 < m) {l : List Nat} (h : IsBytes (m * k) l) : ∀ c ∈ chunks m l, IsBytes m c := by
  have e : (l.length + m - 1) / m = k := by
    rw [h.1, show m * k + m - 1 = m - 1 + m * k by omega, Nat.add_mul_div_left _ _ hm, Nat.div_eq_of_lt (by omega)]; omega
  unfold chunks
  rw [e]
  exact isBytes_chunksGo k l h

theorem chunksGo_length (m : Nat) : ∀ (k : Nat) (l : List Nat), (chunksGo m k l).length = k := by
  intro k
  induction k with
  | zero => intro l; rfl
  | succ k ih => intro l; simp [chunksGo, ih]

/-- Round keys of a 16-byte or a 32-byte key. -/
theorem keysOk_expandKey {key : List Nat} (h : IsBytes 16 key ∨ IsBytes 32 key) : KeysOk (expandKey key) := by
  have go : ∀ nk, 0 < nk → IsBytes (4 * nk) key → KeysOk (expandKey key) := by
    intro nk hn hk
    have e : key.length / 4 = nk := by rw [hk.1]; omega
    have w : WordsOk (chunks 4 key).reverse := fun x hx => isBytes_chunks (by omega) hk x (List.mem_reverse.1 hx)
    have l : (chunks 4 key).reverse.length = nk := by
      rw [List.length_reverse, chunks, chunksGo_length, hk.1]; omega
    have g := wordsOk_expandGo hn (4 * (nk + 7) - nk) nk 1 (chunks 4 key).reverse (by omega) w (by omega)
    have f := isBytes_flatten (ws := (expandGo nk (4 * (nk + 7) - nk) nk 1 (chunks 4 key).reverse).reverse)
      fun x hx => g.1 x (List.mem_reverse.1 hx)
    rw [List.length_reverse, g.2, l, show nk + (4 * (nk + 7) - nk) = 4 * (nk + 7) by omega,
      show 4 * (4 * (nk + 7)) = 16 * (nk + 7) by omega] at f
    unfold expandKey
    simp only [e]
    exact isBytes_chunks (by omega) f
  rcases h with h | h
  · exact go 4 (by omega) h
  · exact go 8 (by omega) h

/-! ### CMAC and CCM tags -/

theorem isBytes_cbcMac {ks : List (List Nat)} (hk : KeysOk ks) : ∀ (bs : List (List Nat)) (x : List Nat), (∀ b ∈ bs, IsBytes 16 b) →
    IsBytes 16 x → IsBytes 16 (cbcMac ks bs x) := by
  intro bs
  induction bs with
  | nil => intro x _ hx; exact hx
  | cons b t ih =>
    intro x hb hx
    exact ih _ (fun c hc => hb c (by simp [hc])) (isBytes_aesWith hk (isBytes_xorL hx (hb b (by simp))))

theorem isBytes_zeros (n : Nat) : IsBytes n (List.replicate n 0) :=
  ⟨by simp, fun x hx => by rw [(List.mem_replicate.1 hx).2]; omega⟩

/-- A CMAC tag under a key of the device is 16 bytes (R296). -/
theorem isBytes_cmac {key msg : List Nat} (hk : IsBytes 16 key ∨ IsBytes 32 key) (hm : ∀ x ∈ msg, x < 256) : IsBytes 16 (cmac key msg) := by
  have ks := keysOk_expandKey hk
  have mb : IsBytes msg.length msg := ⟨rfl, hm⟩
  have body : ∀ c ∈ chunks 16 (msg.take (16 * ((msg.length + 15) / 16 - 1))), IsBytes 16 c :=
    isBytes_chunks (by omega) (isBytes_take mb (by omega))
  have rest := isBytes_drop (k := 16 * ((msg.length + 15) / 16 - 1)) mb
  unfold cmac
  refine isBytes_cbcMac ks _ _ (fun b hb => ?_) (isBytes_zeros 16)
  rcases List.mem_append.1 hb with hb | hb
  · exact body b hb
  · rw [List.mem_singleton.1 hb]
    split
    · next hf =>
      simp only [Bool.and_eq_true, decide_eq_true_eq] at hf
      refine isBytes_xorL ?_ (isBytes_nBe _ 16)
      rwa [show msg.length - 16 * ((msg.length + 15) / 16 - 1) = 16 by omega] at rest
    · next hf =>
      simp only [Bool.and_eq_true, decide_eq_true_eq, not_and] at hf
      refine isBytes_xorL ?_ (isBytes_nBe _ 16)
      have l : msg.length - 16 * ((msg.length + 15) / 16 - 1) ≤ 15 := by
        rcases Nat.eq_zero_or_pos msg.length with h | h
        · omega
        · have := hf h; omega
      have := isBytes_append rest (isBytes_append (a := 1) (x := [0x80]) ⟨rfl, by simp⟩
        (isBytes_zeros (15 - (msg.length - 16 * ((msg.length + 15) / 16 - 1)))))
      rw [show msg.length - 16 * ((msg.length + 15) / 16 - 1) + (1 + (15 - (msg.length - 16 * ((msg.length + 15) / 16 - 1)))) = 16
        by omega] at this
      rw [rest.1]
      simpa using this

/-- A derived key is 16 or 32 bytes (R248). -/
theorem isBytes_kdf {key label ctx : List Nat} (hk : IsBytes 16 key ∨ IsBytes 32 key) (hl : ∀ x ∈ label, x < 256)
    (hc : ∀ x ∈ ctx, x < 256) (big : Bool) : IsBytes (if big then 32 else 16) (kdf key label ctx big) := by
  have one : ∀ i, i < 256 → IsBytes 16 (kdfCall key label ctx big i) := by
    intro i hi
    refine isBytes_cmac hk fun x hx => ?_
    simp only [List.mem_cons, List.mem_append] at hx
    rcases hx with ((rfl | hx) | rfl | hx) | hx
    · exact hi
    · exact hl x hx
    · omega
    · exact hc x hx
    · cases big <;> simp at hx <;> omega
  cases big
  · exact one 1 (by omega)
  · exact isBytes_append (one 1 (by omega)) (one 2 (by omega))

theorem isBytes_pad16 {l : List Nat} (h : ∀ x ∈ l, x < 256) : ∃ k, IsBytes (16 * k) (pad16 l) := by
  have := isBytes_append (⟨rfl, h⟩ : IsBytes l.length l) (isBytes_zeros ((16 - l.length % 16) % 16))
  exact ⟨(l.length + (16 - l.length % 16) % 16) / 16, by rwa [show 16 * ((l.length + (16 - l.length % 16) % 16) / 16) =
    l.length + (16 - l.length % 16) % 16 by omega]⟩

theorem isBytes_ccmCtr {nonce : List Nat} (hl : nonce.length ≤ 13) (hn : ∀ x ∈ nonce, x < 256) (i : Nat) :
    IsBytes 16 (ccmCtr nonce i) := by
  have := isBytes_append (a := 1) (x := [14 - nonce.length]) ⟨rfl, by simp; omega⟩
    (isBytes_append (⟨rfl, hn⟩ : IsBytes nonce.length nonce) (isBytes_nBe i (15 - nonce.length)))
  rw [show 1 + (nonce.length + (15 - nonce.length)) = 16 by omega] at this
  simpa [ccmCtr] using this

theorem isBytes_ccmStream {ks : List (List Nat)} (hk : KeysOk ks) {nonce : List Nat} (hl : nonce.length ≤ 13)
    (hn : ∀ x ∈ nonce, x < 256) : ∀ (bs : List (List Nat)) (i : Nat), (∀ b ∈ bs, IsBytes 16 b) →
    IsBytes (16 * bs.length) (ccmStream ks nonce bs i) := by
  intro bs
  induction bs with
  | nil => intro i _; exact ⟨rfl, by simp [ccmStream]⟩
  | cons b t ih =>
    intro i hb
    have := isBytes_append (isBytes_xorL (hb b (by simp)) (isBytes_aesWith hk (isBytes_ccmCtr hl hn i)))
      (ih (i + 1) fun c hc => hb c (by simp [hc]))
    rwa [show 16 + 16 * t.length = 16 * (b :: t).length by simp; omega] at this

/-- The tag of CCM, of 16 bytes (R297). -/
theorem isBytes_ccmTag {ks : List (List Nat)} (hk : KeysOk ks) {nonce aad pt : List Nat} (hl : nonce.length ≤ 13) (hq : 7 ≤ nonce.length)
    (hn : ∀ x ∈ nonce, x < 256) (ha : ∀ x ∈ aad, x < 256) (hp : ∀ x ∈ pt, x < 256) : IsBytes 16 (ccmTag ks nonce aad pt 16) := by
  have bytes2 : ∀ n, ∀ x ∈ nBe n 2, x < 256 := fun n => (isBytes_nBe n 2).2
  have bytes4 : ∀ n, ∀ x ∈ nBe n 4, x < 256 := fun n => (isBytes_nBe n 4).2
  have head : ∃ k, IsBytes (16 * k) (ccmHead nonce aad pt.length 16) := by
    have a : ∃ k, IsBytes (16 * k) (if aad.isEmpty then [] else if aad.length < 2 ^ 16 - 2 ^ 8 then pad16 (nBe aad.length 2 ++ aad)
        else pad16 (0xFF :: 0xFE :: nBe aad.length 4 ++ aad)) := by
      split
      · exact ⟨0, rfl, by simp⟩
      · split
        · exact isBytes_pad16 fun x hx => (List.mem_append.1 hx).elim (bytes2 _ x) (ha x)
        · refine isBytes_pad16 fun x hx => ?_
          simp only [List.mem_cons, List.mem_append] at hx
          rcases hx with (rfl | rfl | hx) | hx
          · omega
          · omega
          · exact bytes4 _ x hx
          · exact ha x hx
    obtain ⟨k, a⟩ := a
    have b := isBytes_append (a := 1) (x := [(if aad.isEmpty then 0 else 64) + 8 * ((16 - 2) / 2) + (15 - nonce.length - 1)])
      ⟨rfl, by simp; split <;> omega⟩ (isBytes_append (⟨rfl, hn⟩ : IsBytes nonce.length nonce)
        (isBytes_append (isBytes_nBe pt.length (15 - nonce.length)) a))
    rw [show 1 + (nonce.length + (15 - nonce.length + 16 * k)) = 16 * (k + 1) by omega] at b
    exact ⟨k + 1, by simpa [ccmHead] using b⟩
  obtain ⟨k, hk1⟩ := head
  obtain ⟨j, hj⟩ := isBytes_pad16 hp
  have all := isBytes_append hk1 hj
  rw [show 16 * k + 16 * j = 16 * (k + j) by omega] at all
  exact isBytes_take (isBytes_xorL (isBytes_cbcMac hk _ _ (isBytes_chunks (by omega) all) (isBytes_zeros 16))
    (isBytes_aesWith hk (isBytes_ccmCtr hl hn 0))) (Nat.le_refl 16)

/-! ### Bytes and numbers -/

theorem toN_lt (l : List Byte) : ∀ x ∈ toN l, x < 256 := by
  intro x hx
  obtain ⟨b, -, rfl⟩ := List.mem_map.1 hx
  exact b.isLt

theorem toN_ofN {l : List Nat} (h : ∀ x ∈ l, x < 256) : toN (ofN l) = l := by
  induction l with
  | nil => rfl
  | cons x t ih =>
    have a := h x (by simp)
    have b := ih fun y hy => h y (by simp [hy])
    simp only [toN, ofN, List.map_cons, BitVec.toNat_ofNat] at b ⊢
    rw [b, Nat.mod_eq_of_lt (by simpa using a)]

theorem leNat_leBytes (k : Nat) : ∀ n, n < 256 ^ k → leNat (leBytes n k) = n := by
  induction k with
  | zero => intro n h; simp [leBytes, leNat] at *; omega
  | succ k ih =>
    intro n h
    have : n / 256 < 256 ^ k := by rw [Nat.pow_succ] at h; exact Nat.div_lt_of_lt_mul (by omega)
    simp only [leBytes, leNat, ih _ this, BitVec.toNat_ofNat]
    omega

end Sys2Proof.Machine
end

