-- ==== Sys2Proof/Laws/State.lean ====
section
/-! SUPPORT. What each update of the state leaves: one lemma for each field and each update. -/

namespace Sys2Proof.Machine

open Sys2Proof

@[simp] theorem setSq_pending (s : State) (n : Nat) (q : Sq) : (setSq s n q).pending = s.pending := rfl
@[simp] theorem setSq_clk (s : State) (n : Nat) (q : Sq) : (setSq s n q).clk = s.clk := rfl
@[simp] theorem setSq_cfg (s : State) (n : Nat) (q : Sq) : (setSq s n q).cfg = s.cfg := rfl
@[simp] theorem setSq_lf (s : State) (n : Nat) (q : Sq) : (setSq s n q).lf = s.lf := rfl
@[simp] theorem setSq_tok (s : State) (n : Nat) (q : Sq) : (setSq s n q).tok = s.tok := rfl
@[simp] theorem setSq_slu (s : State) (n : Nat) (q : Sq) : (setSq s n q).slu = s.slu := rfl
@[simp] theorem setSq_rad (s : State) (n : Nat) (q : Sq) : (setSq s n q).rad = s.rad := rfl
@[simp] theorem setSq_mtr (s : State) (n : Nat) (q : Sq) : (setSq s n q).mtr = s.mtr := rfl
@[simp] theorem setSq_ldg (s : State) (n : Nat) (q : Sq) : (setSq s n q).ldg = s.ldg := rfl
@[simp] theorem setSq_jrn (s : State) (n : Nat) (q : Sq) : (setSq s n q).jrn = s.jrn := rfl
@[simp] theorem setSq_key (s : State) (n : Nat) (q : Sq) : (setSq s n q).key = s.key := rfl
@[simp] theorem setSq_lcy (s : State) (n : Nat) (q : Sq) : (setSq s n q).lcy = s.lcy := rfl
@[simp] theorem setSq_cip (s : State) (n : Nat) (q : Sq) : (setSq s n q).cip = s.cip := rfl
@[simp] theorem setSq_ent (s : State) (n : Nat) (q : Sq) : (setSq s n q).ent = s.ent := rfl
@[simp] theorem setSq_pwr (s : State) (n : Nat) (q : Sq) : (setSq s n q).pwr = s.pwr := rfl
@[simp] theorem setSq_flt (s : State) (n : Nat) (q : Sq) : (setSq s n q).flt = s.flt := rfl
@[simp] theorem setSq_fl (s : State) (n : Nat) (q : Sq) : (setSq s n q).fl = s.fl := rfl

@[simp] theorem setCq_pending (s : State) (n : Nat) (q : Cq) : (setCq s n q).pending = s.pending := rfl
@[simp] theorem setCq_clk (s : State) (n : Nat) (q : Cq) : (setCq s n q).clk = s.clk := rfl
@[simp] theorem setCq_cfg (s : State) (n : Nat) (q : Cq) : (setCq s n q).cfg = s.cfg := rfl
@[simp] theorem setCq_lf (s : State) (n : Nat) (q : Cq) : (setCq s n q).lf = s.lf := rfl
@[simp] theorem setCq_tok (s : State) (n : Nat) (q : Cq) : (setCq s n q).tok = s.tok := rfl
@[simp] theorem setCq_slu (s : State) (n : Nat) (q : Cq) : (setCq s n q).slu = s.slu := rfl
@[simp] theorem setCq_rad (s : State) (n : Nat) (q : Cq) : (setCq s n q).rad = s.rad := rfl
@[simp] theorem setCq_mtr (s : State) (n : Nat) (q : Cq) : (setCq s n q).mtr = s.mtr := rfl
@[simp] theorem setCq_ldg (s : State) (n : Nat) (q : Cq) : (setCq s n q).ldg = s.ldg := rfl
@[simp] theorem setCq_jrn (s : State) (n : Nat) (q : Cq) : (setCq s n q).jrn = s.jrn := rfl
@[simp] theorem setCq_key (s : State) (n : Nat) (q : Cq) : (setCq s n q).key = s.key := rfl
@[simp] theorem setCq_lcy (s : State) (n : Nat) (q : Cq) : (setCq s n q).lcy = s.lcy := rfl
@[simp] theorem setCq_cip (s : State) (n : Nat) (q : Cq) : (setCq s n q).cip = s.cip := rfl
@[simp] theorem setCq_ent (s : State) (n : Nat) (q : Cq) : (setCq s n q).ent = s.ent := rfl
@[simp] theorem setCq_pwr (s : State) (n : Nat) (q : Cq) : (setCq s n q).pwr = s.pwr := rfl
@[simp] theorem setCq_flt (s : State) (n : Nat) (q : Cq) : (setCq s n q).flt = s.flt := rfl
@[simp] theorem setCq_fl (s : State) (n : Nat) (q : Cq) : (setCq s n q).fl = s.fl := rfl

@[simp] theorem setChan_pending (s : State) (n : Nat) (c : Chan) : (setChan s n c).pending = s.pending := rfl
@[simp] theorem setChan_clk (s : State) (n : Nat) (c : Chan) : (setChan s n c).clk = s.clk := rfl
@[simp] theorem setChan_cfg (s : State) (n : Nat) (c : Chan) : (setChan s n c).cfg = s.cfg := rfl
@[simp] theorem setChan_ring (s : State) (n : Nat) (c : Chan) : (setChan s n c).ring = s.ring := rfl
@[simp] theorem setChan_tok (s : State) (n : Nat) (c : Chan) : (setChan s n c).tok = s.tok := rfl
@[simp] theorem setChan_slu (s : State) (n : Nat) (c : Chan) : (setChan s n c).slu = s.slu := rfl
@[simp] theorem setChan_rad (s : State) (n : Nat) (c : Chan) : (setChan s n c).rad = s.rad := rfl
@[simp] theorem setChan_mtr (s : State) (n : Nat) (c : Chan) : (setChan s n c).mtr = s.mtr := rfl
@[simp] theorem setChan_ldg (s : State) (n : Nat) (c : Chan) : (setChan s n c).ldg = s.ldg := rfl
@[simp] theorem setChan_jrn (s : State) (n : Nat) (c : Chan) : (setChan s n c).jrn = s.jrn := rfl
@[simp] theorem setChan_key (s : State) (n : Nat) (c : Chan) : (setChan s n c).key = s.key := rfl
@[simp] theorem setChan_lcy (s : State) (n : Nat) (c : Chan) : (setChan s n c).lcy = s.lcy := rfl
@[simp] theorem setChan_cip (s : State) (n : Nat) (c : Chan) : (setChan s n c).cip = s.cip := rfl
@[simp] theorem setChan_ent (s : State) (n : Nat) (c : Chan) : (setChan s n c).ent = s.ent := rfl
@[simp] theorem setChan_pwr (s : State) (n : Nat) (c : Chan) : (setChan s n c).pwr = s.pwr := rfl
@[simp] theorem setChan_flt (s : State) (n : Nat) (c : Chan) : (setChan s n c).flt = s.flt := rfl
@[simp] theorem setChan_fl (s : State) (n : Nat) (c : Chan) : (setChan s n c).fl = s.fl := rfl

@[simp] theorem setPol_pending (s : State) (n : Nat) (p : Polder) : (setPol s n p).pending = s.pending := rfl
@[simp] theorem setPol_clk (s : State) (n : Nat) (p : Polder) : (setPol s n p).clk = s.clk := rfl
@[simp] theorem setPol_cfg (s : State) (n : Nat) (p : Polder) : (setPol s n p).cfg = s.cfg := rfl
@[simp] theorem setPol_ring (s : State) (n : Nat) (p : Polder) : (setPol s n p).ring = s.ring := rfl
@[simp] theorem setPol_tok (s : State) (n : Nat) (p : Polder) : (setPol s n p).tok = s.tok := rfl
@[simp] theorem setPol_slu (s : State) (n : Nat) (p : Polder) : (setPol s n p).slu = s.slu := rfl
@[simp] theorem setPol_rad (s : State) (n : Nat) (p : Polder) : (setPol s n p).rad = s.rad := rfl
@[simp] theorem setPol_mtr (s : State) (n : Nat) (p : Polder) : (setPol s n p).mtr = s.mtr := rfl
@[simp] theorem setPol_ldg (s : State) (n : Nat) (p : Polder) : (setPol s n p).ldg = s.ldg := rfl
@[simp] theorem setPol_jrn (s : State) (n : Nat) (p : Polder) : (setPol s n p).jrn = s.jrn := rfl
@[simp] theorem setPol_key (s : State) (n : Nat) (p : Polder) : (setPol s n p).key = s.key := rfl
@[simp] theorem setPol_lcy (s : State) (n : Nat) (p : Polder) : (setPol s n p).lcy = s.lcy := rfl
@[simp] theorem setPol_cip (s : State) (n : Nat) (p : Polder) : (setPol s n p).cip = s.cip := rfl
@[simp] theorem setPol_ent (s : State) (n : Nat) (p : Polder) : (setPol s n p).ent = s.ent := rfl
@[simp] theorem setPol_pwr (s : State) (n : Nat) (p : Polder) : (setPol s n p).pwr = s.pwr := rfl
@[simp] theorem setPol_flt (s : State) (n : Nat) (p : Polder) : (setPol s n p).flt = s.flt := rfl
@[simp] theorem setPol_fl (s : State) (n : Nat) (p : Polder) : (setPol s n p).fl = s.fl := rfl

@[simp] theorem setBank_pending (s : State) (n : Nat) (b : Bank) : (setBank s n b).pending = s.pending := rfl
@[simp] theorem setBank_clk (s : State) (n : Nat) (b : Bank) : (setBank s n b).clk = s.clk := rfl
@[simp] theorem setBank_cfg (s : State) (n : Nat) (b : Bank) : (setBank s n b).cfg = s.cfg := rfl
@[simp] theorem setBank_ring (s : State) (n : Nat) (b : Bank) : (setBank s n b).ring = s.ring := rfl
@[simp] theorem setBank_tok (s : State) (n : Nat) (b : Bank) : (setBank s n b).tok = s.tok := rfl
@[simp] theorem setBank_slu (s : State) (n : Nat) (b : Bank) : (setBank s n b).slu = s.slu := rfl
@[simp] theorem setBank_rad (s : State) (n : Nat) (b : Bank) : (setBank s n b).rad = s.rad := rfl
@[simp] theorem setBank_mtr (s : State) (n : Nat) (b : Bank) : (setBank s n b).mtr = s.mtr := rfl
@[simp] theorem setBank_ldg (s : State) (n : Nat) (b : Bank) : (setBank s n b).ldg = s.ldg := rfl
@[simp] theorem setBank_jrn (s : State) (n : Nat) (b : Bank) : (setBank s n b).jrn = s.jrn := rfl
@[simp] theorem setBank_key (s : State) (n : Nat) (b : Bank) : (setBank s n b).key = s.key := rfl
@[simp] theorem setBank_lcy (s : State) (n : Nat) (b : Bank) : (setBank s n b).lcy = s.lcy := rfl
@[simp] theorem setBank_cip (s : State) (n : Nat) (b : Bank) : (setBank s n b).cip = s.cip := rfl
@[simp] theorem setBank_ent (s : State) (n : Nat) (b : Bank) : (setBank s n b).ent = s.ent := rfl
@[simp] theorem setBank_pwr (s : State) (n : Nat) (b : Bank) : (setBank s n b).pwr = s.pwr := rfl
@[simp] theorem setBank_flt (s : State) (n : Nat) (b : Bank) : (setBank s n b).flt = s.flt := rfl
@[simp] theorem setBank_fl (s : State) (n : Nat) (b : Bank) : (setBank s n b).fl = s.fl := rfl

@[simp] theorem setReg_pending (s : State) (n : Nat) (e : RegEntry) : (setReg s n e).pending = s.pending := rfl
@[simp] theorem setReg_clk (s : State) (n : Nat) (e : RegEntry) : (setReg s n e).clk = s.clk := rfl
@[simp] theorem setReg_cfg (s : State) (n : Nat) (e : RegEntry) : (setReg s n e).cfg = s.cfg := rfl
@[simp] theorem setReg_ring (s : State) (n : Nat) (e : RegEntry) : (setReg s n e).ring = s.ring := rfl
@[simp] theorem setReg_lf (s : State) (n : Nat) (e : RegEntry) : (setReg s n e).lf = s.lf := rfl
@[simp] theorem setReg_slu (s : State) (n : Nat) (e : RegEntry) : (setReg s n e).slu = s.slu := rfl
@[simp] theorem setReg_rad (s : State) (n : Nat) (e : RegEntry) : (setReg s n e).rad = s.rad := rfl
@[simp] theorem setReg_mtr (s : State) (n : Nat) (e : RegEntry) : (setReg s n e).mtr = s.mtr := rfl
@[simp] theorem setReg_ldg (s : State) (n : Nat) (e : RegEntry) : (setReg s n e).ldg = s.ldg := rfl
@[simp] theorem setReg_jrn (s : State) (n : Nat) (e : RegEntry) : (setReg s n e).jrn = s.jrn := rfl
@[simp] theorem setReg_key (s : State) (n : Nat) (e : RegEntry) : (setReg s n e).key = s.key := rfl
@[simp] theorem setReg_lcy (s : State) (n : Nat) (e : RegEntry) : (setReg s n e).lcy = s.lcy := rfl
@[simp] theorem setReg_cip (s : State) (n : Nat) (e : RegEntry) : (setReg s n e).cip = s.cip := rfl
@[simp] theorem setReg_ent (s : State) (n : Nat) (e : RegEntry) : (setReg s n e).ent = s.ent := rfl
@[simp] theorem setReg_pwr (s : State) (n : Nat) (e : RegEntry) : (setReg s n e).pwr = s.pwr := rfl
@[simp] theorem setReg_flt (s : State) (n : Nat) (e : RegEntry) : (setReg s n e).flt = s.flt := rfl
@[simp] theorem setReg_fl (s : State) (n : Nat) (e : RegEntry) : (setReg s n e).fl = s.fl := rfl

@[simp] theorem setNode_pending (s : State) (n : Nat) (e : Node) : (setNode s n e).pending = s.pending := rfl
@[simp] theorem setNode_clk (s : State) (n : Nat) (e : Node) : (setNode s n e).clk = s.clk := rfl
@[simp] theorem setNode_cfg (s : State) (n : Nat) (e : Node) : (setNode s n e).cfg = s.cfg := rfl
@[simp] theorem setNode_ring (s : State) (n : Nat) (e : Node) : (setNode s n e).ring = s.ring := rfl
@[simp] theorem setNode_lf (s : State) (n : Nat) (e : Node) : (setNode s n e).lf = s.lf := rfl
@[simp] theorem setNode_tok (s : State) (n : Nat) (e : Node) : (setNode s n e).tok = s.tok := rfl
@[simp] theorem setNode_slu (s : State) (n : Nat) (e : Node) : (setNode s n e).slu = s.slu := rfl
@[simp] theorem setNode_rad (s : State) (n : Nat) (e : Node) : (setNode s n e).rad = s.rad := rfl
@[simp] theorem setNode_mtr (s : State) (n : Nat) (e : Node) : (setNode s n e).mtr = s.mtr := rfl
@[simp] theorem setNode_ldg (s : State) (n : Nat) (e : Node) : (setNode s n e).ldg = s.ldg := rfl
@[simp] theorem setNode_jrn (s : State) (n : Nat) (e : Node) : (setNode s n e).jrn = s.jrn := rfl
@[simp] theorem setNode_lcy (s : State) (n : Nat) (e : Node) : (setNode s n e).lcy = s.lcy := rfl
@[simp] theorem setNode_cip (s : State) (n : Nat) (e : Node) : (setNode s n e).cip = s.cip := rfl
@[simp] theorem setNode_ent (s : State) (n : Nat) (e : Node) : (setNode s n e).ent = s.ent := rfl
@[simp] theorem setNode_pwr (s : State) (n : Nat) (e : Node) : (setNode s n e).pwr = s.pwr := rfl
@[simp] theorem setNode_flt (s : State) (n : Nat) (e : Node) : (setNode s n e).flt = s.flt := rfl
@[simp] theorem setNode_fl (s : State) (n : Nat) (e : Node) : (setNode s n e).fl = s.fl := rfl

@[simp] theorem setDom_pending (s : State) (n : Nat) (d : Dom) : (setDom s n d).pending = s.pending := rfl
@[simp] theorem setDom_clk (s : State) (n : Nat) (d : Dom) : (setDom s n d).clk = s.clk := rfl
@[simp] theorem setDom_cfg (s : State) (n : Nat) (d : Dom) : (setDom s n d).cfg = s.cfg := rfl
@[simp] theorem setDom_ring (s : State) (n : Nat) (d : Dom) : (setDom s n d).ring = s.ring := rfl
@[simp] theorem setDom_lf (s : State) (n : Nat) (d : Dom) : (setDom s n d).lf = s.lf := rfl
@[simp] theorem setDom_tok (s : State) (n : Nat) (d : Dom) : (setDom s n d).tok = s.tok := rfl
@[simp] theorem setDom_slu (s : State) (n : Nat) (d : Dom) : (setDom s n d).slu = s.slu := rfl
@[simp] theorem setDom_rad (s : State) (n : Nat) (d : Dom) : (setDom s n d).rad = s.rad := rfl
@[simp] theorem setDom_mtr (s : State) (n : Nat) (d : Dom) : (setDom s n d).mtr = s.mtr := rfl
@[simp] theorem setDom_ldg (s : State) (n : Nat) (d : Dom) : (setDom s n d).ldg = s.ldg := rfl
@[simp] theorem setDom_jrn (s : State) (n : Nat) (d : Dom) : (setDom s n d).jrn = s.jrn := rfl
@[simp] theorem setDom_key (s : State) (n : Nat) (d : Dom) : (setDom s n d).key = s.key := rfl
@[simp] theorem setDom_lcy (s : State) (n : Nat) (d : Dom) : (setDom s n d).lcy = s.lcy := rfl
@[simp] theorem setDom_cip (s : State) (n : Nat) (d : Dom) : (setDom s n d).cip = s.cip := rfl
@[simp] theorem setDom_ent (s : State) (n : Nat) (d : Dom) : (setDom s n d).ent = s.ent := rfl
@[simp] theorem setDom_flt (s : State) (n : Nat) (d : Dom) : (setDom s n d).flt = s.flt := rfl
@[simp] theorem setDom_fl (s : State) (n : Nat) (d : Dom) : (setDom s n d).fl = s.fl := rfl

@[simp] theorem setOut_pending (s : State) (n : Nat) (o : SluOut) : (setOut s n o).pending = s.pending := rfl
@[simp] theorem setOut_clk (s : State) (n : Nat) (o : SluOut) : (setOut s n o).clk = s.clk := rfl
@[simp] theorem setOut_cfg (s : State) (n : Nat) (o : SluOut) : (setOut s n o).cfg = s.cfg := rfl
@[simp] theorem setOut_ring (s : State) (n : Nat) (o : SluOut) : (setOut s n o).ring = s.ring := rfl
@[simp] theorem setOut_lf (s : State) (n : Nat) (o : SluOut) : (setOut s n o).lf = s.lf := rfl
@[simp] theorem setOut_tok (s : State) (n : Nat) (o : SluOut) : (setOut s n o).tok = s.tok := rfl
@[simp] theorem setOut_rad (s : State) (n : Nat) (o : SluOut) : (setOut s n o).rad = s.rad := rfl
@[simp] theorem setOut_mtr (s : State) (n : Nat) (o : SluOut) : (setOut s n o).mtr = s.mtr := rfl
@[simp] theorem setOut_ldg (s : State) (n : Nat) (o : SluOut) : (setOut s n o).ldg = s.ldg := rfl
@[simp] theorem setOut_jrn (s : State) (n : Nat) (o : SluOut) : (setOut s n o).jrn = s.jrn := rfl
@[simp] theorem setOut_key (s : State) (n : Nat) (o : SluOut) : (setOut s n o).key = s.key := rfl
@[simp] theorem setOut_lcy (s : State) (n : Nat) (o : SluOut) : (setOut s n o).lcy = s.lcy := rfl
@[simp] theorem setOut_cip (s : State) (n : Nat) (o : SluOut) : (setOut s n o).cip = s.cip := rfl
@[simp] theorem setOut_ent (s : State) (n : Nat) (o : SluOut) : (setOut s n o).ent = s.ent := rfl
@[simp] theorem setOut_pwr (s : State) (n : Nat) (o : SluOut) : (setOut s n o).pwr = s.pwr := rfl
@[simp] theorem setOut_flt (s : State) (n : Nat) (o : SluOut) : (setOut s n o).flt = s.flt := rfl
@[simp] theorem setOut_fl (s : State) (n : Nat) (o : SluOut) : (setOut s n o).fl = s.fl := rfl

@[simp] theorem setPwr_pending (s : State) (f : Power → Power) : (setPwr s f).pending = s.pending := rfl
@[simp] theorem setPwr_clk (s : State) (f : Power → Power) : (setPwr s f).clk = s.clk := rfl
@[simp] theorem setPwr_cfg (s : State) (f : Power → Power) : (setPwr s f).cfg = s.cfg := rfl
@[simp] theorem setPwr_ring (s : State) (f : Power → Power) : (setPwr s f).ring = s.ring := rfl
@[simp] theorem setPwr_lf (s : State) (f : Power → Power) : (setPwr s f).lf = s.lf := rfl
@[simp] theorem setPwr_tok (s : State) (f : Power → Power) : (setPwr s f).tok = s.tok := rfl
@[simp] theorem setPwr_slu (s : State) (f : Power → Power) : (setPwr s f).slu = s.slu := rfl
@[simp] theorem setPwr_rad (s : State) (f : Power → Power) : (setPwr s f).rad = s.rad := rfl
@[simp] theorem setPwr_mtr (s : State) (f : Power → Power) : (setPwr s f).mtr = s.mtr := rfl
@[simp] theorem setPwr_ldg (s : State) (f : Power → Power) : (setPwr s f).ldg = s.ldg := rfl
@[simp] theorem setPwr_jrn (s : State) (f : Power → Power) : (setPwr s f).jrn = s.jrn := rfl
@[simp] theorem setPwr_key (s : State) (f : Power → Power) : (setPwr s f).key = s.key := rfl
@[simp] theorem setPwr_lcy (s : State) (f : Power → Power) : (setPwr s f).lcy = s.lcy := rfl
@[simp] theorem setPwr_cip (s : State) (f : Power → Power) : (setPwr s f).cip = s.cip := rfl
@[simp] theorem setPwr_ent (s : State) (f : Power → Power) : (setPwr s f).ent = s.ent := rfl
@[simp] theorem setPwr_flt (s : State) (f : Power → Power) : (setPwr s f).flt = s.flt := rfl
@[simp] theorem setPwr_fl (s : State) (f : Power → Power) : (setPwr s f).fl = s.fl := rfl

@[simp] theorem setCip_pending (s : State) (f : Cipher → Cipher) : (setCip s f).pending = s.pending := rfl
@[simp] theorem setCip_clk (s : State) (f : Cipher → Cipher) : (setCip s f).clk = s.clk := rfl
@[simp] theorem setCip_cfg (s : State) (f : Cipher → Cipher) : (setCip s f).cfg = s.cfg := rfl
@[simp] theorem setCip_ring (s : State) (f : Cipher → Cipher) : (setCip s f).ring = s.ring := rfl
@[simp] theorem setCip_lf (s : State) (f : Cipher → Cipher) : (setCip s f).lf = s.lf := rfl
@[simp] theorem setCip_tok (s : State) (f : Cipher → Cipher) : (setCip s f).tok = s.tok := rfl
@[simp] theorem setCip_slu (s : State) (f : Cipher → Cipher) : (setCip s f).slu = s.slu := rfl
@[simp] theorem setCip_rad (s : State) (f : Cipher → Cipher) : (setCip s f).rad = s.rad := rfl
@[simp] theorem setCip_mtr (s : State) (f : Cipher → Cipher) : (setCip s f).mtr = s.mtr := rfl
@[simp] theorem setCip_ldg (s : State) (f : Cipher → Cipher) : (setCip s f).ldg = s.ldg := rfl
@[simp] theorem setCip_jrn (s : State) (f : Cipher → Cipher) : (setCip s f).jrn = s.jrn := rfl
@[simp] theorem setCip_key (s : State) (f : Cipher → Cipher) : (setCip s f).key = s.key := rfl
@[simp] theorem setCip_lcy (s : State) (f : Cipher → Cipher) : (setCip s f).lcy = s.lcy := rfl
@[simp] theorem setCip_ent (s : State) (f : Cipher → Cipher) : (setCip s f).ent = s.ent := rfl
@[simp] theorem setCip_pwr (s : State) (f : Cipher → Cipher) : (setCip s f).pwr = s.pwr := rfl
@[simp] theorem setCip_flt (s : State) (f : Cipher → Cipher) : (setCip s f).flt = s.flt := rfl
@[simp] theorem setCip_fl (s : State) (f : Cipher → Cipher) : (setCip s f).fl = s.fl := rfl

@[simp] theorem setEnt_pending (s : State) (f : Entropy → Entropy) : (setEnt s f).pending = s.pending := rfl
@[simp] theorem setEnt_clk (s : State) (f : Entropy → Entropy) : (setEnt s f).clk = s.clk := rfl
@[simp] theorem setEnt_cfg (s : State) (f : Entropy → Entropy) : (setEnt s f).cfg = s.cfg := rfl
@[simp] theorem setEnt_ring (s : State) (f : Entropy → Entropy) : (setEnt s f).ring = s.ring := rfl
@[simp] theorem setEnt_lf (s : State) (f : Entropy → Entropy) : (setEnt s f).lf = s.lf := rfl
@[simp] theorem setEnt_tok (s : State) (f : Entropy → Entropy) : (setEnt s f).tok = s.tok := rfl
@[simp] theorem setEnt_slu (s : State) (f : Entropy → Entropy) : (setEnt s f).slu = s.slu := rfl
@[simp] theorem setEnt_rad (s : State) (f : Entropy → Entropy) : (setEnt s f).rad = s.rad := rfl
@[simp] theorem setEnt_mtr (s : State) (f : Entropy → Entropy) : (setEnt s f).mtr = s.mtr := rfl
@[simp] theorem setEnt_ldg (s : State) (f : Entropy → Entropy) : (setEnt s f).ldg = s.ldg := rfl
@[simp] theorem setEnt_jrn (s : State) (f : Entropy → Entropy) : (setEnt s f).jrn = s.jrn := rfl
@[simp] theorem setEnt_key (s : State) (f : Entropy → Entropy) : (setEnt s f).key = s.key := rfl
@[simp] theorem setEnt_lcy (s : State) (f : Entropy → Entropy) : (setEnt s f).lcy = s.lcy := rfl
@[simp] theorem setEnt_cip (s : State) (f : Entropy → Entropy) : (setEnt s f).cip = s.cip := rfl
@[simp] theorem setEnt_pwr (s : State) (f : Entropy → Entropy) : (setEnt s f).pwr = s.pwr := rfl
@[simp] theorem setEnt_flt (s : State) (f : Entropy → Entropy) : (setEnt s f).flt = s.flt := rfl
@[simp] theorem setEnt_fl (s : State) (f : Entropy → Entropy) : (setEnt s f).fl = s.fl := rfl

@[simp] theorem putCmd_pending (s : State) (c : Cmd) : (putCmd s c).pending = s.pending := rfl
@[simp] theorem putCmd_clk (s : State) (c : Cmd) : (putCmd s c).clk = s.clk := rfl
@[simp] theorem putCmd_cfg (s : State) (c : Cmd) : (putCmd s c).cfg = s.cfg := rfl
@[simp] theorem putCmd_lf (s : State) (c : Cmd) : (putCmd s c).lf = s.lf := rfl
@[simp] theorem putCmd_tok (s : State) (c : Cmd) : (putCmd s c).tok = s.tok := rfl
@[simp] theorem putCmd_slu (s : State) (c : Cmd) : (putCmd s c).slu = s.slu := rfl
@[simp] theorem putCmd_rad (s : State) (c : Cmd) : (putCmd s c).rad = s.rad := rfl
@[simp] theorem putCmd_mtr (s : State) (c : Cmd) : (putCmd s c).mtr = s.mtr := rfl
@[simp] theorem putCmd_ldg (s : State) (c : Cmd) : (putCmd s c).ldg = s.ldg := rfl
@[simp] theorem putCmd_jrn (s : State) (c : Cmd) : (putCmd s c).jrn = s.jrn := rfl
@[simp] theorem putCmd_key (s : State) (c : Cmd) : (putCmd s c).key = s.key := rfl
@[simp] theorem putCmd_lcy (s : State) (c : Cmd) : (putCmd s c).lcy = s.lcy := rfl
@[simp] theorem putCmd_cip (s : State) (c : Cmd) : (putCmd s c).cip = s.cip := rfl
@[simp] theorem putCmd_ent (s : State) (c : Cmd) : (putCmd s c).ent = s.ent := rfl
@[simp] theorem putCmd_pwr (s : State) (c : Cmd) : (putCmd s c).pwr = s.pwr := rfl
@[simp] theorem putCmd_flt (s : State) (c : Cmd) : (putCmd s c).flt = s.flt := rfl
@[simp] theorem putCmd_fl (s : State) (c : Cmd) : (putCmd s c).fl = s.fl := rfl

@[simp] theorem dropCmd_pending (s : State) (uid : Nat) : (dropCmd s uid).pending = s.pending := rfl
@[simp] theorem dropCmd_clk (s : State) (uid : Nat) : (dropCmd s uid).clk = s.clk := rfl
@[simp] theorem dropCmd_cfg (s : State) (uid : Nat) : (dropCmd s uid).cfg = s.cfg := rfl
@[simp] theorem dropCmd_lf (s : State) (uid : Nat) : (dropCmd s uid).lf = s.lf := rfl
@[simp] theorem dropCmd_tok (s : State) (uid : Nat) : (dropCmd s uid).tok = s.tok := rfl
@[simp] theorem dropCmd_slu (s : State) (uid : Nat) : (dropCmd s uid).slu = s.slu := rfl
@[simp] theorem dropCmd_rad (s : State) (uid : Nat) : (dropCmd s uid).rad = s.rad := rfl
@[simp] theorem dropCmd_mtr (s : State) (uid : Nat) : (dropCmd s uid).mtr = s.mtr := rfl
@[simp] theorem dropCmd_ldg (s : State) (uid : Nat) : (dropCmd s uid).ldg = s.ldg := rfl
@[simp] theorem dropCmd_jrn (s : State) (uid : Nat) : (dropCmd s uid).jrn = s.jrn := rfl
@[simp] theorem dropCmd_key (s : State) (uid : Nat) : (dropCmd s uid).key = s.key := rfl
@[simp] theorem dropCmd_lcy (s : State) (uid : Nat) : (dropCmd s uid).lcy = s.lcy := rfl
@[simp] theorem dropCmd_cip (s : State) (uid : Nat) : (dropCmd s uid).cip = s.cip := rfl
@[simp] theorem dropCmd_ent (s : State) (uid : Nat) : (dropCmd s uid).ent = s.ent := rfl
@[simp] theorem dropCmd_pwr (s : State) (uid : Nat) : (dropCmd s uid).pwr = s.pwr := rfl
@[simp] theorem dropCmd_flt (s : State) (uid : Nat) : (dropCmd s uid).flt = s.flt := rfl
@[simp] theorem dropCmd_fl (s : State) (uid : Nat) : (dropCmd s uid).fl = s.fl := rfl

@[simp] theorem countStop_pending (s : State) : (countStop s).pending = s.pending := rfl
@[simp] theorem countStop_clk (s : State) : (countStop s).clk = s.clk := rfl
@[simp] theorem countStop_cfg (s : State) : (countStop s).cfg = s.cfg := rfl
@[simp] theorem countStop_ring (s : State) : (countStop s).ring = s.ring := rfl
@[simp] theorem countStop_lf (s : State) : (countStop s).lf = s.lf := rfl
@[simp] theorem countStop_tok (s : State) : (countStop s).tok = s.tok := rfl
@[simp] theorem countStop_slu (s : State) : (countStop s).slu = s.slu := rfl
@[simp] theorem countStop_rad (s : State) : (countStop s).rad = s.rad := rfl
@[simp] theorem countStop_mtr (s : State) : (countStop s).mtr = s.mtr := rfl
@[simp] theorem countStop_ldg (s : State) : (countStop s).ldg = s.ldg := rfl
@[simp] theorem countStop_jrn (s : State) : (countStop s).jrn = s.jrn := rfl
@[simp] theorem countStop_key (s : State) : (countStop s).key = s.key := rfl
@[simp] theorem countStop_lcy (s : State) : (countStop s).lcy = s.lcy := rfl
@[simp] theorem countStop_cip (s : State) : (countStop s).cip = s.cip := rfl
@[simp] theorem countStop_ent (s : State) : (countStop s).ent = s.ent := rfl
@[simp] theorem countStop_pwr (s : State) : (countStop s).pwr = s.pwr := rfl
@[simp] theorem countStop_fl (s : State) : (countStop s).fl = s.fl := rfl

@[simp] theorem putRdata_pending (s : State) (w : Word) : (putRdata s w).pending = s.pending := rfl
@[simp] theorem putRdata_clk (s : State) (w : Word) : (putRdata s w).clk = s.clk := rfl
@[simp] theorem putRdata_ring (s : State) (w : Word) : (putRdata s w).ring = s.ring := rfl
@[simp] theorem putRdata_lf (s : State) (w : Word) : (putRdata s w).lf = s.lf := rfl
@[simp] theorem putRdata_tok (s : State) (w : Word) : (putRdata s w).tok = s.tok := rfl
@[simp] theorem putRdata_slu (s : State) (w : Word) : (putRdata s w).slu = s.slu := rfl
@[simp] theorem putRdata_rad (s : State) (w : Word) : (putRdata s w).rad = s.rad := rfl
@[simp] theorem putRdata_mtr (s : State) (w : Word) : (putRdata s w).mtr = s.mtr := rfl
@[simp] theorem putRdata_ldg (s : State) (w : Word) : (putRdata s w).ldg = s.ldg := rfl
@[simp] theorem putRdata_jrn (s : State) (w : Word) : (putRdata s w).jrn = s.jrn := rfl
@[simp] theorem putRdata_key (s : State) (w : Word) : (putRdata s w).key = s.key := rfl
@[simp] theorem putRdata_lcy (s : State) (w : Word) : (putRdata s w).lcy = s.lcy := rfl
@[simp] theorem putRdata_cip (s : State) (w : Word) : (putRdata s w).cip = s.cip := rfl
@[simp] theorem putRdata_ent (s : State) (w : Word) : (putRdata s w).ent = s.ent := rfl
@[simp] theorem putRdata_pwr (s : State) (w : Word) : (putRdata s w).pwr = s.pwr := rfl
@[simp] theorem putRdata_flt (s : State) (w : Word) : (putRdata s w).flt = s.flt := rfl
@[simp] theorem putRdata_fl (s : State) (w : Word) : (putRdata s w).fl = s.fl := rfl

@[simp] theorem setSq_ring_cqs (s : State) (n : Nat) (q : Sq) : (setSq s n q).ring.cqs = s.ring.cqs := rfl
@[simp] theorem setSq_ring_eq (s : State) (n : Nat) (q : Sq) : (setSq s n q).ring.eq = s.ring.eq := rfl
@[simp] theorem setSq_ring_cmds (s : State) (n : Nat) (q : Sq) : (setSq s n q).ring.cmds = s.ring.cmds := rfl
@[simp] theorem setSq_ring_nextUid (s : State) (n : Nat) (q : Sq) : (setSq s n q).ring.nextUid = s.ring.nextUid := rfl
@[simp] theorem setSq_ring_turn (s : State) (n : Nat) (q : Sq) : (setSq s n q).ring.turn = s.ring.turn := rfl
@[simp] theorem setSq_ring_dbRange (s : State) (n : Nat) (q : Sq) : (setSq s n q).ring.dbRange = s.ring.dbRange := rfl
@[simp] theorem setSq_ring_dbDisabled (s : State) (n : Nat) (q : Sq) : (setSq s n q).ring.dbDisabled = s.ring.dbDisabled := rfl
@[simp] theorem setSq_ring_cfgBusy (s : State) (n : Nat) (q : Sq) : (setSq s n q).ring.cfgBusy = s.ring.cfgBusy := rfl
@[simp] theorem setSq_ring_cfgBad (s : State) (n : Nat) (q : Sq) : (setSq s n q).ring.cfgBad = s.ring.cfgBad := rfl
@[simp] theorem setSq_ring_fetchErr (s : State) (n : Nat) (q : Sq) : (setSq s n q).ring.fetchErr = s.ring.fetchErr := rfl
@[simp] theorem setSq_ring_errSq (s : State) (n : Nat) (q : Sq) : (setSq s n q).ring.errSq = s.ring.errSq := rfl
@[simp] theorem setSq_ring_errCq (s : State) (n : Nat) (q : Sq) : (setSq s n q).ring.errCq = s.ring.errCq := rfl
@[simp] theorem setSq_ring_errEq (s : State) (n : Nat) (q : Sq) : (setSq s n q).ring.errEq = s.ring.errEq := rfl
@[simp] theorem setSq_ring_holdVotes (s : State) (n : Nat) (q : Sq) : (setSq s n q).ring.holdVotes = s.ring.holdVotes := rfl
@[simp] theorem setSq_ring_fetched (s : State) (n : Nat) (q : Sq) : (setSq s n q).ring.fetched = s.ring.fetched := rfl
@[simp] theorem setSq_ring_posted (s : State) (n : Nat) (q : Sq) : (setSq s n q).ring.posted = s.ring.posted := rfl
@[simp] theorem setSq_ring_out (s : State) (n : Nat) (q : Sq) : (setSq s n q).ring.out = s.ring.out := rfl
@[simp] theorem setSq_ring_heldOut (s : State) (n : Nat) (q : Sq) : (setSq s n q).ring.heldOut = s.ring.heldOut := rfl
@[simp] theorem setSq_ring_bme (s : State) (n : Nat) (q : Sq) : (setSq s n q).ring.bme = s.ring.bme := rfl
@[simp] theorem setSq_ring_memEn (s : State) (n : Nat) (q : Sq) : (setSq s n q).ring.memEn = s.ring.memEn := rfl
@[simp] theorem setSq_ring_d3hot (s : State) (n : Nat) (q : Sq) : (setSq s n q).ring.d3hot = s.ring.d3hot := rfl
@[simp] theorem setSq_ring_gen3 (s : State) (n : Nat) (q : Sq) : (setSq s n q).ring.gen3 = s.ring.gen3 := rfl
@[simp] theorem setSq_ring_linkUp (s : State) (n : Nat) (q : Sq) : (setSq s n q).ring.linkUp = s.ring.linkUp := rfl
@[simp] theorem setSq_ring_msixMask (s : State) (n : Nat) (q : Sq) : (setSq s n q).ring.msixMask = s.ring.msixMask := rfl
@[simp] theorem setSq_ring_pba (s : State) (n : Nat) (q : Sq) : (setSq s n q).ring.pba = s.ring.pba := rfl
@[simp] theorem setSq_ring_msixCtl (s : State) (n : Nat) (q : Sq) : (setSq s n q).ring.msixCtl = s.ring.msixCtl := rfl
@[simp] theorem setSq_ring_msixAddr (s : State) (n : Nat) (q : Sq) : (setSq s n q).ring.msixAddr = s.ring.msixAddr := rfl
@[simp] theorem setSq_ring_msixData (s : State) (n : Nat) (q : Sq) : (setSq s n q).ring.msixData = s.ring.msixData := rfl
@[simp] theorem setSq_ring_pcieRegs (s : State) (n : Nat) (q : Sq) : (setSq s n q).ring.pcieRegs = s.ring.pcieRegs := rfl
@[simp] theorem setSq_ring_ptmAuto (s : State) (n : Nat) (q : Sq) : (setSq s n q).ring.ptmAuto = s.ring.ptmAuto := rfl
@[simp] theorem setSq_ring_ptmCtxValid (s : State) (n : Nat) (q : Sq) : (setSq s n q).ring.ptmCtxValid = s.ring.ptmCtxValid := rfl
@[simp] theorem setSq_ring_ptmPairValid (s : State) (n : Nat) (q : Sq) : (setSq s n q).ring.ptmPairValid = s.ring.ptmPairValid := rfl
@[simp] theorem setSq_ring_ptmCapture (s : State) (n : Nat) (q : Sq) : (setSq s n q).ring.ptmCapture = s.ring.ptmCapture := rfl
@[simp] theorem setSq_ring_ptmB (s : State) (n : Nat) (q : Sq) : (setSq s n q).ring.ptmB = s.ring.ptmB := rfl
@[simp] theorem setSq_ring_ptmT (s : State) (n : Nat) (q : Sq) : (setSq s n q).ring.ptmT = s.ring.ptmT := rfl
@[simp] theorem setSq_ring_ltr (s : State) (n : Nat) (q : Sq) : (setSq s n q).ring.ltr = s.ring.ltr := rfl
@[simp] theorem setSq_ring_deferred (s : State) (n : Nat) (q : Sq) : (setSq s n q).ring.deferred = s.ring.deferred := rfl
@[simp] theorem setSq_ring_restartEv (s : State) (n : Nat) (q : Sq) : (setSq s n q).ring.restartEv = s.ring.restartEv := rfl
@[simp] theorem setSq_ring_restartCp (s : State) (n : Nat) (q : Sq) : (setSq s n q).ring.restartCp = s.ring.restartCp := rfl
@[simp] theorem setSq_ring_heldWake (s : State) (n : Nat) (q : Sq) : (setSq s n q).ring.heldWake = s.ring.heldWake := rfl

@[simp] theorem setCq_ring_sqs (s : State) (n : Nat) (q : Cq) : (setCq s n q).ring.sqs = s.ring.sqs := rfl
@[simp] theorem setCq_ring_eq (s : State) (n : Nat) (q : Cq) : (setCq s n q).ring.eq = s.ring.eq := rfl
@[simp] theorem setCq_ring_cmds (s : State) (n : Nat) (q : Cq) : (setCq s n q).ring.cmds = s.ring.cmds := rfl
@[simp] theorem setCq_ring_nextUid (s : State) (n : Nat) (q : Cq) : (setCq s n q).ring.nextUid = s.ring.nextUid := rfl
@[simp] theorem setCq_ring_turn (s : State) (n : Nat) (q : Cq) : (setCq s n q).ring.turn = s.ring.turn := rfl
@[simp] theorem setCq_ring_dbRange (s : State) (n : Nat) (q : Cq) : (setCq s n q).ring.dbRange = s.ring.dbRange := rfl
@[simp] theorem setCq_ring_dbDisabled (s : State) (n : Nat) (q : Cq) : (setCq s n q).ring.dbDisabled = s.ring.dbDisabled := rfl
@[simp] theorem setCq_ring_cfgBusy (s : State) (n : Nat) (q : Cq) : (setCq s n q).ring.cfgBusy = s.ring.cfgBusy := rfl
@[simp] theorem setCq_ring_cfgBad (s : State) (n : Nat) (q : Cq) : (setCq s n q).ring.cfgBad = s.ring.cfgBad := rfl
@[simp] theorem setCq_ring_fetchErr (s : State) (n : Nat) (q : Cq) : (setCq s n q).ring.fetchErr = s.ring.fetchErr := rfl
@[simp] theorem setCq_ring_errSq (s : State) (n : Nat) (q : Cq) : (setCq s n q).ring.errSq = s.ring.errSq := rfl
@[simp] theorem setCq_ring_errCq (s : State) (n : Nat) (q : Cq) : (setCq s n q).ring.errCq = s.ring.errCq := rfl
@[simp] theorem setCq_ring_errEq (s : State) (n : Nat) (q : Cq) : (setCq s n q).ring.errEq = s.ring.errEq := rfl
@[simp] theorem setCq_ring_holdVotes (s : State) (n : Nat) (q : Cq) : (setCq s n q).ring.holdVotes = s.ring.holdVotes := rfl
@[simp] theorem setCq_ring_fetched (s : State) (n : Nat) (q : Cq) : (setCq s n q).ring.fetched = s.ring.fetched := rfl
@[simp] theorem setCq_ring_posted (s : State) (n : Nat) (q : Cq) : (setCq s n q).ring.posted = s.ring.posted := rfl
@[simp] theorem setCq_ring_out (s : State) (n : Nat) (q : Cq) : (setCq s n q).ring.out = s.ring.out := rfl
@[simp] theorem setCq_ring_heldOut (s : State) (n : Nat) (q : Cq) : (setCq s n q).ring.heldOut = s.ring.heldOut := rfl
@[simp] theorem setCq_ring_bme (s : State) (n : Nat) (q : Cq) : (setCq s n q).ring.bme = s.ring.bme := rfl
@[simp] theorem setCq_ring_memEn (s : State) (n : Nat) (q : Cq) : (setCq s n q).ring.memEn = s.ring.memEn := rfl
@[simp] theorem setCq_ring_d3hot (s : State) (n : Nat) (q : Cq) : (setCq s n q).ring.d3hot = s.ring.d3hot := rfl
@[simp] theorem setCq_ring_gen3 (s : State) (n : Nat) (q : Cq) : (setCq s n q).ring.gen3 = s.ring.gen3 := rfl
@[simp] theorem setCq_ring_linkUp (s : State) (n : Nat) (q : Cq) : (setCq s n q).ring.linkUp = s.ring.linkUp := rfl
@[simp] theorem setCq_ring_msixMask (s : State) (n : Nat) (q : Cq) : (setCq s n q).ring.msixMask = s.ring.msixMask := rfl
@[simp] theorem setCq_ring_pba (s : State) (n : Nat) (q : Cq) : (setCq s n q).ring.pba = s.ring.pba := rfl
@[simp] theorem setCq_ring_msixCtl (s : State) (n : Nat) (q : Cq) : (setCq s n q).ring.msixCtl = s.ring.msixCtl := rfl
@[simp] theorem setCq_ring_msixAddr (s : State) (n : Nat) (q : Cq) : (setCq s n q).ring.msixAddr = s.ring.msixAddr := rfl
@[simp] theorem setCq_ring_msixData (s : State) (n : Nat) (q : Cq) : (setCq s n q).ring.msixData = s.ring.msixData := rfl
@[simp] theorem setCq_ring_pcieRegs (s : State) (n : Nat) (q : Cq) : (setCq s n q).ring.pcieRegs = s.ring.pcieRegs := rfl
@[simp] theorem setCq_ring_ptmAuto (s : State) (n : Nat) (q : Cq) : (setCq s n q).ring.ptmAuto = s.ring.ptmAuto := rfl
@[simp] theorem setCq_ring_ptmCtxValid (s : State) (n : Nat) (q : Cq) : (setCq s n q).ring.ptmCtxValid = s.ring.ptmCtxValid := rfl
@[simp] theorem setCq_ring_ptmPairValid (s : State) (n : Nat) (q : Cq) : (setCq s n q).ring.ptmPairValid = s.ring.ptmPairValid := rfl
@[simp] theorem setCq_ring_ptmCapture (s : State) (n : Nat) (q : Cq) : (setCq s n q).ring.ptmCapture = s.ring.ptmCapture := rfl
@[simp] theorem setCq_ring_ptmB (s : State) (n : Nat) (q : Cq) : (setCq s n q).ring.ptmB = s.ring.ptmB := rfl
@[simp] theorem setCq_ring_ptmT (s : State) (n : Nat) (q : Cq) : (setCq s n q).ring.ptmT = s.ring.ptmT := rfl
@[simp] theorem setCq_ring_ltr (s : State) (n : Nat) (q : Cq) : (setCq s n q).ring.ltr = s.ring.ltr := rfl
@[simp] theorem setCq_ring_deferred (s : State) (n : Nat) (q : Cq) : (setCq s n q).ring.deferred = s.ring.deferred := rfl
@[simp] theorem setCq_ring_restartEv (s : State) (n : Nat) (q : Cq) : (setCq s n q).ring.restartEv = s.ring.restartEv := rfl
@[simp] theorem setCq_ring_restartCp (s : State) (n : Nat) (q : Cq) : (setCq s n q).ring.restartCp = s.ring.restartCp := rfl
@[simp] theorem setCq_ring_heldWake (s : State) (n : Nat) (q : Cq) : (setCq s n q).ring.heldWake = s.ring.heldWake := rfl

@[simp] theorem putCmd_ring_sqs (s : State) (c : Cmd) : (putCmd s c).ring.sqs = s.ring.sqs := rfl
@[simp] theorem putCmd_ring_cqs (s : State) (c : Cmd) : (putCmd s c).ring.cqs = s.ring.cqs := rfl
@[simp] theorem putCmd_ring_eq (s : State) (c : Cmd) : (putCmd s c).ring.eq = s.ring.eq := rfl
@[simp] theorem putCmd_ring_nextUid (s : State) (c : Cmd) : (putCmd s c).ring.nextUid = s.ring.nextUid := rfl
@[simp] theorem putCmd_ring_turn (s : State) (c : Cmd) : (putCmd s c).ring.turn = s.ring.turn := rfl
@[simp] theorem putCmd_ring_dbRange (s : State) (c : Cmd) : (putCmd s c).ring.dbRange = s.ring.dbRange := rfl
@[simp] theorem putCmd_ring_dbDisabled (s : State) (c : Cmd) : (putCmd s c).ring.dbDisabled = s.ring.dbDisabled := rfl
@[simp] theorem putCmd_ring_cfgBusy (s : State) (c : Cmd) : (putCmd s c).ring.cfgBusy = s.ring.cfgBusy := rfl
@[simp] theorem putCmd_ring_cfgBad (s : State) (c : Cmd) : (putCmd s c).ring.cfgBad = s.ring.cfgBad := rfl
@[simp] theorem putCmd_ring_fetchErr (s : State) (c : Cmd) : (putCmd s c).ring.fetchErr = s.ring.fetchErr := rfl
@[simp] theorem putCmd_ring_errSq (s : State) (c : Cmd) : (putCmd s c).ring.errSq = s.ring.errSq := rfl
@[simp] theorem putCmd_ring_errCq (s : State) (c : Cmd) : (putCmd s c).ring.errCq = s.ring.errCq := rfl
@[simp] theorem putCmd_ring_errEq (s : State) (c : Cmd) : (putCmd s c).ring.errEq = s.ring.errEq := rfl
@[simp] theorem putCmd_ring_holdVotes (s : State) (c : Cmd) : (putCmd s c).ring.holdVotes = s.ring.holdVotes := rfl
@[simp] theorem putCmd_ring_fetched (s : State) (c : Cmd) : (putCmd s c).ring.fetched = s.ring.fetched := rfl
@[simp] theorem putCmd_ring_posted (s : State) (c : Cmd) : (putCmd s c).ring.posted = s.ring.posted := rfl
@[simp] theorem putCmd_ring_out (s : State) (c : Cmd) : (putCmd s c).ring.out = s.ring.out := rfl
@[simp] theorem putCmd_ring_heldOut (s : State) (c : Cmd) : (putCmd s c).ring.heldOut = s.ring.heldOut := rfl
@[simp] theorem putCmd_ring_bme (s : State) (c : Cmd) : (putCmd s c).ring.bme = s.ring.bme := rfl
@[simp] theorem putCmd_ring_memEn (s : State) (c : Cmd) : (putCmd s c).ring.memEn = s.ring.memEn := rfl
@[simp] theorem putCmd_ring_d3hot (s : State) (c : Cmd) : (putCmd s c).ring.d3hot = s.ring.d3hot := rfl
@[simp] theorem putCmd_ring_gen3 (s : State) (c : Cmd) : (putCmd s c).ring.gen3 = s.ring.gen3 := rfl
@[simp] theorem putCmd_ring_linkUp (s : State) (c : Cmd) : (putCmd s c).ring.linkUp = s.ring.linkUp := rfl
@[simp] theorem putCmd_ring_msixMask (s : State) (c : Cmd) : (putCmd s c).ring.msixMask = s.ring.msixMask := rfl
@[simp] theorem putCmd_ring_pba (s : State) (c : Cmd) : (putCmd s c).ring.pba = s.ring.pba := rfl
@[simp] theorem putCmd_ring_msixCtl (s : State) (c : Cmd) : (putCmd s c).ring.msixCtl = s.ring.msixCtl := rfl
@[simp] theorem putCmd_ring_msixAddr (s : State) (c : Cmd) : (putCmd s c).ring.msixAddr = s.ring.msixAddr := rfl
@[simp] theorem putCmd_ring_msixData (s : State) (c : Cmd) : (putCmd s c).ring.msixData = s.ring.msixData := rfl
@[simp] theorem putCmd_ring_pcieRegs (s : State) (c : Cmd) : (putCmd s c).ring.pcieRegs = s.ring.pcieRegs := rfl
@[simp] theorem putCmd_ring_ptmAuto (s : State) (c : Cmd) : (putCmd s c).ring.ptmAuto = s.ring.ptmAuto := rfl
@[simp] theorem putCmd_ring_ptmCtxValid (s : State) (c : Cmd) : (putCmd s c).ring.ptmCtxValid = s.ring.ptmCtxValid := rfl
@[simp] theorem putCmd_ring_ptmPairValid (s : State) (c : Cmd) : (putCmd s c).ring.ptmPairValid = s.ring.ptmPairValid := rfl
@[simp] theorem putCmd_ring_ptmCapture (s : State) (c : Cmd) : (putCmd s c).ring.ptmCapture = s.ring.ptmCapture := rfl
@[simp] theorem putCmd_ring_ptmB (s : State) (c : Cmd) : (putCmd s c).ring.ptmB = s.ring.ptmB := rfl
@[simp] theorem putCmd_ring_ptmT (s : State) (c : Cmd) : (putCmd s c).ring.ptmT = s.ring.ptmT := rfl
@[simp] theorem putCmd_ring_ltr (s : State) (c : Cmd) : (putCmd s c).ring.ltr = s.ring.ltr := rfl
@[simp] theorem putCmd_ring_deferred (s : State) (c : Cmd) : (putCmd s c).ring.deferred = s.ring.deferred := rfl
@[simp] theorem putCmd_ring_restartEv (s : State) (c : Cmd) : (putCmd s c).ring.restartEv = s.ring.restartEv := rfl
@[simp] theorem putCmd_ring_restartCp (s : State) (c : Cmd) : (putCmd s c).ring.restartCp = s.ring.restartCp := rfl
@[simp] theorem putCmd_ring_heldWake (s : State) (c : Cmd) : (putCmd s c).ring.heldWake = s.ring.heldWake := rfl

@[simp] theorem dropCmd_ring_sqs (s : State) (uid : Nat) : (dropCmd s uid).ring.sqs = s.ring.sqs := rfl
@[simp] theorem dropCmd_ring_cqs (s : State) (uid : Nat) : (dropCmd s uid).ring.cqs = s.ring.cqs := rfl
@[simp] theorem dropCmd_ring_eq (s : State) (uid : Nat) : (dropCmd s uid).ring.eq = s.ring.eq := rfl
@[simp] theorem dropCmd_ring_nextUid (s : State) (uid : Nat) : (dropCmd s uid).ring.nextUid = s.ring.nextUid := rfl
@[simp] theorem dropCmd_ring_turn (s : State) (uid : Nat) : (dropCmd s uid).ring.turn = s.ring.turn := rfl
@[simp] theorem dropCmd_ring_dbRange (s : State) (uid : Nat) : (dropCmd s uid).ring.dbRange = s.ring.dbRange := rfl
@[simp] theorem dropCmd_ring_dbDisabled (s : State) (uid : Nat) : (dropCmd s uid).ring.dbDisabled = s.ring.dbDisabled := rfl
@[simp] theorem dropCmd_ring_cfgBusy (s : State) (uid : Nat) : (dropCmd s uid).ring.cfgBusy = s.ring.cfgBusy := rfl
@[simp] theorem dropCmd_ring_cfgBad (s : State) (uid : Nat) : (dropCmd s uid).ring.cfgBad = s.ring.cfgBad := rfl
@[simp] theorem dropCmd_ring_fetchErr (s : State) (uid : Nat) : (dropCmd s uid).ring.fetchErr = s.ring.fetchErr := rfl
@[simp] theorem dropCmd_ring_errSq (s : State) (uid : Nat) : (dropCmd s uid).ring.errSq = s.ring.errSq := rfl
@[simp] theorem dropCmd_ring_errCq (s : State) (uid : Nat) : (dropCmd s uid).ring.errCq = s.ring.errCq := rfl
@[simp] theorem dropCmd_ring_errEq (s : State) (uid : Nat) : (dropCmd s uid).ring.errEq = s.ring.errEq := rfl
@[simp] theorem dropCmd_ring_holdVotes (s : State) (uid : Nat) : (dropCmd s uid).ring.holdVotes = s.ring.holdVotes := rfl
@[simp] theorem dropCmd_ring_fetched (s : State) (uid : Nat) : (dropCmd s uid).ring.fetched = s.ring.fetched := rfl
@[simp] theorem dropCmd_ring_posted (s : State) (uid : Nat) : (dropCmd s uid).ring.posted = s.ring.posted := rfl
@[simp] theorem dropCmd_ring_out (s : State) (uid : Nat) : (dropCmd s uid).ring.out = s.ring.out := rfl
@[simp] theorem dropCmd_ring_heldOut (s : State) (uid : Nat) : (dropCmd s uid).ring.heldOut = s.ring.heldOut := rfl
@[simp] theorem dropCmd_ring_bme (s : State) (uid : Nat) : (dropCmd s uid).ring.bme = s.ring.bme := rfl
@[simp] theorem dropCmd_ring_memEn (s : State) (uid : Nat) : (dropCmd s uid).ring.memEn = s.ring.memEn := rfl
@[simp] theorem dropCmd_ring_d3hot (s : State) (uid : Nat) : (dropCmd s uid).ring.d3hot = s.ring.d3hot := rfl
@[simp] theorem dropCmd_ring_gen3 (s : State) (uid : Nat) : (dropCmd s uid).ring.gen3 = s.ring.gen3 := rfl
@[simp] theorem dropCmd_ring_linkUp (s : State) (uid : Nat) : (dropCmd s uid).ring.linkUp = s.ring.linkUp := rfl
@[simp] theorem dropCmd_ring_msixMask (s : State) (uid : Nat) : (dropCmd s uid).ring.msixMask = s.ring.msixMask := rfl
@[simp] theorem dropCmd_ring_pba (s : State) (uid : Nat) : (dropCmd s uid).ring.pba = s.ring.pba := rfl
@[simp] theorem dropCmd_ring_msixCtl (s : State) (uid : Nat) : (dropCmd s uid).ring.msixCtl = s.ring.msixCtl := rfl
@[simp] theorem dropCmd_ring_msixAddr (s : State) (uid : Nat) : (dropCmd s uid).ring.msixAddr = s.ring.msixAddr := rfl
@[simp] theorem dropCmd_ring_msixData (s : State) (uid : Nat) : (dropCmd s uid).ring.msixData = s.ring.msixData := rfl
@[simp] theorem dropCmd_ring_pcieRegs (s : State) (uid : Nat) : (dropCmd s uid).ring.pcieRegs = s.ring.pcieRegs := rfl
@[simp] theorem dropCmd_ring_ptmAuto (s : State) (uid : Nat) : (dropCmd s uid).ring.ptmAuto = s.ring.ptmAuto := rfl
@[simp] theorem dropCmd_ring_ptmCtxValid (s : State) (uid : Nat) : (dropCmd s uid).ring.ptmCtxValid = s.ring.ptmCtxValid := rfl
@[simp] theorem dropCmd_ring_ptmPairValid (s : State) (uid : Nat) : (dropCmd s uid).ring.ptmPairValid = s.ring.ptmPairValid := rfl
@[simp] theorem dropCmd_ring_ptmCapture (s : State) (uid : Nat) : (dropCmd s uid).ring.ptmCapture = s.ring.ptmCapture := rfl
@[simp] theorem dropCmd_ring_ptmB (s : State) (uid : Nat) : (dropCmd s uid).ring.ptmB = s.ring.ptmB := rfl
@[simp] theorem dropCmd_ring_ptmT (s : State) (uid : Nat) : (dropCmd s uid).ring.ptmT = s.ring.ptmT := rfl
@[simp] theorem dropCmd_ring_ltr (s : State) (uid : Nat) : (dropCmd s uid).ring.ltr = s.ring.ltr := rfl
@[simp] theorem dropCmd_ring_deferred (s : State) (uid : Nat) : (dropCmd s uid).ring.deferred = s.ring.deferred := rfl
@[simp] theorem dropCmd_ring_restartEv (s : State) (uid : Nat) : (dropCmd s uid).ring.restartEv = s.ring.restartEv := rfl
@[simp] theorem dropCmd_ring_restartCp (s : State) (uid : Nat) : (dropCmd s uid).ring.restartCp = s.ring.restartCp := rfl
@[simp] theorem dropCmd_ring_heldWake (s : State) (uid : Nat) : (dropCmd s uid).ring.heldWake = s.ring.heldWake := rfl

@[simp] theorem setChan_lf_pols (s : State) (n : Nat) (c : Chan) : (setChan s n c).lf.pols = s.lf.pols := rfl
@[simp] theorem setChan_lf_banks (s : State) (n : Nat) (c : Chan) : (setChan s n c).lf.banks = s.lf.banks := rfl
@[simp] theorem setChan_lf_spare (s : State) (n : Nat) (c : Chan) : (setChan s n c).lf.spare = s.lf.spare := rfl
@[simp] theorem setChan_lf_auto (s : State) (n : Nat) (c : Chan) : (setChan s n c).lf.auto = s.lf.auto := rfl
@[simp] theorem setChan_lf_fixedLimit (s : State) (n : Nat) (c : Chan) : (setChan s n c).lf.fixedLimit = s.lf.fixedLimit := rfl
@[simp] theorem setChan_lf_wrDropped (s : State) (n : Nat) (c : Chan) : (setChan s n c).lf.wrDropped = s.lf.wrDropped := rfl
@[simp] theorem setChan_lf_migrateStale (s : State) (n : Nat) (c : Chan) : (setChan s n c).lf.migrateStale = s.lf.migrateStale := rfl
@[simp] theorem setChan_lf_migrations (s : State) (n : Nat) (c : Chan) : (setChan s n c).lf.migrations = s.lf.migrations := rfl
@[simp] theorem setChan_lf_restarts (s : State) (n : Nat) (c : Chan) : (setChan s n c).lf.restarts = s.lf.restarts := rfl
@[simp] theorem setChan_lf_defers (s : State) (n : Nat) (c : Chan) : (setChan s n c).lf.defers = s.lf.defers := rfl
@[simp] theorem setChan_lf_refused (s : State) (n : Nat) (c : Chan) : (setChan s n c).lf.refused = s.lf.refused := rfl
@[simp] theorem setChan_lf_tbFails (s : State) (n : Nat) (c : Chan) : (setChan s n c).lf.tbFails = s.lf.tbFails := rfl
@[simp] theorem setChan_lf_csFails (s : State) (n : Nat) (c : Chan) : (setChan s n c).lf.csFails = s.lf.csFails := rfl
@[simp] theorem setChan_lf_collisions (s : State) (n : Nat) (c : Chan) : (setChan s n c).lf.collisions = s.lf.collisions := rfl
@[simp] theorem setChan_lf_foreign (s : State) (n : Nat) (c : Chan) : (setChan s n c).lf.foreign = s.lf.foreign := rfl
@[simp] theorem setChan_lf_authOk (s : State) (n : Nat) (c : Chan) : (setChan s n c).lf.authOk = s.lf.authOk := rfl
@[simp] theorem setChan_lf_authFails (s : State) (n : Nat) (c : Chan) : (setChan s n c).lf.authFails = s.lf.authFails := rfl
@[simp] theorem setChan_lf_rekeys (s : State) (n : Nat) (c : Chan) : (setChan s n c).lf.rekeys = s.lf.rekeys := rfl
@[simp] theorem setChan_lf_calProg (s : State) (n : Nat) (c : Chan) : (setChan s n c).lf.calProg = s.lf.calProg := rfl
@[simp] theorem setChan_lf_rebalUid (s : State) (n : Nat) (c : Chan) : (setChan s n c).lf.rebalUid = s.lf.rebalUid := rfl
@[simp] theorem setChan_lf_rebalDue (s : State) (n : Nat) (c : Chan) : (setChan s n c).lf.rebalDue = s.lf.rebalDue := rfl
@[simp] theorem setChan_lf_ended (s : State) (n : Nat) (c : Chan) : (setChan s n c).lf.ended = s.lf.ended := rfl
@[simp] theorem setChan_lf_moved (s : State) (n : Nat) (c : Chan) : (setChan s n c).lf.moved = s.lf.moved := rfl

@[simp] theorem setPol_lf_chans (s : State) (n : Nat) (p : Polder) : (setPol s n p).lf.chans = s.lf.chans := rfl
@[simp] theorem setPol_lf_banks (s : State) (n : Nat) (p : Polder) : (setPol s n p).lf.banks = s.lf.banks := rfl
@[simp] theorem setPol_lf_spare (s : State) (n : Nat) (p : Polder) : (setPol s n p).lf.spare = s.lf.spare := rfl
@[simp] theorem setPol_lf_auto (s : State) (n : Nat) (p : Polder) : (setPol s n p).lf.auto = s.lf.auto := rfl
@[simp] theorem setPol_lf_fixedLimit (s : State) (n : Nat) (p : Polder) : (setPol s n p).lf.fixedLimit = s.lf.fixedLimit := rfl
@[simp] theorem setPol_lf_wrDropped (s : State) (n : Nat) (p : Polder) : (setPol s n p).lf.wrDropped = s.lf.wrDropped := rfl
@[simp] theorem setPol_lf_migrateStale (s : State) (n : Nat) (p : Polder) : (setPol s n p).lf.migrateStale = s.lf.migrateStale := rfl
@[simp] theorem setPol_lf_migrations (s : State) (n : Nat) (p : Polder) : (setPol s n p).lf.migrations = s.lf.migrations := rfl
@[simp] theorem setPol_lf_restarts (s : State) (n : Nat) (p : Polder) : (setPol s n p).lf.restarts = s.lf.restarts := rfl
@[simp] theorem setPol_lf_defers (s : State) (n : Nat) (p : Polder) : (setPol s n p).lf.defers = s.lf.defers := rfl
@[simp] theorem setPol_lf_refused (s : State) (n : Nat) (p : Polder) : (setPol s n p).lf.refused = s.lf.refused := rfl
@[simp] theorem setPol_lf_tbFails (s : State) (n : Nat) (p : Polder) : (setPol s n p).lf.tbFails = s.lf.tbFails := rfl
@[simp] theorem setPol_lf_csFails (s : State) (n : Nat) (p : Polder) : (setPol s n p).lf.csFails = s.lf.csFails := rfl
@[simp] theorem setPol_lf_collisions (s : State) (n : Nat) (p : Polder) : (setPol s n p).lf.collisions = s.lf.collisions := rfl
@[simp] theorem setPol_lf_foreign (s : State) (n : Nat) (p : Polder) : (setPol s n p).lf.foreign = s.lf.foreign := rfl
@[simp] theorem setPol_lf_authOk (s : State) (n : Nat) (p : Polder) : (setPol s n p).lf.authOk = s.lf.authOk := rfl
@[simp] theorem setPol_lf_authFails (s : State) (n : Nat) (p : Polder) : (setPol s n p).lf.authFails = s.lf.authFails := rfl
@[simp] theorem setPol_lf_rekeys (s : State) (n : Nat) (p : Polder) : (setPol s n p).lf.rekeys = s.lf.rekeys := rfl
@[simp] theorem setPol_lf_calProg (s : State) (n : Nat) (p : Polder) : (setPol s n p).lf.calProg = s.lf.calProg := rfl
@[simp] theorem setPol_lf_rebalUid (s : State) (n : Nat) (p : Polder) : (setPol s n p).lf.rebalUid = s.lf.rebalUid := rfl
@[simp] theorem setPol_lf_rebalDue (s : State) (n : Nat) (p : Polder) : (setPol s n p).lf.rebalDue = s.lf.rebalDue := rfl
@[simp] theorem setPol_lf_ended (s : State) (n : Nat) (p : Polder) : (setPol s n p).lf.ended = s.lf.ended := rfl
@[simp] theorem setPol_lf_moved (s : State) (n : Nat) (p : Polder) : (setPol s n p).lf.moved = s.lf.moved := rfl

@[simp] theorem setBank_lf_chans (s : State) (n : Nat) (b : Bank) : (setBank s n b).lf.chans = s.lf.chans := rfl
@[simp] theorem setBank_lf_pols (s : State) (n : Nat) (b : Bank) : (setBank s n b).lf.pols = s.lf.pols := rfl
@[simp] theorem setBank_lf_spare (s : State) (n : Nat) (b : Bank) : (setBank s n b).lf.spare = s.lf.spare := rfl
@[simp] theorem setBank_lf_auto (s : State) (n : Nat) (b : Bank) : (setBank s n b).lf.auto = s.lf.auto := rfl
@[simp] theorem setBank_lf_fixedLimit (s : State) (n : Nat) (b : Bank) : (setBank s n b).lf.fixedLimit = s.lf.fixedLimit := rfl
@[simp] theorem setBank_lf_wrDropped (s : State) (n : Nat) (b : Bank) : (setBank s n b).lf.wrDropped = s.lf.wrDropped := rfl
@[simp] theorem setBank_lf_migrateStale (s : State) (n : Nat) (b : Bank) : (setBank s n b).lf.migrateStale = s.lf.migrateStale := rfl
@[simp] theorem setBank_lf_migrations (s : State) (n : Nat) (b : Bank) : (setBank s n b).lf.migrations = s.lf.migrations := rfl
@[simp] theorem setBank_lf_restarts (s : State) (n : Nat) (b : Bank) : (setBank s n b).lf.restarts = s.lf.restarts := rfl
@[simp] theorem setBank_lf_defers (s : State) (n : Nat) (b : Bank) : (setBank s n b).lf.defers = s.lf.defers := rfl
@[simp] theorem setBank_lf_refused (s : State) (n : Nat) (b : Bank) : (setBank s n b).lf.refused = s.lf.refused := rfl
@[simp] theorem setBank_lf_tbFails (s : State) (n : Nat) (b : Bank) : (setBank s n b).lf.tbFails = s.lf.tbFails := rfl
@[simp] theorem setBank_lf_csFails (s : State) (n : Nat) (b : Bank) : (setBank s n b).lf.csFails = s.lf.csFails := rfl
@[simp] theorem setBank_lf_collisions (s : State) (n : Nat) (b : Bank) : (setBank s n b).lf.collisions = s.lf.collisions := rfl
@[simp] theorem setBank_lf_foreign (s : State) (n : Nat) (b : Bank) : (setBank s n b).lf.foreign = s.lf.foreign := rfl
@[simp] theorem setBank_lf_authOk (s : State) (n : Nat) (b : Bank) : (setBank s n b).lf.authOk = s.lf.authOk := rfl
@[simp] theorem setBank_lf_authFails (s : State) (n : Nat) (b : Bank) : (setBank s n b).lf.authFails = s.lf.authFails := rfl
@[simp] theorem setBank_lf_rekeys (s : State) (n : Nat) (b : Bank) : (setBank s n b).lf.rekeys = s.lf.rekeys := rfl
@[simp] theorem setBank_lf_calProg (s : State) (n : Nat) (b : Bank) : (setBank s n b).lf.calProg = s.lf.calProg := rfl
@[simp] theorem setBank_lf_rebalUid (s : State) (n : Nat) (b : Bank) : (setBank s n b).lf.rebalUid = s.lf.rebalUid := rfl
@[simp] theorem setBank_lf_rebalDue (s : State) (n : Nat) (b : Bank) : (setBank s n b).lf.rebalDue = s.lf.rebalDue := rfl
@[simp] theorem setBank_lf_ended (s : State) (n : Nat) (b : Bank) : (setBank s n b).lf.ended = s.lf.ended := rfl
@[simp] theorem setBank_lf_moved (s : State) (n : Nat) (b : Bank) : (setBank s n b).lf.moved = s.lf.moved := rfl

@[simp] theorem setReg_tok_recs (s : State) (n : Nat) (e : RegEntry) : (setReg s n e).tok.recs = s.tok.recs := rfl
@[simp] theorem setReg_tok_changes (s : State) (n : Nat) (e : RegEntry) : (setReg s n e).tok.changes = s.tok.changes := rfl

@[simp] theorem setNode_key_inst (s : State) (n : Nat) (e : Node) : (setNode s n e).key.inst = s.key.inst := rfl
@[simp] theorem setNode_key_usesMark (s : State) (n : Nat) (e : Node) : (setNode s n e).key.usesMark = s.key.usesMark := rfl
@[simp] theorem setNode_key_instMark (s : State) (n : Nat) (e : Node) : (setNode s n e).key.instMark = s.key.instMark := rfl
@[simp] theorem setNode_key_gens (s : State) (n : Nat) (e : Node) : (setNode s n e).key.gens = s.key.gens := rfl
@[simp] theorem setNode_key_ready (s : State) (n : Nat) (e : Node) : (setNode s n e).key.ready = s.key.ready := rfl
@[simp] theorem setNode_key_plinth (s : State) (n : Nat) (e : Node) : (setNode s n e).key.plinth = s.key.plinth := rfl
@[simp] theorem setNode_key_iseq (s : State) (n : Nat) (e : Node) : (setNode s n e).key.iseq = s.key.iseq := rfl
@[simp] theorem setNode_key_retired (s : State) (n : Nat) (e : Node) : (setNode s n e).key.retired = s.key.retired := rfl
@[simp] theorem setNode_key_invalidated (s : State) (n : Nat) (e : Node) : (setNode s n e).key.invalidated = s.key.invalidated := rfl
@[simp] theorem setNode_key_patinaLate (s : State) (n : Nat) (e : Node) : (setNode s n e).key.patinaLate = s.key.patinaLate := rfl
@[simp] theorem setNode_key_prog (s : State) (n : Nat) (e : Node) : (setNode s n e).key.prog = s.key.prog := rfl

@[simp] theorem setDom_pwr_phase (s : State) (n : Nat) (d : Dom) : (setDom s n d).pwr.phase = s.pwr.phase := rfl
@[simp] theorem setDom_pwr_st (s : State) (n : Nat) (d : Dom) : (setDom s n d).pwr.st = s.pwr.st := rfl
@[simp] theorem setDom_pwr_spillCause (s : State) (n : Nat) (d : Dom) : (setDom s n d).pwr.spillCause = s.pwr.spillCause := rfl
@[simp] theorem setDom_pwr_imageB (s : State) (n : Nat) (d : Dom) : (setDom s n d).pwr.imageB = s.pwr.imageB := rfl
@[simp] theorem setDom_pwr_rom (s : State) (n : Nat) (d : Dom) : (setDom s n d).pwr.rom = s.pwr.rom := rfl
@[simp] theorem setDom_pwr_keeperRunning (s : State) (n : Nat) (d : Dom) : (setDom s n d).pwr.keeperRunning = s.pwr.keeperRunning := rfl
@[simp] theorem setDom_pwr_aonXtal (s : State) (n : Nat) (d : Dom) : (setDom s n d).pwr.aonXtal = s.pwr.aonXtal := rfl
@[simp] theorem setDom_pwr_vio3v3 (s : State) (n : Nat) (d : Dom) : (setDom s n d).pwr.vio3v3 = s.pwr.vio3v3 := rfl
@[simp] theorem setDom_pwr_refuse (s : State) (n : Nat) (d : Dom) : (setDom s n d).pwr.refuse = s.pwr.refuse := rfl
@[simp] theorem setDom_pwr_startVotes (s : State) (n : Nat) (d : Dom) : (setDom s n d).pwr.startVotes = s.pwr.startVotes := rfl
@[simp] theorem setDom_pwr_plEff (s : State) (n : Nat) (d : Dom) : (setDom s n d).pwr.plEff = s.pwr.plEff := rfl
@[simp] theorem setDom_pwr_plTarget (s : State) (n : Nat) (d : Dom) : (setDom s n d).pwr.plTarget = s.pwr.plTarget := rfl
@[simp] theorem setDom_pwr_ramp (s : State) (n : Nat) (d : Dom) : (setDom s n d).pwr.ramp = s.pwr.ramp := rfl
@[simp] theorem setDom_pwr_rampFail (s : State) (n : Nat) (d : Dom) : (setDom s n d).pwr.rampFail = s.pwr.rampFail := rfl
@[simp] theorem setDom_pwr_vsel (s : State) (n : Nat) (d : Dom) : (setDom s n d).pwr.vsel = s.pwr.vsel := rfl
@[simp] theorem setDom_pwr_wakeCause (s : State) (n : Nat) (d : Dom) : (setDom s n d).pwr.wakeCause = s.pwr.wakeCause := rfl
@[simp] theorem setDom_pwr_wakeTamp (s : State) (n : Nat) (d : Dom) : (setDom s n d).pwr.wakeTamp = s.pwr.wakeTamp := rfl
@[simp] theorem setDom_pwr_wakeFrom (s : State) (n : Nat) (d : Dom) : (setDom s n d).pwr.wakeFrom = s.pwr.wakeFrom := rfl
@[simp] theorem setDom_pwr_rstCause (s : State) (n : Nat) (d : Dom) : (setDom s n d).pwr.rstCause = s.pwr.rstCause := rfl
@[simp] theorem setDom_pwr_rstHist (s : State) (n : Nat) (d : Dom) : (setDom s n d).pwr.rstHist = s.pwr.rstHist := rfl
@[simp] theorem setDom_pwr_rstPend (s : State) (n : Nat) (d : Dom) : (setDom s n d).pwr.rstPend = s.pwr.rstPend := rfl
@[simp] theorem setDom_pwr_porHeld (s : State) (n : Nat) (d : Dom) : (setDom s n d).pwr.porHeld = s.pwr.porHeld := rfl
@[simp] theorem setDom_pwr_rstHeld (s : State) (n : Nat) (d : Dom) : (setDom s n d).pwr.rstHeld = s.pwr.rstHeld := rfl
@[simp] theorem setDom_pwr_supplyOk (s : State) (n : Nat) (d : Dom) : (setDom s n d).pwr.supplyOk = s.pwr.supplyOk := rfl
@[simp] theorem setDom_pwr_vaonWarn (s : State) (n : Nat) (d : Dom) : (setDom s n d).pwr.vaonWarn = s.pwr.vaonWarn := rfl
@[simp] theorem setDom_pwr_vflWarn (s : State) (n : Nat) (d : Dom) : (setDom s n d).pwr.vflWarn = s.pwr.vflWarn := rfl
@[simp] theorem setDom_pwr_vcoreWarn (s : State) (n : Nat) (d : Dom) : (setDom s n d).pwr.vcoreWarn = s.pwr.vcoreWarn := rfl
@[simp] theorem setDom_pwr_alarm (s : State) (n : Nat) (d : Dom) : (setDom s n d).pwr.alarm = s.pwr.alarm := rfl
@[simp] theorem setDom_pwr_req (s : State) (n : Nat) (d : Dom) : (setDom s n d).pwr.req = s.pwr.req := rfl
@[simp] theorem setDom_pwr_entering (s : State) (n : Nat) (d : Dom) : (setDom s n d).pwr.entering = s.pwr.entering := rfl
@[simp] theorem setDom_pwr_idleBounds (s : State) (n : Nat) (d : Dom) : (setDom s n d).pwr.idleBounds = s.pwr.idleBounds := rfl
@[simp] theorem setDom_pwr_wakePulses (s : State) (n : Nat) (d : Dom) : (setDom s n d).pwr.wakePulses = s.pwr.wakePulses := rfl
@[simp] theorem setDom_pwr_wakeSignal (s : State) (n : Nat) (d : Dom) : (setDom s n d).pwr.wakeSignal = s.pwr.wakeSignal := rfl
@[simp] theorem setDom_pwr_perst (s : State) (n : Nat) (d : Dom) : (setDom s n d).pwr.perst = s.pwr.perst := rfl
@[simp] theorem setDom_pwr_optA (s : State) (n : Nat) (d : Dom) : (setDom s n d).pwr.optA = s.pwr.optA := rfl
@[simp] theorem setDom_pwr_optB (s : State) (n : Nat) (d : Dom) : (setDom s n d).pwr.optB = s.pwr.optB := rfl
@[simp] theorem setDom_pwr_optUsed (s : State) (n : Nat) (d : Dom) : (setDom s n d).pwr.optUsed = s.pwr.optUsed := rfl
@[simp] theorem setDom_pwr_floor (s : State) (n : Nat) (d : Dom) : (setDom s n d).pwr.floor = s.pwr.floor := rfl
@[simp] theorem setDom_pwr_tc (s : State) (n : Nat) (d : Dom) : (setDom s n d).pwr.tc = s.pwr.tc := rfl
@[simp] theorem setDom_pwr_startRecs (s : State) (n : Nat) (d : Dom) : (setDom s n d).pwr.startRecs = s.pwr.startRecs := rfl

@[simp] theorem setOut_slu_a (s : State) (n : Nat) (o : SluOut) : (setOut s n o).slu.a = s.slu.a := rfl
@[simp] theorem setOut_slu_b (s : State) (n : Nat) (o : SluOut) : (setOut s n o).slu.b = s.slu.b := rfl
@[simp] theorem setOut_slu_armDue (s : State) (n : Nat) (o : SluOut) : (setOut s n o).slu.armDue = s.slu.armDue := rfl
@[simp] theorem setOut_slu_disarmDue (s : State) (n : Nat) (o : SluOut) : (setOut s n o).slu.disarmDue = s.slu.disarmDue := rfl
@[simp] theorem setOut_slu_faultClrDue (s : State) (n : Nat) (o : SluOut) : (setOut s n o).slu.faultClrDue = s.slu.faultClrDue := rfl
@[simp] theorem setOut_slu_setUids (s : State) (n : Nat) (o : SluOut) : (setOut s n o).slu.setUids = s.slu.setUids := rfl
@[simp] theorem setOut_slu_withdrawDue (s : State) (n : Nat) (o : SluOut) : (setOut s n o).slu.withdrawDue = s.slu.withdrawDue := rfl
@[simp] theorem setOut_slu_prepare (s : State) (n : Nat) (o : SluOut) : (setOut s n o).slu.prepare = s.slu.prepare := rfl
@[simp] theorem setOut_slu_dhold (s : State) (n : Nat) (o : SluOut) : (setOut s n o).slu.dhold = s.slu.dhold := rfl
@[simp] theorem setOut_slu_tampPin (s : State) (n : Nat) (o : SluOut) : (setOut s n o).slu.tampPin = s.slu.tampPin := rfl
@[simp] theorem setOut_slu_tampActive (s : State) (n : Nat) (o : SluOut) : (setOut s n o).slu.tampActive = s.slu.tampActive := rfl
@[simp] theorem setOut_slu_tampNew (s : State) (n : Nat) (o : SluOut) : (setOut s n o).slu.tampNew = s.slu.tampNew := rfl
@[simp] theorem setOut_slu_disagree (s : State) (n : Nat) (o : SluOut) : (setOut s n o).slu.disagree = s.slu.disagree := rfl
@[simp] theorem setOut_slu_disagreeCnt (s : State) (n : Nat) (o : SluOut) : (setOut s n o).slu.disagreeCnt = s.slu.disagreeCnt := rfl
@[simp] theorem setOut_slu_changes (s : State) (n : Nat) (o : SluOut) : (setOut s n o).slu.changes = s.slu.changes := rfl
@[simp] theorem setOut_slu_tol (s : State) (n : Nat) (o : SluOut) : (setOut s n o).slu.tol = s.slu.tol := rfl

end Sys2Proof.Machine
end

