-- ==== Sys2Proof/Laws/Tables.lean ====
section
/-! SUPPORT. Sparse tables: reading after writing, and the canonical form, which every write keeps. -/

namespace Sys2Proof.Machine

open Sys2Proof

variable {α : Type}

@[simp] theorem smGet_smIns_self (m : SMap α) (k : Nat) (v d : α) : smGet (smIns m k v) k d = v := by
  induction m with
  | nil => simp [smIns, smGet]
  | cons p t ih =>
    unfold smIns
    split
    · simp [smGet]
    · split
      · simp [smGet]
      · simp only [smGet]
        rw [if_neg (by assumption), ih]

theorem smGet_smIns_ne (m : SMap α) {j k : Nat} (h : j ≠ k) (v d : α) : smGet (smIns m k v) j d = smGet m j d := by
  induction m with
  | nil => simp [smIns, smGet, h.symm]
  | cons p t ih =>
    unfold smIns
    split
    · rename_i e
      have : ¬p.1 = j := fun x => h (x.symm.trans e)
      simp [smGet, h.symm, this]
    · split
      · simp [smGet, h.symm]
      · simp only [smGet, ih]

theorem smGet_smDel_ne (m : SMap α) {j k : Nat} (h : j ≠ k) (d : α) : smGet (smDel m k) j d = smGet m j d := by
  induction m with
  | nil => rfl
  | cons p t ih =>
    unfold smDel
    split
    · rename_i e
      have : ¬p.1 = j := fun x => h (x.symm.trans e)
      simp only [smGet, if_neg this, ih]
    · simp only [smGet, ih]

@[simp] theorem smGet_smDel_self (m : SMap α) (k : Nat) (d : α) : smGet (smDel m k) k d = d := by
  induction m with
  | nil => rfl
  | cons p t ih =>
    unfold smDel
    split
    · exact ih
    · rw [smGet, if_neg (by assumption), ih]

/-- Writing one key leaves every other key as it was. -/
theorem smGet_smPut_ne [DecidableEq α] (m : SMap α) {j k : Nat} (h : j ≠ k) (v d : α) :
    smGet (smPut m k v d) j d = smGet m j d := by
  unfold smPut
  split
  · exact smGet_smDel_ne m h d
  · exact smGet_smIns_ne m h v d

/-- A key reads what was written. -/
@[simp] theorem smGet_smPut_self [DecidableEq α] (m : SMap α) (k : Nat) (v d : α) : smGet (smPut m k v d) k d = v := by
  unfold smPut
  split
  · rename_i h; rw [smGet_smDel_self, h]
  · exact smGet_smIns_self m k v d

theorem smWf_mono [DecidableEq α] {d : α} {a b : Nat} (h : a ≤ b) {m : SMap α} (w : smWf d b m = true) : smWf d a m = true := by
  cases m with
  | nil => rfl
  | cons p t =>
    simp only [smWf, Bool.and_eq_true, decide_eq_true_eq] at *
    exact ⟨⟨by omega, w.1.2⟩, w.2⟩

theorem smDel_wf [DecidableEq α] {d : α} {lo : Nat} (m : SMap α) (w : smWf d lo m = true) (k : Nat) : smWf d lo (smDel m k) = true := by
  induction m generalizing lo with
  | nil => rfl
  | cons p t ih =>
    simp only [smWf, Bool.and_eq_true, decide_eq_true_eq] at w
    unfold smDel
    split
    · exact smWf_mono (by omega) (ih w.2)
    · simp only [smWf, Bool.and_eq_true, decide_eq_true_eq]
      exact ⟨w.1, ih w.2⟩

theorem smIns_wf [DecidableEq α] {d : α} {lo : Nat} (m : SMap α) (w : smWf d lo m = true) {k : Nat} (hk : lo ≤ k) {v : α} (hv : v ≠ d) :
    smWf d lo (smIns m k v) = true := by
  induction m generalizing lo with
  | nil => simp [smIns, smWf, hk, hv]
  | cons p t ih =>
    have w' := w
    simp only [smWf, Bool.and_eq_true, decide_eq_true_eq] at w
    unfold smIns
    split
    · rename_i e
      subst e
      simp only [smWf, Bool.and_eq_true, decide_eq_true_eq]
      exact ⟨⟨hk, hv⟩, w.2⟩
    · split
      · simp only [smWf, Bool.and_eq_true, decide_eq_true_eq]
        exact ⟨⟨hk, hv⟩, ⟨⟨by omega, w.1.2⟩, w.2⟩⟩
      · simp only [smWf, Bool.and_eq_true, decide_eq_true_eq]
        exact ⟨w.1, ih w.2 (by omega)⟩

/-- Every write keeps the canonical form. -/
theorem smPut_wf [DecidableEq α] {d : α} (m : SMap α) (w : smWf d 0 m = true) (k : Nat) (v : α) : smWf d 0 (smPut m k v d) = true := by
  unfold smPut
  split
  · exact smDel_wf m w k
  · exact smIns_wf m w (Nat.zero_le k) (by assumption)

/-! ### The tables of the state -/

theorem getSq_setSq_ne (s : State) {j k : Nat} (h : j ≠ k) (q : Sq) : getSq (setSq s k q) j = getSq s j := smGet_smPut_ne _ h _ _
theorem getCq_setCq_ne (s : State) {j k : Nat} (h : j ≠ k) (q : Cq) : getCq (setCq s k q) j = getCq s j := smGet_smPut_ne _ h _ _
theorem getChan_setChan_ne (s : State) {j k : Nat} (h : j ≠ k) (c : Chan) : getChan (setChan s k c) j = getChan s j :=
  smGet_smPut_ne _ h _ _
theorem getPol_setPol_ne (s : State) {j k : Nat} (h : j ≠ k) (p : Polder) : getPol (setPol s k p) j = getPol s j :=
  smGet_smPut_ne _ h _ _
theorem getBank_setBank_ne (s : State) {j k : Nat} (h : j ≠ k) (b : Bank) : getBank (setBank s k b) j = getBank s j :=
  smGet_smPut_ne _ h _ _
theorem getReg_setReg_ne (s : State) {j k : Nat} (h : j ≠ k) (e : RegEntry) : getReg (setReg s k e) j = getReg s j :=
  smGet_smPut_ne _ h _ _
theorem getNode_setNode_ne (s : State) {j k : Nat} (h : j ≠ k) (e : Node) : getNode (setNode s k e) j = getNode s j :=
  smGet_smPut_ne _ h _ _
theorem getDom_setDom_ne (s : State) {j k : Nat} (h : j ≠ k) (d : Dom) : getDom (setDom s k d) j = getDom s j :=
  smGet_smPut_ne _ h _ _
theorem getOut_setOut_ne (s : State) {j k : Nat} (h : j ≠ k) (o : SluOut) : getOut (setOut s k o) j = getOut s j :=
  smGet_smPut_ne _ h _ _

@[simp] theorem getSq_setSq (s : State) (k : Nat) (q : Sq) : getSq (setSq s k q) k = q := smGet_smPut_self _ _ _ _
@[simp] theorem getCq_setCq (s : State) (k : Nat) (q : Cq) : getCq (setCq s k q) k = q := smGet_smPut_self _ _ _ _
@[simp] theorem getChan_setChan (s : State) (k : Nat) (c : Chan) : getChan (setChan s k c) k = c := smGet_smPut_self _ _ _ _
@[simp] theorem getPol_setPol (s : State) (k : Nat) (p : Polder) : getPol (setPol s k p) k = p := smGet_smPut_self _ _ _ _
@[simp] theorem getBank_setBank (s : State) (k : Nat) (b : Bank) : getBank (setBank s k b) k = b := smGet_smPut_self _ _ _ _
@[simp] theorem getReg_setReg (s : State) (k : Nat) (e : RegEntry) : getReg (setReg s k e) k = e := smGet_smPut_self _ _ _ _
@[simp] theorem getNode_setNode (s : State) (k : Nat) (e : Node) : getNode (setNode s k e) k = e := smGet_smPut_self _ _ _ _
@[simp] theorem getDom_setDom (s : State) (k : Nat) (d : Dom) : getDom (setDom s k d) k = d := smGet_smPut_self _ _ _ _
@[simp] theorem getOut_setOut (s : State) (k : Nat) (o : SluOut) : getOut (setOut s k o) k = o := smGet_smPut_self _ _ _ _

end Sys2Proof.Machine
end

