-- ==== Sys2Proof/Laws/Host.lean ====
section
/-! SUPPORT. What the shared operations of host commands and host accesses do: a command that begins, a completion, a write
that lands. -/

namespace Sys2Proof.Machine

open Sys2Proof

/-! ### Commands in hand -/

theorem putCmd_putCmd (s : State) (c d : Cmd) (h : c.uid = d.uid) : putCmd (putCmd s c) d = putCmd s d := by
  simp only [putCmd, List.map_map]
  congr 2
  apply List.map_congr_left
  intro x _
  by_cases hx : x.uid = d.uid <;> simp [hx, h]

theorem oldestCmd_sq {s : State} {sq op : Nat} {c : Cmd} (h : oldestCmd s sq op = some c) :
    c.sq = sq ∧ c.st = .waiting ∧ descOpcode c.desc = op ∧ fenceOpen s c = true ∧ c ∈ s.ring.cmds := by
  have h1 := List.find?_some h
  have h2 := List.mem_of_find?_eq_some h
  simp at h1
  exact ⟨h1.1.1.1.1, h1.1.1.1.2, h1.1.1.2, h1.1.2, h2⟩

/-- A command that begins runs its body, on its whole input. -/
theorem runCmd_begins {s : State} {sq : Fin 16} {op : Nat} {m : HostMem} {c : Cmd} {inp : List Byte}
    {own : State → Cmd → Judge} {body : State → Cmd → List Byte → State} (h : Begins s sq op m c inp) (hj : own s c = .go) :
    runCmd s sq.val op m own body = body (begun s c m) (runningCmd c m) (padTo (descLenIn c.desc) inp) := by
  have hr : domsReady (putCmd s { c with voted := true }) (cmdDomains (putCmd s { c with voted := true }) c.desc) = true := h.ready
  unfold runCmd
  simp only [h.keeper, h.oldest, hj, hr, h.input, Bool.not_true, Bool.false_eq_true, if_false]
  exact congrArg (fun z => body z (runningCmd c m) (padTo (descLenIn c.desc) inp))
    (putCmd_putCmd s { c with voted := true } (runningCmd c m) rfl)

/-- A command that its own checks stop completes with what they say. -/
theorem runCmd_stops {s : State} {sq op : Nat} {m : HostMem} {c : Cmd} {st : Status} {r : Nat}
    {own : State → Cmd → Judge} {body : State → Cmd → List Byte → State} (hk : keeperUp s = true)
    (ho : oldestCmd s sq op = some c) (hj : own s c = .stop st r) : runCmd s sq op m own body = finishNow s c st r [] := by
  simp [runCmd, hk, ho, hj]

/-! ### Completions -/

@[simp] theorem emit_keeps_cmds (s : State) (o : BusOut) : (emit s o).ring.cmds = s.ring.cmds := by unfold emit; split <;> rfl

theorem settleSq_ring (s : State) (n : Nat) : settleSq s n = { s with ring := (settleSq s n).ring } := by
  unfold settleSq; dsimp only; split <;> rfl

theorem emit_ring (s : State) (o : BusOut) : emit s o = { s with ring := (emit s o).ring } := by unfold emit; split <;> rfl

theorem sendVector_ring (s : State) (v : Nat) : sendVector s v = { s with ring := (sendVector s v).ring } := by
  unfold sendVector; split
  · rfl
  · split
    · rfl
    · exact emit_ring _ _

theorem setCq_ring (s : State) (n : Nat) (q : Cq) : setCq s n q = { s with ring := (setCq s n q).ring } := rfl

theorem cqIrq_out (s : State) (n : Nat) (hb : s.ring.bme = true) :
    ∃ r : Ring, cqIrq s n = { s with ring := r } ∧ r.cmds = s.ring.cmds ∧ r.sqs = s.ring.sqs ∧
      (r.out = s.ring.out ∨ ∃ a d, r.out = s.ring.out ++ [.msix (getCq s n).vector a d]) := by
  unfold cqIrq
  dsimp only
  split
  · unfold sendVector
    split
    · exact ⟨_, rfl, rfl, rfl, .inl rfl⟩
    · split
      · exact ⟨_, rfl, rfl, rfl, .inl rfl⟩
      · unfold emit
        simp only [setCq, hb, if_true]
        exact ⟨_, rfl, rfl, rfl, .inr ⟨_, _, rfl⟩⟩
  · exact ⟨_, rfl, rfl, rfl, .inl rfl⟩

/-- One completion at the tail of a CQ that takes it. -/
theorem postCompletion_out (s : State) (n : Nat) (c : Completion) (hb : s.ring.bme = true) (hr : s.flt.restarting = false)
    (ha : (getCq s n).active = true) (hh : (getCq s n).held = [])
    (hm : unreleased (getCq s n).size (getCq s n).head (getCq s n).tail + 1 < ringSize (getCq s n).size) :
    ∃ r : Ring, postCompletion s n c = { s with ring := r } ∧ r.cmds = s.ring.cmds ∧ r.sqs = s.ring.sqs ∧
      ∃ irq, r.out = s.ring.out ++ [.completion ((getCq s n).base + BitVec.ofNat 64 (16 * (getCq s n).tail)) n (getCq s n).tail
          (getCq s n).phase (getSq s c.sqId).head c] ++ irq ∧
        (irq = [] ∨ ∃ a d, irq = [.msix (getCq s n).vector a d]) := by
  unfold postCompletion
  simp only [ha, hr, hh, hm, Bool.not_true, Bool.false_eq_true, if_false, List.isEmpty_nil, decide_true, Bool.and_self, if_true]
  unfold writeCompletion
  have he : ∀ o, emit s o = { s with ring := { s.ring with out := s.ring.out ++ [o] } } := fun o => if_pos hb
  simp only [he]
  split
  · exact ⟨_, rfl, rfl, rfl, [], by simp [setCq], .inl rfl⟩
  · generalize hs3 : ({ (setCq _ n _ : State) with ring := _ } : State) = s3
    have hv : (getCq s3 n).vector = (getCq s n).vector := by subst hs3; simp [getCq, setCq]
    have ho : s3.ring.out = s.ring.out ++ [.completion ((getCq s n).base + BitVec.ofNat 64 (16 * (getCq s n).tail)) n
        (getCq s n).tail (getCq s n).phase (getSq s c.sqId).head c] := by subst hs3; rfl
    have hb3 : s3.ring.bme = true := by subst hs3; exact hb
    obtain ⟨r, h1, h2, h3, h4⟩ := cqIrq_out s3 n hb3
    refine ⟨r, ?_, ?_, ?_, ?_⟩
    · rw [h1]; subst hs3; rfl
    · rw [h2]; subst hs3; rfl
    · rw [h3]; subst hs3; rfl
    · rcases h4 with h4 | ⟨a, d, h4⟩
      · exact ⟨[], by rw [h4, ho]; simp, .inl rfl⟩
      · exact ⟨_, by rw [h4, ho, hv], .inr ⟨a, d, rfl⟩⟩

/-- What a command that completes in the beat in progress shows the host; nothing outside the rings changes. -/
theorem finishNow_posted (s : State) (c : Cmd) (st : Status) (r : Nat) (out : List Byte) (hc : c.sq < 16)
    (ho : c.outOk = true ∨ out = []) (hq : CqTakes s c.sq) :
    PostedOnly s (finishNow s c st r out) c st r out := by
  have hn : ¬ 16 ≤ c.sq := by omega
  have hbad : (!c.outOk && !out.isEmpty) = false := by rcases ho with h | h <;> simp [h]
  obtain ⟨hb, hr, ha, hh, hm⟩ := hq
  have he : dropCmd (emitData s c out) c.uid =
      { s with ring := { s.ring with cmds := s.ring.cmds.filter (fun x => !(x.uid == c.uid)), out := s.ring.out ++
        if out = [] then [] else [.data (BitVec.ofNat 64 (descAddrOut c.desc)) out] } } := by
    by_cases hout : out = []
    · simp [emitData, dropCmd, hout]
    · have : c.outOk = true := by tauto
      simp [emitData, dropCmd, hout, hn, this, emit, hb]
  unfold finishNow finishCmd
  simp only [hbad, he, hn, if_false, Bool.false_eq_true]
  generalize hs1 : ({ s with ring := { s.ring with cmds := _, out := _ } } : State) = s1
  have e1 : getCq s1 = getCq s := by subst hs1; rfl
  have e2 : getSq s1 = getSq s := by subst hs1; rfl
  have hp := postCompletion_out s1 (getSq s c.sq).cq
    ⟨BitVec.ofNat 16 (descCmdId c.desc), st, BitVec.ofNat 32 r, beat32 s, c.sq, descNoirq c.desc⟩
    (by subst hs1; exact hb) (by subst hs1; exact hr) (by rw [e1]; exact ha) (by rw [e1]; exact hh) (by rw [e1]; exact hm)
  obtain ⟨g, h1, h2, h3, irq, h4, h5⟩ := hp
  have hs : ∀ x n, (settleSq x n).ring.out = x.ring.out ∧ (settleSq x n).ring.cmds = x.ring.cmds := by
    intro x n; unfold settleSq; dsimp only; split <;> exact ⟨rfl, rfl⟩
  refine ⟨⟨⟨irq, ?_, ?_⟩, ?_⟩, ?_⟩
  · rw [(hs _ _).1]
    show (postCompletion s1 _ _).ring.out = _
    rw [show beat32 s = s.clk.beat.setWidth 32 from rfl] at h1
    rw [h1]
    simp only [h4, e1, e2]
    subst hs1; rfl
  · rw [e1] at h5; exact h5
  · intro x hx
    rw [(hs _ _).2] at hx
    rw [show beat32 s = s.clk.beat.setWidth 32 from rfl] at h1
    rw [h1] at hx
    simp only [h2] at hx
    subst hs1
    simp at hx
    exact hx.2
  · rw [show beat32 s = s.clk.beat.setWidth 32 from rfl] at h1
    rw [settleSq_ring, h1]
    subst hs1; rfl

@[simp] theorem runningCmd_desc (c : Cmd) (m : HostMem) : (runningCmd c m).desc = c.desc := rfl
@[simp] theorem runningCmd_uid (c : Cmd) (m : HostMem) : (runningCmd c m).uid = c.uid := rfl
@[simp] theorem runningCmd_sq (c : Cmd) (m : HostMem) : (runningCmd c m).sq = c.sq := rfl
@[simp] theorem runningCmd_outOk (c : Cmd) (m : HostMem) : (runningCmd c m).outOk = m.outOk := rfl

theorem Begins.sq_lt {s : State} {sq : Fin 16} {op : Nat} {m : HostMem} {c : Cmd} {inp : List Byte} (h : Begins s sq op m c inp) :
    c.sq = sq.val := (oldestCmd_sq h.oldest).1

/-- A command that completes as soon as it begins, from a state that differs in the rings' commands only. -/
theorem finish_begun {s : State} {sq : Fin 16} {op : Nat} {m : HostMem} {c : Cmd} {inp : List Byte} (h : Begins s sq op m c inp)
    (hq : CqTakes s sq.val) (st : Status) (r : Nat) (out : List Byte) (ho : m.outOk = true ∨ out = []) :
    PostedOnly s (finishNow (begun s c m) (runningCmd c m) st r out) c st r out :=
  finishNow_posted (begun s c m) (runningCmd c m) st r out (h.sq_lt ▸ sq.isLt) ho
    (by rw [runningCmd_sq, h.sq_lt]; exact ⟨hq.bus, hq.keeper, hq.active, hq.noneHeld, hq.room⟩)

/-! ### Accesses -/

theorem poweredOff_dozeLeave (s : State) (off : Nat) : poweredOff (dozeLeave s) off = poweredOff s off := by
  unfold dozeLeave; split <;> rfl

theorem inSpillway_dozeLeave (s : State) : inSpillway (dozeLeave s) = inSpillway s := by
  unfold dozeLeave; split <;> rfl

theorem dozeLeave_flt (s : State) : (dozeLeave s).flt = s.flt := by unfold dozeLeave; split <;> rfl
theorem dozeLeave_ring (s : State) : (dozeLeave s).ring = s.ring := by unfold dozeLeave; split <;> rfl
theorem dozeLeave_cfg (s : State) : (dozeLeave s).cfg = s.cfg := by unfold dozeLeave; split <;> rfl

/-- A host write that lands on a register acts on it. -/
theorem hostWrite_lands {s : State} {off : Nat} (v : Word) (h : Lands s off) (hm : span off 0xF000 0xF200 = false)
    (hh : homeOf off ≠ none) : hostWrite s off v = writeNow (dozeLeave s) off v := by
  have hp : pathOpen s .host = true := h.reach
  simp only [hostWrite, writeReg, hp, hm, Bool.not_true, Bool.false_eq_true, if_false, inSpillway_dozeLeave, h.recovery,
    poweredOff_dozeLeave, h.home, dozeLeave_flt, h.keeper, false_and]
  simp [hh]

end Sys2Proof.Machine
end

