-- ==== Sys2Proof/Laws/Keeps.lean ====
section
/-! SUPPORT. What an operation leaves as it was: the queue, BEAT_COUNT, the fuse row, and the ledger's invariant. -/

namespace Sys2Proof.Machine

open Sys2Proof

/-- `s` came from `z` with the queue, the count and the fuses as they were, and with the ledger still sound. -/
structure Keeps (z s : State) : Prop where
  pending : s.pending = z.pending
  beat : s.clk.beat = z.clk.beat
  fuses : s.lcy.fuses = z.lcy.fuses
  ledger : LedgerOk z → LedgerOk s

theorem Keeps.refl (z : State) : Keeps z z := ⟨rfl, rfl, rfl, id⟩

theorem Keeps.trans {x y z : State} (h : Keeps x y) (k : Keeps y z) : Keeps x z :=
  ⟨k.pending.trans h.pending, k.beat.trans h.beat, k.fuses.trans h.fuses, fun w => k.ledger (h.ledger w)⟩

theorem Keeps.upd {z x : State} (h : Keeps z x) {clk : Clock} {cfg : CfgState} {ring : Ring} {lf : Lf} {tok : Tok} {slu : Slus}
    {rad : Radio} {mtr : Meter} {ldg : Ledger} {jrn : Journal} {key : Keys} {lcy : Life} {cip : Cipher} {ent : Entropy}
    {pwr : Power} {flt : Faults} {fl : Flash} (hb : clk.beat = x.clk.beat) (hf : lcy.fuses = x.lcy.fuses)
    (ha : ldg.cA = x.ldg.cA) (hc : ldg.cB = x.ldg.cB) (hr : ldg.billRes = x.ldg.billRes) (hk : fl.counter = x.fl.counter) :
    Keeps z ⟨x.pending, clk, cfg, ring, lf, tok, slu, rad, mtr, ldg, jrn, key, lcy, cip, ent, pwr, flt, fl⟩ :=
  ⟨h.pending, hb.trans h.beat, hf.trans h.fuses, fun w => by
    have := h.ledger w
    simp only [LedgerOk, ha, hc, hr, hk] at this ⊢
    exact this⟩

theorem Keeps.foldl {α : Type} {z : State} {f : State → α → State} {l : List α} {s : State}
    (hf : ∀ s a, Keeps z s → Keeps z (f s a)) (h : Keeps z s) : Keeps z (l.foldl f s) := by
  induction l generalizing s with
  | nil => exact h
  | cons a t ih => exact ih (hf s a h)

theorem Keeps.foldlVia {α β : Type} {z : State} (g : β → State) {f : β → α → β} {l : List α} {b : β}
    (hf : ∀ b a, Keeps z (g b) → Keeps z (g (f b a))) (h : Keeps z (g b)) : Keeps z (g (l.foldl f b)) := by
  induction l generalizing b with
  | nil => exact h
  | cons a t ih => exact ih (hf b a h)

theorem Keeps.ite {z a b : State} {c : Prop} {dc : Decidable c} (ha : Keeps z a) (hb : Keeps z b) : Keeps z (if c then a else b) := by
  split
  · exact ha
  · exact hb

theorem Keeps.iteG {β : Type} {z : State} (g : β → State) {a b : β} {c : Prop} {dc : Decidable c} (ha : Keeps z (g a))
    (hb : Keeps z (g b)) : Keeps z (g (if c then a else b)) := by
  split
  · exact ha
  · exact hb

theorem Keeps.cut {z x : State} {p : Prop} (h : Keeps z x) (k : Keeps z x → p) : p := k h
theorem Keeps.cutL {α : Type} {z : State} {x : State × α} {p : Prop} (h : Keeps z x.1) (k : Keeps z x.1 → p) : p := k h
theorem Keeps.cutR {α : Type} {z : State} {x : α × State} {p : Prop} (h : Keeps z x.2) (k : Keeps z x.2 → p) : p := k h
theorem Keeps.cutG {β : Type} {z : State} (g : β → State) {x : β} {p : Prop} (h : Keeps z (g x)) (k : Keeps z (g x) → p) : p :=
  k h

end Sys2Proof.Machine
end

