-- ==== Sys2Proof/Laws/KeepsBase.lean ====
section
/-! SUPPORT. What each operation keeps: the shared operations, the configuration, the generator, the armature and the registry. -/

namespace Sys2Proof.Machine

open Sys2Proof

theorem drawFree_keeps {z s : State} (h : Keeps z s) : Keeps z (drawFree s).2 :=
  Keeps.upd h rfl rfl rfl rfl rfl rfl

theorem drawBits_keeps {z s : State} (h : Keeps z s) : Keeps z (drawBits s).2 :=
  Keeps.upd h rfl rfl rfl rfl rfl rfl

theorem setSq_keeps {z s : State} (h : Keeps z s) (n : Nat) (q : Sq) : Keeps z (setSq s n q) :=
  Keeps.upd h rfl rfl rfl rfl rfl rfl

theorem setCq_keeps {z s : State} (h : Keeps z s) (n : Nat) (q : Cq) : Keeps z (setCq s n q) :=
  Keeps.upd h rfl rfl rfl rfl rfl rfl

theorem setChan_keeps {z s : State} (h : Keeps z s) (n : Nat) (c : Chan) : Keeps z (setChan s n c) :=
  Keeps.upd h rfl rfl rfl rfl rfl rfl

theorem modChan_keeps {z s : State} (h : Keeps z s) (n : Nat) (f : Chan → Chan) : Keeps z (modChan s n f) :=
  Keeps.upd h rfl rfl rfl rfl rfl rfl

theorem setPol_keeps {z s : State} (h : Keeps z s) (n : Nat) (p : Polder) : Keeps z (setPol s n p) :=
  Keeps.upd h rfl rfl rfl rfl rfl rfl

theorem modPol_keeps {z s : State} (h : Keeps z s) (n : Nat) (f : Polder → Polder) : Keeps z (modPol s n f) :=
  Keeps.upd h rfl rfl rfl rfl rfl rfl

theorem setBank_keeps {z s : State} (h : Keeps z s) (n : Nat) (b : Bank) : Keeps z (setBank s n b) :=
  Keeps.upd h rfl rfl rfl rfl rfl rfl

theorem setReg_keeps {z s : State} (h : Keeps z s) (n : Nat) (e : RegEntry) : Keeps z (setReg s n e) :=
  Keeps.upd h rfl rfl rfl rfl rfl rfl

theorem setNode_keeps {z s : State} (h : Keeps z s) (n : Nat) (e : Node) : Keeps z (setNode s n e) :=
  Keeps.upd h rfl rfl rfl rfl rfl rfl

theorem setDom_keeps {z s : State} (h : Keeps z s) (n : Nat) (d : Dom) : Keeps z (setDom s n d) :=
  Keeps.upd h rfl rfl rfl rfl rfl rfl

theorem setOut_keeps {z s : State} (h : Keeps z s) (n : Nat) (o : SluOut) : Keeps z (setOut s n o) :=
  Keeps.upd h rfl rfl rfl rfl rfl rfl

theorem setLane_keeps {z s : State} (h : Keeps z s) (l : LaneId) (x : Lane) : Keeps z (setLane s l x) := by
  unfold setLane
  with_reducible repeat' first | assumption | split | refine Keeps.upd ?_ rfl rfl rfl rfl rfl rfl

theorem emit_keeps {z s : State} (h : Keeps z s) (o : BusOut) : Keeps z (emit s o) := by
  unfold emit
  with_reducible
    repeat' first
      | assumption | refine Keeps.ite ?_ ?_ | split | refine Keeps.upd ?_ rfl rfl rfl rfl rfl rfl

theorem sendVector_keeps {z s : State} (h : Keeps z s) (v : Nat) : Keeps z (sendVector s v) := by
  unfold sendVector
  with_reducible
    repeat' first
      | assumption | apply emit_keeps | refine Keeps.ite ?_ ?_ | split | refine Keeps.upd ?_ rfl rfl rfl rfl rfl rfl

theorem cqIrq_keeps {z s : State} (h : Keeps z s) (n : Nat) : Keeps z (cqIrq s n) := by
  unfold cqIrq
  with_reducible repeat' first | assumption | apply setCq_keeps | apply sendVector_keeps | refine Keeps.ite ?_ ?_

theorem eqIrq_keeps {z s : State} (h : Keeps z s) : Keeps z (eqIrq s) := by
  unfold eqIrq
  with_reducible
    repeat' first
      | assumption | apply sendVector_keeps | refine Keeps.ite ?_ ?_ | split
      | refine Keeps.upd ?_ rfl rfl rfl rfl rfl rfl

theorem errVector_keeps {z s : State} (h : Keeps z s) (isNew : Bool) : Keeps z (errVector s isNew) := by
  unfold errVector
  with_reducible repeat' first | assumption | apply sendVector_keeps | refine Keeps.ite ?_ ?_

theorem writeCompletion_keeps {z s : State} (h : Keeps z s) (n : Nat) (c : Completion) :
    Keeps z (writeCompletion s n c) := by
  unfold writeCompletion
  with_reducible
    repeat' first
      | assumption | apply setCq_keeps | apply emit_keeps | apply cqIrq_keeps | refine Keeps.ite ?_ ?_ | split
      | refine Keeps.upd ?_ rfl rfl rfl rfl rfl rfl

theorem postCompletion_keeps {z s : State} (h : Keeps z s) (n : Nat) (c : Completion) : Keeps z (postCompletion s n c) := by
  unfold postCompletion
  with_reducible
    repeat' first
      | assumption | apply setCq_keeps | apply writeCompletion_keeps | refine Keeps.ite ?_ ?_ | split
      | refine Keeps.upd ?_ rfl rfl rfl rfl rfl rfl

theorem drainHeld_keeps {z : State} (k : Nat) {s : State} (h : Keeps z s) (n : Nat) : Keeps z (drainHeld k s n) := by
  induction k generalizing s with
  | zero => exact h
  | succ k ih =>
    unfold drainHeld
    with_reducible
      repeat' first
        | assumption | with_reducible apply ih | apply setCq_keeps | apply writeCompletion_keeps
        | refine Keeps.ite ?_ ?_ | split | refine Keeps.upd ?_ rfl rfl rfl rfl rfl rfl

theorem writeEvent_keeps {z s : State} (h : Keeps z s) (e : Event) : Keeps z (writeEvent s e) := by
  unfold writeEvent
  with_reducible
    repeat' first
      | assumption | apply emit_keeps | apply eqIrq_keeps | refine Keeps.ite ?_ ?_ | split
      | refine Keeps.upd ?_ rfl rfl rfl rfl rfl rfl

theorem postEventAt_keeps {z s : State} (h : Keeps z s) (idx : Nat) (src : Nat) (detail : Nat) (beat : Word) :
    Keeps z (postEventAt s idx src detail beat) := by
  unfold postEventAt
  with_reducible
    repeat' first
      | assumption | apply writeEvent_keeps | refine Keeps.ite ?_ ?_ | split
      | refine Keeps.upd ?_ rfl rfl rfl rfl rfl rfl

theorem postEvent_keeps {z s : State} (h : Keeps z s) (idx : Nat) (src : Nat) (detail : Nat) :
    Keeps z (postEvent s idx src detail) := by
  unfold postEvent
  with_reducible repeat' first | assumption | apply postEventAt_keeps

theorem postProgress_keeps {z s : State} (h : Keeps z s) (op : Nat) (src : Nat) (old : Nat) (new : Nat) (pos : Nat) :
    Keeps z (postProgress s op src old new pos) := by
  unfold postProgress
  with_reducible repeat' first | assumption | apply postEvent_keeps | refine Keeps.ite ?_ ?_

theorem stageRec_keeps {z s : State} (h : Keeps z s) (type : Nat) (source : Nat) (beat : BitVec 64) (pl : List Byte) (uid : Nat) :
    Keeps z (stageRec s type source beat pl uid) := by
  unfold stageRec
  with_reducible
    repeat' first
      | assumption | refine Keeps.ite ?_ ?_ | split | refine Keeps.upd ?_ rfl rfl rfl rfl rfl rfl

theorem stage_keeps {z s : State} (h : Keeps z s) (type : Nat) (source : Nat) (fs : List (Nat × List Byte)) :
    Keeps z (stage s type source fs) := by
  unfold stage
  with_reducible repeat' first | assumption | apply stageRec_keeps

theorem flashRenew_keeps {z s : State} (h : Keeps z s) (area : Nat) (off : Nat) (n : Nat) :
    Keeps z (flashRenew s area off n) := by
  unfold flashRenew
  with_reducible repeat' first | assumption | refine Keeps.upd ?_ rfl rfl rfl rfl rfl rfl

theorem stageSoon_keeps {z s : State} (h : Keeps z s) (type : Nat) (source : Nat) (fs : List (Nat × List Byte)) :
    Keeps z (stageSoon s type source fs) := by
  unfold stageSoon
  with_reducible
    repeat' first
      | assumption | apply stage_keeps | refine Keeps.ite ?_ ?_ | split
      | refine Keeps.upd ?_ rfl rfl rfl rfl rfl rfl

theorem stageBatch_keeps {z s : State} (h : Keeps z s) (uid : Nat) (cmdId : Nat) (polder : Nat) (ch : Nat) (st : Status) :
    Keeps z (stageBatch s uid cmdId polder ch st) := by
  unfold stageBatch
  with_reducible
    repeat' first
      | assumption | apply stageRec_keeps | split | refine Keeps.upd ?_ rfl rfl rfl rfl rfl rfl

theorem putCmd_keeps {z s : State} (h : Keeps z s) (c : Cmd) : Keeps z (putCmd s c) :=
  Keeps.upd h rfl rfl rfl rfl rfl rfl

theorem dropCmd_keeps {z s : State} (h : Keeps z s) (uid : Nat) : Keeps z (dropCmd s uid) :=
  Keeps.upd h rfl rfl rfl rfl rfl rfl

theorem settleSq_keeps {z s : State} (h : Keeps z s) (n : Nat) : Keeps z (settleSq s n) := by
  unfold settleSq
  with_reducible repeat' first | assumption | apply setSq_keeps | refine Keeps.ite ?_ ?_

theorem countStop_keeps {z s : State} (h : Keeps z s) : Keeps z (countStop s) :=
  Keeps.upd h rfl rfl rfl rfl rfl rfl

theorem countEcc_keeps {z s : State} (h : Keeps z s) (area : Nat) (off : Nat) (n : Nat) :
    Keeps z (countEcc s area off n) := by
  unfold countEcc
  with_reducible repeat' first | assumption | refine Keeps.upd ?_ rfl rfl rfl rfl rfl rfl

theorem countArea_keeps {z s : State} (h : Keeps z s) (area : Nat) : Keeps z (countArea s area) := by
  unfold countArea
  with_reducible repeat' first | assumption | apply countEcc_keeps

theorem registryFound_keeps {z s : State} (h : Keeps z s) : Keeps z (registryFound s).1 := by
  unfold registryFound
  with_reducible
    repeat' first
      | assumption | refine Keeps.foldl ?_ ?_ | split | refine Keeps.upd ?_ rfl rfl rfl rfl rfl rfl

theorem retirementFound_keeps {z s : State} (h : Keeps z s) : Keeps z (retirementFound s) := by
  unfold retirementFound
  with_reducible
    repeat' first
      | assumption | refine Keeps.ite ?_ ?_ | split | refine Keeps.upd ?_ rfl rfl rfl rfl rfl rfl

theorem startCounter_sound {s : State} (w : LedgerOk s) (r : CounterRec) (e : startCounter s = some r) :
    BucketsOk r.bkt ∧ r.billRes < 1000 := by
  unfold startCounter at e
  split at e
  · exact w.2.2.2 r e
  · have := (List.mem_filter.1 (List.mem_of_head? e)).2
    simp only [counterSound, Bool.and_eq_true, decide_eq_true_eq] at this
    obtain ⟨⟨⟨⟨⟨a, b⟩, c⟩, d⟩, f⟩, g⟩ := this
    exact ⟨⟨a, b, c, d, f⟩, g⟩

theorem ringFound_keeps {z s : State} (h : Keeps z s) : Keeps z (ringFound s) := by
  unfold ringFound
  split
  · exact h
  · exact ⟨h.pending, h.beat, h.fuses, fun w => ⟨(h.ledger w).1, (h.ledger w).2.1, (h.ledger w).2.2.1, startCounter_sound (h.ledger w)⟩⟩

theorem journalFound_keeps {z s : State} (h : Keeps z s) : Keeps z (journalFound s) := by
  unfold journalFound
  with_reducible
    repeat' first
      | assumption | refine Keeps.ite ?_ ?_ | split | refine Keeps.upd ?_ rfl rfl rfl rfl rfl rfl

theorem flagPldDrop_keeps {z s : State} (h : Keeps z s) : Keeps z (flagPldDrop s) :=
  Keeps.upd h rfl rfl rfl rfl rfl rfl

theorem flagChanDrop_keeps {z s : State} (h : Keeps z s) (n : Nat) : Keeps z (flagChanDrop s n) :=
  Keeps.upd h rfl rfl rfl rfl rfl rfl

theorem flagFixedLimit_keeps {z s : State} (h : Keeps z s) : Keeps z (flagFixedLimit s) :=
  Keeps.upd h rfl rfl rfl rfl rfl rfl

theorem flagBasicDrop_keeps {z s : State} (h : Keeps z s) (off : Nat) : Keeps z (flagBasicDrop s off) :=
  Keeps.upd h rfl rfl rfl rfl rfl rfl

theorem wholeDrop_keeps {z s t : State} (h : Keeps z s) (r : RReg) (e : wholeDrop s r = some t) : Keeps z t := by
  unfold wholeDrop at e
  cases r <;> simp only [Option.ite_none_left_eq_some, Option.ite_none_right_eq_some, Option.some.injEq, reduceCtorEq] at e <;>
    first
      | (obtain ⟨-, rfl⟩ := e; first | exact flagPldDrop_keeps h | exact flagChanDrop_keeps h _)

theorem sortWrites_keeps {z : State} (l : List (Nat × Word)) {s : State} (h : Keeps z s) : Keeps z (sortWrites s l).1 := by
  induction l generalizing s with
  | nil => exact h
  | cons a t ih =>
    unfold sortWrites
    split
    · exact ih h
    · split
      · rename_i e
        exact ih (wholeDrop_keeps h _ e)
      · exact ih h

theorem judgeOne_keeps {z : State} (v1 : SMap Word) (j : Judged) (r : RReg) (w : Word) (h : Keeps z j.st) :
    Keeps z (judgeOne v1 j r w).st := by
  unfold judgeOne
  extract_lets s old fs basic now drop s1 dr new
  have h1 : Keeps z s1 := by
    unfold s1
    split
    · exact flagBasicDrop_keeps h _
    · exact h
  clear_value s1
  split
  · exact h
  · split
    · exact flagFixedLimit_keeps h1
    · exact h1
  · extract_lets busy gangDrop new1 s2 v2
    have h2 : Keeps z s2 := by
      unfold s2
      split
      · exact flagChanDrop_keeps h1 _
      · exact h1
    split
    · exact flagFixedLimit_keeps h1
    · exact h2
  · exact h1

theorem unclean_keeps {z s : State} (h : Keeps z s) : Keeps z (unclean s) := by
  unfold unclean
  with_reducible
    repeat' first
      | assumption | refine Keeps.ite ?_ ?_ | split | refine Keeps.upd ?_ rfl rfl rfl rfl rfl rfl

theorem applySet_keeps {z s : State} (h : Keeps z s) (ws : List (Nat × Word)) : Keeps z (applySet s ws).1 := by
  have hx := sortWrites_keeps ws h
  have hj : ∀ v l d, Keeps z (List.foldl (fun j (p : RReg × Word) => judgeOne v j p.1 p.2) ⟨(sortWrites s ws).1, v, d, []⟩ l).st :=
    fun v l d => Keeps.foldlVia Judged.st (fun b a k => judgeOne_keeps v b a.1 a.2 k) hx
  unfold applySet
  dsimp only
  split
  · exact unclean_keeps (Keeps.upd (hj _ _ _) rfl rfl rfl rfl rfl rfl)
  · exact Keeps.upd (hj _ _ _) rfl rfl rfl rfl rfl rfl

theorem stageWrite_keeps {z s : State} (h : Keeps z s) (off : Nat) (w : Word) : Keeps z (stageWrite s off w) := by
  unfold stageWrite
  with_reducible
    repeat' first
      | assumption | refine Keeps.ite ?_ ?_ | split | refine Keeps.upd ?_ rfl rfl rfl rfl rfl rfl

theorem takeStaged_keeps {z s : State} (h : Keeps z s) : Keeps z (takeStaged s).1 :=
  Keeps.upd h rfl rfl rfl rfl rfl rfl

theorem stageMeterCfg_keeps {z s : State} (h : Keeps z s) (crc : Word) (serial : Nat) :
    Keeps z (stageMeterCfg s crc serial) := by
  unfold stageMeterCfg
  with_reducible repeat' first | assumption | apply stage_keeps

theorem applyMeterCopy_keeps {z s : State} (h : Keeps z s) : Keeps z (applyMeterCopy s) := by
  unfold applyMeterCopy
  with_reducible repeat' first | assumption | apply applySet_keeps | refine Keeps.upd ?_ rfl rfl rfl rfl rfl rfl

theorem stageConfig_keeps {z s : State} (h : Keeps z s) (event : Nat) (sel : Nat) (a : Word) (b : Word) :
    Keeps z (stageConfig s event sel a b) := by
  unfold stageConfig
  with_reducible repeat' first | assumption | apply stageSoon_keeps

theorem configUpset_keeps {z s : State} (h : Keeps z s) : Keeps z (configUpset s) := by
  unfold configUpset
  with_reducible
    repeat' first
      | assumption | apply postEvent_keeps | apply stageConfig_keeps | refine Keeps.ite ?_ ?_ | split
      | refine Keeps.upd ?_ rfl rfl rfl rfl rfl rfl

theorem sealPassEnd_keeps {z s : State} (h : Keeps z s) (live : Word) : Keeps z (sealPassEnd s live) := by
  unfold sealPassEnd
  with_reducible
    repeat' first
      | assumption | apply configUpset_keeps | refine Keeps.ite ?_ ?_ | split
      | refine Keeps.upd ?_ rfl rfl rfl rfl rfl rfl

theorem sealStep_keeps {z s : State} (h : Keeps z s) : Keeps z (sealStep s) := by
  unfold sealStep
  with_reducible
    repeat' first
      | assumption | apply sealPassEnd_keeps | refine Keeps.ite ?_ ?_ | split
      | refine Keeps.upd ?_ rfl rfl rfl rfl rfl rfl

theorem excludeRegs_keeps {z s : State} (h : Keeps z s) (offs : List Nat) : Keeps z (excludeRegs s offs) := by
  unfold excludeRegs
  with_reducible repeat' first | assumption | split | refine Keeps.upd ?_ rfl rfl rfl rfl rfl rfl

theorem includeRegs_keeps {z s : State} (h : Keeps z s) (offs : List Nat) : Keeps z (includeRegs s offs) := by
  unfold includeRegs
  with_reducible repeat' first | assumption | split | refine Keeps.upd ?_ rfl rfl rfl rfl rfl rfl

theorem sealReloadNow_keeps {z s : State} (h : Keeps z s) : Keeps z (sealReloadNow s) := by
  unfold sealReloadNow
  with_reducible
    repeat' first
      | assumption | apply unclean_keeps | apply stageConfig_keeps | refine Keeps.foldl ?_ ?_
      | refine Keeps.ite ?_ ?_ | split | refine Keeps.upd ?_ rfl rfl rfl rfl rfl rfl

theorem sealGraceNow_keeps {z s : State} (h : Keeps z s) : Keeps z (sealGraceNow s) := by
  unfold sealGraceNow
  with_reducible
    repeat' first
      | assumption | refine Keeps.ite ?_ ?_ | split | refine Keeps.upd ?_ rfl rfl rfl rfl rfl rfl

theorem postEntFail_keeps {z s : State} (h : Keeps z s) (reason : Nat) : Keeps z (postEntFail s reason) := by
  unfold postEntFail
  with_reducible repeat' first | assumption | apply postEvent_keeps

theorem drbgInstantiate_keeps {z s : State} (h : Keeps z s) : Keeps z (drbgInstantiate s) :=
  Keeps.upd h rfl rfl rfl rfl rfl rfl

theorem drbgReseed_keeps {z s : State} (h : Keeps z s) : Keeps z (drbgReseed s) := by
  unfold drbgReseed
  with_reducible
    repeat' first
      | assumption | apply postEntFail_keeps | refine Keeps.ite ?_ ?_ | split
      | refine Keeps.upd ?_ rfl rfl rfl rfl rfl rfl

theorem drbgLimits_keeps {z s : State} (h : Keeps z s) : Keeps z (drbgLimits s) := by
  unfold drbgLimits
  with_reducible
    repeat' first
      | assumption | apply postEntFail_keeps | apply drbgReseed_keeps | refine Keeps.ite ?_ ?_ | split
      | refine Keeps.upd ?_ rfl rfl rfl rfl rfl rfl

theorem drbgDraw_keeps {z s : State} (h : Keeps z s) (n : Nat) {d : List Nat × State} (e : drbgDraw s n = some d) :
    Keeps z d.2 := by
  have k := drbgLimits_keeps h
  unfold drbgDraw at e
  extract_lets x at e
  split at e
  · cases e
    exact Keeps.upd k rfl rfl rfl rfl rfl rfl
  · cases e

theorem drbgRefuse_keeps {z s : State} (h : Keeps z s) : Keeps z (drbgRefuse s) := by
  unfold drbgRefuse
  with_reducible repeat' first | assumption | apply drbgLimits_keeps

theorem addWait_keeps {z s : State} (h : Keeps z s) (cls : Nat) (who : Waiter) (bits : Nat) :
    Keeps z (addWait s cls who bits) :=
  Keeps.upd h rfl rfl rfl rfl rfl rfl

theorem dropWait_keeps {z s : State} (h : Keeps z s) (who : Waiter) : Keeps z (dropWait s who) :=
  Keeps.upd h rfl rfl rfl rfl rfl rfl

theorem removeWait_keeps {z s : State} (h : Keeps z s) (w : WaitReq) : Keeps z (removeWait s w) :=
  Keeps.upd h rfl rfl rfl rfl rfl rfl

theorem stageLife_keeps {z s : State} (h : Keeps z s) (event : Nat) (old : Nat) (new : Nat) (b23 : Nat) (tail : List Byte) :
    Keeps z (stageLife s event old new b23 tail) := by
  unfold stageLife
  with_reducible repeat' first | assumption | apply postEvent_keeps | apply stageSoon_keeps | refine Keeps.ite ?_ ?_

theorem stageNode_keeps {z s : State} (h : Keeps z s) (event : Nat) (i : Nat) (old : NodeState) :
    Keeps z (stageNode s event i old) := by
  unfold stageNode
  with_reducible repeat' first | assumption | apply stageLife_keeps

theorem nextInst_keeps {z s : State} (h : Keeps z s) (i : Nat) : Keeps z (nextInst s i).2 :=
  Keeps.upd h rfl rfl rfl rfl rfl rfl

theorem raiseUses_keeps {z s : State} (h : Keeps z s) (i : Nat) : Keeps z (raiseUses s i) := by
  unfold raiseUses
  extract_lets n
  clear_value n
  split
  · exact Keeps.upd h rfl rfl rfl rfl rfl rfl
  · exact h

theorem noteUse_keeps {z s : State} (h : Keeps z s) (i : Nat) : Keeps z (noteUse s i) := by
  unfold noteUse
  with_reducible repeat' first | assumption | apply setNode_keeps | apply raiseUses_keeps | refine Keeps.ite ?_ ?_

theorem retireNode_keeps {z s0 : State} (h : Keeps z s0) (i : Nat) : Keeps z (retireNode s0 i) := by
  unfold retireNode
  with_reducible
    repeat' first
      | assumption | apply setNode_keeps | apply stageNode_keeps | apply nextInst_keeps | apply noteUse_keeps
      | refine Keeps.ite ?_ ?_ | split | refine Keeps.upd ?_ rfl rfl rfl rfl rfl rfl

theorem addBlocks_keeps {z s : State} (h : Keeps z s) (n : Nat) : Keeps z (addBlocks s n) :=
  Keeps.upd h rfl rfl rfl rfl rfl rfl

theorem countUse_keeps {z s0 : State} (h : Keeps z s0) (i : Nat) : Keeps z (countUse s0 i) := by
  unfold countUse
  with_reducible
    repeat' first
      | assumption | apply setNode_keeps | apply retireNode_keeps | apply raiseUses_keeps | apply addBlocks_keeps
      | refine Keeps.ite ?_ ?_

theorem sysNode_keeps {z s : State} (h : Keeps z s) (i : Nat) (parent : Nat) (level : Nat) (gen : Nat) (limit : Nat) (big : Bool) (owner : BitVec 8) (label : String) (key : List Nat) :
    Keeps z (sysNode s i parent level gen limit big owner label key) :=
  Keeps.upd h rfl rfl rfl rfl rfl rfl

theorem childUse_keeps {z s : State} (h : Keeps z s) (i : Nat) : Keeps z (childUse s i) := by
  unfold childUse
  with_reducible repeat' first | assumption | apply addBlocks_keeps | apply countUse_keeps

theorem installKj_keeps {z s : State} (h : Keeps z s) (kgen : Nat) : Keeps z (installKj s kgen) := by
  unfold installKj
  with_reducible repeat' first | assumption | apply sysNode_keeps | apply childUse_keeps

theorem installKc_keeps {z s : State} (h : Keeps z s) : Keeps z (installKc s) := by
  unfold installKc
  with_reducible repeat' first | assumption | apply sysNode_keeps | apply childUse_keeps

theorem installKv_keeps {z s : State} (h : Keeps z s) : Keeps z (installKv s) := by
  unfold installKv
  with_reducible repeat' first | assumption | apply sysNode_keeps | apply childUse_keeps | refine Keeps.ite ?_ ?_

theorem emitData_keeps {z s : State} (h : Keeps z s) (c : Cmd) (out : List Byte) : Keeps z (emitData s c out) := by
  unfold emitData
  with_reducible repeat' first | assumption | apply emit_keeps | refine Keeps.ite ?_ ?_

theorem finishCmd_keeps {z s : State} (h : Keeps z s) (c : Cmd) (st : Status) (result : Word) (beat : BitVec 64) (out : List Byte) :
    Keeps z (finishCmd s c st result beat out) := by
  unfold finishCmd
  with_reducible
    repeat' first
      | assumption | apply postCompletion_keeps | apply dropCmd_keeps | apply settleSq_keeps | apply emitData_keeps
      | refine Keeps.ite ?_ ?_

theorem finishNow_keeps {z s : State} (h : Keeps z s) (c : Cmd) (st : Status) (result : Nat) (out : List Byte) :
    Keeps z (finishNow s c st result out) := by
  unfold finishNow
  with_reducible repeat' first | assumption | apply finishCmd_keeps

theorem finishBytes_keeps {z s : State} (h : Keeps z s) (c : Cmd) (out : List Byte) : Keeps z (finishBytes s c out) := by
  unfold finishBytes
  with_reducible repeat' first | assumption | apply finishNow_keeps

theorem failCmd_keeps {z s : State} (h : Keeps z s) (c : Cmd) (st : Status) : Keeps z (failCmd s c st) := by
  unfold failCmd
  with_reducible repeat' first | assumption | apply finishNow_keeps

theorem zeroCmd_keeps {z s : State} (h : Keeps z s) (c : Cmd) (st : Status) : Keeps z (zeroCmd s c st) := by
  unfold zeroCmd
  with_reducible
    repeat' first
      | assumption | apply emitData_keeps | apply finishNow_keeps | refine Keeps.ite ?_ ?_ | split
      | refine Keeps.upd ?_ rfl rfl rfl rfl rfl rfl

theorem runCmd_keeps {z s : State} (h : Keeps z s) (sq op : Nat) (m : HostMem) (own : State → Cmd → Judge)
    (body : State → Cmd → List Byte → State) (hb : ∀ s c l, Keeps z s → Keeps z (body s c l)) :
    Keeps z (runCmd s sq op m own body) := by
  unfold runCmd
  with_reducible
    repeat' first
      | assumption | (with_reducible apply hb) | apply putCmd_keeps | apply finishNow_keeps | apply failCmd_keeps
      | refine Keeps.ite ?_ ?_ | split | refine Keeps.upd ?_ rfl rfl rfl rfl rfl rfl

theorem pairSlot_keeps {z s : State} (h : Keeps z s) (ch : Nat) (f : SlotEnt → SlotEnt) : Keeps z (pairSlot s ch f) :=
  Keeps.upd h rfl rfl rfl rfl rfl rfl

theorem slotOutcome_keeps {z s : State} (h : Keeps z s) (ch : Nat) (st : Status) : Keeps z (slotOutcome s ch st) :=
  Keeps.upd h rfl rfl rfl rfl rfl rfl

theorem validate_keeps {z s : State} (h : Keeps z s) (reg : Nat) (roles : BitVec 4) (src : Nat) :
    Keeps z (validate s reg roles src) :=
  Keeps.upd h rfl rfl rfl rfl rfl rfl

theorem storeReg_keeps {z s : State} (h : Keeps z s) (i : Nat) (e : RegEntry) : Keeps z (storeReg s i e) := by
  unfold storeReg
  with_reducible
    repeat' first
      | assumption | apply setReg_keeps | apply flashRenew_keeps | refine Keeps.upd ?_ rfl rfl rfl rfl rfl rfl

theorem storeRec_keeps {z s : State} (h : Keeps z s) (ch : Nat) (r : Option SlotRec) : Keeps z (storeRec s ch r) := by
  unfold storeRec
  with_reducible
    repeat' first
      | assumption | apply flashRenew_keeps | split | refine Keeps.upd ?_ rfl rfl rfl rfl rfl rfl

theorem stageEntry_keeps {z s : State} (h : Keeps z s) (action : Nat) (i : Nat) (source : Nat) (e : RegEntry) :
    Keeps z (stageEntry s action i source e) := by
  unfold stageEntry
  with_reducible repeat' first | assumption | apply stage_keeps

theorem stageRegistry_keeps {z s : State} (h : Keeps z s) (action : Nat) (i : Nat) (source : Nat) :
    Keeps z (stageRegistry s action i source) := by
  unfold stageRegistry
  with_reducible repeat' first | assumption | apply stageEntry_keeps

theorem markExhausted_keeps {z s : State} (h : Keeps z s) (i : Nat) (source : Nat) : Keeps z (markExhausted s i source) := by
  unfold markExhausted
  with_reducible
    repeat' first
      | assumption | apply storeReg_keeps | apply stageRegistry_keeps | refine Keeps.ite ?_ ?_

theorem raiseSess_keeps {z s : State} (h : Keeps z s) (i : Nat) : Keeps z (raiseSess s i) := by
  unfold raiseSess
  with_reducible repeat' first | assumption | apply storeReg_keeps | refine Keeps.ite ?_ ?_

theorem countSess_keeps {z s : State} (h : Keeps z s) (i : Nat) : Keeps z (countSess s i) := by
  unfold countSess
  with_reducible repeat' first | assumption | apply setReg_keeps | apply raiseSess_keeps | refine Keeps.ite ?_ ?_

theorem applyRegChange_keeps {z s : State} (h : Keeps z s) (c : RegChange) : Keeps z (applyRegChange s c) := by
  unfold applyRegChange
  with_reducible
    repeat' first
      | assumption | apply modChan_keeps | apply pairSlot_keeps | apply storeReg_keeps | apply storeRec_keeps
      | apply stageEntry_keeps | (intro _ _ _; try dsimp only) | refine Keeps.foldl ?_ ?_ | refine Keeps.ite ?_ ?_
      | split | refine Keeps.upd ?_ rfl rfl rfl rfl rfl rfl

theorem enrolProgress_keeps {z s : State} (h : Keeps z s) (uid : Nat) (pos : Nat) (slotMode : Bool) (accepted : Bool) :
    Keeps z (enrolProgress s uid pos slotMode accepted) := by
  unfold enrolProgress
  with_reducible
    repeat' first
      | assumption | apply postProgress_keeps | refine Keeps.ite ?_ ?_ | split
      | refine Keeps.upd ?_ rfl rfl rfl rfl rfl rfl

theorem finishChange_keeps {z s : State} (h : Keeps z s) (c : RegChange) : Keeps z (finishChange s c) := by
  unfold finishChange
  with_reducible
    repeat' first
      | assumption | apply finishNow_keeps | apply enrolProgress_keeps | refine Keeps.ite ?_ ?_ | split

theorem applyChanges_keeps {z : State} (sel : RegChange → Bool) (l : List RegChange) {s : State} (h : Keeps z s) :
    Keeps z (applyChanges sel l s) := by
  induction l generalizing s with
  | nil => exact h
  | cons c t ih =>
    unfold applyChanges
    apply ih
    with_reducible
      repeat' first
        | assumption | apply applyRegChange_keeps | apply finishChange_keeps | refine Keeps.ite ?_ ?_ | split
        | refine Keeps.upd ?_ rfl rfl rfl rfl rfl rfl

theorem applyDueWhere_keeps {z s : State} (h : Keeps z s) (sel : RegChange → Bool) : Keeps z (applyDueWhere sel s) := by
  unfold applyDueWhere
  with_reducible
    repeat' first
      | assumption | apply applyChanges_keeps | refine Keeps.ite ?_ ?_ | split
      | refine Keeps.upd ?_ rfl rfl rfl rfl rfl rfl

theorem applyDueChanges_keeps {z s : State} (h : Keeps z s) : Keeps z (applyDueChanges s) := by
  unfold applyDueChanges
  with_reducible repeat' first | assumption | apply applyDueWhere_keeps

theorem addChange_keeps {z s : State} (h : Keeps z s) (c : RegChange) : Keeps z (addChange s c) :=
  Keeps.upd h rfl rfl rfl rfl rfl rfl

theorem projected_keeps {z s : State} (h : Keeps z s) : Keeps z (projected s) := by
  unfold projected
  with_reducible
    repeat' first
      | assumption | apply setReg_keeps | (intro _ _ _; try dsimp only) | refine Keeps.foldl ?_ ?_ | split
      | refine Keeps.upd ?_ rfl rfl rfl rfl rfl rfl

end Sys2Proof.Machine
end

