-- ==== Sys2Proof/Laws/KeepsLf.lean ====
section
/-! SUPPORT. What each operation keeps: the LF channels, polders, levee and lanes. -/

namespace Sys2Proof.Machine

open Sys2Proof

theorem setHead_keeps {z s : State} (h : Keeps z s) (ch : Nat) (j : Job) : Keeps z (setHead s ch j) :=
  Keeps.upd h rfl rfl rfl rfl rfl rfl

theorem popHead_keeps {z s : State} (h : Keeps z s) (ch : Nat) : Keeps z (popHead s ch) :=
  Keeps.upd h rfl rfl rfl rfl rfl rfl

theorem pushJob_keeps {z s : State} (h : Keeps z s) (ch : Nat) (j : Job) : Keeps z (pushJob s ch j) :=
  Keeps.upd h rfl rfl rfl rfl rfl rfl

theorem trackCarrier_keeps {z s : State} (h : Keeps z s) (ch : Nat) (want : Nat) : Keeps z (trackCarrier s ch want) := by
  unfold trackCarrier
  with_reducible repeat' first | assumption | apply setChan_keeps | refine Keeps.ite ?_ ?_

theorem freeMeas_keeps {z s : State} (h : Keeps z s) : Keeps z (freeMeas s).2 := by
  unfold freeMeas
  with_reducible repeat' first | assumption | apply drawFree_keeps

theorem measureEnd_keeps {z s : State} (h : Keeps z s) (ch : Nat) (j : Job) : Keeps z (measureEnd s ch j) := by
  unfold measureEnd
  with_reducible
    repeat' first
      | assumption | apply modChan_keeps | apply trackCarrier_keeps | apply freeMeas_keeps | refine Keeps.ite ?_ ?_
      | split | refine Keeps.upd ?_ rfl rfl rfl rfl rfl rfl

theorem closeTx_keeps {z s0 : State} (h : Keeps z s0) (ch : Nat) (j : Job) (st : Status) (clean : Bool) :
    Keeps z (closeTx s0 ch j st clean) := by
  unfold closeTx
  with_reducible
    repeat' first
      | assumption | apply modChan_keeps | apply stageBatch_keeps | apply dropWait_keeps | apply measureEnd_keeps
      | refine Keeps.ite ?_ ?_ | split | refine Keeps.upd ?_ rfl rfl rfl rfl rfl rfl

theorem addRec_keeps {z s : State} (h : Keeps z s) (uid : Nat) (r : Rec) : Keeps z (addRec s uid r) := by
  unfold addRec
  with_reducible repeat' first | assumption | apply putCmd_keeps | split

theorem authCmdStep_keeps {z s : State} (h : Keeps z s) (uid : Nat) : Keeps z (authCmdStep s uid) := by
  unfold authCmdStep
  with_reducible
    repeat' first
      | assumption | apply putCmd_keeps | apply finishNow_keeps | refine Keeps.ite ?_ ?_ | split

theorem swapTable_keeps {z s : State} (h : Keeps z s) : Keeps z (swapTable s) := by
  unfold swapTable
  with_reducible
    repeat' first
      | assumption | apply flashRenew_keeps | refine Keeps.ite ?_ ?_ | split
      | refine Keeps.upd ?_ rfl rfl rfl rfl rfl rfl

theorem appendEntry_keeps {z s : State} (h : Keeps z s) (e : RetEntry) : Keeps z (appendEntry s e) := by
  unfold appendEntry
  with_reducible
    repeat' first
      | assumption | apply flashRenew_keeps | apply swapTable_keeps | refine Keeps.ite ?_ ?_ | split
      | refine Keeps.upd ?_ rfl rfl rfl rfl rfl rfl

theorem stageRetire_keeps {z s : State} (h : Keeps z s) (cls : Nat) (idx : Nat) (reinst : Bool) :
    Keeps z (stageRetire s cls idx reinst) := by
  unfold stageRetire
  with_reducible repeat' first | assumption | apply stageSoon_keeps

theorem recordRetire_keeps {z s : State} (h : Keeps z s) (cls : Nat) (idx : Nat) (cause : Byte) :
    Keeps z (recordRetire s cls idx cause) := by
  unfold recordRetire
  with_reducible
    repeat' first
      | assumption | apply postEvent_keeps | apply appendEntry_keeps | apply stageRetire_keeps
      | refine Keeps.ite ?_ ?_

theorem recordReinstate_keeps {z s : State} (h : Keeps z s) (cls : Nat) (idx : Nat) :
    Keeps z (recordReinstate s cls idx) := by
  unfold recordReinstate
  with_reducible repeat' first | assumption | apply appendEntry_keeps | apply stageRetire_keeps

theorem retireLater_keeps {z s : State} (h : Keeps z s) (cls : Nat) (idx : Nat) (cause : Byte) :
    Keeps z (retireLater s cls idx cause) := by
  unfold retireLater
  with_reducible
    repeat' first
      | assumption | refine Keeps.ite ?_ ?_ | split | refine Keeps.upd ?_ rfl rfl rfl rfl rfl rfl

theorem startTolerance_keeps {z s : State} (h : Keeps z s) (ch : Nat) (age : Nat) : Keeps z (startTolerance s ch age) :=
  Keeps.upd h rfl rfl rfl rfl rfl rfl

theorem stopTolerance_keeps {z s : State} (h : Keeps z s) (ch : Nat) : Keeps z (stopTolerance s ch) :=
  Keeps.upd h rfl rfl rfl rfl rfl rfl

theorem tolExpire_keeps {z s : State} (h : Keeps z s) (ch : Nat) : Keeps z (tolExpire s ch) := by
  unfold tolExpire
  with_reducible repeat' first | assumption | apply stopTolerance_keeps | refine Keeps.ite ?_ ?_ | split

theorem freeCal_keeps {z s : State} (h : Keeps z s) : Keeps z (freeCal s).2 := by
  unfold freeCal
  with_reducible repeat' first | assumption | apply drawFree_keeps

theorem calProgress_keeps {z s : State} (h : Keeps z s) : Keeps z (calProgress s) := by
  unfold calProgress
  with_reducible
    repeat' first
      | assumption | apply postProgress_keeps | refine Keeps.foldl ?_ ?_ | refine Keeps.ite ?_ ?_ | split
      | refine Keeps.upd ?_ rfl rfl rfl rfl rfl rfl

theorem calCmdStep_keeps {z s : State} (h : Keeps z s) (uid : Nat) : Keeps z (calCmdStep s uid) := by
  unfold calCmdStep
  with_reducible
    repeat' first
      | assumption | apply postProgress_keeps | apply putCmd_keeps | apply finishNow_keeps | refine Keeps.ite ?_ ?_
      | split | refine Keeps.upd ?_ rfl rfl rfl rfl rfl rfl

theorem enrolStop_keeps {z s : State} (h : Keeps z s) (uid : Nat) : Keeps z (enrolStop s uid) := by
  unfold enrolStop
  with_reducible
    repeat' first
      | assumption | refine Keeps.ite ?_ ?_ | split | refine Keeps.upd ?_ rfl rfl rfl rfl rfl rfl

theorem enrolFail_keeps {z s : State} (h : Keeps z s) (c : Cmd) (st : Status) (result : Nat) :
    Keeps z (enrolFail s c st result) := by
  unfold enrolFail
  with_reducible
    repeat' first
      | assumption | apply finishNow_keeps | apply pairSlot_keeps | apply enrolStop_keeps | refine Keeps.ite ?_ ?_

theorem unlockRefuse_keeps {z s : State} (h : Keeps z s) (c : Cmd) (n : Nat) (result : Nat) :
    Keeps z (unlockRefuse s c n result) := by
  unfold unlockRefuse
  with_reducible repeat' first | assumption | apply stageLife_keeps | apply finishNow_keeps

theorem unlockAuthFailed_keeps {z s : State} (h : Keeps z s) (c : Cmd) (st : Status) :
    Keeps z (unlockAuthFailed s c st) := by
  unfold unlockAuthFailed
  with_reducible
    repeat' first
      | assumption | apply unlockRefuse_keeps | refine Keeps.ite ?_ ?_ | split
      | refine Keeps.upd ?_ rfl rfl rfl rfl rfl rfl

theorem unlockAuthPassed_keeps {z s : State} (h : Keeps z s) (c : Cmd) : Keeps z (unlockAuthPassed s c) :=
  Keeps.upd h rfl rfl rfl rfl rfl rfl

theorem noteStep_keeps {z s : State} (h : Keeps z s) (j : Job) : Keeps z (noteStep s j) := by
  unfold noteStep
  with_reducible repeat' first | assumption | apply putCmd_keeps | refine Keeps.ite ?_ ?_ | split

theorem validateJob_keeps {z s : State} (h : Keeps z s) (ch : Nat) (j : Job) (i : Nat) : Keeps z (validateJob s ch j i) := by
  unfold validateJob
  with_reducible repeat' first | assumption | apply validate_keeps | refine Keeps.ite ?_ ?_

theorem finishJob_keeps {z s : State} (h : Keeps z s) (ch : Nat) (j : Job) (st : Status) (f : Facts) :
    Keeps z (finishJob s ch j st f) := by
  unfold finishJob
  with_reducible
    repeat' first
      | assumption | apply failCmd_keeps | apply slotOutcome_keeps | apply addRec_keeps | apply authCmdStep_keeps
      | apply freeCal_keeps | apply calCmdStep_keeps | apply enrolFail_keeps | apply unlockAuthFailed_keeps
      | apply unlockAuthPassed_keeps | apply noteStep_keeps | apply validateJob_keeps | refine Keeps.ite ?_ ?_
      | split | refine Keeps.upd ?_ rfl rfl rfl rfl rfl rfl

theorem retiredMark_keeps {z s : State} (h : Keeps z s) (ch : Nat) (j : Job) : Keeps z (retiredMark s ch j) := by
  unfold retiredMark
  exact modChan_keeps h _ _

theorem failTx_keeps {z s : State} (h : Keeps z s) (ch : Nat) (j : Job) (st : Status) (clean : Bool) (f : Facts) :
    Keeps z (failTx s ch j st clean f) := by
  unfold failTx
  with_reducible
    repeat' first
      | assumption | apply retiredMark_keeps | apply modChan_keeps | apply popHead_keeps | apply closeTx_keeps | apply addRec_keeps
      | apply authCmdStep_keeps | apply finishJob_keeps | (intro _ _ _; try dsimp only) | refine Keeps.foldl ?_ ?_
      | refine Keeps.ite ?_ ?_ | split

theorem askNonce_keeps {z s : State} (h : Keeps z s) (ch : Nat) (j : Job) : Keeps z (askNonce s ch j) := by
  unfold askNonce
  with_reducible
    repeat' first
      | assumption | (with_reducible apply drbgDraw_keeps (h := h); apply Option.ite_none_right_eq_some.1 ‹_› |>.2)
      | apply drbgDraw_keeps | apply drbgRefuse_keeps | apply addWait_keeps | apply setHead_keeps
      | refine Keeps.ite ?_ ?_ | split | refine Keeps.upd ?_ rfl rfl rfl rfl rfl rfl

theorem judgeStart_keeps {z s : State} (h : Keeps z s) (ch : Nat) : Keeps z (judgeStart s ch) := by
  unfold judgeStart
  with_reducible
    repeat' first
      | assumption | apply markExhausted_keeps | apply setHead_keeps | apply popHead_keeps | apply addRec_keeps
      | apply authCmdStep_keeps | apply failTx_keeps | refine Keeps.ite ?_ ?_ | split

theorem armOnce_keeps {z s : State} (h : Keeps z s) (ch : Nat) : Keeps z (armOnce s ch) := by
  unfold armOnce
  with_reducible repeat' first | assumption | apply askNonce_keeps | refine Keeps.ite ?_ ?_ | split

theorem nonceArrived_keeps {z s : State} (h : Keeps z s) (ch : Nat) : Keeps z (nonceArrived s ch) := by
  unfold nonceArrived
  with_reducible repeat' first | assumption | apply setHead_keeps | refine Keeps.ite ?_ ?_ | split

theorem arm_keeps {z s : State} (h : Keeps z s) (ch : Nat) : Keeps z (arm s ch) := by
  unfold arm
  with_reducible repeat' first | assumption | apply armOnce_keeps | apply nonceArrived_keeps

theorem armGo_keeps {z : State} (k : Nat) {s : State} (h : Keeps z s) (ch : Nat) : Keeps z (armGo k s ch) := by
  induction k generalizing s with
  | zero => exact h
  | succ k ih =>
    unfold armGo
    have h1 := judgeStart_keeps h ch
    dsimp only
    split
    · exact ih h1
    · exact arm_keeps h1 ch

theorem armAt_keeps {z s : State} (h : Keeps z s) (ch : Nat) : Keeps z (armAt s ch) := by
  unfold armAt
  with_reducible repeat' first | assumption | apply armGo_keeps

theorem enqueue_keeps {z s : State} (h : Keeps z s) (ch : Nat) (j : Job) : Keeps z (enqueue s ch j) := by
  unfold enqueue
  with_reducible repeat' first | assumption | apply pushJob_keeps | apply arm_keeps

theorem beginUses_keeps {z s : State} (h : Keeps z s) (ch : Nat) (j : Job) (first : Bool) :
    Keeps z (beginUses s ch j first).1 := by
  unfold beginUses
  with_reducible
    repeat' first
      | assumption | apply countUse_keeps | apply storeReg_keeps | apply stageRegistry_keeps | apply countSess_keeps
      | refine Keeps.ite ?_ ?_ | refine Keeps.iteG Prod.fst ?_ ?_ | split

theorem startCoil_keeps {z s : State} (h : Keeps z s) (ch : Nat) (j : Job) (group : List Nat) (first : Bool) :
    Keeps z (startCoil s ch j group first) := by
  unfold startCoil
  with_reducible repeat' first | assumption | apply setHead_keeps | apply beginUses_keeps

theorem startTx_keeps {z s : State} (h : Keeps z s) (ch : Nat) (j : Job) : Keeps z (startTx s ch j) := by
  unfold startTx
  with_reducible
    repeat' first
      | assumption | apply startCoil_keeps | (intro _ _ _; try dsimp only) | refine Keeps.foldl ?_ ?_ | split

theorem resumeTx_keeps {z s : State} (h : Keeps z s) (ch : Nat) (j : Job) : Keeps z (resumeTx s ch j) := by
  unfold resumeTx
  with_reducible
    repeat' first
      | assumption | apply startCoil_keeps | (intro _ _ _; try dsimp only) | refine Keeps.foldl ?_ ?_
      | refine Keeps.ite ?_ ?_ | split | refine Keeps.upd ?_ rfl rfl rfl rfl rfl rfl

theorem flagFault_keeps {z s : State} (h : Keeps z s) (ch : Nat) (f : ChFault) : Keeps z (flagFault s ch f) :=
  Keeps.upd h rfl rfl rfl rfl rfl rfl

theorem txFault_keeps {z s : State} (h : Keeps z s) (ch : Nat) (f : ChFault) : Keeps z (txFault s ch f) := by
  unfold txFault
  with_reducible
    repeat' first
      | assumption | apply setHead_keeps | apply failTx_keeps | apply askNonce_keeps | apply flagFault_keeps
      | (intro _ _ _; try dsimp only) | refine Keeps.foldl ?_ ?_ | refine Keeps.ite ?_ ?_ | split
      | refine Keeps.upd ?_ rfl rfl rfl rfl rfl rfl

theorem chanFault_keeps {z s : State} (h : Keeps z s) (ch0 : Nat) (f : ChFault) : Keeps z (chanFault s ch0 f) := by
  unfold chanFault
  with_reducible
    repeat' first
      | assumption | apply arm_keeps | apply txFault_keeps | refine Keeps.ite ?_ ?_ | split
      | refine Keeps.upd ?_ rfl rfl rfl rfl rfl rfl

theorem bankFault_keeps {z s : State} (h : Keeps z s) (b : Nat) (f : ChFault) : Keeps z (bankFault s b f) := by
  unfold bankFault
  with_reducible
    repeat' first
      | assumption | apply chanFault_keeps | (intro _ _ _; try dsimp only) | refine Keeps.foldl ?_ ?_

theorem nextStep_keeps {z s : State} (h : Keeps z s) (ch : Nat) (j : Job) (step : Nat) (q : Nat) :
    Keeps z (nextStep s ch j step q) := by
  unfold nextStep
  with_reducible repeat' first | assumption | apply setHead_keeps | apply noteStep_keeps

theorem foreignEvent_keeps {z s : State} (h : Keeps z s) (ch : Nat) (id : Nat) : Keeps z (foreignEvent s ch id) := by
  unfold foreignEvent
  with_reducible repeat' first | assumption | apply postEvent_keeps

theorem foreignSeen_keeps {z s : State} (h : Keeps z s) (ch : Nat) (id : Nat) : Keeps z (foreignSeen s ch id) := by
  unfold foreignSeen
  with_reducible repeat' first | assumption | apply foreignEvent_keeps | refine Keeps.upd ?_ rfl rfl rfl rfl rfl rfl

theorem discoverEnd_keeps {z s : State} (h : Keeps z s) (ch : Nat) (j : Job) (collision : Bool) :
    Keeps z (discoverEnd s ch j collision) := by
  unfold discoverEnd
  with_reducible
    repeat' first
      | assumption | apply stageBatch_keeps | apply putCmd_keeps | apply setHead_keeps | apply popHead_keeps
      | apply addRec_keeps | apply authCmdStep_keeps | apply noteStep_keeps | apply nextStep_keeps
      | apply foreignSeen_keeps | (intro _ _ _; try dsimp only) | refine Keeps.foldl ?_ ?_ | refine Keeps.ite ?_ ?_
      | split | refine Keeps.upd ?_ rfl rfl rfl rfl rfl rfl

theorem discoverNext_keeps {z s : State} (h : Keeps z s) (ch : Nat) (j : Job) (f : Facts) :
    Keeps z (discoverNext s ch j f) := by
  unfold discoverNext
  with_reducible
    repeat' first
      | assumption | apply setHead_keeps | apply popHead_keeps | apply addRec_keeps | apply validateJob_keeps
      | apply finishJob_keeps | split | refine Keeps.upd ?_ rfl rfl rfl rfl rfl rfl

theorem confirmRekey_keeps {z s : State} (h : Keeps z s) (i : Nat) (source : Nat) : Keeps z (confirmRekey s i source) := by
  unfold confirmRekey
  with_reducible repeat' first | assumption | apply addChange_keeps | refine Keeps.ite ?_ ?_

theorem activatePending_keeps {z s : State} (h : Keeps z s) (i : Nat) : Keeps z (activatePending s i) := by
  unfold activatePending
  with_reducible repeat' first | assumption | apply storeReg_keeps | refine Keeps.ite ?_ ?_

theorem enrolAccept_keeps {z s : State} (h : Keeps z s) (ch : Nat) (j : Job) (c : Cmd) : Keeps z (enrolAccept s ch j c) := by
  unfold enrolAccept
  split
  · exact enrolFail_keeps h _ _ _
  · exact addChange_keeps (enrolProgress_keeps h _ _ _ _) _

theorem enrolKeyAccept_keeps {z s : State} (h : Keeps z s) (ch : Nat) (j : Job) (c : Cmd) :
    Keeps z (enrolKeyAccept s ch j c) := by
  unfold enrolKeyAccept
  split
  · exact enrolFail_keeps h _ _ _
  · exact addChange_keeps (validateJob_keeps (enrolProgress_keeps h _ _ _ _) _ _ _) _

theorem noteModel_keeps {z s : State} (h : Keeps z s) (i : Nat) (model : BitVec 16) : Keeps z (noteModel s i model) := by
  unfold noteModel
  with_reducible repeat' first | assumption | apply addChange_keeps | refine Keeps.ite ?_ ?_

theorem infoReply_keeps {z s : State} (h : Keeps z s) (ch : Nat) (j : Job) (w : BitVec 96) :
    Keeps z (infoReply s ch j w) := by
  unfold infoReply
  with_reducible
    repeat' first
      | assumption | apply enrolProgress_keeps | apply popHead_keeps | apply closeTx_keeps | apply enrolFail_keeps
      | apply finishJob_keeps | apply nextStep_keeps | apply noteModel_keeps | refine Keeps.ite ?_ ?_ | split

theorem discoverReply_keeps {z s : State} (h : Keeps z s) (ch : Nat) (j : Job) (r : AirResult) :
    Keeps z (discoverReply s ch j r) := by
  unfold discoverReply
  with_reducible
    repeat' first
      | assumption | apply closeTx_keeps | apply nextStep_keeps | apply discoverEnd_keeps | refine Keeps.ite ?_ ?_
      | split | refine Keeps.upd ?_ rfl rfl rfl rfl rfl rfl

theorem couplingFinding_keeps {z s : State} (h : Keeps z s) (ch : Nat) (j : Job) (r : RawReply) (x : SlotRec) (f : Facts) (pend : Bool) :
    Keeps z (couplingFinding s ch j r x f pend).st := by
  unfold couplingFinding
  with_reducible
    repeat' first
      | assumption | apply modChan_keeps | refine Keeps.ite ?_ ?_ | refine Keeps.iteG Found.st ?_ ?_ | split
      | dsimp only | refine Keeps.upd ?_ rfl rfl rfl rfl rfl rfl

theorem macFinding_keeps {z s : State} (h : Keeps z s) (ch : Nat) (j : Job) (r : RawReply) (w : BitVec 96) (f : Facts) (c : Bool) :
    Keeps z (macFinding s ch j r w f c).st := by
  unfold macFinding
  with_reducible
    repeat' first
      | assumption | apply addBlocks_keeps | apply markExhausted_keeps | apply couplingFinding_keeps
      | refine Keeps.ite ?_ ?_ | refine Keeps.iteG Found.st ?_ ?_ | split | dsimp only
      | refine Keeps.upd ?_ rfl rfl rfl rfl rfl rfl

theorem findings_keeps {z s : State} (h : Keeps z s) (ch : Nat) (j : Job) (r : RawReply) (w : BitVec 96) (t : Bool) (c : Bool) :
    Keeps z (findings s ch j r w t c).st := by
  unfold findings
  with_reducible
    repeat' first
      | assumption | apply modChan_keeps | apply foreignSeen_keeps | apply macFinding_keeps | refine Keeps.ite ?_ ?_
      | refine Keeps.iteG Found.st ?_ ?_ | split | dsimp only | refine Keeps.upd ?_ rfl rfl rfl rfl rfl rfl

theorem passAuth_keeps {z s : State} (h : Keeps z s) (ch : Nat) (j : Job) (pend : Bool) :
    Keeps z (passAuth s ch j pend) := by
  unfold passAuth
  with_reducible
    repeat' first
      | assumption | apply confirmRekey_keeps | apply activatePending_keeps | refine Keeps.ite ?_ ?_

theorem ninthReply_keeps {z s : State} (h : Keeps z s) (ch : Nat) (j : Job) : Keeps z (ninthReply s ch j) := by
  unfold ninthReply
  with_reducible
    repeat' first
      | assumption | apply finishJob_keeps | apply enrolAccept_keeps | apply stageBatch_keeps | refine Keeps.ite ?_ ?_ | split

theorem authPassed_keeps {z s : State} (ch : Nat) (j : Job) (r : RawReply) (w : BitVec 96) {x : Found} (k : Keeps z x.st) :
    Keeps z (authPassed s ch j r w x) := by
  have kc := closeTx_keeps k ch j .ok true
  have kp := passAuth_keeps kc ch j x.pend
  unfold authPassed
  extract_lets s1 j1 s2
  split
  · refine Keeps.ite (nextStep_keeps (enrolProgress_keeps kc _ _ _ _) _ _ _ _) (ninthReply_keeps ?_ _ _)
    exact popHead_keeps (noteStep_keeps kc _) _
  · have kn := popHead_keeps (noteStep_keeps kp j) ch
    split
    · exact enrolKeyAccept_keeps kn _ _ _
    · exact kn
  · exact discoverNext_keeps kp _ _ _
  · exact finishJob_keeps (popHead_keeps kp _) _ _ _ _

theorem cleanReply_keeps {z s : State} (h : Keeps z s) (ch : Nat) (j : Job) (r : RawReply) (w : BitVec 96) :
    Keeps z (cleanReply s ch j r w) := by
  unfold cleanReply
  split
  · exact infoReply_keeps h _ _ _
  · extract_lets want body
    split
    · exact failTx_keeps (foreignEvent_keeps h _ _) _ _ _ _ _
    · exact nextStep_keeps (enrolProgress_keeps (closeTx_keeps h _ _ _ _) _ _ _ _) _ _ _ _
  · have k := findings_keeps h ch j r w true true
    dsimp only
    split
    · exact nextStep_keeps (closeTx_keeps k _ _ _ _) _ _ _ _
    · exact failTx_keeps k _ _ _ _ _
  · have k := findings_keeps h ch j r w (j.kind ≠ .enrolSlot) (j.kind ≠ .enrolSlot ∧ j.kind ≠ .enrolKey)
    dsimp only
    split
    · exact authPassed_keeps ch j r w k
    · exact failTx_keeps k _ _ _ _ _

theorem airReply_keeps {z s : State} (h : Keeps z s) (ch : Nat) (j0 : Job) (r : AirResult) :
    Keeps z (airReply s ch j0 r) := by
  unfold airReply
  with_reducible
    repeat' first
      | assumption | apply setHead_keeps | apply failTx_keeps | apply txFault_keeps | apply discoverReply_keeps
      | apply cleanReply_keeps | refine Keeps.ite ?_ ?_ | split | refine Keeps.upd ?_ rfl rfl rfl rfl rfl rfl

theorem uplinkReply_keeps {z s : State} (h : Keeps z s) (ch : Nat) (r : AirResult) : Keeps z (uplinkReply s ch r) := by
  unfold uplinkReply
  with_reducible
    repeat' first
      | assumption | apply setHead_keeps | apply arm_keeps | apply airReply_keeps | refine Keeps.ite ?_ ?_ | split

theorem heldReplies_keeps {z s : State} (h : Keeps z s) : Keeps z (heldReplies s) := by
  unfold heldReplies
  with_reducible
    repeat' first
      | assumption | apply arm_keeps | apply airReply_keeps | (intro _ _ _; try dsimp only)
      | refine Keeps.foldl ?_ ?_ | refine Keeps.ite ?_ ?_ | split

theorem reinstateChan_keeps {z s : State} (h : Keeps z s) (ch : Nat) : Keeps z (reinstateChan s ch) := by
  unfold reinstateChan
  with_reducible
    repeat' first
      | assumption | apply modChan_keeps | apply includeRegs_keeps | apply pairSlot_keeps
      | apply recordReinstate_keeps | apply stopTolerance_keeps

theorem calibrationDone_keeps {z s : State} (h : Keeps z s) (ch : Nat) (r : CalResult) :
    Keeps z (calibrationDone s ch r) := by
  unfold calibrationDone
  with_reducible
    repeat' first
      | assumption | apply modChan_keeps | apply popHead_keeps | apply closeTx_keeps | apply addRec_keeps
      | apply calCmdStep_keeps | apply retiredMark_keeps | apply arm_keeps | apply txFault_keeps
      | apply reinstateChan_keeps | refine Keeps.ite ?_ ?_ | split

theorem calCommit_keeps {z s : State} (h : Keeps z s) (ch : Nat) : Keeps z (calCommit s ch) := by
  unfold calCommit
  with_reducible
    repeat' first
      | assumption | apply setChan_keeps | split | refine Keeps.upd ?_ rfl rfl rfl rfl rfl rfl

theorem quietCoil_keeps {z s : State} (h : Keeps z s) (c : Nat) (late : Nat) : Keeps z (quietCoil s c late) := by
  unfold quietCoil
  with_reducible repeat' first | assumption | apply setHead_keeps | apply askNonce_keeps | split

theorem quietJob_keeps {z s : State} (h : Keeps z s) (ch : Nat) : Keeps z (quietJob s ch) := by
  unfold quietJob
  with_reducible
    repeat' first
      | assumption | apply quietCoil_keeps | (intro _ _ _; try dsimp only) | refine Keeps.foldl ?_ ?_
      | refine Keeps.ite ?_ ?_ | split

theorem setPlace_keeps {z s : State} (h : Keeps z s) (ch : Nat) (pl : Place) : Keeps z (setPlace s ch pl) := by
  unfold setPlace
  with_reducible
    repeat' first
      | assumption | apply setChan_keeps | refine Keeps.ite ?_ ?_ | split
      | refine Keeps.upd ?_ rfl rfl rfl rfl rfl rfl

theorem moveChan_keeps {z s : State} (h : Keeps z s) (ch : Nat) (pl : Place) : Keeps z (moveChan s ch pl) := by
  unfold moveChan
  with_reducible repeat' first | assumption | apply setPlace_keeps | refine Keeps.ite ?_ ?_

theorem quietMoved_keeps {z s : State} (h : Keeps z s) (chs : List Nat) : Keeps z (quietMoved s chs) := by
  unfold quietMoved
  with_reducible
    repeat' first
      | assumption | apply quietJob_keeps | (intro _ _ _; try dsimp only) | refine Keeps.foldl ?_ ?_
      | refine Keeps.ite ?_ ?_

theorem abortJobs_keeps {z : State} (k : Nat) {s : State} (h : Keeps z s) (ch : Nat) : Keeps z (abortJobs k s ch) := by
  induction k generalizing s with
  | zero => exact h
  | succ k ih =>
    unfold abortJobs
    with_reducible
      repeat' first
        | assumption | with_reducible apply ih | apply popHead_keeps | apply failTx_keeps | refine Keeps.ite ?_ ?_
        | split

theorem abortAll_keeps {z s : State} (h : Keeps z s) (ch : Nat) : Keeps z (abortAll s ch) := by
  unfold abortAll
  with_reducible repeat' first | assumption | apply abortJobs_keeps

theorem unassign_keeps {z s : State} (h : Keeps z s) (ch : Nat) : Keeps z (unassign s ch) := by
  unfold unassign
  with_reducible repeat' first | assumption | apply modChan_keeps | apply abortAll_keeps | refine Keeps.ite ?_ ?_

theorem postMoves_keeps {z s : State} (h : Keeps z s) : Keeps z (postMoves s) := by
  unfold postMoves
  with_reducible
    repeat' first
      | assumption | apply postEvent_keeps | (intro _ _ _; try dsimp only) | refine Keeps.foldl ?_ ?_
      | refine Keeps.ite ?_ ?_ | split | refine Keeps.upd ?_ rfl rfl rfl rfl rfl rfl

theorem partialPlace_keeps {z s : State} (h : Keeps z s) (pols : List Nat) (chs : List Nat) :
    Keeps z (partialPlace s pols chs) := by
  unfold partialPlace
  with_reducible
    repeat' first
      | assumption | apply moveChan_keeps | (intro _ _ _; try dsimp only) | refine Keeps.foldl ?_ ?_ | split

theorem placeElsewhere_keeps {z s : State} (h : Keeps z s) (pols : List Nat) (chs : List Nat) :
    Keeps z (placeElsewhere s pols chs) := by
  unfold placeElsewhere
  with_reducible
    repeat' first
      | assumption | apply quietMoved_keeps | apply unassign_keeps | apply partialPlace_keeps
      | (intro _ _ _; try dsimp only) | refine Keeps.foldl ?_ ?_ | refine Keeps.ite ?_ ?_

theorem unseat_keeps {z s : State} (h : Keeps z s) (ch : Nat) : Keeps z (unseat s ch) := by
  unfold unseat
  with_reducible repeat' first | assumption | apply modChan_keeps | refine Keeps.ite ?_ ?_ | split

theorem placeNew_keeps {z s : State} (h : Keeps z s) : Keeps z (placeNew s) := by
  unfold placeNew
  refine Keeps.foldl (fun s c k => ?_) h
  dsimp only
  with_reducible
    repeat' first
      | exact k | apply moveChan_keeps | apply partialPlace_keeps | apply unseat_keeps | split

theorem updateMode_keeps {z s : State} (h : Keeps z s) : Keeps z (updateMode s) :=
  Keeps.upd h rfl rfl rfl rfl rfl rfl

theorem askMove_keeps {z s : State} (h : Keeps z s) (ch : Nat) (p : Nat) : Keeps z (askMove s ch p) := by
  unfold askMove
  with_reducible repeat' first | assumption | apply modChan_keeps | refine Keeps.ite ?_ ?_

theorem assignWrite_keeps {z s : State} (h : Keeps z s) (i : Nat) (w : Word) : Keeps z (assignWrite s i w) := by
  unfold assignWrite
  with_reducible
    repeat' first
      | assumption | apply modChan_keeps | apply askMove_keeps | (intro _ _ _; try dsimp only)
      | refine Keeps.foldl ?_ ?_ | refine Keeps.ite ?_ ?_ | split

theorem moveOne_keeps {z s : State} (h : Keeps z s) (c : Nat) : Keeps z (moveOne s c) := by
  unfold moveOne
  with_reducible
    repeat' first
      | assumption | apply moveChan_keeps | apply unassign_keeps | refine Keeps.ite ?_ ?_ | split

theorem moveIdle_keeps {z s : State} (h : Keeps z s) (only : List Nat) : Keeps z (moveIdle s only) := by
  have m : ∀ s a, Keeps z s → Keeps z (moveOne s a) := fun _ _ k => moveOne_keeps k _
  exact Keeps.foldl m (Keeps.foldl m (Keeps.foldl m h))

theorem rebalanceNow_keeps {z s : State} (h : Keeps z s) : Keeps z (rebalanceNow s) := by
  unfold rebalanceNow
  with_reducible
    repeat' first
      | assumption | apply modChan_keeps | (intro _ _ _; try dsimp only) | refine Keeps.foldl ?_ ?_
      | refine Keeps.ite ?_ ?_

theorem rebalanceStep_keeps {z s : State} (h : Keeps z s) : Keeps z (rebalanceStep s) := by
  unfold rebalanceStep
  with_reducible
    repeat' first
      | assumption | apply finishNow_keeps | apply moveIdle_keeps | apply rebalanceNow_keeps
      | refine Keeps.ite ?_ ?_ | split | refine Keeps.upd ?_ rfl rfl rfl rfl rfl rfl

theorem finishPol_keeps {z s : State} (h : Keeps z s) (p : Nat) (st : Status) : Keeps z (finishPol s p st) := by
  unfold finishPol
  with_reducible
    repeat' first
      | assumption | apply setPol_keeps | apply finishNow_keeps | split
      | refine Keeps.upd ?_ rfl rfl rfl rfl rfl rfl

theorem moveGroup_keeps {z s : State} (h : Keeps z s) (p : Nat) (q : Nat) : Keeps z (moveGroup s p q) := by
  unfold moveGroup
  with_reducible
    repeat' first
      | assumption | apply modChan_keeps | apply moveChan_keeps | apply quietMoved_keeps
      | (intro _ _ _; try dsimp only) | refine Keeps.foldl ?_ ?_ | refine Keeps.ite ?_ ?_ | split

theorem forgetMoves_keeps {z s : State} (h : Keeps z s) (p : Nat) : Keeps z (forgetMoves s p) := by
  unfold forgetMoves
  with_reducible
    repeat' first
      | assumption | apply modChan_keeps | (intro _ _ _; try dsimp only) | refine Keeps.foldl ?_ ?_
      | refine Keeps.ite ?_ ?_ | split

theorem spareRuns_keeps {z s : State} (h : Keeps z s) (q : Nat) : Keeps z (spareRuns s q) :=
  Keeps.upd h rfl rfl rfl rfl rfl rfl

theorem evacuate_keeps {z s : State} (h : Keeps z s) (p : Nat) : Keeps z (evacuate s p) := by
  unfold evacuate
  with_reducible
    repeat' first
      | assumption | apply unassign_keeps | apply placeElsewhere_keeps | apply moveGroup_keeps
      | apply forgetMoves_keeps | apply spareRuns_keeps | (intro _ _ _; try dsimp only) | refine Keeps.foldl ?_ ?_
      | refine Keeps.ite ?_ ?_ | split | refine Keeps.upd ?_ rfl rfl rfl rfl rfl rfl

theorem handRadio_keeps {z s : State} (h : Keeps z s) (p : Nat) : Keeps z (handRadio s p) := by
  unfold handRadio
  with_reducible
    repeat' first
      | assumption | refine Keeps.ite ?_ ?_ | split | refine Keeps.upd ?_ rfl rfl rfl rfl rfl rfl

theorem polFault_keeps {z s : State} (h : Keeps z s) (p : Nat) (bit : Nat) : Keeps z (polFault s p bit) := by
  unfold polFault
  with_reducible repeat' first | assumption | apply setPol_keeps | split | refine Keeps.upd ?_ rfl rfl rfl rfl rfl rfl

theorem failover_keeps {z s : State} (h : Keeps z s) (p : Nat) : Keeps z (failover s p) := by
  unfold failover
  with_reducible
    repeat' first
      | assumption | apply modPol_keeps | apply finishPol_keeps | apply evacuate_keeps | apply handRadio_keeps
      | refine Keeps.ite ?_ ?_

theorem toService_keeps {z s : State} (h : Keeps z s) (p : Nat) : Keeps z (toService s p) := by
  unfold toService
  with_reducible repeat' first | assumption | apply modPol_keeps | split | refine Keeps.upd ?_ rfl rfl rfl rfl rfl rfl

theorem faultSelfTest_keeps {z s : State} (h : Keeps z s) (p : Nat) (pass : Bool) : Keeps z (faultSelfTest s p pass) := by
  unfold faultSelfTest
  with_reducible
    repeat' first
      | assumption | apply setPol_keeps | apply retireLater_keeps | apply finishPol_keeps | apply toService_keeps
      | refine Keeps.ite ?_ ?_

theorem startSelfTest_keeps {z s : State} (h : Keeps z s) (p : Nat) (pass : Bool) : Keeps z (startSelfTest s p pass) := by
  unfold startSelfTest
  with_reducible
    repeat' first
      | assumption | apply setPol_keeps | apply retireLater_keeps | apply finishPol_keeps | refine Keeps.ite ?_ ?_

theorem polUp_keeps {z s : State} (h : Keeps z s) (p : Nat) : Keeps z (polUp s p) := by
  unfold polUp
  with_reducible
    repeat' first
      | assumption | apply setPol_keeps | apply modPol_keeps | apply finishPol_keeps | apply spareRuns_keeps
      | apply toService_keeps | refine Keeps.ite ?_ ?_ | split | refine Keeps.upd ?_ rfl rfl rfl rfl rfl rfl

theorem enterStop_keeps {z s : State} (h : Keeps z s) (p : Nat) : Keeps z (enterStop s p) := by
  unfold enterStop
  with_reducible
    repeat' first
      | assumption | apply setPol_keeps | refine Keeps.ite ?_ ?_ | split
      | refine Keeps.upd ?_ rfl rfl rfl rfl rfl rfl

theorem stopMove_keeps {z s : State} (h : Keeps z s) (p : Nat) (c : Nat) : Keeps z (stopMove s p c) := by
  unfold stopMove
  with_reducible
    repeat' first
      | assumption | apply modPol_keeps | apply moveChan_keeps | apply quietMoved_keeps | apply unassign_keeps
      | apply placeElsewhere_keeps | apply spareRuns_keeps | refine Keeps.ite ?_ ?_ | split

theorem polStop_keeps {z s : State} (h : Keeps z s) (p : Nat) : Keeps z (polStop s p) := by
  unfold polStop
  with_reducible
    repeat' first
      | assumption | apply modPol_keeps | apply finishPol_keeps | apply handRadio_keeps | apply stopMove_keeps
      | (intro _ _ _; try dsimp only) | refine Keeps.foldl ?_ ?_ | refine Keeps.ite ?_ ?_

theorem polRetire_keeps {z s : State} (h : Keeps z s) (p : Nat) (cause : Byte) : Keeps z (polRetire s p cause) := by
  unfold polRetire
  with_reducible
    repeat' first
      | assumption | apply modPol_keeps | apply excludeRegs_keeps | apply recordRetire_keeps | apply finishPol_keeps
      | apply evacuate_keeps | apply handRadio_keeps

theorem fcntClear_keeps {z s : State} (h : Keeps z s) (p : Nat) : Keeps z (fcntClear s p) := by
  unfold fcntClear
  with_reducible repeat' first | assumption | apply setPol_keeps | refine Keeps.ite ?_ ?_

theorem gapStep_keeps {z s : State} (h : Keeps z s) : Keeps z (gapStep s) := by
  unfold gapStep
  with_reducible
    repeat' first
      | assumption | apply setChan_keeps | apply modPol_keeps | apply countStop_keeps
      | (intro _ _ _; try dsimp only) | refine Keeps.foldl ?_ ?_ | refine Keeps.ite ?_ ?_ | split
      | refine Keeps.upd ?_ rfl rfl rfl rfl rfl rfl

theorem assignStep_keeps {z s : State} (h : Keeps z s) : Keeps z (assignStep s) := by
  unfold assignStep
  split
  · exact h
  · refine Keeps.foldl (fun s c k => ?_) h
    split
    · exact finishNow_keeps k _ _ _ _
    · exact k

theorem idleMoves_keeps {z s : State} (h : Keeps z s) : Keeps z (idleMoves s) := by
  unfold idleMoves
  with_reducible repeat' first | assumption | apply moveIdle_keeps | refine Keeps.ite ?_ ?_

theorem placementStep_keeps {z s : State} (h : Keeps z s) : Keeps z (placementStep s) := by
  unfold placementStep
  with_reducible
    repeat' first
      | assumption | apply placeNew_keeps | apply updateMode_keeps | apply rebalanceStep_keeps
      | apply failover_keeps | apply polUp_keeps | apply enterStop_keeps | apply polStop_keeps | apply gapStep_keeps
      | apply assignStep_keeps | apply idleMoves_keeps | (intro _ _ _; try dsimp only) | refine Keeps.foldl ?_ ?_
      | refine Keeps.ite ?_ ?_

theorem takeRadio_keeps {z s : State} (h : Keeps z s) (ch : Nat) (j : Job) : Keeps z (takeRadio s ch j) := by
  unfold takeRadio
  with_reducible
    repeat' first
      | assumption | refine Keeps.ite ?_ ?_ | split | refine Keeps.upd ?_ rfl rfl rfl rfl rfl rfl

theorem deferLimit_keeps {z s : State} (h : Keeps z s) (ch : Nat) : Keeps z (deferLimit s ch) := by
  unfold deferLimit
  with_reducible
    repeat' first
      | assumption | apply failTx_keeps | apply arm_keeps | refine Keeps.ite ?_ ?_ | split
      | refine Keeps.upd ?_ rfl rfl rfl rfl rfl rfl

theorem deferOne_keeps {z s : State} (h : Keeps z s) (ch : Nat) (j : Job) : Keeps z (deferOne s ch j) := by
  unfold deferOne
  with_reducible
    repeat' first
      | assumption | apply setHead_keeps | apply deferLimit_keeps | refine Keeps.upd ?_ rfl rfl rfl rfl rfl rfl

theorem takePol_keeps {z s : State} (h : Keeps z s) (ch : Nat) (j : Job) : Keeps z (takePol s ch j) := by
  unfold takePol
  with_reducible
    repeat' first
      | assumption | apply moveChan_keeps | (intro _ _ _; try dsimp only) | refine Keeps.foldl ?_ ?_
      | refine Keeps.ite ?_ ?_ | split

theorem admitGo_keeps {z : State} (l : List Nat) {s : State} (h : Keeps z s) (b : Bool) : Keeps z (admitGo l b s) := by
  induction l generalizing s b with
  | nil => exact h
  | cons c t ih =>
    unfold admitGo
    with_reducible
      repeat' first
        | assumption | with_reducible apply ih | apply startTx_keeps | apply takeRadio_keeps | apply deferOne_keeps
        | apply takePol_keeps | refine Keeps.ite ?_ ?_ | split

theorem admitFirst_keeps {z s : State} (h : Keeps z s) (chs : List Nat) : Keeps z (admitFirst s chs) := by
  unfold admitFirst
  with_reducible repeat' first | assumption | apply admitGo_keeps

theorem resumeOne_keeps {z s : State} (h : Keeps z s) (ch : Nat) (ph : TxPhase) : Keeps z (resumeOne s ch ph) := by
  unfold resumeOne
  with_reducible
    repeat' first
      | assumption | apply resumeTx_keeps | apply chanFault_keeps | refine Keeps.ite ?_ ?_ | split

theorem enCheck_keeps {z s : State} (h : Keeps z s) : Keeps z (enCheck s) := by
  unfold enCheck
  with_reducible
    repeat' first
      | assumption | apply abortAll_keeps | (intro _ _ _; try dsimp only) | refine Keeps.foldl ?_ ?_
      | refine Keeps.ite ?_ ?_

theorem dropMarks_keeps {z s : State} (h : Keeps z s) : Keeps z (dropMarks s) := by
  unfold dropMarks
  with_reducible
    repeat' first
      | assumption | apply modChan_keeps | apply popHead_keeps | apply arm_keeps | (intro _ _ _; try dsimp only)
      | refine Keeps.foldl ?_ ?_ | refine Keeps.ite ?_ ?_ | split

theorem clearDefers_keeps {z s : State} (h : Keeps z s) : Keeps z (clearDefers s) := by
  unfold clearDefers
  with_reducible
    repeat' first
      | assumption | apply setHead_keeps | (intro _ _ _; try dsimp only) | refine Keeps.foldl ?_ ?_
      | refine Keeps.ite ?_ ?_ | split

theorem staleStep_keeps {z s : State} (h : Keeps z s) : Keeps z (staleStep s) := by
  unfold staleStep
  with_reducible
    repeat' first
      | assumption | apply modChan_keeps | (intro _ _ _; try dsimp only) | refine Keeps.foldl ?_ ?_
      | refine Keeps.ite ?_ ?_

theorem leveeStep_keeps {z s : State} (h : Keeps z s) : Keeps z (leveeStep s) := by
  unfold leveeStep
  with_reducible
    repeat' first
      | assumption | apply calProgress_keeps | apply armAt_keeps | apply postMoves_keeps | apply admitFirst_keeps
      | apply resumeOne_keeps | apply clearDefers_keeps | (intro _ _ _; try dsimp only) | refine Keeps.foldl ?_ ?_
      | refine Keeps.ite ?_ ?_ | split | refine Keeps.upd ?_ rfl rfl rfl rfl rfl rfl

theorem nextPass_keeps {z s : State} (h : Keeps z s) (p : Nat) : Keeps z (nextPass s p) := by
  unfold nextPass
  with_reducible repeat' first | assumption | apply postMoves_keeps | apply admitFirst_keeps

theorem bankSupply_keeps {z s : State} (h : Keeps z s) (b : Nat) (vdrv : Nat) : Keeps z (bankSupply s b vdrv) := by
  unfold bankSupply
  with_reducible
    repeat' first
      | assumption | apply setBank_keeps | apply bankFault_keeps | refine Keeps.ite ?_ ?_ | split
      | refine Keeps.upd ?_ rfl rfl rfl rfl rfl rfl

theorem bankTemp_keeps {z s : State} (h : Keeps z s) (b : Nat) (temp : Int) : Keeps z (bankTemp s b temp) := by
  unfold bankTemp
  with_reducible repeat' first | assumption | apply setBank_keeps | apply bankFault_keeps | refine Keeps.ite ?_ ?_

theorem bankUnder_keeps {z s : State} (h : Keeps z s) (b : Nat) : Keeps z (bankUnder s b) := by
  unfold bankUnder
  with_reducible repeat' first | assumption | apply drawFree_keeps | apply bankSupply_keeps | refine Keeps.ite ?_ ?_

theorem bankBack_keeps {z s : State} (h : Keeps z s) (b : Nat) : Keeps z (bankBack s b) := by
  unfold bankBack
  with_reducible repeat' first | assumption | apply drawFree_keeps | apply bankSupply_keeps | refine Keeps.ite ?_ ?_

theorem bankReadyNow_keeps {z s : State} (h : Keeps z s) (b : Nat) : Keeps z (bankReadyNow s b) := by
  unfold bankReadyNow
  with_reducible repeat' first | assumption | apply setBank_keeps | apply setDom_keeps | refine Keeps.ite ?_ ?_

theorem linkFrame_keeps {z s : State} (h : Keeps z s) (b : Nat) (retx : Nat) (undelivered : Bool) :
    Keeps z (linkFrame s b retx undelivered) := by
  unfold linkFrame
  with_reducible repeat' first | assumption | apply setBank_keeps | apply bankFault_keeps | refine Keeps.ite ?_ ?_

theorem linkBeat_keeps {z s : State} (h : Keeps z s) (b : Nat) : Keeps z (linkBeat s b) := by
  unfold linkBeat
  with_reducible repeat' first | assumption | apply setBank_keeps | apply retireLater_keeps | refine Keeps.ite ?_ ?_

theorem tampTake_keeps {z s : State} (h : Keeps z s) : Keeps z (tampTake s) :=
  Keeps.upd h rfl rfl rfl rfl rfl rfl

theorem stageLane_keeps {z s : State} (h : Keeps z s) (event : Nat) (n : Nat) : Keeps z (stageLane s event n) := by
  unfold stageLane
  with_reducible repeat' first | assumption | apply stage_keeps

theorem stageSafe_keeps {z s : State} (h : Keeps z s) (event : Nat) (mask : Nat) : Keeps z (stageSafe s event mask) := by
  unfold stageSafe
  with_reducible repeat' first | assumption | apply stage_keeps

theorem postSluChanges_keeps {z s : State} (h : Keeps z s) (old : List Nat) : Keeps z (postSluChanges s old) := by
  unfold postSluChanges
  with_reducible
    repeat' first
      | assumption | apply setOut_keeps | apply postEvent_keeps | (intro _ _ _; try dsimp only)
      | refine Keeps.foldl ?_ ?_ | refine Keeps.ite ?_ ?_

theorem countChange_keeps {z s : State} (h : Keeps z s) : Keeps z (countChange s) :=
  Keeps.upd h rfl rfl rfl rfl rfl rfl

theorem closeBoth_keeps {z s : State} (h : Keeps z s) (n : Nat) : Keeps z (closeBoth s n) := by
  unfold closeBoth
  with_reducible repeat' first | assumption | apply setLane_keeps

theorem evalSluice_keeps {z s : State} (h : Keeps z s) (n : Nat) : Keeps z (evalSluice s n) := by
  unfold evalSluice
  with_reducible
    repeat' first
      | assumption | apply setOut_keeps | apply setLane_keeps | apply stageLane_keeps | apply countChange_keeps
      | apply closeBoth_keeps
      | extract_lets x | refine Keeps.ite ?_ ?_ | split | refine Keeps.upd ?_ rfl rfl rfl rfl rfl rfl

theorem applyArming_keeps {z s : State} (h : Keeps z s) : Keeps z (applyArming s) :=
  Keeps.upd h rfl rfl rfl rfl rfl rfl

theorem finishSets_keeps {z s : State} (h : Keeps z s) : Keeps z (finishSets s) := by
  unfold finishSets
  with_reducible
    repeat' first
      | assumption | apply finishNow_keeps | (intro _ _ _; try dsimp only) | refine Keeps.foldl ?_ ?_
      | refine Keeps.ite ?_ ?_ | split | refine Keeps.upd ?_ rfl rfl rfl rfl rfl rfl

theorem tripRetry_keeps {z s : State} (h : Keeps z s) : Keeps z (tripRetry s) := by
  unfold tripRetry
  with_reducible
    repeat' first
      | assumption | apply setOut_keeps | (intro _ _ _; try dsimp only) | refine Keeps.foldl ?_ ?_
      | refine Keeps.ite ?_ ?_

theorem latchStep_keeps {z s : State} (h : Keeps z s) : Keeps z (latchStep s) := by
  unfold latchStep
  with_reducible
    repeat' first
      | assumption | apply setOut_keeps | apply stageLane_keeps | apply countChange_keeps | apply closeBoth_keeps
      | (intro _ _ _; try dsimp only) | refine Keeps.foldl ?_ ?_ | refine Keeps.ite ?_ ?_

theorem tampReport_keeps {z s : State} (h : Keeps z s) : Keeps z (tampReport s) := by
  unfold tampReport
  with_reducible
    repeat' first
      | assumption | apply postEvent_keeps | apply stage_keeps | (intro _ _ _; try dsimp only)
      | refine Keeps.foldl ?_ ?_ | refine Keeps.ite ?_ ?_ | split | refine Keeps.upd ?_ rfl rfl rfl rfl rfl rfl

theorem setTake_keeps {z s : State} (h : Keeps z s) (l : LaneId) (n : Nat) (v : Bool) : Keeps z (setTake s l n v) := by
  unfold setTake
  with_reducible repeat' first | assumption | apply setOut_keeps | split

theorem laneLeaves_keeps {z s : State} (h : Keeps z s) (v : LaneId) (n : Nat) : Keeps z (laneLeaves v s n) := by
  unfold laneLeaves
  with_reducible
    repeat' first
      | assumption | apply setLane_keeps | apply countStop_keeps | apply stageLane_keeps | apply countChange_keeps
      | apply closeBoth_keeps | apply setTake_keeps | refine Keeps.ite ?_ ?_

theorem laneDown_keeps {z s : State} (h : Keeps z s) (l : LaneId) (st : LaneState) : Keeps z (laneDown s l st) := by
  unfold laneDown
  with_reducible
    repeat' first
      | assumption | apply setLane_keeps | apply stageLane_keeps | apply postSluChanges_keeps | apply setTake_keeps
      | apply laneLeaves_keeps | (intro _ _ _; try dsimp only) | refine Keeps.foldl ?_ ?_ | refine Keeps.ite ?_ ?_

theorem laneDies_keeps {z s : State} (h : Keeps z s) (l : LaneId) (c : LaneCause) : Keeps z (laneDies s l c) := by
  unfold laneDies
  with_reducible
    repeat' first
      | assumption | apply setOut_keeps | apply laneDown_keeps | refine Keeps.ite ?_ ?_ | split

theorem laneReturns_keeps {z s : State} (h : Keeps z s) (l : LaneId) : Keeps z (laneReturns s l) := by
  unfold laneReturns
  with_reducible repeat' first | assumption | apply setLane_keeps | refine Keeps.ite ?_ ?_

theorem laneActive_keeps {z s : State} (h : Keeps z s) (l : LaneId) : Keeps z (laneActive s l) := by
  unfold laneActive
  with_reducible
    repeat' first
      | assumption | apply setLane_keeps | apply stageLane_keeps | apply setTake_keeps
      | (intro _ _ _; try dsimp only) | refine Keeps.foldl ?_ ?_

theorem laneRejoins_keeps {z s : State} (h : Keeps z s) (l : LaneId) : Keeps z (laneRejoins s l) := by
  unfold laneRejoins
  with_reducible
    repeat' first
      | assumption | apply setLane_keeps | apply stageLane_keeps | apply laneActive_keeps | refine Keeps.ite ?_ ?_

theorem laneTimeout_keeps {z s : State} (h : Keeps z s) (l : LaneId) : Keeps z (laneTimeout s l) := by
  unfold laneTimeout
  with_reducible repeat' first | assumption | apply setLane_keeps | refine Keeps.ite ?_ ?_

theorem laneStep_keeps {z s : State} (h : Keeps z s) : Keeps z (laneStep s) := by
  unfold laneStep
  with_reducible
    repeat' first
      | assumption | apply tampTake_keeps | apply postSluChanges_keeps | apply evalSluice_keeps
      | apply applyArming_keeps | apply tripRetry_keeps | apply latchStep_keeps | apply tampReport_keeps
      | apply laneRejoins_keeps | apply laneTimeout_keeps | (intro _ _ _; try dsimp only)
      | extract_lets x | refine Keeps.foldl ?_ ?_ | refine Keeps.upd ?_ rfl rfl rfl rfl rfl rfl

theorem stageTrip_keeps {z s : State} (h : Keeps z s) (n : Nat) (thermal : Bool) : Keeps z (stageTrip s n thermal) := by
  unfold stageTrip
  with_reducible repeat' first | assumption | apply setOut_keeps | apply countStop_keeps | refine Keeps.ite ?_ ?_

theorem outputFaulted_keeps {z s : State} (h : Keeps z s) (n : Nat) : Keeps z (outputFaulted s n) := by
  unfold outputFaulted
  with_reducible
    repeat' first
      | assumption | apply setOut_keeps | apply stageLane_keeps | apply postSluChanges_keeps
      | refine Keeps.ite ?_ ?_

end Sys2Proof.Machine
end

