-- ==== Sys2Proof/Laws/KeepsLedger.lean ====
section
/-! SUPPORT. What each operation keeps: the ledger, the journal, the radio and the life-cycle. -/

namespace Sys2Proof.Machine

open Sys2Proof

theorem moveBkt_keeps {z s : State} (h : Keeps z s) (f : Buckets → Buckets)
    (hf : BucketsOk s.ldg.cA → BucketsOk (f s.ldg.cA)) : Keeps z (moveBkt s f) :=
  ⟨h.pending, h.beat, h.fuses, fun w => by
    obtain ⟨a, b, c, d⟩ := h.ledger w
    exact ⟨hf a, congrArg f b, c, d⟩⟩

theorem bktDebit_ok (n : Nat) {b : Buckets} (h : BucketsOk b) : BucketsOk (bktDebit n b) := by
  simp only [BucketsOk, bktDebit] at *
  omega

theorem bill_keeps {z s : State} (h : Keeps z s) (inc : Nat) : Keeps z (bill s inc) :=
  ⟨h.pending, h.beat, h.fuses, fun w => by
    obtain ⟨a, b, c, d⟩ := h.ledger w
    exact ⟨bktDebit_ok _ a, congrArg (bktDebit _) b, Nat.mod_lt _ (by decide), d⟩⟩

theorem closeAndBill_keeps {z s : State} (h : Keeps z s) (c : MeterCfg) (l : List (Int × Int)) (us : Nat) (faulted : Bool) :
    Keeps z (closeAndBill s c l us faulted) := by
  unfold closeAndBill
  with_reducible
    repeat' first
      | assumption | apply bill_keeps | refine Keeps.ite ?_ ?_ | split | refine Keeps.upd ?_ rfl rfl rfl rfl rfl rfl

theorem intervalClose_keeps {z s : State} (h : Keeps z s) (c : MeterCfg) (l : List (Int × Int)) :
    Keeps z (intervalClose s c l) := by
  unfold intervalClose
  with_reducible repeat' first | assumption | apply closeAndBill_keeps | refine Keeps.upd ?_ rfl rfl rfl rfl rfl rfl

theorem inputFault_keeps {z s : State} (h : Keeps z s) (vInput : Bool) (faulted : Bool) :
    Keeps z (inputFault s vInput faulted) :=
  Keeps.upd h rfl rfl rfl rfl rfl rfl

theorem writeCounter_keeps {z s : State} (h : Keeps z s) (kind : Nat) : Keeps z (writeCounter s kind) :=
  ⟨h.pending, h.beat, h.fuses, fun w => by
    obtain ⟨a, b, c, d⟩ := h.ledger w
    refine ⟨a, b, c, fun r e => ?_⟩
    cases e
    exact ⟨a, c⟩⟩

theorem loadCounters_keeps {z s : State} (h : Keeps z s) (r : CounterRec) (hr : s.fl.counter = some r) :
    Keeps z (loadCounters s r) :=
  ⟨h.pending, h.beat, h.fuses, fun w => by
    obtain ⟨a, b, c, d⟩ := h.ledger w
    exact ⟨(d r hr).1, rfl, (d r hr).2, d⟩⟩

theorem periodicCounter_keeps {z s : State} (h : Keeps z s) : Keeps z (periodicCounter s) := by
  unfold periodicCounter
  with_reducible
    repeat' first
      | assumption | apply writeCounter_keeps | refine Keeps.ite ?_ ?_ | split
      | refine Keeps.upd ?_ rfl rfl rfl rfl rfl rfl

theorem stageCredit_keeps {z s : State} (h : Keeps z s) (event : Nat) (rseq : Nat) : Keeps z (stageCredit s event rseq) := by
  unfold stageCredit
  with_reducible repeat' first | assumption | apply stage_keeps

theorem creditEvent_keeps {z s : State} (h : Keeps z s) (d : Nat) : Keeps z (creditEvent s d) := by
  unfold creditEvent
  with_reducible repeat' first | assumption | apply postEvent_keeps | apply stageCredit_keeps

theorem thresholds_keeps {z s0 : State} (h : Keeps z s0) : Keeps z (thresholds s0) := by
  unfold thresholds
  with_reducible
    repeat' first
      | assumption | apply stageCredit_keeps | apply creditEvent_keeps
      | extract_lets x | refine Keeps.ite ?_ ?_ | split | refine Keeps.upd ?_ rfl rfl rfl rfl rfl rfl

theorem armThresholds_keeps {z s : State} (h : Keeps z s) : Keeps z (armThresholds s) :=
  Keeps.upd h rfl rfl rfl rfl rfl rfl

theorem reloadCopies_keeps {z s : State} (h : Keeps z s) : Keeps z (reloadCopies s) := by
  unfold reloadCopies
  split
  · rename_i e
    exact loadCounters_keeps h _ e
  · exact ⟨h.pending, h.beat, h.fuses, fun w => ⟨by simp [BucketsOk, Buckets.zero], rfl, (h.ledger w).2.2⟩⟩

theorem copyCheck_keeps {z s : State} (h : Keeps z s) : Keeps z (copyCheck s) := by
  unfold copyCheck
  refine Keeps.ite h (Keeps.ite ?_ (Keeps.ite ?_ ?_))
  · exact ⟨h.pending, h.beat, h.fuses, fun w => ⟨(h.ledger w).1, rfl, (h.ledger w).2.2⟩⟩
  · refine ⟨h.pending, h.beat, h.fuses, fun w => ?_⟩
    obtain ⟨a, b, c⟩ := h.ledger w
    exact ⟨(b ▸ a : BucketsOk s.ldg.cB), rfl, c⟩
  · have h1 := reloadCopies_keeps h
    extract_lets s1
    refine stageCredit_keeps ?_ _ _
    exact Keeps.upd (x := s1) h1 rfl rfl rfl rfl rfl rfl

theorem judgeVoucher_keeps {z s : State} (h : Keeps z s) (w : Nat × BitVec 1024) (b : List Byte) :
    Keeps z (judgeVoucher s w b).1 := by
  unfold judgeVoucher
  with_reducible
    repeat' first
      | assumption | apply countUse_keeps | refine Keeps.ite ?_ ?_ | refine Keeps.iteG Prod.fst ?_ ?_

theorem judgeAll_keeps {z : State} (l : List (List Byte)) {s : State} (h : Keeps z s) (w : Nat × BitVec 1024) :
    Keeps z (judgeAll s w l).1 := by
  induction l generalizing s w with
  | nil => exact h
  | cons b t ih => exact ih (judgeVoucher_keeps h w b) _

theorem moveVoucher_keeps {z s : State} (h : Keeps z s) (v : Voucher) : Keeps z (moveVoucher s v).1 := by
  unfold moveVoucher
  dsimp only
  split
  all_goals
    split
    · first
        | exact h
        | (refine moveBkt_keeps h _ fun k => ?_
           simp only [BucketsOk, bktTopup, bktReserve, bktUnreserve, bktSettle, bktForfeit] at *
           omega)
    · first
        | exact h
        | exact stageMeterCfg_keeps (applyMeterCopy_keeps h) _ _

theorem stageVoucher_keeps {z s : State} (h : Keeps z s) (v : Voucher) (st : Status) : Keeps z (stageVoucher s v st) := by
  unfold stageVoucher
  with_reducible repeat' first | assumption | apply stage_keeps

theorem applyVoucher_keeps {z s : State} (h : Keeps z s) (v : Voucher) : Keeps z (applyVoucher s v).1 := by
  unfold applyVoucher
  with_reducible
    repeat' first
      | assumption | apply moveVoucher_keeps | apply stageVoucher_keeps | refine Keeps.ite ?_ ?_
      | refine Keeps.iteG Prod.fst ?_ ?_ | split | refine Keeps.upd ?_ rfl rfl rfl rfl rfl rfl

theorem applyVouchers_keeps {z : State} (l : List Voucher) {s : State} (h : Keeps z s) (i : Nat) :
    Keeps z (applyVouchers s i l).1 := by
  induction l generalizing s i with
  | nil => exact h
  | cons v t ih => exact ih (applyVoucher_keeps h v) _

theorem applyTopup_keeps {z s : State} (h : Keeps z s) (uid : Nat) (vs : List Voucher) : Keeps z (applyTopup s uid vs) := by
  unfold applyTopup
  with_reducible
    repeat' first
      | assumption | apply putCmd_keeps | apply writeCounter_keeps | apply applyVouchers_keeps
      | refine Keeps.ite ?_ ?_ | split | refine Keeps.upd ?_ rfl rfl rfl rfl rfl rfl

theorem fillBalance_keeps {z s : State} (h : Keeps z s) (uid : Nat) : Keeps z (fillBalance s uid) := by
  unfold fillBalance
  with_reducible repeat' first | assumption | apply putCmd_keeps | split

theorem voucherStep_keeps {z s : State} (h : Keeps z s) : Keeps z (voucherStep s) := by
  unfold voucherStep
  with_reducible
    repeat' first
      | assumption | apply applyTopup_keeps | apply fillBalance_keeps | (intro _ _ _; try dsimp only)
      | refine Keeps.foldl ?_ ?_ | refine Keeps.upd ?_ rfl rfl rfl rfl rfl rfl

theorem finishTopup_keeps {z s : State} (h : Keeps z s) (uid : Nat) (beat : BitVec 64) (good : Bool) :
    Keeps z (finishTopup s uid beat good) := by
  unfold finishTopup
  with_reducible repeat' first | assumption | apply finishCmd_keeps | refine Keeps.ite ?_ ?_ | split

theorem refuseTopup_keeps {z s : State} (h : Keeps z s) (uid : Nat) (vs : List Voucher) :
    Keeps z (refuseTopup s uid vs) := by
  unfold refuseTopup
  with_reducible
    repeat' first
      | assumption | apply putCmd_keeps | apply applyVouchers_keeps | apply fillBalance_keeps
      | apply finishTopup_keeps | split | refine Keeps.upd ?_ rfl rfl rfl rfl rfl rfl

theorem settleDue_keeps {z s : State} (h : Keeps z s) : Keeps z (settleDue s) := by
  unfold settleDue
  with_reducible
    repeat' first
      | assumption | apply refuseTopup_keeps | (intro _ _ _; try dsimp only) | refine Keeps.foldl ?_ ?_
      | refine Keeps.upd ?_ rfl rfl rfl rfl rfl rfl

theorem decimated_keeps {z s : State} (h : Keeps z s) (c : MeterCfg) (bits : List (Bool × Bool)) :
    Keeps z (decimated s c bits) := by
  unfold decimated
  with_reducible repeat' first | assumption | refine Keeps.upd ?_ rfl rfl rfl rfl rfl rfl

theorem ledgerStep_keeps {z s : State} (h : Keeps z s) (c : MeterCfg) (bits : List (Bool × Bool)) :
    Keeps z (ledgerStep s c bits) := by
  unfold ledgerStep
  with_reducible
    repeat' first
      | assumption | apply intervalClose_keeps | apply thresholds_keeps | apply copyCheck_keeps
      | apply voucherStep_keeps | apply decimated_keeps | refine Keeps.ite ?_ ?_ | split
      | refine Keeps.upd ?_ rfl rfl rfl rfl rfl rfl

theorem closePart_keeps {z s : State} (h : Keeps z s) (bits : List (Bool × Bool)) : Keeps z (closePart s bits) := by
  unfold closePart
  with_reducible
    repeat' first
      | assumption | apply closeAndBill_keeps | apply decimated_keeps | refine Keeps.upd ?_ rfl rfl rfl rfl rfl rfl

theorem lastGasp_keeps {z s : State} (h : Keeps z s) (bits : List (Bool × Bool)) : Keeps z (lastGasp s bits) := by
  unfold lastGasp
  with_reducible
    repeat' first
      | assumption | apply writeCounter_keeps | apply closePart_keeps | refine Keeps.ite ?_ ?_

theorem meterSummary_keeps {z s : State} (h : Keeps z s) : Keeps z (meterSummary s) := by
  unfold meterSummary
  with_reducible
    repeat' first
      | assumption | apply stage_keeps | refine Keeps.ite ?_ ?_ | split
      | refine Keeps.upd ?_ rfl rfl rfl rfl rfl rfl

theorem closeLedger_keeps {z s : State} (h : Keeps z s) (disp frm dest : Nat) : Keeps z (closeLedger s disp frm dest) := by
  unfold closeLedger
  refine stage_keeps (moveBkt_keeps h _ fun k => ?_) _ _ _
  simp only [BucketsOk, closeBuckets] at *
  split <;> dsimp only <;> omega

theorem sealInto_keeps {z s : State} (h : Keeps z s) (r : JRec) : Keeps z (sealInto s r).1 := by
  unfold sealInto
  with_reducible repeat' first | assumption | apply countUse_keeps | refine Keeps.upd ?_ rfl rfl rfl rfl rfl rfl

theorem sealList_keeps {z : State} (l : List JRec) {s : State} (h : Keeps z s) : Keeps z (sealList s l).1 := by
  induction l generalizing s with
  | nil => exact h
  | cons r t ih =>
    unfold sealList
    split
    · exact ih (sealInto_keeps h r)
    · exact ih h

theorem programChains_keeps {z : State} (l : List JRec) {s : State} (h : Keeps z s) (k : Nat) : Keeps z (programChains l s k) := by
  induction l generalizing s k with
  | nil => exact h
  | cons r t ih => exact ih (Keeps.ite (flashRenew_keeps h _ _ _) h) _

theorem chainCatchup_keeps {z s : State} (h : Keeps z s) : Keeps z (chainCatchup s) := by
  unfold chainCatchup
  dsimp only
  split
  · refine programChains_keeps _ ?_ _
    exact Keeps.upd (sealList_keeps _ h) rfl rfl rfl rfl rfl rfl
  · exact h

theorem journalSealOne_keeps {z s : State} (h : Keeps z s) : Keeps z (journalSealOne s) := by
  unfold journalSealOne
  split
  · exact h
  · split
    · exact h
    · have h1 := chainCatchup_keeps h
      dsimp only
      split
      · exact Keeps.upd (sealInto_keeps (Keeps.upd h1 rfl rfl rfl rfl rfl rfl) _) rfl rfl rfl rfl rfl rfl
      · exact Keeps.upd h1 rfl rfl rfl rfl rfl rfl

theorem sealAllGo_keeps {z : State} (k : Nat) {s : State} (h : Keeps z s) : Keeps z (sealAllGo k s) := by
  induction k generalizing s with
  | zero => exact h
  | succ k ih => exact ih (journalSealOne_keeps h)

theorem sealAll_keeps {z s : State} (h : Keeps z s) : Keeps z (sealAll s) := by
  unfold sealAll
  with_reducible repeat' first | assumption | apply chainCatchup_keeps | apply sealAllGo_keeps

theorem stageCkpt_keeps {z s : State} (h : Keeps z s) (type : Nat) (number : Nat) (tag : BitVec 128) :
    Keeps z (stageCkpt s type number tag) := by
  unfold stageCkpt
  with_reducible repeat' first | assumption | apply stage_keeps

theorem compactCkpts_keeps {z s : State} (h : Keeps z s) : Keeps z (compactCkpts s) := by
  unfold compactCkpts
  with_reducible
    repeat' first
      | assumption | apply flashRenew_keeps | refine Keeps.ite ?_ ?_ | split
      | refine Keeps.upd ?_ rfl rfl rfl rfl rfl rfl

theorem storeCkpt_keeps {z s0 : State} (h : Keeps z s0) (type : Nat) (disp : Nat) (ctr : Option (List Byte)) :
    Keeps z (storeCkpt s0 type disp ctr).1 := by
  unfold storeCkpt
  with_reducible
    repeat' first
      | assumption | apply flashRenew_keeps | apply countUse_keeps | apply sealAll_keeps | apply compactCkpts_keeps
      | refine Keeps.upd ?_ rfl rfl rfl rfl rfl rfl

theorem storeAndRecord_keeps {z s : State} (h : Keeps z s) (type : Nat) (disp : Nat) (ctr : Option (List Byte)) :
    Keeps z (storeAndRecord s type disp ctr) := by
  unfold storeAndRecord
  with_reducible repeat' first | assumption | apply writeCounter_keeps | apply stageCkpt_keeps | apply storeCkpt_keeps

theorem dailyCkpt_keeps {z s : State} (h : Keeps z s) : Keeps z (dailyCkpt s) := by
  unfold dailyCkpt
  with_reducible
    repeat' first
      | assumption | apply storeAndRecord_keeps | refine Keeps.ite ?_ ?_ | split
      | refine Keeps.upd ?_ rfl rfl rfl rfl rfl rfl

theorem compactStep_keeps {z s : State} (h : Keeps z s) : Keeps z (compactStep s) := by
  unfold compactStep
  with_reducible
    repeat' first
      | assumption | apply postProgress_keeps | apply flashRenew_keeps | refine Keeps.ite ?_ ?_ | split
      | refine Keeps.upd ?_ rfl rfl rfl rfl rfl rfl

theorem journalCompact_keeps {z s : State} (h : Keeps z s) : Keeps z (journalCompact s) := by
  unfold journalCompact
  with_reducible
    repeat' first
      | assumption | apply storeAndRecord_keeps | apply compactStep_keeps | refine Keeps.ite ?_ ?_

theorem stageRoll_keeps {z s : State} (h : Keeps z s) (reason : Nat) (old : BitVec 16) (new : BitVec 16) :
    Keeps z (stageRoll s reason old new) := by
  unfold stageRoll
  with_reducible repeat' first | assumption | apply stage_keeps

theorem postRoll_keeps {z s : State} (h : Keeps z s) (reason : Nat) (new : BitVec 16) : Keeps z (postRoll s reason new) := by
  unfold postRoll
  with_reducible repeat' first | assumption | apply postEvent_keeps

theorem rollNow_keeps {z s : State} (h : Keeps z s) (reason : Nat) : Keeps z (rollNow s reason) := by
  unfold rollNow
  with_reducible
    repeat' first
      | assumption | apply installKj_keeps | apply installKc_keeps | apply writeCounter_keeps
      | apply stageCkpt_keeps | apply storeCkpt_keeps | apply stageRoll_keeps | apply postRoll_keeps
      | refine Keeps.ite ?_ ?_ | split | refine Keeps.upd ?_ rfl rfl rfl rfl rfl rfl

theorem journalRollNow_keeps {z s : State} (h : Keeps z s) : Keeps z (journalRollNow s) := by
  unfold journalRollNow
  with_reducible repeat' first | assumption | apply rollNow_keeps | refine Keeps.ite ?_ ?_ | split

theorem statement_keeps {z s0 : State} (h : Keeps z s0) (nonce : Nat) : Keeps z (statement s0 nonce).1 := by
  unfold statement
  with_reducible repeat' first | assumption | apply countUse_keeps | apply sealAll_keeps | apply stageCkpt_keeps

theorem countRead_keeps {z s : State} (h : Keeps z s) (start : Nat) (count : Nat) : Keeps z (countRead s start count) := by
  unfold countRead
  with_reducible
    repeat' first
      | assumption | apply countEcc_keeps | (intro _ _ _; try dsimp only) | refine Keeps.foldl ?_ ?_
      | refine Keeps.ite ?_ ?_

theorem countUses_keeps {z : State} (k : Nat) {s : State} (h : Keeps z s) (i : Nat) : Keeps z (countUses k s i) := by
  induction k generalizing s with
  | zero => exact h
  | succ k ih => exact ih (countUse_keeps h i)

theorem verifyChain_keeps {z s : State} (h : Keeps z s) (start count : Nat) : Keeps z (verifyChain s start count).1 := by
  unfold verifyChain
  exact countUses_keeps _ h 3

theorem bumpRad_keeps {z s : State} (h : Keeps z s) (i : Nat) : Keeps z (bumpRad s i) :=
  Keeps.upd h rfl rfl rfl rfl rfl rfl

theorem radFault_keeps {z s : State} (h : Keeps z s) : Keeps z (radFault s) := by
  unfold radFault
  with_reducible
    repeat' first
      | assumption | apply retireLater_keeps | refine Keeps.ite ?_ ?_ | split
      | refine Keeps.upd ?_ rfl rfl rfl rfl rfl rfl

theorem chargeDuty_keeps {z s : State} (h : Keeps z s) (e : Nat) (us : Nat) : Keeps z (chargeDuty s e us) :=
  Keeps.upd h rfl rfl rfl rfl rfl rfl

theorem rollBins_keeps {z s : State} (h : Keeps z s) : Keeps z (rollBins s) :=
  Keeps.upd h rfl rfl rfl rfl rfl rfl

theorem hearKey_keeps {z s : State} (h : Keeps z s) (rg : Nat) (gen : BitVec 16) : Keeps z (hearKey s rg gen) := by
  unfold hearKey
  with_reducible repeat' first | assumption | refine Keeps.upd ?_ rfl rfl rfl rfl rfl rfl

theorem raiseReq_keeps {z s : State} (h : Keeps z s) (a : RadAct) : Keeps z (raiseReq s a) := by
  unfold raiseReq
  with_reducible
    repeat' first
      | assumption | refine Keeps.ite ?_ ?_ | split | refine Keeps.upd ?_ rfl rfl rfl rfl rfl rfl

theorem dropReq_keeps {z s : State} (h : Keeps z s) : Keeps z (dropReq s) :=
  Keeps.upd h rfl rfl rfl rfl rfl rfl

theorem countAir_keeps {z s : State} (h : Keeps z s) (a : RadAct) (cut : Bool) : Keeps z (countAir s a cut) := by
  unfold countAir
  with_reducible
    repeat' first
      | assumption | apply drawFree_keeps | apply chargeDuty_keeps | refine Keeps.ite ?_ ?_ | split

theorem endAct_keeps {z s : State} (h : Keeps z s) (cut : Bool) : Keeps z (endAct s cut) := by
  unfold endAct
  with_reducible
    repeat' first
      | assumption | apply dropReq_keeps | apply countAir_keeps | split
      | refine Keeps.upd ?_ rfl rfl rfl rfl rfl rfl

theorem dropAct_keeps {z s : State} (h : Keeps z s) : Keeps z (dropAct s) := by
  unfold dropAct
  with_reducible repeat' first | assumption | apply endAct_keeps

theorem cutAct_keeps {z s : State} (h : Keeps z s) : Keeps z (cutAct s) := by
  unfold cutAct
  with_reducible repeat' first | assumption | apply endAct_keeps

theorem dropJobs_keeps {z s : State} (h : Keeps z s) (uid : Nat) : Keeps z (dropJobs s uid) := by
  unfold dropJobs
  with_reducible
    repeat' first
      | assumption | apply modChan_keeps | apply dropWait_keeps | apply arm_keeps | (intro _ _ _; try dsimp only)
      | refine Keeps.foldl ?_ ?_ | refine Keeps.ite ?_ ?_ | split

theorem dropWaiting_keeps {z s : State} (h : Keeps z s) (uid : Nat) : Keeps z (dropWaiting s uid) :=
  Keeps.upd h rfl rfl rfl rfl rfl rfl

theorem locFinish_keeps {z s : State} (h : Keeps z s) (abort : Option Status) : Keeps z (locFinish s abort) := by
  unfold locFinish
  with_reducible
    repeat' first
      | assumption | apply finishCmd_keeps | apply cutAct_keeps | apply dropWaiting_keeps | apply rangeRun_keeps
      | refine Keeps.ite ?_ ?_ | split | refine Keeps.upd ?_ rfl rfl rfl rfl rfl rfl

theorem setWin_keeps {z s : State} (h : Keeps z s) (w : Option Win) : Keeps z (setWin s w) :=
  Keeps.upd h rfl rfl rfl rfl rfl rfl

theorem winFinish_keeps {z s : State} (h : Keeps z s) (w : Win) (st : Status) : Keeps z (winFinish s w st) := by
  unfold winFinish
  with_reducible
    repeat' first
      | assumption | apply finishNow_keeps | apply dropReq_keeps | apply cutAct_keeps | apply dropWaiting_keeps
      | apply setWin_keeps | refine Keeps.ite ?_ ?_ | split | refine Keeps.upd ?_ rfl rfl rfl rfl rfl rfl

theorem winFull_keeps {z s : State} (h : Keeps z s) : Keeps z (winFull s) := by
  unfold winFull
  with_reducible
    repeat' first
      | assumption | apply setWin_keeps | apply winFinish_keeps | refine Keeps.ite ?_ ?_ | split

theorem pushAct_keeps {z s : State} (h : Keeps z s) (a : RadAct) : Keeps z (pushAct s a) := by
  unfold pushAct
  with_reducible
    repeat' first
      | assumption | (with_reducible apply drbgDraw_keeps (h := h); apply Option.ite_none_left_eq_some.1 ‹_› |>.2)
      | apply drbgDraw_keeps | apply drbgRefuse_keeps | apply addWait_keeps | refine Keeps.ite ?_ ?_ | split
      | refine Keeps.upd ?_ rfl rfl rfl rfl rfl rfl

theorem radDeliver_keeps {z s : State} (h : Keeps z s) (uid : Nat) (seed : Nat) : Keeps z (radDeliver s uid seed) := by
  unfold radDeliver
  with_reducible repeat' first | assumption | split | refine Keeps.upd ?_ rfl rfl rfl rfl rfl rfl

theorem keyRefused_keeps {z s : State} (h : Keeps z s) (rg : Nat) (polder : Nat) (st : Status) :
    Keeps z (keyRefused s rg polder st) := by
  unfold keyRefused
  with_reducible repeat' first | assumption | apply markExhausted_keeps | refine Keeps.ite ?_ ?_

theorem setLocated_keeps {z s : State} (h : Keeps z s) (rg : Nat) (f : Located → Located) : Keeps z (setLocated s rg f) := by
  unfold setLocated
  with_reducible
    repeat' first
      | assumption | refine Keeps.ite ?_ ?_ | split | refine Keeps.upd ?_ rfl rfl rfl rfl rfl rfl

theorem locNextGo_keeps {z : State} (k : Nat) {s : State} (h : Keeps z s) : Keeps z (locNextGo k s) := by
  induction k generalizing s with
  | zero => exact locFinish_keeps h none
  | succ k ih =>
    unfold locNextGo
    with_reducible
      repeat' first
        | assumption | with_reducible apply ih | apply bumpRad_keeps | apply locFinish_keeps | apply pushAct_keeps
        | apply keyRefused_keeps | apply setLocated_keeps | apply rangeRun_keeps | refine Keeps.ite ?_ ?_ | split
        | refine Keeps.upd ?_ rfl rfl rfl rfl rfl rfl

theorem locNext_keeps {z s : State} (h : Keeps z s) : Keeps z (locNext s) := by
  unfold locNext
  with_reducible repeat' first | assumption | apply locNextGo_keeps

theorem rangeFinish_keeps {z s : State} (h : Keeps z s) (uid : Nat) (l : Located) : Keeps z (rangeFinish s uid l) := by
  unfold rangeFinish
  with_reducible repeat' first | assumption | apply finishNow_keeps | split

theorem winRanged_keeps {z s : State} (h : Keeps z s) (uid : Nat) (idx : Nat) (l : Located) :
    Keeps z (winRanged s uid idx l) := by
  unfold winRanged
  with_reducible repeat' first | assumption | apply putCmd_keeps | apply winFull_keeps | split

theorem rangeOutcome_keeps {z s : State} (h : Keeps z s) (a : RadAct) (l : Located) : Keeps z (rangeOutcome s a l) := by
  unfold rangeOutcome
  with_reducible
    repeat' first
      | assumption | apply setLocated_keeps | apply locNext_keeps | apply rangeFinish_keeps | apply winRanged_keeps
      | apply rangeRun_keeps | refine Keeps.ite ?_ ?_

theorem failAct_keeps {z s0 : State} (h : Keeps z s0) (a : RadAct) (st : Status) : Keeps z (failAct s0 a st) := by
  unfold failAct
  with_reducible
    repeat' first
      | assumption | apply failCmd_keeps | apply bumpRad_keeps | apply radFault_keeps | apply locFinish_keeps
      | apply winRanged_keeps | refine Keeps.ite ?_ ?_ | split

theorem setCur_keeps {z s : State} (h : Keeps z s) (a : RadAct) : Keeps z (setCur s a) :=
  Keeps.upd h rfl rfl rfl rfl rfl rfl

theorem runAct_keeps {z s : State} (h : Keeps z s) (a0 : RadAct) : Keeps z (runAct s a0) := by
  unfold runAct
  with_reducible
    repeat' first
      | assumption | apply countUse_keeps | apply countSess_keeps | apply dropAct_keeps | apply setWin_keeps
      | apply setCur_keeps | refine Keeps.ite ?_ ?_ | split | refine Keeps.upd ?_ rfl rfl rfl rfl rfl rfl

theorem advanceAct_keeps {z s : State} (h : Keeps z s) (a : RadAct) (clear : Bool) : Keeps z (advanceAct s a clear) := by
  unfold advanceAct
  with_reducible repeat' first | assumption | apply setCur_keeps | apply runAct_keeps | refine Keeps.ite ?_ ?_

theorem beginAct_keeps {z s : State} (h : Keeps z s) (a : RadAct) (clear : Bool) : Keeps z (beginAct s a clear) := by
  unfold beginAct
  with_reducible
    repeat' first
      | assumption | apply raiseReq_keeps | apply failAct_keeps | apply advanceAct_keeps | refine Keeps.ite ?_ ?_
      | split | refine Keeps.upd ?_ rfl rfl rfl rfl rfl rfl

theorem activityStart_keeps {z s0 : State} (h : Keeps z s0) (lock : Bool) (clear : Bool) :
    Keeps z (activityStart s0 lock clear) := by
  unfold activityStart
  with_reducible
    repeat' first
      | assumption | apply advanceAct_keeps | apply beginAct_keeps | refine Keeps.ite ?_ ?_ | split
      | refine Keeps.upd ?_ rfl rfl rfl rfl rfl rfl

theorem lockTimeout_keeps {z s : State} (h : Keeps z s) : Keeps z (lockTimeout s) := by
  unfold lockTimeout
  with_reducible
    repeat' first
      | assumption | apply dropAct_keeps | apply failAct_keeps | refine Keeps.ite ?_ ?_ | split

theorem lockLost_keeps {z s : State} (h : Keeps z s) (tone : Option Nat) : Keeps z (lockLost s tone) := by
  unfold lockLost
  with_reducible
    repeat' first
      | assumption | apply cutAct_keeps | apply failAct_keeps | apply setCur_keeps | refine Keeps.ite ?_ ?_ | split
      | refine Keeps.upd ?_ rfl rfl rfl rfl rfl rfl

theorem grantTimeout_keeps {z s : State} (h : Keeps z s) : Keeps z (grantTimeout s) := by
  unfold grantTimeout
  with_reducible
    repeat' first
      | assumption | apply dropAct_keeps | apply failAct_keeps | refine Keeps.ite ?_ ?_ | split

theorem grantRise_keeps {z s0 : State} (h : Keeps z s0) : Keeps z (grantRise s0) := by
  unfold grantRise
  with_reducible
    repeat' first
      | assumption | apply advanceAct_keeps | refine Keeps.ite ?_ ?_ | split
      | refine Keeps.upd ?_ rfl rfl rfl rfl rfl rfl

theorem grantFall_keeps {z s0 : State} (h : Keeps z s0) : Keeps z (grantFall s0) := by
  unfold grantFall
  with_reducible
    repeat' first
      | assumption | apply cutAct_keeps | apply failAct_keeps | refine Keeps.ite ?_ ?_ | split
      | refine Keeps.upd ?_ rfl rfl rfl rfl rfl rfl

theorem lbtRetryNow_keeps {z s : State} (h : Keeps z s) (clear : Bool) : Keeps z (lbtRetryNow s clear) := by
  unfold lbtRetryNow
  with_reducible
    repeat' first
      | assumption | apply dropAct_keeps | apply failAct_keeps | apply setCur_keeps | apply advanceAct_keeps
      | refine Keeps.ite ?_ ?_ | split

theorem radioCal_keeps {z s : State} (h : Keeps z s) (e : Nat) (r : RadioCal) :
    Keeps z (radioCal s e r) := by
  unfold radioCal
  with_reducible
    repeat' first
      | assumption | apply radFault_keeps | refine Keeps.ite ?_ ?_ | split
      | refine Keeps.upd ?_ rfl rfl rfl rfl rfl rfl

theorem txEnd_keeps {z s : State} (h : Keeps z s) (us : Nat) : Keeps z (txEnd s us) := by
  unfold txEnd
  with_reducible
    repeat' first
      | assumption | apply finishNow_keeps | apply dropAct_keeps | refine Keeps.ite ?_ ?_ | split

theorem tTake_keeps {z s : State} (h : Keeps z s) (t : Telegram) : Keeps z (tTake s t).2 := by
  unfold tTake
  with_reducible
    repeat' first
      | assumption | apply bumpRad_keeps | refine Keeps.ite ?_ ?_ | refine Keeps.iteG Prod.snd ?_ ?_ | split
      | refine Keeps.upd ?_ rfl rfl rfl rfl rfl rfl

theorem uhfForeign_keeps {z s : State} (h : Keeps z s) (id : Nat) : Keeps z (uhfForeign s id) := by
  unfold uhfForeign
  with_reducible repeat' first | assumption | apply postEvent_keeps

theorem stageForeign_keeps {z s : State} (h : Keeps z s) (uid : Nat) (polder : Nat) :
    Keeps z (stageForeign s uid polder) := by
  unfold stageForeign
  with_reducible repeat' first | assumption | apply stageRec_keeps | refine Keeps.ite ?_ ?_

theorem uhfVerdict_keeps {z s : State} (h : Keeps z s) (uid : Nat) (polder : Nat) (id : Nat) (status : Nat) (mac : Nat) (msg : Nat → List Nat) :
    Keeps z (uhfVerdict s uid polder id status mac msg).st := by
  unfold uhfVerdict
  with_reducible
    repeat' first
      | assumption | apply addBlocks_keeps | apply countUse_keeps | apply markExhausted_keeps | apply hearKey_keeps
      | apply uhfForeign_keeps | apply stageForeign_keeps | refine Keeps.ite ?_ ?_
      | refine Keeps.iteG UhfVerdict.st ?_ ?_ | split | dsimp only | refine Keeps.upd ?_ rfl rfl rfl rfl rfl rfl

theorem uhfJudge_keeps {z s : State} (h : Keeps z s) (uid polder id status mac : Nat) (msg : Nat → List Nat) :
    Keeps z (uhfJudge s uid polder id status mac msg).st :=
  Keeps.ite (confirmRekey_keeps (uhfVerdict_keeps h _ _ _ _ _ _) _ _) (uhfVerdict_keeps h _ _ _ _ _ _)

theorem locUhfBegin_keeps {z s : State} (h : Keeps z s) (uid : Nat) (nonce : Nat) (ncoil : Nat) (polder : Nat) (retried : Bool) (migrated : Bool) :
    Keeps z (locUhfBegin s uid nonce ncoil polder retried migrated) := by
  unfold locUhfBegin
  with_reducible
    repeat' first
      | assumption | apply pushAct_keeps | refine Keeps.ite ?_ ?_ | split
      | refine Keeps.upd ?_ rfl rfl rfl rfl rfl rfl

theorem locLfEnd_keeps {z s : State} (h : Keeps z s) (lead : Nat) : Keeps z (locLfEnd s lead) := by
  unfold locLfEnd
  with_reducible
    repeat' first
      | assumption | apply popHead_keeps | apply closeTx_keeps | apply arm_keeps | apply locUhfBegin_keeps
      | (intro _ _ _; try dsimp only) | refine Keeps.foldl ?_ ?_ | split

theorem addFound_keeps {z s : State} (h : Keeps z s) (x : Located) : Keeps z (addFound s x) := by
  unfold addFound
  with_reducible
    repeat' first
      | assumption | refine Keeps.ite ?_ ?_ | split | refine Keeps.upd ?_ rfl rfl rfl rfl rfl rfl

theorem locReplyNow_keeps {z s : State} (h : Keeps z s) (t : Telegram) : Keeps z (locReplyNow s t) := by
  unfold locReplyNow
  have k := tTake_keeps h t
  split
  · exact h
  · dsimp only
    split
    · exact k
    · split
      · exact bumpRad_keeps k _
      · split
        · exact Keeps.upd k rfl rfl rfl rfl rfl rfl
        · exact addFound_keeps (uhfJudge_keeps k _ _ _ _ _ _) _

theorem pollRoundEnd_keeps {z s0 : State} (h : Keeps z s0) (collided : Nat) : Keeps z (pollRoundEnd s0 collided) := by
  unfold pollRoundEnd
  with_reducible
    repeat' first
      | assumption | apply bumpRad_keeps | apply dropAct_keeps | apply pushAct_keeps | apply locNext_keeps
      | (intro _ _ _; try dsimp only) | refine Keeps.foldl ?_ ?_ | refine Keeps.ite ?_ ?_ | split
      | refine Keeps.upd ?_ rfl rfl rfl rfl rfl rfl

theorem judgeRange_keeps {z s0 : State} (h : Keeps z s0) (l : List Tone) : Keeps z (judgeRange s0 l).st := by
  unfold judgeRange
  with_reducible repeat' first | assumption | apply drawFree_keeps | apply bumpRad_keeps | refine Keeps.ite ?_ ?_

theorem rangeValidated_keeps {z s : State} (h : Keeps z s) (rg : Nat) : Keeps z (rangeValidated s rg) :=
  Keeps.upd h rfl rfl rfl rfl rfl rfl

theorem rangeReportNow_keeps {z s : State} (h : Keeps z s) (t : Telegram) (m : RangeMeas) :
    Keeps z (rangeReportNow s t m) := by
  unfold rangeReportNow
  split
  · extract_lets x s1 e st order v f near hm good valid s2
    have hx : Keeps z x.2 := tTake_keeps h t
    have hv : Keeps z v.st := uhfJudge_keeps (dropAct_keeps hx) _ _ _ _ _ _
    have hf : Keeps z f.st := judgeRange_keeps hv _
    refine Keeps.ite hx (Keeps.ite (bumpRad_keeps hx 6) (Keeps.ite (rangeOutcome_keeps hv _ _) ?_))
    have h2 : Keeps z s2 := Keeps.ite (rangeValidated_keeps hf _) hf
    exact rangeOutcome_keeps h2 _ _
  · exact h

theorem rangeTimeout_keeps {z s : State} (h : Keeps z s) : Keeps z (rangeTimeout s) := by
  unfold rangeTimeout
  with_reducible repeat' first | assumption | apply dropAct_keeps | apply rangeOutcome_keeps | split

theorem winAdd_keeps {z s : State} (h : Keeps z s) (w : Win) (b : List Byte) : Keeps z (winAdd s w b) := by
  unfold winAdd
  with_reducible repeat' first | assumption | apply putCmd_keeps | split

theorem accessNow_keeps {z s0 : State} (h : Keeps z s0) (t : Telegram) : Keeps z (accessNow s0 t) := by
  unfold accessNow
  with_reducible
    repeat' first
      | assumption | apply bumpRad_keeps | apply winFull_keeps | apply pushAct_keeps | apply keyRefused_keeps
      | apply winRanged_keeps | apply tTake_keeps | apply uhfVerdict_keeps | apply winAdd_keeps
      | apply rangeRun_keeps | refine Keeps.ite ?_ ?_ | split

theorem hostTelegram_keeps {z s0 : State} (h : Keeps z s0) (t : Telegram) : Keeps z (hostTelegram s0 t) := by
  unfold hostTelegram
  with_reducible
    repeat' first
      | assumption | apply winFull_keeps | apply tTake_keeps | apply winAdd_keeps | refine Keeps.ite ?_ ?_ | split

theorem windowEnd_keeps {z s : State} (h : Keeps z s) : Keeps z (windowEnd s) := by
  unfold windowEnd
  with_reducible repeat' first | assumption | apply winFinish_keeps | refine Keeps.ite ?_ ?_ | split

theorem radEntropyTimeout_keeps {z s : State} (h : Keeps z s) (uid : Nat) : Keeps z (radEntropyTimeout s uid) := by
  unfold radEntropyTimeout
  with_reducible
    repeat' first
      | assumption | apply failAct_keeps | split | refine Keeps.upd ?_ rfl rfl rfl rfl rfl rfl

theorem locateOut_keeps {z s : State} (h : Keeps z s) : Keeps z (locateOut s) := by
  unfold locateOut
  with_reducible
    repeat' first
      | assumption | apply failCmd_keeps | apply failTx_keeps | apply dropJobs_keeps | (intro _ _ _; try dsimp only)
      | refine Keeps.foldl ?_ ?_ | refine Keeps.ite ?_ ?_ | split

theorem radioOut_keeps {z s0 : State} (h : Keeps z s0) : Keeps z (radioOut s0) := by
  unfold radioOut
  with_reducible
    repeat' first
      | assumption | apply failCmd_keeps | apply cutAct_keeps | apply locFinish_keeps | apply winFinish_keeps
      | apply locateOut_keeps | (intro _ _ _; try dsimp only) | refine Keeps.foldl ?_ ?_ | refine Keeps.ite ?_ ?_
      | split | refine Keeps.upd ?_ rfl rfl rfl rfl rfl rfl

theorem retireRadio_keeps {z s : State} (h : Keeps z s) (cause : Byte) : Keeps z (retireRadio s cause) := by
  unfold retireRadio
  with_reducible
    repeat' first
      | assumption | apply excludeRegs_keeps | apply recordRetire_keeps | apply radioOut_keeps
      | refine Keeps.upd ?_ rfl rfl rfl rfl rfl rfl

theorem runHeld_keeps {z s : State} (h : Keeps z s) (m : HeldMsg) : Keeps z (runHeld s m) := by
  cases m with
  | air ch r => exact uplinkReply_keeps h ch r
  | locReply t => exact locReplyNow_keeps h t
  | rangeReport t m => exact rangeReportNow_keeps h t m
  | access t => exact accessNow_keeps h t

theorem takeMsg_keeps {z s : State} (h : Keeps z s) (m : HeldMsg) : Keeps z (takeMsg s m) :=
  Keeps.ite (Keeps.upd h rfl rfl rfl rfl rfl rfl) (runHeld_keeps h m)

theorem releaseHeld_keeps {z s : State} (h : Keeps z s) : Keeps z (releaseHeld s) :=
  Keeps.ite h (Keeps.foldl (fun _ _ k => runHeld_keeps k _) (Keeps.upd h rfl rfl rfl rfl rfl rfl))

theorem markedNode_keeps {z s : State} (h : Keeps z s) (i : Nat) (n : Node) : Keeps z (markedNode s i n) := by
  unfold markedNode
  with_reducible
    repeat' first
      | assumption | apply setNode_keeps | apply retireNode_keeps | refine Keeps.ite ?_ ?_ | split
      | refine Keeps.upd ?_ rfl rfl rfl rfl rfl rfl

theorem loadTree_keeps {z s : State} (h : Keeps z s) (t : Ticket) : Keeps z (loadTree s t) := by
  unfold loadTree
  with_reducible
    repeat' first
      | assumption | apply countUse_keeps | apply markedNode_keeps | (intro _ _ _; try dsimp only)
      | refine Keeps.foldl ?_ ?_ | refine Keeps.ite ?_ ?_

theorem instToMarks_keeps {z s : State} (h : Keeps z s) : Keeps z (instToMarks s) :=
  Keeps.upd h rfl rfl rfl rfl rfl rfl

theorem keyDone_keeps {z s : State} (h : Keeps z s) : Keeps z (keyDone s) := by
  unfold keyDone
  with_reducible repeat' first | assumption | apply postProgress_keeps | refine Keeps.upd ?_ rfl rfl rfl rfl rfl rfl

theorem armStart_keeps {z s0 : State} (h : Keeps z s0) (ticketOk : Bool) : Keeps z (armStart s0 ticketOk) := by
  unfold armStart
  with_reducible
    repeat' first
      | assumption | apply loadTree_keeps | apply instToMarks_keeps | apply keyDone_keeps | refine Keeps.ite ?_ ?_
      | split | refine Keeps.upd ?_ rfl rfl rfl rfl rfl rfl

theorem armReload_keeps {z s : State} (h : Keeps z s) : Keeps z (armReload s) := by
  unfold armReload
  with_reducible repeat' first | assumption | apply keyDone_keeps | refine Keeps.upd ?_ rfl rfl rfl rfl rfl rfl

theorem armLoaded_keeps {z s : State} (h : Keeps z s) (ticketOk : Bool) : Keeps z (armLoaded s ticketOk) := by
  unfold armLoaded
  with_reducible
    repeat' first
      | assumption | apply releaseHeld_keeps | apply armStart_keeps | apply armReload_keeps | refine Keeps.ite ?_ ?_

theorem freeInvalid_keeps {z s : State} (h : Keeps z s) : Keeps z (freeInvalid s) := by
  unfold freeInvalid
  with_reducible
    repeat' first
      | assumption | apply setNode_keeps | (intro _ _ _; try dsimp only) | refine Keeps.foldl ?_ ?_
      | refine Keeps.ite ?_ ?_

theorem invalidateOne_keeps {z s : State} (h : Keeps z s) (i : Nat) (journal : Bool) :
    Keeps z (invalidateOne s i journal) := by
  unfold invalidateOne
  with_reducible
    repeat' first
      | assumption | apply setNode_keeps | apply stageLife_keeps | refine Keeps.ite ?_ ?_ | split
      | refine Keeps.upd ?_ rfl rfl rfl rfl rfl rfl

theorem invalidateAll_keeps {z s : State} (h : Keeps z s) (l : List Nat) (journal : Bool) :
    Keeps z (invalidateAll s l journal) := by
  unfold invalidateAll
  with_reducible
    repeat' first
      | assumption | apply invalidateOne_keeps | (intro _ _ _; try dsimp only) | refine Keeps.foldl ?_ ?_

theorem ramError_keeps {z s : State} (h : Keeps z s) (i : Nat) : Keeps z (ramError s i) := by
  unfold ramError
  with_reducible
    repeat' first
      | assumption | apply setNode_keeps | apply nextInst_keeps | apply invalidateAll_keeps
      | (intro _ _ _; try dsimp only) | refine Keeps.foldl ?_ ?_ | refine Keeps.ite ?_ ?_ | split
      | refine Keeps.upd ?_ rfl rfl rfl rfl rfl rfl

theorem noteGen_keeps {z s : State} (h : Keeps z s) (parent : BitVec 32) (label : BitVec 128) (g : Nat) :
    Keeps z (noteGen s parent label g) :=
  Keeps.upd h rfl rfl rfl rfl rfl rfl

theorem deriveNode_keeps {z s : State} (h : Keeps z s) (p : Nat) (label : BitVec 128) (big : Bool) (limit : Nat) (g : Nat) (i : Nat) :
    Keeps z (deriveNode s p label big limit g i) := by
  unfold deriveNode
  with_reducible
    repeat' first
      | assumption | apply setNode_keeps | apply nextInst_keeps | apply addBlocks_keeps | apply countUse_keeps
      | apply noteGen_keeps

theorem ledgerImported_keeps {z s : State} (h : Keeps z s) : Keeps z (ledgerImported s) := by
  unfold ledgerImported
  with_reducible repeat' first | assumption | apply installKv_keeps | refine Keeps.upd ?_ rfl rfl rfl rfl rfl rfl

theorem importNode_keeps {z s : State} (h : Keeps z s) (b : List Byte) (i : Nat) (key : List Nat) :
    Keeps z (importNode s b i key) := by
  unfold importNode
  with_reducible
    repeat' first
      | assumption | apply setNode_keeps | apply stageNode_keeps | apply nextInst_keeps | apply countUse_keeps
      | apply invalidateAll_keeps | apply ledgerImported_keeps | refine Keeps.ite ?_ ?_ | split
      | refine Keeps.upd ?_ rfl rfl rfl rfl rfl rfl

theorem usageLimit_keeps {z s : State} (h : Keeps z s) (i : Nat) : Keeps z (usageLimit s i) := by
  unfold usageLimit
  with_reducible repeat' first | assumption | apply retireNode_keeps | refine Keeps.ite ?_ ?_

theorem raiseInst_keeps {z s : State} (h : Keeps z s) (i : Nat) : Keeps z (raiseInst s i) := by
  unfold raiseInst
  with_reducible
    repeat' first
      | assumption | refine Keeps.ite ?_ ?_ | split | refine Keeps.upd ?_ rfl rfl rfl rfl rfl rfl

theorem patinaDraws_keeps {z : State} (l : List (Nat × Node)) {s : State} (h : Keeps z s) : Keeps z (patinaDraws l s) := by
  induction l generalizing s with
  | nil => exact h
  | cons p t ih =>
    unfold patinaDraws
    split
    · split
      · rename_i e
        exact ih (setNode_keeps (drbgDraw_keeps h _ e) _ _)
      · exact ih h
    · exact ih h

theorem patinaNow_keeps {z s : State} (h : Keeps z s) (onTime : Bool) : Keeps z (patinaNow s onTime) := by
  unfold patinaNow
  with_reducible
    repeat' first
      | assumption | apply patinaDraws_keeps | refine Keeps.ite ?_ ?_ | split
      | refine Keeps.upd ?_ rfl rfl rfl rfl rfl rfl

theorem debugOpenNow_keeps {z s : State} (h : Keeps z s) : Keeps z (debugOpenNow s) := by
  unfold debugOpenNow
  with_reducible
    repeat' first
      | assumption | apply stageLife_keeps | apply finishNow_keeps | refine Keeps.ite ?_ ?_ | split
      | refine Keeps.upd ?_ rfl rfl rfl rfl rfl rfl

theorem debugClose_keeps {z s : State} (h : Keeps z s) (reason : Nat) : Keeps z (debugClose s reason) := by
  unfold debugClose
  with_reducible
    repeat' first
      | assumption | apply stageLife_keeps | refine Keeps.ite ?_ ?_ | split
      | refine Keeps.upd ?_ rfl rfl rfl rfl rfl rfl

theorem debugWindow_keeps {z s : State} (h : Keeps z s) : Keeps z (debugWindow s) := by
  unfold debugWindow
  with_reducible repeat' first | assumption | apply debugClose_keeps | refine Keeps.ite ?_ ?_

theorem advProgress_keeps {z s : State} (h : Keeps z s) (v : Nat) (pos : Nat) : Keeps z (advProgress s v pos) := by
  unfold advProgress
  with_reducible
    repeat' first
      | assumption | apply postProgress_keeps | split | refine Keeps.upd ?_ rfl rfl rfl rfl rfl rfl

theorem advSteps_keeps {z s : State} (h : Keeps z s) (from_ : Nat) (width : Nat) (total : Nat) (l : List Nat) :
    Keeps z (advSteps s from_ width total l) := by
  unfold advSteps
  with_reducible
    repeat' first
      | assumption | apply advProgress_keeps | (intro _ _ _; try dsimp only) | refine Keeps.foldl ?_ ?_

theorem stageAdvance_keeps {z s : State} (h : Keeps z s) (event : Nat) (phase : Nat) (t : Ticket) :
    Keeps z (stageAdvance s event phase t) := by
  unfold stageAdvance
  with_reducible repeat' first | assumption | apply stageLife_keeps

theorem setAdv_keeps {z s : State} (h : Keeps z s) (a : Option Advance) : Keeps z (setAdv s a) :=
  Keeps.upd h rfl rfl rfl rfl rfl rfl

theorem advanceBegin_keeps {z s0 : State} (h : Keeps z s0) (uid : Nat) (t : Ticket) : Keeps z (advanceBegin s0 uid t) := by
  unfold advanceBegin
  with_reducible
    repeat' first
      | assumption | apply debugClose_keeps | apply stageAdvance_keeps | refine Keeps.ite ?_ ?_ | split
      | refine Keeps.upd ?_ rfl rfl rfl rfl rfl rfl

theorem advanceBoundary_keeps {z s : State} (h : Keeps z s) : Keeps z (advanceBoundary s) := by
  unfold advanceBoundary
  with_reducible
    repeat' first
      | assumption | refine Keeps.ite ?_ ?_ | split | refine Keeps.upd ?_ rfl rfl rfl rfl rfl rfl

theorem closeRecords_keeps {z s : State} (h : Keeps z s) (t : Ticket) : Keeps z (closeRecords s t) := by
  unfold closeRecords
  with_reducible
    repeat' first
      | assumption | apply writeCounter_keeps | apply closeLedger_keeps | apply sealAll_keeps
      | apply stageCkpt_keeps | apply storeCkpt_keeps | refine Keeps.upd ?_ rfl rfl rfl rfl rfl rfl

theorem advanceCloseNow_keeps {z s : State} (h : Keeps z s) : Keeps z (advanceCloseNow s) := by
  unfold advanceCloseNow
  with_reducible
    repeat' first
      | assumption | apply advProgress_keeps | apply advSteps_keeps | apply stageAdvance_keeps | apply setAdv_keeps
      | apply closeRecords_keeps | refine Keeps.ite ?_ ?_ | split

theorem mirrorOptions_keeps {z s : State} (h : Keeps z s) (code : Nat) : Keeps z (mirrorOptions s code) :=
  Keeps.upd h rfl rfl rfl rfl rfl rfl

theorem zeroArmature_keeps {z s : State} (h : Keeps z s) : Keeps z (zeroArmature s) := by
  unfold zeroArmature
  with_reducible repeat' first | assumption | apply invalidateAll_keeps | refine Keeps.upd ?_ rfl rfl rfl rfl rfl rfl

theorem eraseRegistry_keeps {z s : State} (h : Keeps z s) : Keeps z (eraseRegistry s) := by
  unfold eraseRegistry
  with_reducible
    repeat' first
      | assumption | apply flashRenew_keeps | apply pairSlot_keeps | (intro _ _ _; try dsimp only) | refine Keeps.foldl ?_ ?_
      | refine Keeps.ite ?_ ?_ | split | refine Keeps.upd ?_ rfl rfl rfl rfl rfl rfl

theorem advanceDestroyNow_keeps {z s : State} (h : Keeps z s) : Keeps z (advanceDestroyNow s) := by
  unfold advanceDestroyNow
  with_reducible
    repeat' first
      | assumption | apply advSteps_keeps | apply stageAdvance_keeps | apply setAdv_keeps | apply zeroArmature_keeps
      | apply eraseRegistry_keeps | refine Keeps.ite ?_ ?_ | split | refine Keeps.upd ?_ rfl rfl rfl rfl rfl rfl

theorem installRoot_keeps {z s : State} (h : Keeps z s) (key : List Nat) : Keeps z (installRoot s key) := by
  unfold installRoot
  with_reducible
    repeat' first
      | assumption | apply setNode_keeps | apply nextInst_keeps | apply installKj_keeps | apply installKc_keeps

theorem installSystem_keeps {z s0 : State} (h : Keeps z s0) : Keeps z (installSystem s0) := by
  unfold installSystem
  with_reducible repeat' first | assumption | apply sysNode_keeps | apply childUse_keeps

theorem rollTwo_keeps {z s : State} (h : Keeps z s) : Keeps z (rollTwo s) := by
  unfold rollTwo
  with_reducible repeat' first | assumption | apply sealAll_keeps | apply stageRoll_keeps | apply postRoll_keeps

theorem openLedger_keeps {z s : State} (h : Keeps z s) : Keeps z (openLedger s) :=
  ⟨h.pending, h.beat, h.fuses, fun w => ⟨by simp [openLedger, BucketsOk, Buckets.zero], rfl, by simp [openLedger], (h.ledger w).2.2.2⟩⟩

theorem installLife_keeps {z s : State} (h : Keeps z s) (t : Ticket) : Keeps z (installLife s t) := by
  unfold installLife
  with_reducible
    repeat' first
      | assumption | apply flashRenew_keeps | apply armThresholds_keeps | apply storeAndRecord_keeps
      | apply stageAdvance_keeps | apply installRoot_keeps | apply installSystem_keeps | apply rollTwo_keeps
      | apply openLedger_keeps | refine Keeps.ite ?_ ?_ | split | refine Keeps.upd ?_ rfl rfl rfl rfl rfl rfl

theorem installEnd_keeps {z s : State} (h : Keeps z s) (t : Ticket) (wasActive : Bool) :
    Keeps z (installEnd s t wasActive) := by
  unfold installEnd
  with_reducible
    repeat' first
      | assumption | apply flashRenew_keeps | apply writeCounter_keeps | apply sealAll_keeps | apply storeCkpt_keeps
      | apply stageAdvance_keeps | apply installRoot_keeps | apply rollTwo_keeps | refine Keeps.ite ?_ ?_ | split
      | refine Keeps.upd ?_ rfl rfl rfl rfl rfl rfl

theorem advanceInstallNow_keeps {z s : State} (h : Keeps z s) : Keeps z (advanceInstallNow s) := by
  unfold advanceInstallNow
  with_reducible
    repeat' first
      | assumption | apply finishNow_keeps | apply advProgress_keeps | apply setAdv_keeps | apply installLife_keeps
      | apply installEnd_keeps | refine Keeps.ite ?_ ?_ | split | refine Keeps.upd ?_ rfl rfl rfl rfl rfl rfl

theorem advanceResumeNow_keeps {z s : State} (h : Keeps z s) : Keeps z (advanceResumeNow s) := by
  unfold advanceResumeNow
  with_reducible
    repeat' first
      | assumption | apply stageAdvance_keeps | refine Keeps.ite ?_ ?_ | split
      | refine Keeps.upd ?_ rfl rfl rfl rfl rfl rfl

/-- ADVANCE_COMMIT adds to the blown fuses and keeps everything else that `Keeps` names. -/
theorem advanceCommitNow_adds (s : State) :
    ∃ z, z.pending = s.pending ∧ z.clk.beat = s.clk.beat ∧ (∃ m, z.lcy.fuses = s.lcy.fuses ||| m) ∧ (LedgerOk s → LedgerOk z) ∧
      Keeps z (advanceCommitNow s) := by
  have h0 : s.lcy.fuses = s.lcy.fuses ||| 0 := by simp
  unfold advanceCommitNow
  split
  · exact ⟨s, rfl, rfl, ⟨0, h0⟩, id, .refl s⟩
  · rename_i a _
    split
    · exact ⟨s, rfl, rfl, ⟨0, h0⟩, id, .refl s⟩
    · exact ⟨{ s with lcy := { s.lcy with fuses := s.lcy.fuses ||| fuseBits a.ticket.dest } }, rfl, rfl, ⟨_, rfl⟩, id,
        zeroArmature_keeps (stageAdvance_keeps (advProgress_keeps (setAdv_keeps (mirrorOptions_keeps (.refl _) _) _) _ _) _ _ _)⟩

end Sys2Proof.Machine
end

