-- ==== Sys2Proof/Laws/KeepsUnits.lean ====
section
/-! SUPPORT. What each operation keeps: the cipher, the entropy source, the rings, power, reset, the registers and the
boundary. -/

namespace Sys2Proof.Machine

open Sys2Proof

theorem setCip_keeps {z s : State} (h : Keeps z s) (f : Cipher → Cipher) : Keeps z (setCip s f) :=
  Keeps.upd h rfl rfl rfl rfl rfl rfl

theorem cmpTransient_keeps {z s : State} (h : Keeps z s) : Keeps z (cmpTransient s) :=
  Keeps.upd h rfl rfl rfl rfl rfl rfl

theorem engineFails_keeps {z s : State} (h : Keeps z s) : Keeps z (engineFails s) := by
  unfold engineFails
  with_reducible repeat' first | assumption | apply retireLater_keeps | apply setCip_keeps

theorem cipMismatch_keeps {z s : State} (h : Keeps z s) (agree : Bool) : Keeps z (cipMismatch s agree) := by
  unfold cipMismatch
  with_reducible
    repeat' first
      | assumption | apply setCip_keeps | apply cmpTransient_keeps | apply engineFails_keeps
      | refine Keeps.ite ?_ ?_ | split

theorem pipeFails_keeps {z s : State} (h : Keeps z s) (i : Nat) : Keeps z (pipeFails s i) := by
  unfold pipeFails
  with_reducible repeat' first | assumption | apply retireLater_keeps | apply setCip_keeps

theorem startKatDone_keeps {z s : State} (h : Keeps z s) (aOk : Bool) (bOk : Bool) : Keeps z (startKatDone s aOk bOk) := by
  unfold startKatDone
  with_reducible
    repeat' first
      | assumption | apply recordReinstate_keeps | apply setCip_keeps | apply engineFails_keeps
      | apply pipeFails_keeps | refine Keeps.ite ?_ ?_

theorem katVerdict_keeps {z s : State} (h : Keeps z s) (aOk : Bool) (bOk : Bool) (agree : Bool) :
    Keeps z (katVerdict s aOk bOk agree) := by
  unfold katVerdict
  with_reducible
    repeat' first
      | assumption | apply setCip_keeps | apply cmpTransient_keeps | apply engineFails_keeps | apply pipeFails_keeps
      | apply startKatDone_keeps | refine Keeps.ite ?_ ?_ | split

theorem katDone_keeps {z s : State} (h : Keeps z s) (aOk : Bool) (bOk : Bool) (agree : Bool) :
    Keeps z (katDone s aOk bOk agree) := by
  unfold katDone
  with_reducible
    repeat' first
      | assumption | apply releaseHeld_keeps | apply katVerdict_keeps | refine Keeps.ite ?_ ?_

theorem cipherStart_keeps {z s : State} (h : Keeps z s) : Keeps z (cipherStart s) :=
  Keeps.upd h rfl rfl rfl rfl rfl rfl

theorem maskReseed_keeps {z s : State} (h : Keeps z s) : Keeps z (maskReseed s) := by
  unfold maskReseed
  split
  · exact h
  · split
    · rename_i e
      exact setCip_keeps (drbgDraw_keeps h _ e) _
    · exact drbgRefuse_keeps h

theorem dikeRefused_keeps {z s : State} (h : Keeps z s) : Keeps z (dikeRefused s) :=
  Keeps.upd h rfl rfl rfl rfl rfl rfl

theorem runCipher_keeps {z s : State} (h : Keeps z s) (sq op : Nat) (m : HostMem) (body : State → Cmd → List Byte → State)
    (hb : ∀ s c l, Keeps z s → Keeps z (body s c l)) : Keeps z (runCipher s sq op m body) := by
  unfold runCipher
  have h1 := runCmd_keeps h sq op m cipherJudge body hb
  dsimp only
  split
  · exact Keeps.ite (dikeRefused_keeps h1) h1
  · exact h1

theorem endMessage_keeps {z s : State} (h : Keeps z s) (c : Cmd) (st : Status) (result : Nat) (out : List Byte) :
    Keeps z (endMessage s c st result out) := by
  unfold endMessage
  with_reducible repeat' first | assumption | apply finishNow_keeps | apply zeroCmd_keeps | refine Keeps.ite ?_ ?_

theorem cmacRun_keeps {z s : State} (h : Keeps z s) (c : Cmd) (inp : List Byte) : Keeps z (cmacRun s c inp) := by
  unfold cmacRun
  with_reducible
    repeat' first
      | assumption | apply addBlocks_keeps | apply countUse_keeps | apply finishNow_keeps | apply endMessage_keeps
      | refine Keeps.ite ?_ ?_

theorem ctrRun_keeps {z s : State} (h : Keeps z s) (c : Cmd) (inp : List Byte) : Keeps z (ctrRun s c inp) := by
  unfold ctrRun
  with_reducible
    repeat' first
      | assumption | apply addBlocks_keeps | apply countUse_keeps | apply finishNow_keeps | apply endMessage_keeps
      | refine Keeps.ite ?_ ?_

theorem ccmSealRun_keeps {z s : State} (h : Keeps z s) (c : Cmd) (inp : List Byte) : Keeps z (ccmSealRun s c inp) := by
  unfold ccmSealRun
  with_reducible repeat' first | assumption | apply addBlocks_keeps | apply countUse_keeps | apply endMessage_keeps

theorem ccmOpenRun_keeps {z s : State} (h : Keeps z s) (c : Cmd) (inp : List Byte) : Keeps z (ccmOpenRun s c inp) := by
  unfold ccmOpenRun
  with_reducible
    repeat' first
      | assumption | apply addBlocks_keeps | apply countUse_keeps | apply zeroCmd_keeps | apply endMessage_keeps
      | refine Keeps.ite ?_ ?_ | split | refine Keeps.upd ?_ rfl rfl rfl rfl rfl rfl

theorem setEnt_keeps {z s : State} (h : Keeps z s) (f : Entropy → Entropy) : Keeps z (setEnt s f) :=
  Keeps.upd h rfl rfl rfl rfl rfl rfl

theorem warmProgress_keeps {z s : State} (h : Keeps z s) : Keeps z (warmProgress s) := by
  unfold warmProgress
  with_reducible repeat' first | assumption | apply postProgress_keeps | apply setEnt_keeps

theorem deliver_keeps {z s : State} (h : Keeps z s) (w : WaitReq) (bytes : List Nat) : Keeps z (deliver s w bytes) := by
  unfold deliver
  with_reducible
    repeat' first
      | assumption | apply putCmd_keeps | apply finishNow_keeps | apply finishBytes_keeps | apply setHead_keeps
      | apply nonceArrived_keeps | apply stageSafe_keeps | apply radDeliver_keeps | refine Keeps.ite ?_ ?_ | split
      | refine Keeps.upd ?_ rfl rfl rfl rfl rfl rfl

theorem serveGo_keeps {z : State} (k : Nat) {s : State} (h : Keeps z s) : Keeps z (serveGo k s) := by
  induction k generalizing s with
  | zero => exact h
  | succ k ih =>
    unfold serveGo
    split
    · exact h
    · split
      · exact h
      · split
        · rename_i e
          exact ih (deliver_keeps (removeWait_keeps (drbgDraw_keeps h _ e) _) _ _)
        · exact drbgRefuse_keeps h

theorem serveWaiting_keeps {z s : State} (h : Keeps z s) : Keeps z (serveWaiting s) := by
  unfold serveWaiting
  with_reducible repeat' first | assumption | apply serveGo_keeps

theorem windowEndNow_keeps {z s0 : State} (h : Keeps z s0) (srcB : Bool) (bits : BitVec 1024) :
    Keeps z (windowEndNow s0 srcB bits) := by
  unfold windowEndNow
  with_reducible
    repeat' first
      | assumption | apply drbgInstantiate_keeps | apply drbgReseed_keeps | apply setEnt_keeps
      | apply warmProgress_keeps | apply serveWaiting_keeps | refine Keeps.ite ?_ ?_ | split
      | refine Keeps.upd ?_ rfl rfl rfl rfl rfl rfl

theorem warmupTimeout_keeps {z s : State} (h : Keeps z s) : Keeps z (warmupTimeout s) := by
  unfold warmupTimeout
  with_reducible repeat' first | assumption | apply postEntFail_keeps | refine Keeps.ite ?_ ?_

theorem softLimit_keeps {z s : State} (h : Keeps z s) : Keeps z (softLimit s) := by
  unfold softLimit
  with_reducible repeat' first | assumption | apply drbgReseed_keeps | refine Keeps.ite ?_ ?_

theorem hardLimit_keeps {z s : State} (h : Keeps z s) : Keeps z (hardLimit s) := by
  unfold hardLimit
  with_reducible repeat' first | assumption | apply drbgLimits_keeps | refine Keeps.ite ?_ ?_

theorem timeoutOne_keeps {z s : State} (h : Keeps z s) (w : WaitReq) : Keeps z (timeoutOne s w) := by
  unfold timeoutOne
  with_reducible
    repeat' first
      | assumption | apply dropWait_keeps | apply removeWait_keeps | apply emitData_keeps | apply finishNow_keeps
      | apply failCmd_keeps | apply failTx_keeps | apply arm_keeps | apply stageSafe_keeps
      | apply radEntropyTimeout_keeps | apply setEnt_keeps | (intro _ _ _; try dsimp only)
      | refine Keeps.foldl ?_ ?_ | refine Keeps.ite ?_ ?_ | split | refine Keeps.upd ?_ rfl rfl rfl rfl rfl rfl

theorem waitTimeout_keeps {z s : State} (h : Keeps z s) : Keeps z (waitTimeout s) := by
  unfold waitTimeout
  with_reducible
    repeat' first
      | assumption | apply timeoutOne_keeps | split | refine Keeps.upd ?_ rfl rfl rfl rfl rfl rfl

theorem rngRun_keeps {z s : State} (h : Keeps z s) (c : Cmd) (u2 : List Byte) : Keeps z (rngRun s c u2) := by
  unfold rngRun
  with_reducible
    repeat' first
      | assumption | apply putCmd_keeps | apply addWait_keeps | apply finishNow_keeps | apply serveWaiting_keeps
      | (intro _ _ _; try dsimp only) | refine Keeps.foldl ?_ ?_ | refine Keeps.ite ?_ ?_

theorem sqErr_keeps {z s : State} (h : Keeps z s) (n : Nat) (old : Bool) (f : Ring → Ring) : Keeps z (sqErr s n old f) := by
  unfold sqErr
  with_reducible repeat' first | assumption | apply errVector_keeps | refine Keeps.upd ?_ rfl rfl rfl rfl rfl rfl

theorem fetchOne_keeps {z s : State} (h : Keeps z s) (n : Nat) (d : Option Desc) : Keeps z (fetchOne s n d).1 := by
  unfold fetchOne
  with_reducible
    repeat' first
      | assumption | apply setSq_keeps | apply failCmd_keeps | apply sqErr_keeps | refine Keeps.ite ?_ ?_
      | refine Keeps.iteG Prod.fst ?_ ?_ | split | refine Keeps.upd ?_ rfl rfl rfl rfl rfl rfl

theorem fetchGo_keeps {z : State} (l : List (Option Desc)) {s : State} (h : Keeps z s) (n k : Nat) :
    Keeps z (fetchGo s n k l) := by
  induction l generalizing s k with
  | nil => cases k <;> exact h
  | cons d t ih =>
    cases k with
    | zero => exact h
    | succ k =>
      unfold fetchGo
      split
      · dsimp only
        split
        · exact ih (fetchOne_keeps h n d) k
        · exact fetchOne_keeps h n d
      · exact h

theorem fetchTurn_keeps {z s : State} (h : Keeps z s) (ds : List (Option Desc)) : Keeps z (fetchTurn s ds) := by
  unfold fetchTurn
  with_reducible
    repeat' first
      | assumption | apply fetchGo_keeps | refine Keeps.ite ?_ ?_ | split
      | refine Keeps.upd ?_ rfl rfl rfl rfl rfl rfl

theorem cqErr_keeps {z s : State} (h : Keeps z s) (n : Nat) (old : Bool) (f : Ring → Ring) : Keeps z (cqErr s n old f) := by
  unfold cqErr
  with_reducible repeat' first | assumption | apply errVector_keeps | refine Keeps.upd ?_ rfl rfl rfl rfl rfl rfl

theorem eqErr_keeps {z s : State} (h : Keeps z s) (old : Bool) (f : Ring → Ring) : Keeps z (eqErr s old f) := by
  unfold eqErr
  with_reducible repeat' first | assumption | apply errVector_keeps | refine Keeps.upd ?_ rfl rfl rfl rfl rfl rfl

theorem ringSqTail_keeps {z s : State} (h : Keeps z s) (n : Nat) (v : Word) : Keeps z (ringSqTail s n v) := by
  unfold ringSqTail
  with_reducible repeat' first | assumption | apply setSq_keeps | apply sqErr_keeps | refine Keeps.ite ?_ ?_

theorem ringCqHead_keeps {z s : State} (h : Keeps z s) (n : Nat) (v : Word) : Keeps z (ringCqHead s n v) := by
  unfold ringCqHead
  with_reducible
    repeat' first
      | assumption | apply setCq_keeps | apply drainHeld_keeps | apply cqErr_keeps | refine Keeps.ite ?_ ?_

theorem ringEqHead_keeps {z s : State} (h : Keeps z s) (v : Word) : Keeps z (ringEqHead s v) := by
  unfold ringEqHead
  with_reducible
    repeat' first
      | assumption | apply eqErr_keeps | refine Keeps.ite ?_ ?_ | split
      | refine Keeps.upd ?_ rfl rfl rfl rfl rfl rfl

theorem deferAccess_keeps {z s : State} (h : Keeps z s) (key : Nat) (v : Word) : Keeps z (deferAccess s key v) :=
  Keeps.upd h rfl rfl rfl rfl rfl rfl

theorem ringDoorbell_keeps {z s : State} (h : Keeps z s) (off : Nat) (v : Word) : Keeps z (ringDoorbell s off v) := by
  unfold ringDoorbell
  with_reducible
    repeat' first
      | assumption | apply ringSqTail_keeps | apply ringCqHead_keeps | apply ringEqHead_keeps
      | refine Keeps.ite ?_ ?_

theorem doorbell_keeps {z s : State} (h : Keeps z s) (off : Nat) (v : Word) : Keeps z (doorbell s off v) := by
  unfold doorbell
  with_reducible
    repeat' first
      | assumption | apply deferAccess_keeps | apply ringDoorbell_keeps | refine Keeps.ite ?_ ?_

theorem withdrawWork_keeps {z s : State} (h : Keeps z s) (uid : Nat) : Keeps z (withdrawWork s uid) := by
  unfold withdrawWork
  with_reducible repeat' first | assumption | apply dropJobs_keeps | apply dropWaiting_keeps

theorem drainSq_keeps {z s : State} (h : Keeps z s) (n : Nat) : Keeps z (drainSq s n) := by
  unfold drainSq
  with_reducible
    repeat' first
      | assumption | apply setSq_keeps | apply settleSq_keeps | apply failCmd_keeps | apply withdrawWork_keeps
      | (intro _ _ _; try dsimp only) | refine Keeps.foldl ?_ ?_

theorem sqCfg_keeps {z s : State} (h : Keeps z s) (n : Nat) (v : Word) : Keeps z (sqCfg s n v) := by
  unfold sqCfg
  with_reducible
    repeat' first
      | assumption | apply setSq_keeps | apply sqErr_keeps | apply drainSq_keeps | refine Keeps.ite ?_ ?_

theorem cqCfg_keeps {z s : State} (h : Keeps z s) (n : Nat) (v : Word) : Keeps z (cqCfg s n v) := by
  unfold cqCfg
  with_reducible
    repeat' first
      | assumption | apply setCq_keeps | apply cqIrq_keeps | apply cqErr_keeps | refine Keeps.ite ?_ ?_

theorem postHeldWake_keeps {z s : State} (h : Keeps z s) : Keeps z (postHeldWake s) := by
  unfold postHeldWake
  with_reducible
    repeat' first
      | assumption | apply postEvent_keeps | refine Keeps.ite ?_ ?_ | split
      | refine Keeps.upd ?_ rfl rfl rfl rfl rfl rfl

theorem eqCfg_keeps {z s : State} (h : Keeps z s) (v : Word) : Keeps z (eqCfg s v) := by
  unfold eqCfg
  with_reducible
    repeat' first
      | assumption | apply eqIrq_keeps | apply eqErr_keeps | apply postHeldWake_keeps | refine Keeps.ite ?_ ?_
      | split | refine Keeps.upd ?_ rfl rfl rfl rfl rfl rfl

theorem sqBase_keeps {z s : State} (h : Keeps z s) (n : Nat) (hi : Bool) (v : Word) : Keeps z (sqBase s n hi v) := by
  unfold sqBase
  with_reducible repeat' first | assumption | apply setSq_keeps | apply sqErr_keeps | refine Keeps.ite ?_ ?_

theorem cqBase_keeps {z s : State} (h : Keeps z s) (n : Nat) (hi : Bool) (v : Word) : Keeps z (cqBase s n hi v) := by
  unfold cqBase
  with_reducible repeat' first | assumption | apply setCq_keeps | apply cqErr_keeps | refine Keeps.ite ?_ ?_

theorem eqBase_keeps {z s : State} (h : Keeps z s) (hi : Bool) (v : Word) : Keeps z (eqBase s hi v) := by
  unfold eqBase
  with_reducible
    repeat' first
      | assumption | apply eqErr_keeps | refine Keeps.ite ?_ ?_ | split
      | refine Keeps.upd ?_ rfl rfl rfl rfl rfl rfl

theorem timerExpiry_keeps {z s : State} (h : Keeps z s) (n : Nat) : Keeps z (timerExpiry s n) := by
  unfold timerExpiry
  with_reducible
    repeat' first
      | assumption | apply setCq_keeps | apply sendVector_keeps | refine Keeps.ite ?_ ?_ | split
      | refine Keeps.upd ?_ rfl rfl rfl rfl rfl rfl

theorem sendPending_keeps {z s : State} (h : Keeps z s) : Keeps z (sendPending s) := by
  unfold sendPending
  with_reducible
    repeat' first
      | assumption | apply sendVector_keeps | (intro _ _ _; try dsimp only) | refine Keeps.foldl ?_ ?_
      | refine Keeps.ite ?_ ?_ | split | refine Keeps.upd ?_ rfl rfl rfl rfl rfl rfl

theorem msixWrite_keeps {z s : State} (h : Keeps z s) (vec : Nat) (dw : Nat) (v : Word) :
    Keeps z (msixWrite s vec dw v) := by
  unfold msixWrite
  with_reducible
    repeat' first
      | assumption | apply sendPending_keeps | refine Keeps.ite ?_ ?_ | split
      | refine Keeps.upd ?_ rfl rfl rfl rfl rfl rfl

theorem setBme_keeps {z s : State} (h : Keeps z s) (on : Bool) : Keeps z (setBme s on) := by
  unfold setBme
  with_reducible
    repeat' first
      | assumption | refine Keeps.ite ?_ ?_ | split | refine Keeps.upd ?_ rfl rfl rfl rfl rfl rfl

theorem functionReset_keeps {z s : State} (h : Keeps z s) : Keeps z (functionReset s) := by
  unfold functionReset
  with_reducible
    repeat' first
      | assumption | apply dropCmd_keeps | apply withdrawWork_keeps | (intro _ _ _; try dsimp only)
      | refine Keeps.foldl ?_ ?_ | refine Keeps.upd ?_ rfl rfl rfl rfl rfl rfl

theorem setPwr_keeps {z s : State} (h : Keeps z s) (f : Power → Power) : Keeps z (setPwr s f) :=
  Keeps.upd h rfl rfl rfl rfl rfl rfl

theorem domainOn_keeps {z s : State} (h : Keeps z s) (d : Nat) : Keeps z (domainOn s d) := by
  unfold domainOn
  with_reducible
    repeat' first
      | assumption | apply setDom_keeps | apply setEnt_keeps | apply functionReset_keeps | refine Keeps.ite ?_ ?_

theorem stageLoss_keeps {z s : State} (h : Keeps z s) (first : Nat) (count : Nat) (cause : Nat) :
    Keeps z (stageLoss s first count cause) := by
  unfold stageLoss
  with_reducible repeat' first | assumption | apply stage_keeps | refine Keeps.upd ?_ rfl rfl rfl rfl rfl rfl

theorem stageLost_keeps {z s : State} (h : Keeps z s) : Keeps z (stageLost s) := by
  unfold stageLost
  with_reducible
    repeat' first
      | assumption | apply stageLoss_keeps | (intro _ _ _; try dsimp only) | refine Keeps.foldl ?_ ?_
      | refine Keeps.ite ?_ ?_ | split | refine Keeps.upd ?_ rfl rfl rfl rfl rfl rfl

theorem journalRecover_keeps {z s : State} (h : Keeps z s) : Keeps z (journalRecover s) := by
  unfold journalRecover
  with_reducible
    repeat' first
      | assumption | apply countStop_keeps | apply journalFound_keeps | apply stageLoss_keeps
      | apply stageLost_keeps | refine Keeps.ite ?_ ?_ | split | refine Keeps.upd ?_ rfl rfl rfl rfl rfl rfl

theorem flushStartRecs_keeps {z s : State} (h : Keeps z s) : Keeps z (flushStartRecs s) := by
  unfold flushStartRecs
  with_reducible
    repeat' first
      | assumption | apply stageRec_keeps | apply setPwr_keeps | (intro _ _ _; try dsimp only)
      | refine Keeps.foldl ?_ ?_

theorem ledgerLoad_keeps {z s : State} (h : Keeps z s) : Keeps z (ledgerLoad s) := by
  unfold ledgerLoad
  have k := ringFound_keeps h
  generalize ringFound s = x at k ⊢
  dsimp only
  split
  · exact ⟨k.pending, k.beat, k.fuses, fun w =>
      ⟨by simp [BucketsOk, Ledger.reset, Buckets.zero], rfl, by simp [Ledger.reset], (k.ledger w).2.2.2⟩⟩
  · rename_i r e
    refine armThresholds_keeps ⟨k.pending, k.beat, k.fuses, fun w => ?_⟩
    obtain ⟨-, -, -, d⟩ := k.ledger w
    exact ⟨(d r e).1, rfl, (d r e).2, d⟩

theorem meterReady_keeps {z s : State} (h : Keeps z s) : Keeps z (meterReady s) := by
  unfold meterReady
  with_reducible
    repeat' first
      | assumption | apply countArea_keeps | apply journalRecover_keeps | apply flushStartRecs_keeps
      | apply ledgerLoad_keeps

theorem domainReady_keeps {z s : State} (h : Keeps z s) (d : Nat) : Keeps z (domainReady s d) := by
  unfold domainReady
  with_reducible
    repeat' first
      | assumption | apply setDom_keeps | apply bankReadyNow_keeps | apply laneReturns_keeps
      | apply cipherStart_keeps | apply meterReady_keeps | refine Keeps.ite ?_ ?_

theorem domainLost_keeps {z s : State} (h : Keeps z s) (d : Nat) : Keeps z (domainLost s d) := by
  unfold domainLost
  with_reducible
    repeat' first
      | assumption | apply setBank_keeps | apply setDom_keeps | apply laneDown_keeps | apply setCip_keeps
      | apply setEnt_keeps | apply functionReset_keeps | refine Keeps.ite ?_ ?_ | split
      | refine Keeps.upd ?_ rfl rfl rfl rfl rfl rfl

theorem domainOff_keeps {z s : State} (h : Keeps z s) (d : Nat) : Keeps z (domainOff s d) := by
  unfold domainOff
  with_reducible repeat' first | assumption | apply domainLost_keeps | refine Keeps.ite ?_ ?_

theorem countIdle_keeps {z s : State} (h : Keeps z s) : Keeps z (countIdle s) := by
  unfold countIdle
  with_reducible
    repeat' first
      | assumption | apply setDom_keeps | (intro _ _ _; try dsimp only) | refine Keeps.foldl ?_ ?_
      | refine Keeps.ite ?_ ?_

theorem levelStep_keeps {z s : State} (h : Keeps z s) : Keeps z (levelStep s) := by
  unfold levelStep
  with_reducible repeat' first | assumption | apply setPwr_keeps | refine Keeps.ite ?_ ?_

theorem rampCheck_keeps {z s : State} (h : Keeps z s) (reached : Bool) : Keeps z (rampCheck s reached) := by
  unfold rampCheck
  with_reducible repeat' first | assumption | apply setPwr_keeps | refine Keeps.ite ?_ ?_

theorem dozeEnter_keeps {z s : State} (h : Keeps z s) : Keeps z (dozeEnter s) := by
  unfold dozeEnter
  with_reducible repeat' first | assumption | apply setPwr_keeps | refine Keeps.ite ?_ ?_

theorem dozeLeave_keeps {z s : State} (h : Keeps z s) : Keeps z (dozeLeave s) := by
  unfold dozeLeave
  with_reducible repeat' first | assumption | apply setPwr_keeps | refine Keeps.ite ?_ ?_

theorem bell_keeps {z s : State} (h : Keeps z s) (off : Nat) (v : Word) : Keeps z (bell s off v) := by
  unfold bell
  with_reducible repeat' first | assumption | apply doorbell_keeps | apply dozeLeave_keeps | refine Keeps.ite ?_ ?_

theorem countDoze_keeps {z s : State} (h : Keeps z s) : Keeps z (countDoze s) := by
  unfold countDoze
  with_reducible repeat' first | assumption | apply setPwr_keeps | apply dozeLeave_keeps | refine Keeps.ite ?_ ?_

theorem requestSleep_keeps {z s : State} (h : Keeps z s) (kind : Nat) : Keeps z (requestSleep s kind) := by
  unfold requestSleep
  with_reducible repeat' first | assumption | apply setPwr_keeps | refine Keeps.ite ?_ ?_

theorem judgeSleep_keeps {z s : State} (h : Keeps z s) : Keeps z (judgeSleep s) := by
  unfold judgeSleep
  with_reducible
    repeat' first
      | assumption | apply failCmd_keeps | apply withdrawWork_keeps | apply setPwr_keeps
      | (intro _ _ _; try dsimp only) | refine Keeps.foldl ?_ ?_ | refine Keeps.ite ?_ ?_

theorem entryExpire_keeps {z s : State} (h : Keeps z s) : Keeps z (entryExpire s) := by
  unfold entryExpire
  with_reducible repeat' first | assumption | apply setPwr_keeps | refine Keeps.ite ?_ ?_

theorem parkLedger_keeps {z s : State} (h : Keeps z s) : Keeps z (parkLedger s) := by
  unfold parkLedger
  with_reducible
    repeat' first
      | assumption | apply writeCounter_keeps | apply closePart_keeps | apply drawBits_keeps | refine Keeps.ite ?_ ?_ | split
      | refine Keeps.upd ?_ rfl rfl rfl rfl rfl rfl

theorem closeSession_keeps {z s : State} (h : Keeps z s) : Keeps z (closeSession s) := by
  unfold closeSession
  with_reducible repeat' first | assumption | apply armReload_keeps | apply debugClose_keeps | refine Keeps.ite ?_ ?_

theorem powerDown_keeps {z s : State} (h : Keeps z s) : Keeps z (powerDown s) := by
  unfold powerDown
  with_reducible
    repeat' first
      | assumption | apply setOut_keeps | apply postSluChanges_keeps | apply sealAll_keeps
      | apply functionReset_keeps | apply setPwr_keeps | apply domainLost_keeps | apply parkLedger_keeps
      | apply closeSession_keeps | (intro _ _ _; try dsimp only)
      | extract_lets x | refine Keeps.foldl ?_ ?_ | refine Keeps.ite ?_ ?_ | split
      | refine Keeps.upd ?_ rfl rfl rfl rfl rfl rfl

theorem phaseTwo_keeps {z s : State} (h : Keeps z s) : Keeps z (phaseTwo s) := by
  unfold phaseTwo
  with_reducible
    repeat' first
      | assumption | apply drawFree_keeps | apply setPwr_keeps | refine Keeps.ite ?_ ?_ | split
      | refine Keeps.upd ?_ rfl rfl rfl rfl rfl rfl

theorem tryStart_keeps {z s : State} (h : Keeps z s) : Keeps z (tryStart s) := by
  unfold tryStart
  with_reducible repeat' first | assumption | apply phaseTwo_keeps | refine Keeps.ite ?_ ?_

theorem resetWithdraw_keeps {z s : State} (h : Keeps z s) (n : Nat) : Keeps z (resetWithdraw s n) := by
  unfold resetWithdraw
  with_reducible
    repeat' first
      | assumption | apply setOut_keeps | apply setLane_keeps | apply countStop_keeps | apply stageLane_keeps
      | apply countChange_keeps | refine Keeps.ite ?_ ?_

theorem afterRst_keeps {z s : State} (h : Keeps z s) : Keeps z (afterRst s) := by
  unfold afterRst
  with_reducible
    repeat' first
      | assumption | refine Keeps.ite ?_ ?_ | split | refine Keeps.upd ?_ rfl rfl rfl rfl rfl rfl

theorem rstReset_keeps {z s : State} (h : Keeps z s) (causes : BitVec 11) : Keeps z (rstReset s causes) := by
  unfold rstReset
  with_reducible
    repeat' first
      | assumption | apply postSluChanges_keeps | apply laneDown_keeps | apply debugClose_keeps | apply setPwr_keeps
      | apply resetWithdraw_keeps | apply afterRst_keeps | (intro _ _ _; try dsimp only) | refine Keeps.foldl ?_ ?_
      | refine Keeps.ite ?_ ?_

theorem rstPulse_keeps {z s : State} (h : Keeps z s) (causes : BitVec 11) : Keeps z (rstPulse s causes) := by
  unfold rstPulse
  with_reducible repeat' first | assumption | apply tryStart_keeps | apply rstReset_keeps

theorem stageWake_keeps {z s : State} (h : Keeps z s) : Keeps z (stageWake s) := by
  unfold stageWake
  with_reducible repeat' first | assumption | apply drawFree_keeps | apply stageSoon_keeps

theorem wakeNow_keeps {z s : State} (h : Keeps z s) (bit : Nat) (tamp : Nat) (causes : BitVec 11) :
    Keeps z (wakeNow s bit tamp causes) := by
  unfold wakeNow
  with_reducible
    repeat' first
      | assumption | apply setPwr_keeps | apply rstReset_keeps | apply stageWake_keeps | refine Keeps.ite ?_ ?_
      | split | refine Keeps.upd ?_ rfl rfl rfl rfl rfl rfl

theorem wakeSource_keeps {z s : State} (h : Keeps z s) (src : WakeSrc) : Keeps z (wakeSource s src) := by
  unfold wakeSource
  with_reducible
    repeat' first
      | assumption | apply setPwr_keeps | apply tryStart_keeps | apply wakeNow_keeps | refine Keeps.ite ?_ ?_

theorem wakePulse_keeps {z s0 : State} (h : Keeps z s0) (gapUs : Nat) (pulseUs : Nat) :
    Keeps z (wakePulse s0 gapUs pulseUs) := by
  unfold wakePulse
  with_reducible
    repeat' first
      | assumption | apply drawFree_keeps | apply setPwr_keeps | apply wakeSource_keeps | refine Keeps.ite ?_ ?_

theorem sniff_keeps {z s : State} (h : Keeps z s) (preamble : Bool) : Keeps z (sniff s preamble) := by
  unfold sniff
  with_reducible
    repeat' first
      | assumption | refine Keeps.ite ?_ ?_ | split | refine Keeps.upd ?_ rfl rfl rfl rfl rfl rfl

theorem sniffTimeout_keeps {z s : State} (h : Keeps z s) : Keeps z (sniffTimeout s) := by
  unfold sniffTimeout
  with_reducible
    repeat' first
      | assumption | refine Keeps.ite ?_ ?_ | split | refine Keeps.upd ?_ rfl rfl rfl rfl rfl rfl

theorem devWakeNow_keeps {z s : State} (h : Keeps z s) (t : Telegram) : Keeps z (devWakeNow s t) := by
  unfold devWakeNow
  with_reducible
    repeat' first
      | assumption | apply bumpRad_keeps | apply wakeSource_keeps | refine Keeps.ite ?_ ?_ | split
      | refine Keeps.upd ?_ rfl rfl rfl rfl rfl rfl

theorem setSupply_keeps {z s : State} (h : Keeps z s) (x : Supply) (good : Bool) : Keeps z (setSupply s x good) :=
  Keeps.upd h rfl rfl rfl rfl rfl rfl

theorem supplyWarn_keeps {z s : State} (h : Keeps z s) (x : Supply) (l : List (Bool × Bool)) :
    Keeps z (supplyWarn s x l) := by
  unfold supplyWarn
  with_reducible repeat' first | assumption | apply lastGasp_keeps | apply setPwr_keeps | split

theorem supplyUnder_keeps {s : State} {x : Supply} (hx : x ≠ .vaon) : Keeps s (supplyUnder s x) := by
  have h := setSupply_keeps (.refl s) x false
  unfold supplyUnder
  cases x with
  | vaon => exact absurd rfl hx
  | vrf => exact Keeps.ite (domainLost_keeps (radioOut_keeps h) _) (radioOut_keeps h)
  | vdrv b => exact bankUnder_keeps h _
  | _ => exact rstReset_keeps h _

theorem supplyBack_keeps {z s : State} (h : Keeps z s) (x : Supply) : Keeps z (supplyBack s x) := by
  unfold supplyBack
  with_reducible
    repeat' first
      | assumption | apply bankBack_keeps | apply setPwr_keeps | apply tryStart_keeps | apply setSupply_keeps
      | split

theorem rstPin_keeps {z s : State} (h : Keeps z s) (lowUs : Nat) (taken : Bool) : Keeps z (rstPin s lowUs taken) := by
  unfold rstPin
  with_reducible
    repeat' first
      | assumption | apply setPwr_keeps | apply rstReset_keeps | apply wakeNow_keeps | refine Keeps.ite ?_ ?_

theorem rstRelease_keeps {z s : State} (h : Keeps z s) : Keeps z (rstRelease s) := by
  unfold rstRelease
  with_reducible repeat' first | assumption | apply setPwr_keeps | apply tryStart_keeps

theorem spillHold_keeps {z s : State} (h : Keeps z s) (n : Nat) : Keeps z (spillHold s n) := by
  unfold spillHold
  with_reducible repeat' first | assumption | apply setLane_keeps | apply stageLane_keeps | refine Keeps.ite ?_ ?_

theorem enterSpillway_keeps {z s : State} (h : Keeps z s) (cause : Nat) : Keeps z (enterSpillway s cause) := by
  unfold enterSpillway
  with_reducible
    repeat' first
      | assumption | apply postSluChanges_keeps | apply setPwr_keeps | apply spillHold_keeps
      | (intro _ _ _; try dsimp only) | refine Keeps.foldl ?_ ?_

theorem optionLoad_keeps {z s : State} (h : Keeps z s) (aOk : Bool) (bOk : Bool) : Keeps z (optionLoad s aOk bOk) := by
  unfold optionLoad
  with_reducible
    repeat' first
      | assumption | apply mirrorOptions_keeps | apply setPwr_keeps | apply enterSpillway_keeps
      | refine Keeps.ite ?_ ?_ | split | refine Keeps.upd ?_ rfl rfl rfl rfl rfl rfl

theorem keeperBootNow_keeps {z s : State} (h : Keeps z s) (aOk : Bool) (bOk : Bool) : Keeps z (keeperBootNow s aOk bOk) := by
  unfold keeperBootNow
  with_reducible
    repeat' first
      | assumption | apply countArea_keeps | apply stageConfig_keeps | apply setPwr_keeps
      | apply enterSpillway_keeps | refine Keeps.ite ?_ ?_ | split | refine Keeps.upd ?_ rfl rfl rfl rfl rfl rfl

theorem loadImage_keeps {z s : State} (h : Keeps z s) (aOk : Bool) (bOk : Bool) : Keeps z (loadImage s aOk bOk) := by
  unfold loadImage
  with_reducible
    repeat' first
      | assumption | apply stageConfig_keeps | refine Keeps.foldl ?_ ?_ | refine Keeps.ite ?_ ?_ | split
      | refine Keeps.upd ?_ rfl rfl rfl rfl rfl rfl

theorem flushLog_keeps {z s : State} (h : Keeps z s) : Keeps z (flushLog s) := by
  unfold flushLog
  with_reducible
    repeat' first
      | assumption | apply appendEntry_keeps | (intro _ _ _; try dsimp only) | refine Keeps.foldl ?_ ?_
      | refine Keeps.upd ?_ rfl rfl rfl rfl rfl rfl

theorem loadTable_keeps {z s0 : State} (h : Keeps z s0) : Keeps z (loadTable s0) := by
  unfold loadTable
  with_reducible
    repeat' first
      | assumption | apply modChan_keeps | apply modPol_keeps | apply setBank_keeps | apply retirementFound_keeps
      | (intro _ _ _; try dsimp only) | refine Keeps.foldl ?_ ?_ | refine Keeps.ite ?_ ?_ | split
      | refine Keeps.upd ?_ rfl rfl rfl rfl rfl rfl

theorem loadTolerance_keeps {z s : State} (h : Keeps z s) (c : Nat) : Keeps z (loadTolerance s c) := by
  unfold loadTolerance
  extract_lets e
  clear_value e
  split
  · exact Keeps.ite (startTolerance_keeps h _ _) h
  · exact h

theorem loadRegistry_keeps {z s : State} (h : Keeps z s) : Keeps z (loadRegistry s) := by
  unfold loadRegistry
  with_reducible
    repeat' first
      | assumption | apply stageSoon_keeps | apply registryFound_keeps | refine Keeps.ite ?_ ?_ | split
      | refine Keeps.upd ?_ rfl rfl rfl rfl rfl rfl

theorem loadTokens_keeps {z s0 : State} (h : Keeps z s0) : Keeps z (loadTokens s0) := by
  unfold loadTokens
  with_reducible
    repeat' first
      | assumption | apply modChan_keeps | apply loadTolerance_keeps | apply loadRegistry_keeps
      | (intro _ _ _; try dsimp only) | refine Keeps.foldl ?_ ?_ | refine Keeps.ite ?_ ?_ | split
      | refine Keeps.upd ?_ rfl rfl rfl rfl rfl rfl

theorem configLoad_keeps {z s : State} (h : Keeps z s) (aOk : Bool) (bOk : Bool) : Keeps z (configLoad s aOk bOk) := by
  unfold configLoad
  with_reducible
    repeat' first
      | assumption | apply modPol_keeps | apply countArea_keeps | apply setPwr_keeps | apply loadImage_keeps
      | apply flushLog_keeps | apply loadTable_keeps | apply loadTokens_keeps | (intro _ _ _; try dsimp only)
      | refine Keeps.foldl ?_ ?_ | refine Keeps.ite ?_ ?_ | split | refine Keeps.upd ?_ rfl rfl rfl rfl rfl rfl

theorem startTimeout_keeps {z s : State} (h : Keeps z s) : Keeps z (startTimeout s) := by
  unfold startTimeout
  with_reducible repeat' first | assumption | apply rstPulse_keeps | split

theorem keeperDown_keeps {z s : State} (h : Keeps z s) : Keeps z (keeperDown s) := by
  unfold keeperDown
  with_reducible
    repeat' first
      | assumption | refine Keeps.ite ?_ ?_ | split | refine Keeps.upd ?_ rfl rfl rfl rfl rfl rfl

theorem retireJobs_keeps {z : State} (k : Nat) {s : State} (h : Keeps z s) (ch : Nat) : Keeps z (retireJobs k s ch) := by
  induction k generalizing s with
  | zero => exact h
  | succ k ih =>
    unfold retireJobs
    with_reducible
      repeat' first
        | assumption | with_reducible apply ih | apply popHead_keeps | apply failTx_keeps | refine Keeps.ite ?_ ?_
        | split

theorem outOfService_keeps {z s : State} (h : Keeps z s) (ch : Nat) : Keeps z (outOfService s ch) := by
  unfold outOfService
  with_reducible
    repeat' first
      | assumption | apply modChan_keeps | apply pairSlot_keeps | apply startTolerance_keeps
      | apply retireJobs_keeps | refine Keeps.ite ?_ ?_

theorem retireChannel_keeps {z s : State} (h : Keeps z s) (ch : Nat) (cause : Byte) :
    Keeps z (retireChannel s ch cause) := by
  unfold retireChannel
  with_reducible
    repeat' first
      | assumption | apply modChan_keeps | apply excludeRegs_keeps | apply recordRetire_keeps
      | apply outOfService_keeps | refine Keeps.ite ?_ ?_

theorem retireLink_keeps {z s : State} (h : Keeps z s) (b : Nat) : Keeps z (retireLink s b) := by
  unfold retireLink
  with_reducible
    repeat' first
      | assumption | apply setBank_keeps | apply recordRetire_keeps | apply outOfService_keeps
      | (intro _ _ _; try dsimp only) | refine Keeps.foldl ?_ ?_ | refine Keeps.ite ?_ ?_

theorem retireUnit_keeps {z s : State} (h : Keeps z s) (r : Nat × Nat × Byte) : Keeps z (retireUnit s r) := by
  unfold retireUnit
  with_reducible
    repeat' first
      | assumption | apply recordRetire_keeps | apply polRetire_keeps | apply retireRadio_keeps
      | apply retireChannel_keeps | apply retireLink_keeps | refine Keeps.ite ?_ ?_

theorem retireDueWhere_keeps {z s : State} (h : Keeps z s) (p : Nat → Nat → Bool) : Keeps z (retireDueWhere s p) := by
  unfold retireDueWhere
  with_reducible
    repeat' first
      | assumption | apply retireUnit_keeps | (intro _ _ _; try dsimp only) | refine Keeps.foldl ?_ ?_
      | refine Keeps.upd ?_ rfl rfl rfl rfl rfl rfl

theorem retireStep_keeps {z s : State} (h : Keeps z s) : Keeps z (retireStep s) := by
  unfold retireStep
  with_reducible repeat' first | assumption | apply retireDueWhere_keeps

theorem sealRetire_keeps {z s : State} (h : Keeps z s) (u : Nat × Nat) : Keeps z (sealRetire s u) := by
  unfold sealRetire
  with_reducible
    repeat' first
      | assumption | apply polRetire_keeps | apply retireRadio_keeps | apply retireChannel_keeps
      | refine Keeps.ite ?_ ?_

theorem sealLimitNow_keeps {z s : State} (h : Keeps z s) : Keeps z (sealLimitNow s) := by
  unfold sealLimitNow
  with_reducible
    repeat' first
      | assumption | apply excludeRegs_keeps | apply sealRetire_keeps | (intro _ _ _; try dsimp only)
      | refine Keeps.foldl ?_ ?_ | refine Keeps.ite ?_ ?_ | split | refine Keeps.upd ?_ rfl rfl rfl rfl rfl rfl

theorem retireRow_keeps {z s : State} (h : Keeps z s) (cls : Nat) (idx : Nat) : Keeps z (retireRow s cls idx) := by
  unfold retireRow
  with_reducible repeat' first | assumption | apply retireDueWhere_keeps

theorem noteOff_keeps {z s : State} (h : Keeps z s) (off : Nat) (d : Nat) : Keeps z (noteOff s off d) := by
  unfold noteOff
  with_reducible
    repeat' first
      | assumption | apply postEvent_keeps | refine Keeps.ite ?_ ?_ | split
      | refine Keeps.upd ?_ rfl rfl rfl rfl rfl rfl

theorem putRdata_keeps {z s : State} (h : Keeps z s) (w : Word) : Keeps z (putRdata s w) :=
  Keeps.upd h rfl rfl rfl rfl rfl rfl

theorem readReg_keeps {z s0 : State} (h : Keeps z s0) (p : Path) (off : Nat) : Keeps z (readReg s0 p off) := by
  unfold readReg
  with_reducible
    repeat' first
      | assumption | apply dozeLeave_keeps | apply noteOff_keeps | apply putRdata_keeps | refine Keeps.ite ?_ ?_
      | split | refine Keeps.upd ?_ rfl rfl rfl rfl rfl rfl

theorem cfgCtl_keeps {z s : State} (h : Keeps z s) (v : Word) : Keeps z (cfgCtl s v) := by
  unfold cfgCtl
  with_reducible
    repeat' first
      | assumption | refine Keeps.ite ?_ ?_ | split | refine Keeps.upd ?_ rfl rfl rfl rfl rfl rfl

theorem sealRefWrite_keeps {z s : State} (h : Keeps z s) (v : Word) : Keeps z (sealRefWrite s v) :=
  Keeps.upd h rfl rfl rfl rfl rfl rfl

theorem cfgStatusWrite_keeps {z s : State} (h : Keeps z s) (v : Word) : Keeps z (cfgStatusWrite s v) :=
  Keeps.upd h rfl rfl rfl rfl rfl rfl

theorem holdWrite_keeps {z s : State} (h : Keeps z s) (v : Word) : Keeps z (holdWrite s v) :=
  Keeps.upd h rfl rfl rfl rfl rfl rfl

theorem ptmCtl_keeps {z s : State} (h : Keeps z s) (v : Word) : Keeps z (ptmCtl s v) :=
  Keeps.upd h rfl rfl rfl rfl rfl rfl

theorem writeQ_keeps {z s : State} (h : Keeps z s) (off : Nat) (v : Word) : Keeps z (writeQ s off v) := by
  unfold writeQ
  with_reducible
    repeat' first
      | assumption | apply setCq_keeps | apply sqCfg_keeps | apply cqCfg_keeps | apply eqCfg_keeps
      | apply sqBase_keeps | apply cqBase_keeps | apply eqBase_keeps | apply holdWrite_keeps
      | refine Keeps.ite ?_ ?_ | split | refine Keeps.upd ?_ rfl rfl rfl rfl rfl rfl

theorem sluStatusWrite_keeps {z s : State} (h : Keeps z s) (n : Nat) (v : Word) : Keeps z (sluStatusWrite s n v) :=
  Keeps.upd h rfl rfl rfl rfl rfl rfl

theorem tampWrite_keeps {z s : State} (h : Keeps z s) (v : Word) : Keeps z (tampWrite s v) :=
  Keeps.upd h rfl rfl rfl rfl rfl rfl

theorem writeFlags_keeps {z s : State} (h : Keeps z s) (off : Nat) (v : Word) : Keeps z (writeFlags s off v) := by
  unfold writeFlags
  with_reducible
    repeat' first
      | assumption | apply modChan_keeps | apply modPol_keeps | apply setPwr_keeps | apply requestSleep_keeps
      | apply cfgCtl_keeps | apply sealRefWrite_keeps | apply cfgStatusWrite_keeps | apply ptmCtl_keeps
      | apply sluStatusWrite_keeps | apply tampWrite_keeps | refine Keeps.ite ?_ ?_ | split
      | refine Keeps.upd ?_ rfl rfl rfl rfl rfl rfl

theorem writeNow_keeps {z s : State} (h : Keeps z s) (off : Nat) (v : Word) : Keeps z (writeNow s off v) := by
  unfold writeNow
  with_reducible
    repeat' first
      | assumption | apply stageWrite_keeps | apply writeQ_keeps | apply writeFlags_keeps | refine Keeps.ite ?_ ?_

theorem writeReg_keeps {z s0 : State} (h : Keeps z s0) (p : Path) (off : Nat) (v : Word) (be : BitVec 4) :
    Keeps z (writeReg s0 p off v be) := by
  unfold writeReg
  with_reducible
    repeat' first
      | assumption | apply deferAccess_keeps | apply msixWrite_keeps | apply dozeLeave_keeps | apply noteOff_keeps
      | apply writeNow_keeps | refine Keeps.ite ?_ ?_ | split

theorem hostWrite_keeps {z s : State} (h : Keeps z s) (off : Nat) (v : Word) : Keeps z (hostWrite s off v) := by
  unfold hostWrite
  with_reducible repeat' first | assumption | apply writeReg_keeps

theorem readRow_keeps {z s : State} (h : Keeps z s) (p : Path) (off : Nat) : Keeps z (readRow s p off) := by
  unfold readRow
  with_reducible repeat' first | assumption | apply readReg_keeps | refine Keeps.ite ?_ ?_

theorem runDeferred_keeps {z s : State} (h : Keeps z s) : Keeps z (runDeferred s) := by
  unfold runDeferred
  with_reducible
    repeat' first
      | assumption | apply ringDoorbell_keeps | apply writeNow_keeps | (intro _ _ _; try dsimp only)
      | refine Keeps.foldl ?_ ?_ | refine Keeps.ite ?_ ?_ | split | refine Keeps.upd ?_ rfl rfl rfl rfl rfl rfl

theorem flashPoke_keeps {z s : State} (h : Keeps z s) (area addr : Nat) (v : Byte) : Keeps z (flashPoke s area addr v) :=
  Keeps.upd h rfl rfl rfl rfl rfl rfl

theorem testModeNow_keeps {z s : State} (h : Keeps z s) : Keeps z (testModeNow s) := by
  unfold testModeNow
  with_reducible repeat' first | assumption | refine Keeps.upd ?_ rfl rfl rfl rfl rfl rfl

theorem tapLoad_keeps {z s : State} (h : Keeps z s) (i : TapInst) : Keeps z (tapLoad s i) := by
  unfold tapLoad
  with_reducible
    repeat' first
      | assumption | refine Keeps.ite ?_ ?_ | split | refine Keeps.upd ?_ rfl rfl rfl rfl rfl rfl

theorem tapAccess_keeps {z s : State} (h : Keeps z s) (op : TapOp) : Keeps z (tapAccess s op) := by
  unfold tapAccess
  with_reducible
    repeat' first
      | assumption | apply dozeLeave_keeps | apply putRdata_keeps | apply readReg_keeps | apply writeReg_keeps
      | apply flashPoke_keeps | apply testModeNow_keeps | apply tapLoad_keeps | refine Keeps.ite ?_ ?_ | split
      | refine Keeps.upd ?_ rfl rfl rfl rfl rfl rfl

theorem configWrite_keeps {z s : State} (h : Keeps z s) (r : Nat) (v : Word) : Keeps z (configWrite s r v) := by
  unfold configWrite
  with_reducible
    repeat' first
      | assumption | apply sendPending_keeps | apply setBme_keeps | apply functionReset_keeps
      | refine Keeps.ite ?_ ?_ | split | refine Keeps.upd ?_ rfl rfl rfl rfl rfl rfl

theorem configAccess_keeps {z s : State} (h : Keeps z s) (r : Nat) (write : Option Word) :
    Keeps z (configAccess s r write) := by
  unfold configAccess
  with_reducible
    repeat' first
      | assumption | apply putRdata_keeps | apply configWrite_keeps | refine Keeps.ite ?_ ?_ | split

theorem senseBanks_keeps {z s : State} (h : Keeps z s) (b : BeatIn) : Keeps z (senseBanks s b) := by
  unfold senseBanks
  with_reducible
    repeat' first
      | assumption | apply bankSupply_keeps | apply bankTemp_keeps | (intro _ _ _; try dsimp only)
      | refine Keeps.foldl ?_ ?_ | split

theorem beatEnds_keeps {z s : State} (h : Keeps z s) (b : BeatIn) : Keeps z (beatEnds s b) := by
  unfold beatEnds
  with_reducible
    repeat' first
      | assumption | apply linkBeat_keeps | apply txEnd_keeps | apply locLfEnd_keeps | apply senseBanks_keeps
      | (intro _ _ _; try dsimp only) | refine Keeps.foldl ?_ ?_

theorem ptmStep_keeps {z s : State} (h : Keeps z s) (ns : BitVec 64) : Keeps z (ptmStep s ns) := by
  unfold ptmStep
  with_reducible
    repeat' first
      | assumption | refine Keeps.ite ?_ ?_ | split | refine Keeps.upd ?_ rfl rfl rfl rfl rfl rfl

theorem dropCal_keeps {z s : State} (h : Keeps z s) (n : Nat) : Keeps z (dropCal s n) :=
  Keeps.upd h rfl rfl rfl rfl rfl rfl

theorem retrack_keeps {z s : State} (h : Keeps z s) (n : Nat) (f : Nat) : Keeps z (retrack s n f) := by
  unfold retrack
  with_reducible repeat' first | assumption | apply modChan_keeps

theorem retuneChan_keeps {z s : State} (h : Keeps z s) (s0 : State) (n : Nat) (wrote : Bool) :
    Keeps z (retuneChan s0 s n wrote) := by
  unfold retuneChan
  with_reducible repeat' first | assumption | apply dropCal_keeps | apply retrack_keeps | refine Keeps.ite ?_ ?_

theorem finishImage_keeps {z s : State} (h : Keeps z s) (accepted : Nat) : Keeps z (finishImage s accepted) := by
  unfold finishImage
  with_reducible
    repeat' first
      | assumption | apply finishNow_keeps | split | refine Keeps.upd ?_ rfl rfl rfl rfl rfl rfl

theorem stagedStep_keeps {z s : State} (h : Keeps z s) : Keeps z (stagedStep s) := by
  unfold stagedStep
  with_reducible
    repeat' first
      | assumption | apply applySet_keeps | apply takeStaged_keeps | apply stageMeterCfg_keeps
      | apply assignWrite_keeps | apply retuneChan_keeps | apply finishImage_keeps | (intro _ _ _; try dsimp only)
      | refine Keeps.foldl ?_ ?_ | refine Keeps.ite ?_ ?_

theorem commitStep_keeps {z s : State} (h : Keeps z s) : Keeps z (commitStep s) := by
  unfold commitStep
  with_reducible
    repeat' first
      | assumption | refine Keeps.ite ?_ ?_ | split | refine Keeps.upd ?_ rfl rfl rfl rfl rfl rfl

theorem stepTwo_keeps {z s : State} (h : Keeps z s) : Keeps z (stepTwo s) := by
  unfold stepTwo
  with_reducible
    repeat' first
      | assumption | apply sealReloadNow_keeps | apply applyDueChanges_keeps | apply calCommit_keeps
      | apply polUp_keeps | apply placementStep_keeps | apply enCheck_keeps | apply dropMarks_keeps
      | apply staleStep_keeps | apply freeInvalid_keeps | apply debugOpenNow_keeps | apply debugWindow_keeps
      | apply advanceBoundary_keeps | apply countIdle_keeps | apply levelStep_keeps | apply judgeSleep_keeps
      | apply retireStep_keeps | apply sealLimitNow_keeps | apply stagedStep_keeps | apply commitStep_keeps
      | (intro _ _ _; try dsimp only) | refine Keeps.foldl ?_ ?_ | refine Keeps.ite ?_ ?_

theorem captureCmd_keeps {z s : State} (h : Keeps z s) (c : Cmd) : Keeps z (captureCmd s c) := by
  unfold captureCmd
  with_reducible
    repeat' first
      | assumption | apply finishNow_keeps | apply finishBytes_keeps | apply failCmd_keeps | apply statement_keeps
      | refine Keeps.ite ?_ ?_

theorem captureStep_keeps {z s : State} (h : Keeps z s) : Keeps z (captureStep s) := by
  unfold captureStep
  with_reducible
    repeat' first
      | assumption | apply captureCmd_keeps | (intro _ _ _; try dsimp only) | refine Keeps.foldl ?_ ?_
      | refine Keeps.ite ?_ ?_

theorem ltrStep_keeps {z s : State} (h : Keeps z s) : Keeps z (ltrStep s) := by
  unfold ltrStep
  with_reducible
    repeat' first
      | assumption | refine Keeps.ite ?_ ?_ | split | refine Keeps.upd ?_ rfl rfl rfl rfl rfl rfl

theorem boundaryRest_keeps {z s : State} (h : Keeps z s) (c : MeterCfg) (b : BeatIn) : Keeps z (boundaryRest s c b) := by
  unfold boundaryRest
  with_reducible
    repeat' first
      | assumption | apply countStop_keeps | apply sealStep_keeps | apply heldReplies_keeps | apply leveeStep_keeps
      | apply finishSets_keeps | apply laneStep_keeps | apply settleDue_keeps | apply ledgerStep_keeps
      | apply countDoze_keeps | apply captureStep_keeps | apply ltrStep_keeps | refine Keeps.ite ?_ ?_

theorem closeBoundary_keeps {z s : State} (h : Keeps z s) : Keeps z (closeBoundary s) := by
  unfold closeBoundary
  with_reducible repeat' first | assumption | refine Keeps.upd ?_ rfl rfl rfl rfl rfl rfl

theorem reviewLane_keeps {z s : State} (h : Keeps z s) (l : LaneId) (n : Nat) : Keeps z (reviewLane s l n) := by
  unfold reviewLane
  with_reducible repeat' first | assumption | apply setLane_keeps | refine Keeps.ite ?_ ?_

theorem reviewLanes_keeps {z s : State} (h : Keeps z s) : Keeps z (reviewLanes s) := by
  unfold reviewLanes
  with_reducible
    repeat' first
      | assumption | apply reviewLane_keeps | (intro _ _ _; try dsimp only) | refine Keeps.foldl ?_ ?_

theorem slotAged_keeps {z s : State} (h : Keeps z s) (ch : Nat) : Keeps z (slotAged s ch) := by
  unfold slotAged
  with_reducible repeat' first | assumption | apply reviewLanes_keeps | refine Keeps.ite ?_ ?_

theorem tokenAged_keeps {z s : State} (h : Keeps z s) (rg : Nat) : Keeps z (tokenAged s rg) := by
  unfold tokenAged
  with_reducible repeat' first | assumption | apply reviewLanes_keeps | refine Keeps.ite ?_ ?_

theorem leaseExpire_keeps {z s : State} (h : Keeps z s) (n : Nat) : Keeps z (leaseExpire s n) := by
  unfold leaseExpire
  with_reducible
    repeat' first
      | assumption | apply postSluChanges_keeps | apply evalSluice_keeps | refine Keeps.ite ?_ ?_

/-- A boundary counts one beat, except under a power-on reset that is held, where nothing happens. -/
theorem beatBoundary_counts (s : State) (b : BeatIn) (hs : s.pwr.porHeld = false) :
    ∃ z, z.pending = s.pending ∧ z.clk.beat = s.clk.beat + 1 ∧ z.lcy.fuses = s.lcy.fuses ∧ (LedgerOk s → LedgerOk z) ∧
      Keeps z (beatBoundary s b) := by
  unfold beatBoundary
  rw [if_neg (by simp [hs])]
  split
  · exact ⟨countBeat s, rfl, rfl, rfl, id, .refl _⟩
  · have h := beatEnds_keeps (.refl s) b
    generalize beatEnds s b = x at h ⊢
    exact ⟨countBeat x, h.pending, congrArg (· + 1) h.beat, h.fuses, h.ledger,
      closeBoundary_keeps (boundaryRest_keeps (stepTwo_keeps (ptmStep_keeps (.refl _) _)) _ _)⟩

/-- A power-on reset clears the count and keeps the queue, the fuses and a sound ledger (R397). -/
theorem porReset_clears (s : State) :
    (porReset s).pending = s.pending ∧ (porReset s).clk.beat = 0 ∧ (porReset s).lcy.fuses = s.lcy.fuses ∧
      (LedgerOk s → LedgerOk (porReset s)) :=
  ⟨rfl, rfl, rfl, fun w => ⟨by simp [porReset, State.reset, Ledger.reset, BucketsOk, Buckets.zero], rfl,
    by simp [porReset, State.reset, Ledger.reset], w.2.2.2⟩⟩

theorem porPulse_clears (s : State) : ∃ z, z.pending = s.pending ∧ z.clk.beat = 0 ∧ z.lcy.fuses = s.lcy.fuses ∧
    (LedgerOk s → LedgerOk z) ∧ Keeps z (porPulse s) := by
  obtain ⟨a, b, c, d⟩ := porReset_clears s
  exact ⟨porReset s, a, b, c, d, tryStart_keeps (setPwr_keeps (.refl _) _)⟩

theorem supplyUnder_vaon_clears (s : State) : ∃ z, z.pending = s.pending ∧ z.clk.beat = 0 ∧ z.lcy.fuses = s.lcy.fuses ∧
    (LedgerOk s → LedgerOk z) ∧ Keeps z (supplyUnder s .vaon) := by
  unfold supplyUnder
  have h := setSupply_keeps (.refl s) .vaon false
  obtain ⟨a, b, c, d⟩ := porReset_clears (setSupply s .vaon false)
  exact ⟨porReset (setSupply s .vaon false), a.trans h.pending, b, c.trans h.fuses, fun w => d (h.ledger w),
    setPwr_keeps (.refl _) _⟩

end Sys2Proof.Machine
end

