-- ==== Sys2Proof/Laws/KeepsHost.lean ====
section
/-! SUPPORT. What each operation keeps: the bodies of the host commands. -/

namespace Sys2Proof.Machine

open Sys2Proof

theorem launch_keeps {z s : State} (h : Keeps z s) (c : Cmd) (ch : Nat) (pol : Option Nat) (kind : JobKind) (rg : Nat) :
    Keeps z (launch s c ch pol kind rg) := by
  unfold launch
  with_reducible
    repeat' first
      | assumption | apply addRec_keeps | apply authCmdStep_keeps | apply enqueue_keeps | split

theorem sweepOn_keeps {z s : State} (h : Keeps z s) (c : Cmd) (chs : List Nat) (pol : Option Nat) :
    Keeps z (sweepOn s c chs pol) := by
  unfold sweepOn
  with_reducible
    repeat' first
      | assumption | apply putCmd_keeps | apply launch_keeps | (intro _ _ _; try dsimp only)
      | refine Keeps.foldl ?_ ?_

theorem sweepRun_keeps {z s : State} (h : Keeps z s) (c : Cmd) (u2 : List Byte) : Keeps z (sweepRun s c u2) := by
  unfold sweepRun
  with_reducible repeat' first | assumption | apply sweepOn_keeps

theorem unaddressed_keeps {z s : State} (h : Keeps z s) (c : Cmd) (st0 : Status) (idx : Nat) (id : BitVec 64) :
    Keeps z (unaddressed s c st0 idx id) := by
  unfold unaddressed
  with_reducible
    repeat' first
      | assumption | apply addRec_keeps | apply authCmdStep_keeps | refine Keeps.ite ?_ ?_ | split
      | refine Keeps.upd ?_ rfl rfl rfl rfl rfl rfl

theorem authRun_keeps {z s : State} (h : Keeps z s) (c : Cmd) (u2 : List Byte) : Keeps z (authRun s c u2) := by
  unfold authRun
  with_reducible
    repeat' first
      | assumption | apply putCmd_keeps | apply launch_keeps | apply unaddressed_keeps | refine Keeps.ite ?_ ?_
      | split

theorem rekeyRun_keeps {z s : State} (h : Keeps z s) (c : Cmd) (u2 : List Byte) : Keeps z (rekeyRun s c u2) := by
  unfold rekeyRun
  with_reducible
    repeat' first
      | assumption | apply putCmd_keeps | apply launch_keeps | apply unaddressed_keeps | refine Keeps.ite ?_ ?_
      | split

theorem locateRun_keeps {z s : State} (h : Keeps z s) (c : Cmd) (u2 : List Byte) : Keeps z (locateRun s c u2) := by
  unfold locateRun
  with_reducible
    repeat' first
      | assumption | apply pushJob_keeps | apply arm_keeps | (intro _ _ _; try dsimp only)
      | refine Keeps.foldl ?_ ?_

theorem enrolBegin_keeps {z s : State} (h : Keeps z s) : Keeps z (enrolBegin s) := by
  unfold enrolBegin
  with_reducible
    repeat' first
      | assumption | refine Keeps.ite ?_ ?_ | split | refine Keeps.upd ?_ rfl rfl rfl rfl rfl rfl

theorem enrolRun_keeps {z s : State} (h : Keeps z s) (c : Cmd) (u2 : List Byte) : Keeps z (enrolRun s c u2) := by
  unfold enrolRun
  with_reducible
    repeat' first
      | assumption | apply finishNow_keeps | apply addChange_keeps | apply enqueue_keeps | apply enrolBegin_keeps
      | refine Keeps.ite ?_ ?_ | split

theorem calOne_keeps {z s : State} (h : Keeps z s) (c : Cmd) (ch : Nat) : Keeps z (calOne s c ch) := by
  unfold calOne
  with_reducible
    repeat' first
      | assumption | apply addRec_keeps | apply calCmdStep_keeps | apply enqueue_keeps | split
      | refine Keeps.upd ?_ rfl rfl rfl rfl rfl rfl

theorem calRun_keeps {z s : State} (h : Keeps z s) (c : Cmd) (u2 : List Byte) : Keeps z (calRun s c u2) := by
  unfold calRun
  with_reducible
    repeat' first
      | assumption | apply putCmd_keeps | apply calOne_keeps | (intro _ _ _; try dsimp only)
      | refine Keeps.foldl ?_ ?_

theorem ctlRun_keeps {z s : State} (h : Keeps z s) (c : Cmd) (u2 : List Byte) : Keeps z (ctlRun s c u2) := by
  unfold ctlRun
  with_reducible
    repeat' first
      | assumption | apply setPol_keeps | apply askMove_keeps | (intro _ _ _; try dsimp only)
      | refine Keeps.foldl ?_ ?_ | refine Keeps.ite ?_ ?_ | split | refine Keeps.upd ?_ rfl rfl rfl rfl rfl rfl

theorem startSweep_keeps {z s : State} (h : Keeps z s) : Keeps z (startSweep s) := by
  unfold startSweep
  with_reducible
    repeat' first
      | assumption | apply sweepOn_keeps | refine Keeps.ite ?_ ?_ | split
      | refine Keeps.upd ?_ rfl rfl rfl rfl rfl rfl

theorem startComplete_keeps {z s : State} (h : Keeps z s) : Keeps z (startComplete s) := by
  unfold startComplete
  with_reducible
    repeat' first
      | assumption | apply moveChan_keeps | apply updateMode_keeps | apply startSweep_keeps
      | (intro _ _ _; try dsimp only) | refine Keeps.foldl ?_ ?_ | refine Keeps.ite ?_ ?_ | split
      | refine Keeps.upd ?_ rfl rfl rfl rfl rfl rfl

theorem txRun_keeps {z s : State} (h : Keeps z s) (c : Cmd) (inp : List Byte) : Keeps z (txRun s c inp) := by
  unfold txRun
  with_reducible
    repeat' first
      | assumption | apply putCmd_keeps | apply failCmd_keeps | apply pushAct_keeps | refine Keeps.ite ?_ ?_

theorem windowRun_keeps {z s : State} (h : Keeps z s) (c : Cmd) (u2 : List Byte) : Keeps z (windowRun s c u2) :=
  Keeps.upd h rfl rfl rfl rfl rfl rfl

theorem rangeRun_keeps {z s : State} (h : Keeps z s) (c : Cmd) (u2 : List Byte) : Keeps z (rangeRun s c u2) := by
  unfold rangeRun
  with_reducible repeat' first | assumption | apply pushAct_keeps

theorem rangeRefused_keeps {z s : State} (h : Keeps z s) (sq : Nat) : Keeps z (rangeRefused s sq) := by
  unfold rangeRefused
  with_reducible
    repeat' first
      | assumption | apply bumpRad_keeps | apply keyRefused_keeps | refine Keeps.ite ?_ ?_ | split

theorem rangeRow_keeps {z s : State} (h : Keeps z s) (sq : Nat) (m : HostMem) : Keeps z (rangeRow s sq m) := by
  unfold rangeRow
  with_reducible
    repeat' first
      | assumption | apply runCmd_keeps | apply rangeRun_keeps | apply rangeRefused_keeps | intro _ _ _ _

theorem runs_keeps {z s : State} (h : Keeps z s) (u1 : Cmd) (u2 : List Byte) : Keeps z (runs s u1 u2) :=
  Keeps.upd h rfl rfl rfl rfl rfl rfl

theorem nopRun_keeps {z s : State} (h : Keeps z s) (c : Cmd) (u2 : List Byte) : Keeps z (nopRun s c u2) := by
  unfold nopRun
  with_reducible repeat' first | assumption | apply finishNow_keeps

theorem setRun_keeps {z s : State} (h : Keeps z s) (c : Cmd) (u2 : List Byte) : Keeps z (setRun s c u2) :=
  Keeps.upd h rfl rfl rfl rfl rfl rfl

theorem prepareRun_keeps {z s : State} (h : Keeps z s) (c : Cmd) : Keeps z (prepareRun s c) := by
  unfold prepareRun
  with_reducible repeat' first | assumption | apply addWait_keeps | apply serveWaiting_keeps | refine Keeps.ite ?_ ?_

theorem safeRun_keeps {z s : State} (h : Keeps z s) (c : Cmd) (u2 : List Byte) : Keeps z (safeRun s c u2) := by
  unfold safeRun
  with_reducible
    repeat' first
      | assumption | apply failCmd_keeps | apply stageSafe_keeps | apply prepareRun_keeps | refine Keeps.ite ?_ ?_
      | split | refine Keeps.upd ?_ rfl rfl rfl rfl rfl rfl

theorem topupRun_keeps {z s : State} (h : Keeps z s) (c : Cmd) (inp : List Byte) : Keeps z (topupRun s c inp) := by
  unfold topupRun
  with_reducible
    repeat' first
      | assumption | apply failCmd_keeps | apply judgeAll_keeps | refine Keeps.ite ?_ ?_ | split
      | refine Keeps.upd ?_ rfl rfl rfl rfl rfl rfl

theorem journalRun_keeps {z s : State} (h : Keeps z s) (c : Cmd) (u2 : List Byte) : Keeps z (journalRun s c u2) := by
  unfold journalRun
  with_reducible
    repeat' first
      | assumption | apply finishNow_keeps | apply finishBytes_keeps | apply failCmd_keeps | apply countRead_keeps
      | apply verifyChain_keeps | refine Keeps.ite ?_ ?_

theorem imageRun_keeps {z s : State} (h : Keeps z s) (c : Cmd) (inp : List Byte) : Keeps z (imageRun s c inp) := by
  unfold imageRun
  with_reducible
    repeat' first
      | assumption | apply finishNow_keeps | apply failCmd_keeps | refine Keeps.foldl ?_ ?_ | refine Keeps.ite ?_ ?_
      | split | refine Keeps.upd ?_ rfl rfl rfl rfl rfl rfl

theorem commitDone_keeps {z s : State} (h : Keeps z s) (good : Bool) : Keeps z (commitDone s good) := by
  unfold commitDone
  with_reducible
    repeat' first
      | assumption | apply flashRenew_keeps | apply stageConfig_keeps | apply finishCmd_keeps
      | refine Keeps.ite ?_ ?_ | split | refine Keeps.upd ?_ rfl rfl rfl rfl rfl rfl

theorem loadRun_keeps {z s : State} (h : Keeps z s) (c : Cmd) (inp : List Byte) : Keeps z (loadRun s c inp) := by
  unfold loadRun
  with_reducible
    repeat' first
      | assumption | apply postProgress_keeps | apply failCmd_keeps | refine Keeps.ite ?_ ?_ | split
      | refine Keeps.upd ?_ rfl rfl rfl rfl rfl rfl

theorem keeperRestart_keeps {z s : State} (h : Keeps z s) (uids : List Nat) : Keeps z (keeperRestart s uids) :=
  Keeps.upd h rfl rfl rfl rfl rfl rfl

theorem keeperSwitch_keeps {z s : State} (h : Keeps z s) (toB : Bool) (uid : Nat) : Keeps z (keeperSwitch s toB uid) :=
  Keeps.upd h rfl rfl rfl rfl rfl rfl

theorem loadDone_keeps {z s : State} (h : Keeps z s) (good : Bool) : Keeps z (loadDone s good) := by
  unfold loadDone
  with_reducible
    repeat' first
      | assumption | apply postProgress_keeps | apply flashRenew_keeps | apply finishNow_keeps | apply failCmd_keeps
      | apply keeperSwitch_keeps | refine Keeps.ite ?_ ?_ | split | refine Keeps.upd ?_ rfl rfl rfl rfl rfl rfl

theorem flashDone_keeps {z s : State} (h : Keeps z s) (op : FlashOp) (good : Bool) : Keeps z (flashDone s op good) := by
  unfold flashDone
  with_reducible
    repeat' first
      | assumption | apply finishTopup_keeps | apply commitDone_keeps | apply loadDone_keeps
      | refine Keeps.ite ?_ ?_ | split | refine Keeps.upd ?_ rfl rfl rfl rfl rfl rfl

theorem restartRun_keeps {z s : State} (h : Keeps z s) (c : Cmd) (u2 : List Byte) : Keeps z (restartRun s c u2) := by
  unfold restartRun
  with_reducible
    repeat' first
      | assumption | apply failCmd_keeps | apply rstPulse_keeps | apply keeperRestart_keeps
      | apply keeperSwitch_keeps | refine Keeps.ite ?_ ?_ | split | refine Keeps.upd ?_ rfl rfl rfl rfl rfl rfl

theorem restartDone_keeps {z s : State} (h : Keeps z s) : Keeps z (restartDone s) := by
  unfold restartDone
  with_reducible
    repeat' first
      | assumption | apply postCompletion_keeps | apply writeEvent_keeps | apply finishNow_keeps
      | apply flushLog_keeps | apply runDeferred_keeps | (intro _ _ _; try dsimp only) | refine Keeps.foldl ?_ ?_
      | refine Keeps.ite ?_ ?_ | split | refine Keeps.upd ?_ rfl rfl rfl rfl rfl rfl

theorem advanceRun_keeps {z s : State} (h : Keeps z s) (c : Cmd) (inp : List Byte) : Keeps z (advanceRun s c inp) := by
  unfold advanceRun
  with_reducible
    repeat' first
      | assumption | apply stageLife_keeps | apply finishNow_keeps | apply failCmd_keeps | apply advanceBegin_keeps
      | refine Keeps.ite ?_ ?_

theorem unlockRun_keeps {z s : State} (h : Keeps z s) (c : Cmd) (u2 : List Byte) : Keeps z (unlockRun s c u2) := by
  unfold unlockRun
  with_reducible repeat' first | assumption | apply enqueue_keeps

theorem unlockRow_keeps {z s : State} (h : Keeps z s) (sq : Nat) (m : HostMem) : Keeps z (unlockRow s sq m) := by
  unfold unlockRow
  with_reducible
    repeat' first
      | assumption | apply finishNow_keeps | apply runCmd_keeps | apply unlockRefuse_keeps | apply debugClose_keeps
      | apply unlockRun_keeps | intro _ _ _ _ | refine Keeps.ite ?_ ?_ | split

theorem runDike_keeps {z s : State} (h : Keeps z s) (sq op : Nat) (m : HostMem) (own : State → Cmd → Judge)
    (body : State → Cmd → List Byte → State) (hb : ∀ s c l, Keeps z s → Keeps z (body s c l)) :
    Keeps z (runDike s sq op m own body) := by
  unfold runDike
  have h1 := runCmd_keeps h sq op m own body hb
  exact Keeps.ite (dikeRefused_keeps h1) h1

theorem deriveRun_keeps {z s : State} (h : Keeps z s) (c : Cmd) (u2 : List Byte) : Keeps z (deriveRun s c u2) := by
  unfold deriveRun
  with_reducible
    repeat' first
      | assumption | apply finishNow_keeps | apply failCmd_keeps | apply deriveNode_keeps | split
      | refine Keeps.upd ?_ rfl rfl rfl rfl rfl rfl

theorem invalidateRun_keeps {z s : State} (h : Keeps z s) (c : Cmd) (u2 : List Byte) : Keeps z (invalidateRun s c u2) := by
  unfold invalidateRun
  with_reducible repeat' first | assumption | apply finishNow_keeps | apply invalidateAll_keeps

theorem infoRun_keeps {z s : State} (h : Keeps z s) (c : Cmd) (u2 : List Byte) : Keeps z (infoRun s c u2) := by
  unfold infoRun
  with_reducible repeat' first | assumption | apply finishBytes_keeps

theorem importRun_keeps {z s : State} (h : Keeps z s) (c : Cmd) (b : List Byte) : Keeps z (importRun s c b) := by
  unfold importRun
  with_reducible
    repeat' first
      | assumption | apply finishNow_keeps | apply failCmd_keeps | apply importNode_keeps | refine Keeps.ite ?_ ?_
      | split

end Sys2Proof.Machine
end

