-- ==== Sys2Proof/Laws/KeepsRows.lean ====
section
/-! SUPPORT. What each operation keeps: the rows of the table. -/

namespace Sys2Proof.Machine

open Sys2Proof

theorem execNop_keeps (sq : Fin 16) (m : HostMem) {s s1 : State} (e : execNop sq m s = .next s1) : Keeps s s1 := by
  unfold execNop at e
  cases e
  have h := Keeps.refl s
  with_reducible repeat' first | assumption | apply runCmd_keeps | apply nopRun_keeps | intro _ _ _ _

theorem execSnapshot_keeps (sq : Fin 16) (m : HostMem) {s s1 : State} (e : execSnapshot sq m s = .next s1) : Keeps s s1 := by
  unfold execSnapshot at e
  cases e
  have h := Keeps.refl s
  with_reducible repeat' first | assumption | apply runCmd_keeps | apply runs_keeps | intro _ _ _ _

theorem execSweep_keeps (sq : Fin 16) (m : HostMem) {s s1 : State} (e : execSweep sq m s = .next s1) : Keeps s s1 := by
  unfold execSweep at e
  cases e
  have h := Keeps.refl s
  with_reducible repeat' first | assumption | apply runCmd_keeps | apply sweepRun_keeps | intro _ _ _ _

theorem execAuthToken_keeps (sq : Fin 16) (m : HostMem) {s s1 : State} (e : execAuthToken sq m s = .next s1) :
    Keeps s s1 := by
  unfold execAuthToken at e
  cases e
  have h := Keeps.refl s
  with_reducible repeat' first | assumption | apply runCmd_keeps | apply authRun_keeps | intro _ _ _ _

theorem execLocate_keeps (sq : Fin 16) (m : HostMem) {s s1 : State} (e : execLocate sq m s = .next s1) : Keeps s s1 := by
  unfold execLocate at e
  cases e
  have h := Keeps.refl s
  with_reducible repeat' first | assumption | apply runCmd_keeps | apply locateRun_keeps | intro _ _ _ _

theorem execEnrol_keeps (sq : Fin 16) (m : HostMem) {s s1 : State} (e : execEnrol sq m s = .next s1) : Keeps s s1 := by
  unfold execEnrol at e
  cases e
  have h := Keeps.refl s
  with_reducible repeat' first | assumption | apply runCmd_keeps | apply enrolRun_keeps | intro _ _ _ _

theorem execRekeyToken_keeps (sq : Fin 16) (m : HostMem) {s s1 : State} (e : execRekeyToken sq m s = .next s1) :
    Keeps s s1 := by
  unfold execRekeyToken at e
  cases e
  have h := Keeps.refl s
  with_reducible repeat' first | assumption | apply runCmd_keeps | apply rekeyRun_keeps | intro _ _ _ _

theorem execCalChannel_keeps (sq : Fin 16) (m : HostMem) {s s1 : State} (e : execCalChannel sq m s = .next s1) :
    Keeps s s1 := by
  unfold execCalChannel at e
  cases e
  have h := Keeps.refl s
  with_reducible repeat' first | assumption | apply runCmd_keeps | apply calRun_keeps | intro _ _ _ _

theorem execRadioTx_keeps (sq : Fin 16) (m : HostMem) {s s1 : State} (e : execRadioTx sq m s = .next s1) : Keeps s s1 := by
  unfold execRadioTx at e
  cases e
  have h := Keeps.refl s
  with_reducible repeat' first | assumption | apply runCmd_keeps | apply txRun_keeps | intro _ _ _ _

theorem execRadioRxWindow_keeps (sq : Fin 16) (m : HostMem) {s s1 : State} (e : execRadioRxWindow sq m s = .next s1) :
    Keeps s s1 := by
  unfold execRadioRxWindow at e
  cases e
  have h := Keeps.refl s
  with_reducible repeat' first | assumption | apply runCmd_keeps | apply windowRun_keeps | intro _ _ _ _

theorem execRange_keeps (sq : Fin 16) (m : HostMem) {s s1 : State} (e : execRange sq m s = .next s1) : Keeps s s1 := by
  unfold execRange at e
  cases e
  have h := Keeps.refl s
  with_reducible repeat' first | assumption | apply rangeRow_keeps

theorem execSluiceSet_keeps (sq : Fin 16) (m : HostMem) {s s1 : State} (e : execSluiceSet sq m s = .next s1) :
    Keeps s s1 := by
  unfold execSluiceSet at e
  cases e
  have h := Keeps.refl s
  with_reducible repeat' first | assumption | apply runCmd_keeps | apply setRun_keeps | intro _ _ _ _

theorem execSluiceStatus_keeps (sq : Fin 16) (m : HostMem) {s s1 : State} (e : execSluiceStatus sq m s = .next s1) :
    Keeps s s1 := by
  unfold execSluiceStatus at e
  cases e
  have h := Keeps.refl s
  with_reducible repeat' first | assumption | apply runCmd_keeps | apply runs_keeps | intro _ _ _ _

theorem execSafeWithdraw_keeps (sq : Fin 16) (m : HostMem) {s s1 : State} (e : execSafeWithdraw sq m s = .next s1) :
    Keeps s s1 := by
  unfold execSafeWithdraw at e
  cases e
  have h := Keeps.refl s
  with_reducible repeat' first | assumption | apply runCmd_keeps | apply safeRun_keeps | intro _ _ _ _

theorem execLedgerTopup_keeps (sq : Fin 16) (m : HostMem) {s s1 : State} (e : execLedgerTopup sq m s = .next s1) :
    Keeps s s1 := by
  unfold execLedgerTopup at e
  cases e
  have h := Keeps.refl s
  with_reducible repeat' first | assumption | apply runCmd_keeps | apply topupRun_keeps | intro _ _ _ _

theorem execLedgerQuery_keeps (sq : Fin 16) (m : HostMem) {s s1 : State} (e : execLedgerQuery sq m s = .next s1) :
    Keeps s s1 := by
  unfold execLedgerQuery at e
  cases e
  have h := Keeps.refl s
  with_reducible repeat' first | assumption | apply runCmd_keeps | apply runs_keeps | intro _ _ _ _

theorem execLedgerCheckpoint_keeps (sq : Fin 16) (m : HostMem) {s s1 : State} (e : execLedgerCheckpoint sq m s = .next s1) :
    Keeps s s1 := by
  unfold execLedgerCheckpoint at e
  cases e
  have h := Keeps.refl s
  with_reducible repeat' first | assumption | apply runCmd_keeps | apply runs_keeps | intro _ _ _ _

theorem execJournalRead_keeps (sq : Fin 16) (m : HostMem) {s s1 : State} (e : execJournalRead sq m s = .next s1) :
    Keeps s s1 := by
  unfold execJournalRead at e
  cases e
  have h := Keeps.refl s
  with_reducible repeat' first | assumption | apply runCmd_keeps | apply journalRun_keeps | intro _ _ _ _

theorem execCipherCmac_keeps (sq : Fin 16) (m : HostMem) {s s1 : State} (e : execCipherCmac sq m s = .next s1) :
    Keeps s s1 := by
  unfold execCipherCmac at e
  cases e
  have h := Keeps.refl s
  with_reducible repeat' first | assumption | apply runCipher_keeps | apply cmacRun_keeps | intro _ _ _ _

theorem execCipherCtr_keeps (sq : Fin 16) (m : HostMem) {s s1 : State} (e : execCipherCtr sq m s = .next s1) :
    Keeps s s1 := by
  unfold execCipherCtr at e
  cases e
  have h := Keeps.refl s
  with_reducible repeat' first | assumption | apply runCipher_keeps | apply ctrRun_keeps | intro _ _ _ _

theorem execCcmSeal_keeps (sq : Fin 16) (m : HostMem) {s s1 : State} (e : execCcmSeal sq m s = .next s1) : Keeps s s1 := by
  unfold execCcmSeal at e
  cases e
  have h := Keeps.refl s
  with_reducible repeat' first | assumption | apply runCipher_keeps | apply ccmSealRun_keeps | intro _ _ _ _

theorem execCcmOpen_keeps (sq : Fin 16) (m : HostMem) {s s1 : State} (e : execCcmOpen sq m s = .next s1) : Keeps s s1 := by
  unfold execCcmOpen at e
  cases e
  have h := Keeps.refl s
  with_reducible repeat' first | assumption | apply runCipher_keeps | apply ccmOpenRun_keeps | intro _ _ _ _

theorem execKeyDerive_keeps (sq : Fin 16) (m : HostMem) {s s1 : State} (e : execKeyDerive sq m s = .next s1) :
    Keeps s s1 := by
  unfold execKeyDerive at e
  cases e
  have h := Keeps.refl s
  with_reducible repeat' first | assumption | apply runDike_keeps | apply deriveRun_keeps | intro _ _ _ _

theorem execKeyInvalidate_keeps (sq : Fin 16) (m : HostMem) {s s1 : State} (e : execKeyInvalidate sq m s = .next s1) :
    Keeps s s1 := by
  unfold execKeyInvalidate at e
  cases e
  have h := Keeps.refl s
  with_reducible repeat' first | assumption | apply runDike_keeps | apply invalidateRun_keeps | intro _ _ _ _

theorem execKeyInfo_keeps (sq : Fin 16) (m : HostMem) {s s1 : State} (e : execKeyInfo sq m s = .next s1) : Keeps s s1 := by
  unfold execKeyInfo at e
  cases e
  have h := Keeps.refl s
  with_reducible repeat' first | assumption | apply runCmd_keeps | apply infoRun_keeps | intro _ _ _ _

theorem execKeyImport_keeps (sq : Fin 16) (m : HostMem) {s s1 : State} (e : execKeyImport sq m s = .next s1) :
    Keeps s s1 := by
  unfold execKeyImport at e
  cases e
  have h := Keeps.refl s
  with_reducible repeat' first | assumption | apply runCmd_keeps | apply importRun_keeps | intro _ _ _ _

theorem execRngGet_keeps (sq : Fin 16) (m : HostMem) {s s1 : State} (e : execRngGet sq m s = .next s1) : Keeps s s1 := by
  unfold execRngGet at e
  cases e
  have h := Keeps.refl s
  with_reducible repeat' first | assumption | apply runCmd_keeps | apply rngRun_keeps | intro _ _ _ _

theorem execConfigStageImage_keeps (sq : Fin 16) (m : HostMem) {s s1 : State} (e : execConfigStageImage sq m s = .next s1) :
    Keeps s s1 := by
  unfold execConfigStageImage at e
  cases e
  have h := Keeps.refl s
  with_reducible repeat' first | assumption | apply runCmd_keeps | apply imageRun_keeps | intro _ _ _ _

theorem execConfigCommit_keeps (sq : Fin 16) (m : HostMem) {s s1 : State} (e : execConfigCommit sq m s = .next s1) :
    Keeps s s1 := by
  unfold execConfigCommit at e
  cases e
  have h := Keeps.refl s
  with_reducible repeat' first | assumption | apply runCmd_keeps | apply runs_keeps | intro _ _ _ _

theorem execPolderCtl_keeps (sq : Fin 16) (m : HostMem) {s s1 : State} (e : execPolderCtl sq m s = .next s1) :
    Keeps s s1 := by
  unfold execPolderCtl at e
  cases e
  have h := Keeps.refl s
  with_reducible repeat' first | assumption | apply runCmd_keeps | apply ctlRun_keeps | intro _ _ _ _

theorem execImageLoad_keeps (sq : Fin 16) (m : HostMem) {s s1 : State} (e : execImageLoad sq m s = .next s1) :
    Keeps s s1 := by
  unfold execImageLoad at e
  cases e
  have h := Keeps.refl s
  with_reducible repeat' first | assumption | apply runCmd_keeps | apply loadRun_keeps | intro _ _ _ _

theorem execRestart_keeps (sq : Fin 16) (m : HostMem) {s s1 : State} (e : execRestart sq m s = .next s1) : Keeps s s1 := by
  unfold execRestart at e
  cases e
  have h := Keeps.refl s
  with_reducible repeat' first | assumption | apply runCmd_keeps | apply restartRun_keeps | intro _ _ _ _

theorem execLifecycleAdvance_keeps (sq : Fin 16) (m : HostMem) {s s1 : State} (e : execLifecycleAdvance sq m s = .next s1) :
    Keeps s s1 := by
  unfold execLifecycleAdvance at e
  cases e
  have h := Keeps.refl s
  with_reducible repeat' first | assumption | apply runCmd_keeps | apply advanceRun_keeps | intro _ _ _ _

theorem execDebugUnlock_keeps (sq : Fin 16) (m : HostMem) {s s1 : State} (e : execDebugUnlock sq m s = .next s1) :
    Keeps s s1 := by
  unfold execDebugUnlock at e
  cases e
  have h := Keeps.refl s
  with_reducible repeat' first | assumption | apply unlockRow_keeps

theorem execSqTailDoorbell_keeps (sq : Fin 16) (v : Word) {s s1 : State} (e : execSqTailDoorbell sq v s = .next s1) :
    Keeps s s1 := by
  unfold execSqTailDoorbell at e
  cases e
  have h := Keeps.refl s
  with_reducible repeat' first | assumption | apply bell_keeps

theorem execCqHeadDoorbell_keeps (cq : Fin 16) (v : Word) {s s1 : State} (e : execCqHeadDoorbell cq v s = .next s1) :
    Keeps s s1 := by
  unfold execCqHeadDoorbell at e
  cases e
  have h := Keeps.refl s
  with_reducible repeat' first | assumption | apply bell_keeps

theorem execEqHeadDoorbell_keeps (v : Word) {s s1 : State} (e : execEqHeadDoorbell v s = .next s1) : Keeps s s1 := by
  unfold execEqHeadDoorbell at e
  cases e
  have h := Keeps.refl s
  with_reducible repeat' first | assumption | apply bell_keeps

theorem execDescriptorFetch_keeps (ds : List (Option Desc)) {s s1 : State} (e : execDescriptorFetch ds s = .next s1) :
    Keeps s s1 := by
  unfold execDescriptorFetch at e
  cases e
  have h := Keeps.refl s
  with_reducible repeat' first | assumption | apply fetchTurn_keeps

theorem execSqEnable_keeps (sq : Fin 16) (v : Word) {s s1 : State} (e : execSqEnable sq v s = .next s1) : Keeps s s1 := by
  unfold execSqEnable at e
  cases e
  have h := Keeps.refl s
  with_reducible repeat' first | assumption | apply hostWrite_keeps

theorem execSqDisable_keeps (sq : Fin 16) (v : Word) {s s1 : State} (e : execSqDisable sq v s = .next s1) : Keeps s s1 := by
  unfold execSqDisable at e
  cases e
  have h := Keeps.refl s
  with_reducible repeat' first | assumption | apply hostWrite_keeps

theorem execCqEnable_keeps (cq : Fin 16) (v : Word) {s s1 : State} (e : execCqEnable cq v s = .next s1) : Keeps s s1 := by
  unfold execCqEnable at e
  cases e
  have h := Keeps.refl s
  with_reducible repeat' first | assumption | apply hostWrite_keeps

theorem execCqDisable_keeps (cq : Fin 16) (v : Word) {s s1 : State} (e : execCqDisable cq v s = .next s1) : Keeps s s1 := by
  unfold execCqDisable at e
  cases e
  have h := Keeps.refl s
  with_reducible repeat' first | assumption | apply hostWrite_keeps

theorem execEqEnable_keeps (v : Word) {s s1 : State} (e : execEqEnable v s = .next s1) : Keeps s s1 := by
  unfold execEqEnable at e
  cases e
  have h := Keeps.refl s
  with_reducible repeat' first | assumption | apply hostWrite_keeps

theorem execEqDisable_keeps (v : Word) {s s1 : State} (e : execEqDisable v s = .next s1) : Keeps s s1 := by
  unfold execEqDisable at e
  cases e
  have h := Keeps.refl s
  with_reducible repeat' first | assumption | apply hostWrite_keeps

theorem execQHoldWrite_keeps (v : Word) {s s1 : State} (e : execQHoldWrite v s = .next s1) : Keeps s s1 := by
  unfold execQHoldWrite at e
  cases e
  have h := Keeps.refl s
  with_reducible repeat' first | assumption | apply hostWrite_keeps

theorem execCfgHold_keeps (on : Bool) {s s1 : State} (e : execCfgHold on s = .next s1) : Keeps s s1 := by
  unfold execCfgHold at e
  cases e
  have h := Keeps.refl s
  with_reducible repeat' first | assumption | apply hostWrite_keeps

theorem execCfgDiscard_keeps  {s s1 : State} (e : execCfgDiscard s = .next s1) : Keeps s s1 := by
  unfold execCfgDiscard at e
  cases e
  have h := Keeps.refl s
  with_reducible repeat' first | assumption | apply hostWrite_keeps

theorem execCfgSealRefWrite_keeps (v : Word) {s s1 : State} (e : execCfgSealRefWrite v s = .next s1) : Keeps s s1 := by
  unfold execCfgSealRefWrite at e
  cases e
  have h := Keeps.refl s
  with_reducible repeat' first | assumption | apply hostWrite_keeps

theorem execSleepRequest_keeps  {s s1 : State} (e : execSleepRequest s = .next s1) : Keeps s s1 := by
  unfold execSleepRequest at e
  cases e
  have h := Keeps.refl s
  with_reducible repeat' first | assumption | apply hostWrite_keeps

theorem execHibernateRequest_keeps  {s s1 : State} (e : execHibernateRequest s = .next s1) : Keeps s s1 := by
  unfold execHibernateRequest at e
  cases e
  have h := Keeps.refl s
  with_reducible repeat' first | assumption | apply hostWrite_keeps

theorem execPtmCapture_keeps  {s s1 : State} (e : execPtmCapture s = .next s1) : Keeps s s1 := by
  unfold execPtmCapture at e
  cases e
  have h := Keeps.refl s
  with_reducible repeat' first | assumption | apply hostWrite_keeps

theorem execRlRead_keeps (path : Path) (off : BitVec 16) {s s1 : State} (e : execRlRead path off s = .next s1) :
    Keeps s s1 := by
  unfold execRlRead at e
  cases e
  have h := Keeps.refl s
  with_reducible repeat' first | assumption | apply readRow_keeps | refine Keeps.ite ?_ ?_

theorem execPoweredOffAccess_keeps (path : Path) (off : BitVec 16) (write : Bool) {s s1 : State} (e : execPoweredOffAccess path off write s = .next s1) :
    Keeps s s1 := by
  unfold execPoweredOffAccess at e
  cases e
  have h := Keeps.refl s
  with_reducible repeat' first | assumption | apply writeReg_keeps | apply readRow_keeps | refine Keeps.ite ?_ ?_

theorem execRegisterWrite_keeps (path : Path) (off : BitVec 16) (v : Word) (be : BitVec 4) {s s1 : State} (e : execRegisterWrite path off v be s = .next s1) :
    Keeps s s1 := by
  unfold execRegisterWrite at e
  cases e
  have h := Keeps.refl s
  with_reducible repeat' first | assumption | apply writeReg_keeps

theorem execInterruptTimerExpiry_keeps (q : Fin 17) {s s1 : State} (e : execInterruptTimerExpiry q s = .next s1) :
    Keeps s s1 := by
  unfold execInterruptTimerExpiry at e
  cases e
  have h := Keeps.refl s
  with_reducible repeat' first | assumption | apply timerExpiry_keeps

theorem execFunctionReset_keeps  {s s1 : State} (e : execFunctionReset s = .next s1) : Keeps s s1 := by
  unfold execFunctionReset at e
  cases e
  have h := Keeps.refl s
  with_reducible repeat' first | assumption | apply functionReset_keeps

theorem execBusMasterEnableChange_keeps (on : Bool) {s s1 : State} (e : execBusMasterEnableChange on s = .next s1) :
    Keeps s s1 := by
  unfold execBusMasterEnableChange at e
  cases e
  have h := Keeps.refl s
  with_reducible repeat' first | assumption | apply setBme_keeps

theorem execMsixTableWrite_keeps (vec : Fin 32) (dw : Fin 4) (v : Word) {s s1 : State} (e : execMsixTableWrite vec dw v s = .next s1) :
    Keeps s s1 := by
  unfold execMsixTableWrite at e
  cases e
  have h := Keeps.refl s
  with_reducible repeat' first | assumption | apply msixWrite_keeps | apply dozeLeave_keeps | refine Keeps.ite ?_ ?_

theorem execPcieConfigAccess_keeps (reg : Fin 1024) (write : Option Word) {s s1 : State} (e : execPcieConfigAccess reg write s = .next s1) :
    Keeps s s1 := by
  unfold execPcieConfigAccess at e
  cases e
  have h := Keeps.refl s
  with_reducible repeat' first | assumption | apply configAccess_keeps

theorem execJtagTapAccess_keeps (op : TapOp) {s s1 : State} (e : execJtagTapAccess op s = .next s1) : Keeps s s1 := by
  unfold execJtagTapAccess at e
  cases e
  have h := Keeps.refl s
  with_reducible repeat' first | assumption | apply tapAccess_keeps

theorem execSealReload_keeps  {s s1 : State} (e : execSealReload s = .next s1) : Keeps s s1 := by
  unfold execSealReload at e
  cases e
  have h := Keeps.refl s
  with_reducible repeat' first | assumption | apply sealReloadNow_keeps

theorem execSealReloadLimit_keeps  {s s1 : State} (e : execSealReloadLimit s = .next s1) : Keeps s s1 := by
  unfold execSealReloadLimit at e
  cases e
  have h := Keeps.refl s
  with_reducible repeat' first | assumption | apply sealLimitNow_keeps

theorem execSealGraceExpiry_keeps  {s s1 : State} (e : execSealGraceExpiry s = .next s1) : Keeps s s1 := by
  unfold execSealGraceExpiry at e
  cases e
  have h := Keeps.refl s
  with_reducible repeat' first | assumption | apply sealGraceNow_keeps

theorem execLeaseExpiry_keeps (n : Fin 4) {s s1 : State} (e : execLeaseExpiry n s = .next s1) : Keeps s s1 := by
  unfold execLeaseExpiry at e
  cases e
  have h := Keeps.refl s
  with_reducible repeat' first | assumption | apply leaseExpire_keeps

theorem execVerificationAgeOut_keeps (ch : Fin 96) {s s1 : State} (e : execVerificationAgeOut ch s = .next s1) :
    Keeps s s1 := by
  unfold execVerificationAgeOut at e
  cases e
  have h := Keeps.refl s
  with_reducible repeat' first | assumption | apply slotAged_keeps

theorem execTokenAgeOut_keeps (reg : Fin 4096) {s s1 : State} (e : execTokenAgeOut reg s = .next s1) : Keeps s s1 := by
  unfold execTokenAgeOut at e
  cases e
  have h := Keeps.refl s
  with_reducible repeat' first | assumption | apply tokenAged_keeps

theorem execToleranceExpiry_keeps (ch : Fin 96) {s s1 : State} (e : execToleranceExpiry ch s = .next s1) : Keeps s s1 := by
  unfold execToleranceExpiry at e
  cases e
  have h := Keeps.refl s
  with_reducible repeat' first | assumption | apply tolExpire_keeps

theorem execLeveeDeferLimit_keeps (ch : Fin 96) {s s1 : State} (e : execLeveeDeferLimit ch s = .next s1) : Keeps s s1 := by
  unfold execLeveeDeferLimit at e
  cases e
  have h := Keeps.refl s
  with_reducible repeat' first | assumption | apply deferLimit_keeps

theorem execUplinkReply_keeps (ch : Fin 96) (r : AirResult) {s s1 : State} (e : execUplinkReply ch r s = .next s1) :
    Keeps s s1 := by
  unfold execUplinkReply at e
  cases e
  have h := Keeps.refl s
  with_reducible repeat' first | assumption | apply takeMsg_keeps

theorem execCalibrationCommit_keeps (ch : Fin 96) {s s1 : State} (e : execCalibrationCommit ch s = .next s1) :
    Keeps s s1 := by
  unfold execCalibrationCommit at e
  cases e
  have h := Keeps.refl s
  with_reducible repeat' first | assumption | apply calCommit_keeps

theorem execCalibrationDone_keeps (ch : Fin 96) (r : CalResult) {s s1 : State} (e : execCalibrationDone ch r s = .next s1) :
    Keeps s s1 := by
  unfold execCalibrationDone at e
  cases e
  have h := Keeps.refl s
  with_reducible repeat' first | assumption | apply calibrationDone_keeps

theorem execChannelFault_keeps (ch : Fin 96) (f : ChFault) {s s1 : State} (e : execChannelFault ch f s = .next s1) :
    Keeps s s1 := by
  unfold execChannelFault at e
  cases e
  have h := Keeps.refl s
  with_reducible repeat' first | assumption | apply chanFault_keeps

theorem execFaultRetry_keeps (ch : Fin 96) {s s1 : State} (e : execFaultRetry ch s = .next s1) : Keeps s s1 := by
  unfold execFaultRetry at e
  cases e
  have h := Keeps.refl s
  with_reducible repeat' first | assumption | apply resumeOne_keeps | refine Keeps.ite ?_ ?_

theorem execMigrationRestart_keeps (ch : Fin 96) {s s1 : State} (e : execMigrationRestart ch s = .next s1) : Keeps s s1 := by
  unfold execMigrationRestart at e
  cases e
  have h := Keeps.refl s
  with_reducible repeat' first | assumption | apply resumeOne_keeps | refine Keeps.ite ?_ ?_

theorem execChannelRetirement_keeps (ch : Fin 96) {s s1 : State} (e : execChannelRetirement ch s = .next s1) :
    Keeps s s1 := by
  unfold execChannelRetirement at e
  cases e
  have h := Keeps.refl s
  with_reducible repeat' first | assumption | apply retireRow_keeps

theorem execBankReady_keeps (b : Fin 4) {s s1 : State} (e : execBankReady b s = .next s1) : Keeps s s1 := by
  unfold execBankReady at e
  cases e
  have h := Keeps.refl s
  with_reducible repeat' first | assumption | apply bankReadyNow_keeps

theorem execBankSupplyFault_keeps (b : Fin 4) (vdrv : Nat) {s s1 : State} (e : execBankSupplyFault b vdrv s = .next s1) :
    Keeps s s1 := by
  unfold execBankSupplyFault at e
  cases e
  have h := Keeps.refl s
  with_reducible repeat' first | assumption | apply bankSupply_keeps

theorem execBankTemperatureChange_keeps (b : Fin 4) (temp : Int) {s s1 : State} (e : execBankTemperatureChange b temp s = .next s1) :
    Keeps s s1 := by
  unfold execBankTemperatureChange at e
  cases e
  have h := Keeps.refl s
  with_reducible repeat' first | assumption | apply bankTemp_keeps

theorem execBankLinkFrameError_keeps (b : Fin 4) (retx : Fin 4) (undelivered : Bool) {s s1 : State} (e : execBankLinkFrameError b retx undelivered s = .next s1) :
    Keeps s s1 := by
  unfold execBankLinkFrameError at e
  cases e
  have h := Keeps.refl s
  with_reducible repeat' first | assumption | apply linkFrame_keeps

theorem execBankLinkRetirement_keeps (b : Fin 4) {s s1 : State} (e : execBankLinkRetirement b s = .next s1) :
    Keeps s s1 := by
  unfold execBankLinkRetirement at e
  cases e
  have h := Keeps.refl s
  with_reducible repeat' first | assumption | apply retireRow_keeps

theorem execPolderAckTimeout_keeps (p : Fin 5) {s s1 : State} (e : execPolderAckTimeout p s = .next s1) : Keeps s s1 := by
  unfold execPolderAckTimeout at e
  cases e
  have h := Keeps.refl s
  with_reducible repeat' first | assumption | apply polFault_keeps

theorem execPolderFault_keeps (p : Fin 5) (k : PldFault) {s s1 : State} (e : execPolderFault p k s = .next s1) :
    Keeps s s1 := by
  unfold execPolderFault at e
  cases e
  have h := Keeps.refl s
  with_reducible repeat' first | assumption | apply polFault_keeps

theorem execPolderFailover_keeps (p : Fin 5) {s s1 : State} (e : execPolderFailover p s = .next s1) : Keeps s s1 := by
  unfold execPolderFailover at e
  cases e
  have h := Keeps.refl s
  with_reducible repeat' first | assumption | apply postMoves_keeps | apply failover_keeps | refine Keeps.ite ?_ ?_

theorem execPolderFaultSelfTestDone_keeps (p : Fin 5) (pass : Bool) {s s1 : State} (e : execPolderFaultSelfTestDone p pass s = .next s1) :
    Keeps s s1 := by
  unfold execPolderFaultSelfTestDone at e
  cases e
  have h := Keeps.refl s
  with_reducible repeat' first | assumption | apply faultSelfTest_keeps

theorem execPolderStartSelfTestDone_keeps (p : Fin 5) (pass : Bool) {s s1 : State} (e : execPolderStartSelfTestDone p pass s = .next s1) :
    Keeps s s1 := by
  unfold execPolderStartSelfTestDone at e
  cases e
  have h := Keeps.refl s
  with_reducible repeat' first | assumption | apply startSelfTest_keeps

theorem execSpareSelfTest_keeps (pass : Bool) {s s1 : State} (e : execSpareSelfTest pass s = .next s1) : Keeps s s1 := by
  unfold execSpareSelfTest at e
  cases e
  have h := Keeps.refl s
  with_reducible repeat' first | assumption | apply polFault_keeps | refine Keeps.ite ?_ ?_ | split

theorem execPolderFcntClear_keeps (p : Fin 5) {s s1 : State} (e : execPolderFcntClear p s = .next s1) : Keeps s s1 := by
  unfold execPolderFcntClear at e
  cases e
  have h := Keeps.refl s
  with_reducible repeat' first | assumption | apply fcntClear_keeps

theorem execRebalance_keeps  {s s1 : State} (e : execRebalance s = .next s1) : Keeps s s1 := by
  unfold execRebalance at e
  cases e
  have h := Keeps.refl s
  with_reducible
    repeat' first
      | assumption | apply postMoves_keeps | apply rebalanceStep_keeps | refine Keeps.ite ?_ ?_

theorem execChannelMoveWhenIdle_keeps (ch : Fin 96) {s s1 : State} (e : execChannelMoveWhenIdle ch s = .next s1) :
    Keeps s s1 := by
  unfold execChannelMoveWhenIdle at e
  cases e
  have h := Keeps.refl s
  with_reducible repeat' first | assumption | apply postMoves_keeps | apply moveIdle_keeps | refine Keeps.ite ?_ ?_

theorem execNextPassStart_keeps (p : Fin 5) {s s1 : State} (e : execNextPassStart p s = .next s1) : Keeps s s1 := by
  unfold execNextPassStart at e
  cases e
  have h := Keeps.refl s
  with_reducible repeat' first | assumption | apply nextPass_keeps | refine Keeps.ite ?_ ?_

theorem execLaneDeath_keeps (l : LaneId) (c : LaneCause) {s s1 : State} (e : execLaneDeath l c s = .next s1) :
    Keeps s s1 := by
  unfold execLaneDeath at e
  cases e
  have h := Keeps.refl s
  with_reducible repeat' first | assumption | apply laneDies_keeps

theorem execLaneReturn_keeps (l : LaneId) {s s1 : State} (e : execLaneReturn l s = .next s1) : Keeps s s1 := by
  unfold execLaneReturn at e
  cases e
  have h := Keeps.refl s
  with_reducible repeat' first | assumption | apply laneReturns_keeps

theorem execLaneRejoin_keeps (l : LaneId) {s s1 : State} (e : execLaneRejoin l s = .next s1) : Keeps s s1 := by
  unfold execLaneRejoin at e
  cases e
  have h := Keeps.refl s
  with_reducible repeat' first | assumption | apply laneRejoins_keeps

theorem execLaneDownTimeout_keeps (l : LaneId) {s s1 : State} (e : execLaneDownTimeout l s = .next s1) : Keeps s s1 := by
  unfold execLaneDownTimeout at e
  cases e
  have h := Keeps.refl s
  with_reducible repeat' first | assumption | apply laneTimeout_keeps

theorem execSluiceStageTrip_keeps (n : Fin 4) (thermal : Bool) {s s1 : State} (e : execSluiceStageTrip n thermal s = .next s1) :
    Keeps s s1 := by
  unfold execSluiceStageTrip at e
  cases e
  have h := Keeps.refl s
  with_reducible repeat' first | assumption | apply stageTrip_keeps

theorem execSluiceOutputFaulted_keeps (n : Fin 4) {s s1 : State} (e : execSluiceOutputFaulted n s = .next s1) :
    Keeps s s1 := by
  unfold execSluiceOutputFaulted at e
  cases e
  have h := Keeps.refl s
  with_reducible repeat' first | assumption | apply outputFaulted_keeps

theorem execSluiceOpenLoad_keeps (n : Fin 4) {s s1 : State} (e : execSluiceOpenLoad n s = .next s1) : Keeps s s1 := by
  unfold execSluiceOpenLoad at e
  cases e
  have h := Keeps.refl s
  with_reducible repeat' first | assumption | apply setOut_keeps

theorem execDriveHoldChange_keeps (level : Bool) {s s1 : State} (e : execDriveHoldChange level s = .next s1) :
    Keeps s s1 := by
  unfold execDriveHoldChange at e
  cases e
  have h := Keeps.refl s
  with_reducible
    repeat' first
      | assumption | apply dozeLeave_keeps | apply wakeSource_keeps | refine Keeps.ite ?_ ?_ | split
      | refine Keeps.upd ?_ rfl rfl rfl rfl rfl rfl

theorem execTamperChange_keeps (i : Fin 4) (level : Bool) {s s1 : State} (e : execTamperChange i level s = .next s1) :
    Keeps s s1 := by
  unfold execTamperChange at e
  cases e
  have h := Keeps.refl s
  with_reducible
    repeat' first
      | assumption | apply dozeLeave_keeps | apply wakeSource_keeps | refine Keeps.ite ?_ ?_ | split
      | refine Keeps.upd ?_ rfl rfl rfl rfl rfl rfl

theorem execVoucherApply_keeps  {s s1 : State} (e : execVoucherApply s = .next s1) : Keeps s s1 := by
  unfold execVoucherApply at e
  cases e
  have h := Keeps.refl s
  with_reducible repeat' first | assumption | apply voucherStep_keeps

theorem execMeterInputFault_keeps (vInput : Bool) (faulted : Bool) {s s1 : State} (e : execMeterInputFault vInput faulted s = .next s1) :
    Keeps s s1 := by
  unfold execMeterInputFault at e
  cases e
  have h := Keeps.refl s
  with_reducible repeat' first | assumption | apply inputFault_keeps

theorem execCounterRecordPeriodic_keeps  {s s1 : State} (e : execCounterRecordPeriodic s = .next s1) : Keeps s s1 := by
  unfold execCounterRecordPeriodic at e
  cases e
  have h := Keeps.refl s
  with_reducible repeat' first | assumption | apply periodicCounter_keeps

theorem execMeterSummaryPeriod_keeps  {s s1 : State} (e : execMeterSummaryPeriod s = .next s1) : Keeps s s1 := by
  unfold execMeterSummaryPeriod at e
  cases e
  have h := Keeps.refl s
  with_reducible repeat' first | assumption | apply meterSummary_keeps

theorem execJournalSeal_keeps  {s s1 : State} (e : execJournalSeal s = .next s1) : Keeps s s1 := by
  unfold execJournalSeal at e
  cases e
  have h := Keeps.refl s
  with_reducible repeat' first | assumption | apply journalSealOne_keeps

theorem execJournalChainCatchup_keeps  {s s1 : State} (e : execJournalChainCatchup s = .next s1) : Keeps s s1 := by
  unfold execJournalChainCatchup at e
  cases e
  have h := Keeps.refl s
  with_reducible repeat' first | assumption | apply chainCatchup_keeps

theorem execDailyCheckpoint_keeps  {s s1 : State} (e : execDailyCheckpoint s = .next s1) : Keeps s s1 := by
  unfold execDailyCheckpoint at e
  cases e
  have h := Keeps.refl s
  with_reducible repeat' first | assumption | apply dailyCkpt_keeps

theorem execJournalCompaction_keeps  {s s1 : State} (e : execJournalCompaction s = .next s1) : Keeps s s1 := by
  unfold execJournalCompaction at e
  cases e
  have h := Keeps.refl s
  with_reducible repeat' first | assumption | apply journalCompact_keeps

theorem execJournalRoll_keeps  {s s1 : State} (e : execJournalRoll s = .next s1) : Keeps s s1 := by
  unfold execJournalRoll at e
  cases e
  have h := Keeps.refl s
  with_reducible repeat' first | assumption | apply journalRollNow_keeps

theorem execFlashWriteDone_keeps (op : FlashOp) (ok : Bool) {s s1 : State} (e : execFlashWriteDone op ok s = .next s1) :
    Keeps s s1 := by
  unfold execFlashWriteDone at e
  cases e
  have h := Keeps.refl s
  with_reducible repeat' first | assumption | apply flashDone_keeps

theorem execSupplyWarning_keeps (x : Supply) (bits : List (Bool × Bool)) {s s1 : State} (e : execSupplyWarning x bits s = .next s1) :
    Keeps s s1 := by
  unfold execSupplyWarning at e
  cases e
  have h := Keeps.refl s
  with_reducible repeat' first | assumption | apply supplyWarn_keeps

theorem execSupplyRecovery_keeps (x : Supply) {s s1 : State} (e : execSupplyRecovery x s = .next s1) : Keeps s s1 := by
  unfold execSupplyRecovery at e
  cases e
  have h := Keeps.refl s
  with_reducible repeat' first | assumption | apply supplyBack_keeps

theorem execRstNAssert_keeps (lowUs : Nat) (taken : Bool) {s s1 : State} (e : execRstNAssert lowUs taken s = .next s1) :
    Keeps s s1 := by
  unfold execRstNAssert at e
  cases e
  have h := Keeps.refl s
  with_reducible repeat' first | assumption | apply rstPin_keeps

theorem execRstNRelease_keeps  {s s1 : State} (e : execRstNRelease s = .next s1) : Keeps s s1 := by
  unfold execRstNRelease at e
  cases e
  have h := Keeps.refl s
  with_reducible repeat' first | assumption | apply rstRelease_keeps

theorem execOptionLoadDone_keeps (aOk : Bool) (bOk : Bool) {s s1 : State} (e : execOptionLoadDone aOk bOk s = .next s1) :
    Keeps s s1 := by
  unfold execOptionLoadDone at e
  cases e
  have h := Keeps.refl s
  with_reducible repeat' first | assumption | apply optionLoad_keeps

theorem execArmatureLoadDone_keeps (ticketOk : Bool) {s s1 : State} (e : execArmatureLoadDone ticketOk s = .next s1) :
    Keeps s s1 := by
  unfold execArmatureLoadDone at e
  cases e
  have h := Keeps.refl s
  with_reducible repeat' first | assumption | apply armLoaded_keeps

theorem execKeeperBoot_keeps (aOk : Bool) (bOk : Bool) {s s1 : State} (e : execKeeperBoot aOk bOk s = .next s1) :
    Keeps s s1 := by
  unfold execKeeperBoot at e
  cases e
  have h := Keeps.refl s
  with_reducible repeat' first | assumption | apply keeperBootNow_keeps

theorem execConfigImageLoad_keeps (aOk : Bool) (bOk : Bool) {s s1 : State} (e : execConfigImageLoad aOk bOk s = .next s1) :
    Keeps s s1 := by
  unfold execConfigImageLoad at e
  cases e
  have h := Keeps.refl s
  with_reducible repeat' first | assumption | apply configLoad_keeps

theorem execDomainSwitchOn_keeps (d : Fin 17) {s s1 : State} (e : execDomainSwitchOn d s = .next s1) : Keeps s s1 := by
  unfold execDomainSwitchOn at e
  cases e
  have h := Keeps.refl s
  with_reducible repeat' first | assumption | apply domainOn_keeps

theorem execDomainReady_keeps (d : Fin 17) {s s1 : State} (e : execDomainReady d s = .next s1) : Keeps s s1 := by
  unfold execDomainReady at e
  cases e
  have h := Keeps.refl s
  with_reducible repeat' first | assumption | apply domainReady_keeps

theorem execDomainSwitchOff_keeps (d : Fin 17) {s s1 : State} (e : execDomainSwitchOff d s = .next s1) : Keeps s s1 := by
  unfold execDomainSwitchOff at e
  cases e
  have h := Keeps.refl s
  with_reducible repeat' first | assumption | apply domainOff_keeps

theorem execStartComplete_keeps  {s s1 : State} (e : execStartComplete s = .next s1) : Keeps s s1 := by
  unfold execStartComplete at e
  cases e
  have h := Keeps.refl s
  with_reducible repeat' first | assumption | apply startComplete_keeps

theorem execStartWatchdog_keeps  {s s1 : State} (e : execStartWatchdog s = .next s1) : Keeps s s1 := by
  unfold execStartWatchdog at e
  cases e
  have h := Keeps.refl s
  with_reducible repeat' first | assumption | apply startTimeout_keeps

theorem execKeeperWatchdog_keeps  {s s1 : State} (e : execKeeperWatchdog s = .next s1) : Keeps s s1 := by
  unfold execKeeperWatchdog at e
  cases e
  have h := Keeps.refl s
  with_reducible repeat' first | assumption | apply keeperDown_keeps

theorem execKeeperRestartDone_keeps  {s s1 : State} (e : execKeeperRestartDone s = .next s1) : Keeps s s1 := by
  unfold execKeeperRestartDone at e
  cases e
  have h := Keeps.refl s
  with_reducible repeat' first | assumption | apply restartDone_keeps

theorem execLinkSpeedChange_keeps (gen3 : Bool) {s s1 : State} (e : execLinkSpeedChange gen3 s = .next s1) : Keeps s s1 := by
  unfold execLinkSpeedChange at e
  cases e
  have h := Keeps.refl s
  with_reducible
    repeat' first
      | assumption | refine Keeps.ite ?_ ?_ | split | refine Keeps.upd ?_ rfl rfl rfl rfl rfl rfl

theorem execVcoreRampCheck_keeps (reached : Bool) {s s1 : State} (e : execVcoreRampCheck reached s = .next s1) :
    Keeps s s1 := by
  unfold execVcoreRampCheck at e
  cases e
  have h := Keeps.refl s
  with_reducible repeat' first | assumption | apply rampCheck_keeps

theorem execPtmDialogue_keeps (valid : Bool) {s s1 : State} (e : execPtmDialogue valid s = .next s1) : Keeps s s1 := by
  unfold execPtmDialogue at e
  cases e
  have h := Keeps.refl s
  with_reducible
    repeat' first
      | assumption | refine Keeps.ite ?_ ?_ | split | refine Keeps.upd ?_ rfl rfl rfl rfl rfl rfl

theorem execDozeEntry_keeps  {s s1 : State} (e : execDozeEntry s = .next s1) : Keeps s s1 := by
  unfold execDozeEntry at e
  cases e
  have h := Keeps.refl s
  with_reducible repeat' first | assumption | apply dozeEnter_keeps

theorem execDozeExit_keeps  {s s1 : State} (e : execDozeExit s = .next s1) : Keeps s s1 := by
  unfold execDozeExit at e
  cases e
  have h := Keeps.refl s
  with_reducible repeat' first | assumption | apply dozeLeave_keeps

theorem execPowerDownEntry_keeps {s s1 : State} (e : execPowerDownEntry s = .next s1) :
    Keeps s s1 := by
  unfold execPowerDownEntry at e
  cases e
  have h := Keeps.refl s
  with_reducible repeat' first | assumption | apply powerDown_keeps

theorem execEntryWaitExpiry_keeps  {s s1 : State} (e : execEntryWaitExpiry s = .next s1) : Keeps s s1 := by
  unfold execEntryWaitExpiry at e
  cases e
  have h := Keeps.refl s
  with_reducible repeat' first | assumption | apply entryExpire_keeps

theorem execWake_keeps (src : WakeSrc) {s s1 : State} (e : execWake src s = .next s1) : Keeps s s1 := by
  unfold execWake at e
  cases e
  have h := Keeps.refl s
  with_reducible repeat' first | assumption | apply wakeSource_keeps

theorem execWakeInPattern_keeps (gapUs : Nat) (pulseUs : Nat) {s s1 : State} (e : execWakeInPattern gapUs pulseUs s = .next s1) :
    Keeps s s1 := by
  unfold execWakeInPattern at e
  cases e
  have h := Keeps.refl s
  with_reducible repeat' first | assumption | apply wakePulse_keeps

theorem execUhfSniff_keeps (preamble : Bool) {s s1 : State} (e : execUhfSniff preamble s = .next s1) : Keeps s s1 := by
  unfold execUhfSniff at e
  cases e
  have h := Keeps.refl s
  with_reducible repeat' first | assumption | apply sniff_keeps

theorem execDevWake_keeps (t : Telegram) {s s1 : State} (e : execDevWake t s = .next s1) : Keeps s s1 := by
  unfold execDevWake at e
  cases e
  have h := Keeps.refl s
  with_reducible repeat' first | assumption | apply devWakeNow_keeps

theorem execSniffSyncTimeout_keeps  {s s1 : State} (e : execSniffSyncTimeout s = .next s1) : Keeps s s1 := by
  unfold execSniffSyncTimeout at e
  cases e
  have h := Keeps.refl s
  with_reducible repeat' first | assumption | apply sniffTimeout_keeps

theorem execRtcAlarm_keeps  {s s1 : State} (e : execRtcAlarm s = .next s1) : Keeps s s1 := by
  unfold execRtcAlarm at e
  cases e
  have h := Keeps.refl s
  with_reducible repeat' first | assumption | apply wakeSource_keeps | refine Keeps.ite ?_ ?_

theorem execAonClockSwitch_keeps  {s s1 : State} (e : execAonClockSwitch s = .next s1) : Keeps s s1 := by
  unfold execAonClockSwitch at e
  cases e
  have h := Keeps.refl s
  with_reducible repeat' first | assumption | apply setPwr_keeps | refine Keeps.ite ?_ ?_

theorem execAonCrystalFail_keeps  {s s1 : State} (e : execAonCrystalFail s = .next s1) : Keeps s s1 := by
  unfold execAonCrystalFail at e
  cases e
  have h := Keeps.refl s
  with_reducible repeat' first | assumption | apply setPwr_keeps

theorem execPerstDeassert_keeps  {s s1 : State} (e : execPerstDeassert s = .next s1) : Keeps s s1 := by
  unfold execPerstDeassert at e
  cases e
  have h := Keeps.refl s
  with_reducible repeat' first | assumption | apply setPwr_keeps | apply wakeSource_keeps

theorem execLinkL0Reached_keeps  {s s1 : State} (e : execLinkL0Reached s = .next s1) : Keeps s s1 := by
  unfold execLinkL0Reached at e
  cases e
  have h := Keeps.refl s
  with_reducible
    repeat' first
      | assumption | apply setPwr_keeps | refine Keeps.ite ?_ ?_ | split
      | refine Keeps.upd ?_ rfl rfl rfl rfl rfl rfl

theorem execWakeSignalTimeout_keeps  {s s1 : State} (e : execWakeSignalTimeout s = .next s1) : Keeps s s1 := by
  unfold execWakeSignalTimeout at e
  cases e
  have h := Keeps.refl s
  with_reducible repeat' first | assumption | apply setPwr_keeps

theorem execRadioActivityStart_keeps (lock : Bool) (clear : Bool) {s s1 : State} (e : execRadioActivityStart lock clear s = .next s1) :
    Keeps s s1 := by
  unfold execRadioActivityStart at e
  cases e
  have h := Keeps.refl s
  with_reducible repeat' first | assumption | apply activityStart_keeps

theorem execSynthLockTimeout_keeps  {s s1 : State} (e : execSynthLockTimeout s = .next s1) : Keeps s s1 := by
  unfold execSynthLockTimeout at e
  cases e
  have h := Keeps.refl s
  with_reducible repeat' first | assumption | apply lockTimeout_keeps

theorem execSynthLockLost_keeps (tone : Option (Fin 64)) {s s1 : State} (e : execSynthLockLost tone s = .next s1) :
    Keeps s s1 := by
  unfold execSynthLockLost at e
  cases e
  have h := Keeps.refl s
  with_reducible repeat' first | assumption | apply lockLost_keeps

theorem execRadioCalibration_keeps (e : Fin 8) (r : RadioCal) {s s1 : State} (e : execRadioCalibration e r s = .next s1) :
    Keeps s s1 := by
  unfold execRadioCalibration at e
  cases e
  have h := Keeps.refl s
  with_reducible repeat' first | assumption | apply radioCal_keeps

theorem execCoexGrantTimeout_keeps  {s s1 : State} (e : execCoexGrantTimeout s = .next s1) : Keeps s s1 := by
  unfold execCoexGrantTimeout at e
  cases e
  have h := Keeps.refl s
  with_reducible repeat' first | assumption | apply grantTimeout_keeps

theorem execCoexGntRise_keeps  {s s1 : State} (e : execCoexGntRise s = .next s1) : Keeps s s1 := by
  unfold execCoexGntRise at e
  cases e
  have h := Keeps.refl s
  with_reducible repeat' first | assumption | apply grantRise_keeps

theorem execCoexGntFall_keeps  {s s1 : State} (e : execCoexGntFall s = .next s1) : Keeps s s1 := by
  unfold execCoexGntFall at e
  cases e
  have h := Keeps.refl s
  with_reducible repeat' first | assumption | apply grantFall_keeps

theorem execLbtRetry_keeps (clear : Bool) {s s1 : State} (e : execLbtRetry clear s = .next s1) : Keeps s s1 := by
  unfold execLbtRetry at e
  cases e
  have h := Keeps.refl s
  with_reducible repeat' first | assumption | apply lbtRetryNow_keeps

theorem execDutyBinRoll_keeps  {s s1 : State} (e : execDutyBinRoll s = .next s1) : Keeps s s1 := by
  unfold execDutyBinRoll at e
  cases e
  have h := Keeps.refl s
  with_reducible repeat' first | assumption | apply rollBins_keeps

theorem execLocReply_keeps (t : Telegram) {s s1 : State} (e : execLocReply t s = .next s1) : Keeps s s1 := by
  unfold execLocReply at e
  cases e
  have h := Keeps.refl s
  with_reducible repeat' first | assumption | apply takeMsg_keeps

theorem execLocatePollRoundEnd_keeps (collided : Nat) {s s1 : State} (e : execLocatePollRoundEnd collided s = .next s1) :
    Keeps s s1 := by
  unfold execLocatePollRoundEnd at e
  cases e
  have h := Keeps.refl s
  with_reducible repeat' first | assumption | apply pollRoundEnd_keeps

theorem execRangeReport_keeps (t : Telegram) (m : RangeMeas) {s s1 : State} (e : execRangeReport t m s = .next s1) :
    Keeps s s1 := by
  unfold execRangeReport at e
  cases e
  have h := Keeps.refl s
  with_reducible repeat' first | assumption | apply takeMsg_keeps

theorem execRangeReportTimeout_keeps  {s s1 : State} (e : execRangeReportTimeout s = .next s1) : Keeps s s1 := by
  unfold execRangeReportTimeout at e
  cases e
  have h := Keeps.refl s
  with_reducible repeat' first | assumption | apply rangeTimeout_keeps

theorem execAccessTelegram_keeps (t : Telegram) {s s1 : State} (e : execAccessTelegram t s = .next s1) : Keeps s s1 := by
  unfold execAccessTelegram at e
  cases e
  have h := Keeps.refl s
  with_reducible repeat' first | assumption | apply takeMsg_keeps

theorem execHostTelegramRx_keeps (t : Telegram) {s s1 : State} (e : execHostTelegramRx t s = .next s1) : Keeps s s1 := by
  unfold execHostTelegramRx at e
  cases e
  have h := Keeps.refl s
  with_reducible repeat' first | assumption | apply hostTelegram_keeps

theorem execRxWindowEnd_keeps  {s s1 : State} (e : execRxWindowEnd s = .next s1) : Keeps s s1 := by
  unfold execRxWindowEnd at e
  cases e
  have h := Keeps.refl s
  with_reducible repeat' first | assumption | apply windowEnd_keeps

theorem execRadioRetirement_keeps  {s s1 : State} (e : execRadioRetirement s = .next s1) : Keeps s s1 := by
  unfold execRadioRetirement at e
  cases e
  have h := Keeps.refl s
  with_reducible repeat' first | assumption | apply retireRow_keeps

theorem execCipherMismatch_keeps (agree : Bool) {s s1 : State} (e : execCipherMismatch agree s = .next s1) : Keeps s s1 := by
  unfold execCipherMismatch at e
  cases e
  have h := Keeps.refl s
  with_reducible repeat' first | assumption | apply cipMismatch_keeps

theorem execCipherKatDone_keeps (aOk : Bool) (bOk : Bool) (agree : Bool) {s s1 : State} (e : execCipherKatDone aOk bOk agree s = .next s1) :
    Keeps s s1 := by
  unfold execCipherKatDone at e
  cases e
  have h := Keeps.refl s
  with_reducible repeat' first | assumption | apply katDone_keeps

theorem execMaskReseed_keeps  {s s1 : State} (e : execMaskReseed s = .next s1) : Keeps s s1 := by
  unfold execMaskReseed at e
  cases e
  have h := Keeps.refl s
  with_reducible repeat' first | assumption | apply maskReseed_keeps

theorem execPatinaPass_keeps (onTime : Bool) {s s1 : State} (e : execPatinaPass onTime s = .next s1) : Keeps s s1 := by
  unfold execPatinaPass at e
  cases e
  have h := Keeps.refl s
  with_reducible repeat' first | assumption | apply patinaNow_keeps

theorem execKeyRamError_keeps (i : Fin 256) {s s1 : State} (e : execKeyRamError i s = .next s1) : Keeps s s1 := by
  unfold execKeyRamError at e
  cases e
  have h := Keeps.refl s
  with_reducible repeat' first | assumption | apply ramError_keeps

theorem execNodeUsageLimit_keeps (i : Fin 256) {s s1 : State} (e : execNodeUsageLimit i s = .next s1) : Keeps s s1 := by
  unfold execNodeUsageLimit at e
  cases e
  have h := Keeps.refl s
  with_reducible repeat' first | assumption | apply usageLimit_keeps

theorem execUsesMarkRaise_keeps (i : Fin 256) {s s1 : State} (e : execUsesMarkRaise i s = .next s1) : Keeps s s1 := by
  unfold execUsesMarkRaise at e
  cases e
  have h := Keeps.refl s
  with_reducible repeat' first | assumption | apply raiseUses_keeps | refine Keeps.ite ?_ ?_

theorem execInstanceMarkRaise_keeps (i : Fin 256) {s s1 : State} (e : execInstanceMarkRaise i s = .next s1) :
    Keeps s s1 := by
  unfold execInstanceMarkRaise at e
  cases e
  have h := Keeps.refl s
  with_reducible repeat' first | assumption | apply raiseInst_keeps

theorem execSessResRaise_keeps (i : Fin 4096) {s s1 : State} (e : execSessResRaise i s = .next s1) : Keeps s s1 := by
  unfold execSessResRaise at e
  cases e
  have h := Keeps.refl s
  with_reducible repeat' first | assumption | apply raiseSess_keeps | refine Keeps.ite ?_ ?_

theorem execRekeyConfirm_keeps (i : Fin 4096) {s s1 : State} (e : execRekeyConfirm i s = .next s1) : Keeps s s1 := by
  unfold execRekeyConfirm at e
  cases e
  have h := Keeps.refl s
  with_reducible repeat' first | assumption | apply applyDueWhere_keeps

theorem execRegistryChangeApply_keeps  {s s1 : State} (e : execRegistryChangeApply s = .next s1) : Keeps s s1 := by
  unfold execRegistryChangeApply at e
  cases e
  have h := Keeps.refl s
  with_reducible repeat' first | assumption | apply applyDueChanges_keeps

theorem execEntropyWindowEnd_keeps (srcB : Bool) (bits : BitVec 1024) {s s1 : State} (e : execEntropyWindowEnd srcB bits s = .next s1) :
    Keeps s s1 := by
  unfold execEntropyWindowEnd at e
  cases e
  have h := Keeps.refl s
  with_reducible repeat' first | assumption | apply windowEndNow_keeps

theorem execEntropyWarmupTimeout_keeps  {s s1 : State} (e : execEntropyWarmupTimeout s = .next s1) : Keeps s s1 := by
  unfold execEntropyWarmupTimeout at e
  cases e
  have h := Keeps.refl s
  with_reducible repeat' first | assumption | apply warmupTimeout_keeps

theorem execSoftReseedLimit_keeps  {s s1 : State} (e : execSoftReseedLimit s = .next s1) : Keeps s s1 := by
  unfold execSoftReseedLimit at e
  cases e
  have h := Keeps.refl s
  with_reducible repeat' first | assumption | apply softLimit_keeps

theorem execHardReseedLimit_keeps  {s s1 : State} (e : execHardReseedLimit s = .next s1) : Keeps s s1 := by
  unfold execHardReseedLimit at e
  cases e
  have h := Keeps.refl s
  with_reducible repeat' first | assumption | apply hardLimit_keeps

theorem execEntropyWaitTimeout_keeps  {s s1 : State} (e : execEntropyWaitTimeout s = .next s1) : Keeps s s1 := by
  unfold execEntropyWaitTimeout at e
  cases e
  have h := Keeps.refl s
  with_reducible repeat' first | assumption | apply waitTimeout_keeps

theorem execAdvanceClose_keeps  {s s1 : State} (e : execAdvanceClose s = .next s1) : Keeps s s1 := by
  unfold execAdvanceClose at e
  cases e
  have h := Keeps.refl s
  with_reducible repeat' first | assumption | apply advanceCloseNow_keeps

theorem execAdvanceDestroy_keeps  {s s1 : State} (e : execAdvanceDestroy s = .next s1) : Keeps s s1 := by
  unfold execAdvanceDestroy at e
  cases e
  have h := Keeps.refl s
  with_reducible repeat' first | assumption | apply advanceDestroyNow_keeps

theorem execAdvanceInstall_keeps  {s s1 : State} (e : execAdvanceInstall s = .next s1) : Keeps s s1 := by
  unfold execAdvanceInstall at e
  cases e
  have h := Keeps.refl s
  with_reducible repeat' first | assumption | apply advanceInstallNow_keeps

theorem execAdvanceResume_keeps  {s s1 : State} (e : execAdvanceResume s = .next s1) : Keeps s s1 := by
  unfold execAdvanceResume at e
  cases e
  have h := Keeps.refl s
  with_reducible repeat' first | assumption | apply advanceResumeNow_keeps

theorem execDebugOpen_keeps  {s s1 : State} (e : execDebugOpen s = .next s1) : Keeps s s1 := by
  unfold execDebugOpen at e
  cases e
  have h := Keeps.refl s
  with_reducible repeat' first | assumption | apply debugOpenNow_keeps

theorem execDebugWindowEnd_keeps  {s s1 : State} (e : execDebugWindowEnd s = .next s1) : Keeps s s1 := by
  unfold execDebugWindowEnd at e
  cases e
  have h := Keeps.refl s
  with_reducible repeat' first | assumption | apply debugWindow_keeps

theorem execRetirementTableSwap_keeps  {s s1 : State} (e : execRetirementTableSwap s = .next s1) : Keeps s s1 := by
  unfold execRetirementTableSwap at e
  cases e
  have h := Keeps.refl s
  with_reducible repeat' first | assumption | apply swapTable_keeps

/-- The four commands that `Keeps` does not bind: the boundary, the two power-on resets and ADVANCE_COMMIT. -/
theorem exec_keeps {c : Instr} {s t : State} (h : exec c s = .next t) :
    (∃ b, c = .beatBoundary b) ∨ c = .por ∨ c = .supplyUndervoltage .vaon ∨ c = .advanceCommit ∨ Keeps s t := by
  have k : Keeps s t → (∃ b, c = .beatBoundary b) ∨ c = .por ∨ c = .supplyUndervoltage .vaon ∨ c = .advanceCommit ∨ Keeps s t :=
    fun x => .inr (.inr (.inr (.inr x)))
  cases c with
  | nop _ _ => exact k (execNop_keeps _ _ h)
  | snapshot _ _ => exact k (execSnapshot_keeps _ _ h)
  | sweep _ _ => exact k (execSweep_keeps _ _ h)
  | authToken _ _ => exact k (execAuthToken_keeps _ _ h)
  | locate _ _ => exact k (execLocate_keeps _ _ h)
  | enrol _ _ => exact k (execEnrol_keeps _ _ h)
  | rekeyToken _ _ => exact k (execRekeyToken_keeps _ _ h)
  | calChannel _ _ => exact k (execCalChannel_keeps _ _ h)
  | radioTx _ _ => exact k (execRadioTx_keeps _ _ h)
  | radioRxWindow _ _ => exact k (execRadioRxWindow_keeps _ _ h)
  | range _ _ => exact k (execRange_keeps _ _ h)
  | sluiceSet _ _ => exact k (execSluiceSet_keeps _ _ h)
  | sluiceStatus _ _ => exact k (execSluiceStatus_keeps _ _ h)
  | safeWithdraw _ _ => exact k (execSafeWithdraw_keeps _ _ h)
  | ledgerTopup _ _ => exact k (execLedgerTopup_keeps _ _ h)
  | ledgerQuery _ _ => exact k (execLedgerQuery_keeps _ _ h)
  | ledgerCheckpoint _ _ => exact k (execLedgerCheckpoint_keeps _ _ h)
  | journalRead _ _ => exact k (execJournalRead_keeps _ _ h)
  | cipherCmac _ _ => exact k (execCipherCmac_keeps _ _ h)
  | cipherCtr _ _ => exact k (execCipherCtr_keeps _ _ h)
  | ccmSeal _ _ => exact k (execCcmSeal_keeps _ _ h)
  | ccmOpen _ _ => exact k (execCcmOpen_keeps _ _ h)
  | keyDerive _ _ => exact k (execKeyDerive_keeps _ _ h)
  | keyInvalidate _ _ => exact k (execKeyInvalidate_keeps _ _ h)
  | keyInfo _ _ => exact k (execKeyInfo_keeps _ _ h)
  | keyImport _ _ => exact k (execKeyImport_keeps _ _ h)
  | rngGet _ _ => exact k (execRngGet_keeps _ _ h)
  | configStageImage _ _ => exact k (execConfigStageImage_keeps _ _ h)
  | configCommit _ _ => exact k (execConfigCommit_keeps _ _ h)
  | polderCtl _ _ => exact k (execPolderCtl_keeps _ _ h)
  | imageLoad _ _ => exact k (execImageLoad_keeps _ _ h)
  | restart _ _ => exact k (execRestart_keeps _ _ h)
  | lifecycleAdvance _ _ => exact k (execLifecycleAdvance_keeps _ _ h)
  | debugUnlock _ _ => exact k (execDebugUnlock_keeps _ _ h)
  | sqTailDoorbell _ _ => exact k (execSqTailDoorbell_keeps _ _ h)
  | cqHeadDoorbell _ _ => exact k (execCqHeadDoorbell_keeps _ _ h)
  | eqHeadDoorbell _ => exact k (execEqHeadDoorbell_keeps _ h)
  | descriptorFetch _ => exact k (execDescriptorFetch_keeps _ h)
  | sqEnable _ _ => exact k (execSqEnable_keeps _ _ h)
  | sqDisable _ _ => exact k (execSqDisable_keeps _ _ h)
  | cqEnable _ _ => exact k (execCqEnable_keeps _ _ h)
  | cqDisable _ _ => exact k (execCqDisable_keeps _ _ h)
  | eqEnable _ => exact k (execEqEnable_keeps _ h)
  | eqDisable _ => exact k (execEqDisable_keeps _ h)
  | qHoldWrite _ => exact k (execQHoldWrite_keeps _ h)
  | cfgHold _ => exact k (execCfgHold_keeps _ h)
  | cfgDiscard => exact k (execCfgDiscard_keeps h)
  | cfgSealRefWrite _ => exact k (execCfgSealRefWrite_keeps _ h)
  | sleepRequest => exact k (execSleepRequest_keeps h)
  | hibernateRequest => exact k (execHibernateRequest_keeps h)
  | ptmCapture => exact k (execPtmCapture_keeps h)
  | rlRead _ _ => exact k (execRlRead_keeps _ _ h)
  | poweredOffAccess _ _ _ => exact k (execPoweredOffAccess_keeps _ _ _ h)
  | registerWrite _ _ _ _ => exact k (execRegisterWrite_keeps _ _ _ _ h)
  | interruptTimerExpiry _ => exact k (execInterruptTimerExpiry_keeps _ h)
  | beatBoundary b => exact .inl ⟨b, rfl⟩
  | sealReload => exact k (execSealReload_keeps h)
  | sealReloadLimit => exact k (execSealReloadLimit_keeps h)
  | sealGraceExpiry => exact k (execSealGraceExpiry_keeps h)
  | leaseExpiry _ => exact k (execLeaseExpiry_keeps _ h)
  | verificationAgeOut _ => exact k (execVerificationAgeOut_keeps _ h)
  | tokenAgeOut _ => exact k (execTokenAgeOut_keeps _ h)
  | toleranceExpiry _ => exact k (execToleranceExpiry_keeps _ h)
  | leveeDeferLimit _ => exact k (execLeveeDeferLimit_keeps _ h)
  | uplinkReply _ _ => exact k (execUplinkReply_keeps _ _ h)
  | calibrationCommit _ => exact k (execCalibrationCommit_keeps _ h)
  | channelFault _ _ => exact k (execChannelFault_keeps _ _ h)
  | faultRetry _ => exact k (execFaultRetry_keeps _ h)
  | channelRetirement _ => exact k (execChannelRetirement_keeps _ h)
  | bankReady _ => exact k (execBankReady_keeps _ h)
  | bankSupplyFault _ _ => exact k (execBankSupplyFault_keeps _ _ h)
  | bankTemperatureChange _ _ => exact k (execBankTemperatureChange_keeps _ _ h)
  | bankLinkFrameError _ _ _ => exact k (execBankLinkFrameError_keeps _ _ _ h)
  | bankLinkRetirement _ => exact k (execBankLinkRetirement_keeps _ h)
  | polderAckTimeout _ => exact k (execPolderAckTimeout_keeps _ h)
  | polderFault _ _ => exact k (execPolderFault_keeps _ _ h)
  | polderFailover _ => exact k (execPolderFailover_keeps _ h)
  | polderFaultSelfTestDone _ _ => exact k (execPolderFaultSelfTestDone_keeps _ _ h)
  | polderStartSelfTestDone _ _ => exact k (execPolderStartSelfTestDone_keeps _ _ h)
  | spareSelfTest _ => exact k (execSpareSelfTest_keeps _ h)
  | polderFcntClear _ => exact k (execPolderFcntClear_keeps _ h)
  | rebalance => exact k (execRebalance_keeps h)
  | channelMoveWhenIdle _ => exact k (execChannelMoveWhenIdle_keeps _ h)
  | migrationRestart _ => exact k (execMigrationRestart_keeps _ h)
  | nextPassStart _ => exact k (execNextPassStart_keeps _ h)
  | laneDeath _ _ => exact k (execLaneDeath_keeps _ _ h)
  | laneReturn _ => exact k (execLaneReturn_keeps _ h)
  | laneRejoin _ => exact k (execLaneRejoin_keeps _ h)
  | laneDownTimeout _ => exact k (execLaneDownTimeout_keeps _ h)
  | sluiceStageTrip _ _ => exact k (execSluiceStageTrip_keeps _ _ h)
  | sluiceOutputFaulted _ => exact k (execSluiceOutputFaulted_keeps _ h)
  | sluiceOpenLoad _ => exact k (execSluiceOpenLoad_keeps _ h)
  | driveHoldChange _ => exact k (execDriveHoldChange_keeps _ h)
  | tamperChange _ _ => exact k (execTamperChange_keeps _ _ h)
  | voucherApply => exact k (execVoucherApply_keeps h)
  | meterInputFault _ _ => exact k (execMeterInputFault_keeps _ _ h)
  | counterRecordPeriodic => exact k (execCounterRecordPeriodic_keeps h)
  | meterSummaryPeriod => exact k (execMeterSummaryPeriod_keeps h)
  | journalSeal => exact k (execJournalSeal_keeps h)
  | journalChainCatchup => exact k (execJournalChainCatchup_keeps h)
  | dailyCheckpoint => exact k (execDailyCheckpoint_keeps h)
  | journalCompaction => exact k (execJournalCompaction_keeps h)
  | journalRoll => exact k (execJournalRoll_keeps h)
  | supplyWarning _ _ => exact k (execSupplyWarning_keeps _ _ h)
  | supplyUndervoltage x =>
    by_cases hx : x = .vaon
    · exact .inr (.inr (.inl (hx ▸ rfl)))
    · cases h
      exact k (supplyUnder_keeps hx)
  | por => exact .inr (.inl rfl)
  | rstNAssert _ _ => exact k (execRstNAssert_keeps _ _ h)
  | rstNRelease => exact k (execRstNRelease_keeps h)
  | optionLoadDone _ _ => exact k (execOptionLoadDone_keeps _ _ h)
  | armatureLoadDone _ => exact k (execArmatureLoadDone_keeps _ h)
  | keeperBoot _ _ => exact k (execKeeperBoot_keeps _ _ h)
  | configImageLoad _ _ => exact k (execConfigImageLoad_keeps _ _ h)
  | domainSwitchOn _ => exact k (execDomainSwitchOn_keeps _ h)
  | domainReady _ => exact k (execDomainReady_keeps _ h)
  | domainSwitchOff _ => exact k (execDomainSwitchOff_keeps _ h)
  | startComplete => exact k (execStartComplete_keeps h)
  | startWatchdog => exact k (execStartWatchdog_keeps h)
  | keeperWatchdog => exact k (execKeeperWatchdog_keeps h)
  | keeperRestartDone => exact k (execKeeperRestartDone_keeps h)
  | functionReset => exact k (execFunctionReset_keeps h)
  | busMasterEnableChange _ => exact k (execBusMasterEnableChange_keeps _ h)
  | linkSpeedChange _ => exact k (execLinkSpeedChange_keeps _ h)
  | vcoreRampCheck _ => exact k (execVcoreRampCheck_keeps _ h)
  | ptmDialogue _ => exact k (execPtmDialogue_keeps _ h)
  | dozeEntry => exact k (execDozeEntry_keeps h)
  | dozeExit => exact k (execDozeExit_keeps h)
  | powerDownEntry => exact k (execPowerDownEntry_keeps h)
  | wake _ => exact k (execWake_keeps _ h)
  | wakeInPattern _ _ => exact k (execWakeInPattern_keeps _ _ h)
  | uhfSniff _ => exact k (execUhfSniff_keeps _ h)
  | devWake _ => exact k (execDevWake_keeps _ h)
  | rtcAlarm => exact k (execRtcAlarm_keeps h)
  | aonClockSwitch => exact k (execAonClockSwitch_keeps h)
  | aonCrystalFail => exact k (execAonCrystalFail_keeps h)
  | radioActivityStart _ _ => exact k (execRadioActivityStart_keeps _ _ h)
  | synthLockTimeout => exact k (execSynthLockTimeout_keeps h)
  | synthLockLost _ => exact k (execSynthLockLost_keeps _ h)
  | radioCalibration _ _ => exact k (execRadioCalibration_keeps _ _ h)
  | coexGrantTimeout => exact k (execCoexGrantTimeout_keeps h)
  | coexGntRise => exact k (execCoexGntRise_keeps h)
  | coexGntFall => exact k (execCoexGntFall_keeps h)
  | lbtRetry _ => exact k (execLbtRetry_keeps _ h)
  | dutyBinRoll => exact k (execDutyBinRoll_keeps h)
  | locReply _ => exact k (execLocReply_keeps _ h)
  | locatePollRoundEnd _ => exact k (execLocatePollRoundEnd_keeps _ h)
  | rangeReport _ _ => exact k (execRangeReport_keeps _ _ h)
  | rangeReportTimeout => exact k (execRangeReportTimeout_keeps h)
  | accessTelegram _ => exact k (execAccessTelegram_keeps _ h)
  | hostTelegramRx _ => exact k (execHostTelegramRx_keeps _ h)
  | rxWindowEnd => exact k (execRxWindowEnd_keeps h)
  | radioRetirement => exact k (execRadioRetirement_keeps h)
  | cipherMismatch _ => exact k (execCipherMismatch_keeps _ h)
  | cipherKatDone _ _ _ => exact k (execCipherKatDone_keeps _ _ _ h)
  | maskReseed => exact k (execMaskReseed_keeps h)
  | patinaPass _ => exact k (execPatinaPass_keeps _ h)
  | keyRamError _ => exact k (execKeyRamError_keeps _ h)
  | nodeUsageLimit _ => exact k (execNodeUsageLimit_keeps _ h)
  | usesMarkRaise _ => exact k (execUsesMarkRaise_keeps _ h)
  | instanceMarkRaise _ => exact k (execInstanceMarkRaise_keeps _ h)
  | sessResRaise _ => exact k (execSessResRaise_keeps _ h)
  | rekeyConfirm _ => exact k (execRekeyConfirm_keeps _ h)
  | registryChangeApply => exact k (execRegistryChangeApply_keeps h)
  | entropyWindowEnd _ _ => exact k (execEntropyWindowEnd_keeps _ _ h)
  | entropyWarmupTimeout => exact k (execEntropyWarmupTimeout_keeps h)
  | softReseedLimit => exact k (execSoftReseedLimit_keeps h)
  | hardReseedLimit => exact k (execHardReseedLimit_keeps h)
  | entropyWaitTimeout => exact k (execEntropyWaitTimeout_keeps h)
  | advanceClose => exact k (execAdvanceClose_keeps h)
  | advanceCommit => exact .inr (.inr (.inr (.inl rfl)))
  | advanceDestroy => exact k (execAdvanceDestroy_keeps h)
  | advanceInstall => exact k (execAdvanceInstall_keeps h)
  | advanceResume => exact k (execAdvanceResume_keeps h)
  | debugOpen => exact k (execDebugOpen_keeps h)
  | debugWindowEnd => exact k (execDebugWindowEnd_keeps h)
  | retirementTableSwap => exact k (execRetirementTableSwap_keeps h)
  | supplyRecovery _ => exact k (execSupplyRecovery_keeps _ h)
  | perstDeassert => exact k (execPerstDeassert_keeps h)
  | linkL0Reached => exact k (execLinkL0Reached_keeps h)
  | wakeSignalTimeout => exact k (execWakeSignalTimeout_keeps h)
  | entryWaitExpiry => exact k (execEntryWaitExpiry_keeps h)
  | sniffSyncTimeout => exact k (execSniffSyncTimeout_keeps h)
  | calibrationDone _ _ => exact k (execCalibrationDone_keeps _ _ h)
  | flashWriteDone _ _ => exact k (execFlashWriteDone_keeps _ _ h)
  | jtagTapAccess _ => exact k (execJtagTapAccess_keeps _ h)
  | pcieConfigAccess _ _ => exact k (execPcieConfigAccess_keeps _ _ h)
  | msixTableWrite _ _ _ => exact k (execMsixTableWrite_keeps _ _ _ h)

end Sys2Proof.Machine
end

