-- ==== Sys2Proof/Laws/Lf.lean ====
section
/-! SUPPORT. Jobs of the LF channels: what queueing a job does to a channel that already works, and to the others. -/

namespace Sys2Proof.Machine

open Sys2Proof

/-- A channel whose first job is in flight starts nothing. -/
theorem arm_busy {s : State} {ch : Nat} {j : Job} (h : headOf s ch = some j) (hf : jobInFlight j = true) : arm s ch = s := by
  have hp : j.phase ≠ .queued ∧ j.phase ≠ .waitNonce := by
    constructor <;> intro e <;> simp [jobInFlight, e] at hf
  have h1 : armOnce s ch = s := by simp [armOnce, h, hp.1]
  have h2 : nonceArrived s ch = s := by simp [nonceArrived, h, hp.2]
  unfold arm
  rw [h1, h2]

/-- A job joins behind the first one. -/
theorem headOf_pushJob {s : State} {ch : Nat} {j x : Job} (h : headOf s ch = some j) : headOf (pushJob s ch x) ch = some j := by
  unfold headOf at *
  simp only [pushJob, modChan, getChan_setChan]
  cases hj : (getChan s ch).jobs with
  | nil => rw [hj] at h; cases h
  | cons a t => rw [hj] at h; simpa using h

/-- On a channel that works, queueing a job does no more than that. -/
theorem enqueue_busy {s : State} {ch : Nat} {j x : Job} (h : headOf s ch = some j) (hf : jobInFlight j = true) :
    enqueue s ch x = pushJob s ch x := arm_busy (headOf_pushJob h) hf

/-- Queueing a job touches no other channel. -/
theorem getChan_pushJob_ne {s : State} {ch n : Nat} {j : Job} (h : n ≠ ch) : getChan (pushJob s ch j) n = getChan s n :=
  getChan_setChan_ne s h _

/-- Queueing a job touches neither configuration nor registry. -/
theorem pushJob_ctl (s : State) (ch : Nat) (j : Job) : (pushJob s ch j).cfg = s.cfg ∧ (pushJob s ch j).tok = s.tok := ⟨rfl, rfl⟩

/-- Queueing a job changes no reason to pass over a channel. -/
theorem skip_push (s : State) (n ch : Nat) (j : Job) (p : Option Nat) (b : Bool) : skipReason (pushJob s ch j) n p b = skipReason s n p b := by
  have e : ∀ k, (getChan (pushJob s ch j) k).retired = (getChan s k).retired ∧ (getChan (pushJob s ch j) k).place = (getChan s k).place := by
    intro k
    by_cases h : k = ch
    · subst h; simp [pushJob, modChan]
    · rw [getChan_pushJob_ne h]; exact ⟨rfl, rfl⟩
  have h1 : chanRetired (pushJob s ch j) n = chanRetired s n := by
    simp only [chanRetired, e]; rfl
  have h2 : chanPol (pushJob s ch j) n = chanPol s n := by simp only [chanPol, e]
  simp only [skipReason, h1, h2]; rfl

/-- A command over channels that all work queues one job on each. -/
theorem sweep_fold (c : Cmd) (pol : Option Nat) (kind : JobKind) (rg : Nat) (l : List Nat) (hn : l.Nodup) (z : State)
    (h : ∀ n ∈ l, (∃ j, headOf z n = some j ∧ jobInFlight j = true) ∧ skipReason z n pol (decide (kind = .sweep)) = none) :
    l.foldl (fun s ch => launch s c ch pol kind rg) z = l.foldl (fun s ch => pushJob s ch (newJob c.uid kind (descPrio c.desc) pol rg)) z := by
  induction l generalizing z with
  | nil => rfl
  | cons a t ih =>
    simp only [List.foldl_cons]
    obtain ⟨⟨j, h1, h2⟩, h3⟩ := h a (by simp)
    have : launch z c a pol kind rg = pushJob z a (newJob c.uid kind (descPrio c.desc) pol rg) := by
      unfold launch; rw [h3]; exact enqueue_busy h1 h2
    rw [this]
    rw [List.nodup_cons] at hn
    apply ih hn.2
    intro n hm
    obtain ⟨⟨j', h1', h2'⟩, h3'⟩ := h n (by simp [hm])
    have hne : n ≠ a := fun e => hn.1 (e ▸ hm)
    refine ⟨⟨j', ?_, h2'⟩, ?_⟩
    · unfold headOf; rw [getChan_pushJob_ne hne]; exact h1'
    · rw [skip_push]; exact h3'

/-- The channels of a mask are listed once each. -/
theorem nodup_bits (m n : Nat) : (bitList m n).Nodup := List.Pairwise.filter _ List.nodup_range

end Sys2Proof.Machine
end

