-- ==== Sys2Proof/WellFormed.lean ====
section
/-! DEFINITION. Which commands are well formed: offsets of registers, sizes of what a link, an air interface or a measuring
unit delivers. A command that is not well formed names something that cannot reach the part. -/

namespace Sys2Proof

/-- A register access is to an aligned dword below 64 KiB (R8). -/
def WellFormed.offset (off : BitVec 16) : Bool := decide (off.toNat % 4 = 0)

/-- One fetch request is for at most 16 descriptors (R331), and at least one. -/
def WellFormed.fetch (ds : List (Option Desc)) : Bool := decide (1 ≤ ds.length) && decide (ds.length ≤ 16)

/-- A boundary brings four bank supplies and four die temperatures (R88). -/
def WellFormed.beat (b : BeatIn) : Bool := decide (b.vdrv.length = 4) && decide (b.temp.length = 4)

/-- An exchange has at most 16 reply slots (R120), each with at most 32 load transitions in its first 8 bits (R115). -/
def WellFormed.air (r : AirResult) : Bool :=
  decide (r.slots.length ≤ 16) && r.slots.all fun x => decide (x.stamps.length ≤ 32)

/-- A telegram has LEN, at most 255 bytes of TYPE and PAYLOAD, and two of CRC (R170). -/
def WellFormed.telegram (t : Telegram) : Bool := decide (t.bytes.length ≤ 258)

/-- The device measures at most 64 tones (R179). -/
def WellFormed.meas (m : RangeMeas) : Bool := decide (m.phase.length ≤ 64)

/-- The commands that can reach the part. -/
def Instr.wellFormed : Instr → Bool
  | .rlRead _ off => WellFormed.offset off
  | .poweredOffAccess _ off _ => WellFormed.offset off
  | .registerWrite _ off _ _ => WellFormed.offset off
  | .descriptorFetch ds => WellFormed.fetch ds
  | .beatBoundary b => WellFormed.beat b
  | .uplinkReply _ r => WellFormed.air r
  | .devWake t => WellFormed.telegram t
  | .locReply t => WellFormed.telegram t
  | .rangeReport t m => WellFormed.telegram t && WellFormed.meas m
  | .accessTelegram t => WellFormed.telegram t
  | .hostTelegramRx t => WellFormed.telegram t
  | _ => true

end Sys2Proof
end

