-- ==== Sys2Proof/Laws/PerInstr.lean ====
section
/-! SUPPORT. What holds of every command as syntax, row by row: no word spells it, since the table gives no row bits. -/

namespace Sys2Proof

/-- No word, of any number of bits, spells the command. -/
def Laws.NoWord.Statement (c : Instr) : Prop := ∀ nbits w : Nat, decodeTableWord nbits w ≠ some c

/-- No word spells any command at all. -/
theorem decodeTableWord_none (nbits w : Nat) : decodeTableWord nbits w = none := rfl

theorem noWord_all (c : Instr) : Laws.NoWord.Statement c := fun n w h => by rw [decodeTableWord_none] at h; cases h

theorem Laws.NoWord.nop (sq : Fin 16) (m : HostMem) : Laws.NoWord.Statement (.nop sq m) := noWord_all _
theorem Laws.NoWord.snapshot (sq : Fin 16) (m : HostMem) : Laws.NoWord.Statement (.snapshot sq m) := noWord_all _
theorem Laws.NoWord.sweep (sq : Fin 16) (m : HostMem) : Laws.NoWord.Statement (.sweep sq m) := noWord_all _
theorem Laws.NoWord.authToken (sq : Fin 16) (m : HostMem) : Laws.NoWord.Statement (.authToken sq m) := noWord_all _
theorem Laws.NoWord.locate (sq : Fin 16) (m : HostMem) : Laws.NoWord.Statement (.locate sq m) := noWord_all _
theorem Laws.NoWord.enrol (sq : Fin 16) (m : HostMem) : Laws.NoWord.Statement (.enrol sq m) := noWord_all _
theorem Laws.NoWord.rekeyToken (sq : Fin 16) (m : HostMem) : Laws.NoWord.Statement (.rekeyToken sq m) := noWord_all _
theorem Laws.NoWord.calChannel (sq : Fin 16) (m : HostMem) : Laws.NoWord.Statement (.calChannel sq m) := noWord_all _
theorem Laws.NoWord.radioTx (sq : Fin 16) (m : HostMem) : Laws.NoWord.Statement (.radioTx sq m) := noWord_all _
theorem Laws.NoWord.radioRxWindow (sq : Fin 16) (m : HostMem) : Laws.NoWord.Statement (.radioRxWindow sq m) := noWord_all _
theorem Laws.NoWord.range (sq : Fin 16) (m : HostMem) : Laws.NoWord.Statement (.range sq m) := noWord_all _
theorem Laws.NoWord.sluiceSet (sq : Fin 16) (m : HostMem) : Laws.NoWord.Statement (.sluiceSet sq m) := noWord_all _
theorem Laws.NoWord.sluiceStatus (sq : Fin 16) (m : HostMem) : Laws.NoWord.Statement (.sluiceStatus sq m) := noWord_all _
theorem Laws.NoWord.safeWithdraw (sq : Fin 16) (m : HostMem) : Laws.NoWord.Statement (.safeWithdraw sq m) := noWord_all _
theorem Laws.NoWord.ledgerTopup (sq : Fin 16) (m : HostMem) : Laws.NoWord.Statement (.ledgerTopup sq m) := noWord_all _
theorem Laws.NoWord.ledgerQuery (sq : Fin 16) (m : HostMem) : Laws.NoWord.Statement (.ledgerQuery sq m) := noWord_all _
theorem Laws.NoWord.ledgerCheckpoint (sq : Fin 16) (m : HostMem) : Laws.NoWord.Statement (.ledgerCheckpoint sq m) := noWord_all _
theorem Laws.NoWord.journalRead (sq : Fin 16) (m : HostMem) : Laws.NoWord.Statement (.journalRead sq m) := noWord_all _
theorem Laws.NoWord.cipherCmac (sq : Fin 16) (m : HostMem) : Laws.NoWord.Statement (.cipherCmac sq m) := noWord_all _
theorem Laws.NoWord.cipherCtr (sq : Fin 16) (m : HostMem) : Laws.NoWord.Statement (.cipherCtr sq m) := noWord_all _
theorem Laws.NoWord.ccmSeal (sq : Fin 16) (m : HostMem) : Laws.NoWord.Statement (.ccmSeal sq m) := noWord_all _
theorem Laws.NoWord.ccmOpen (sq : Fin 16) (m : HostMem) : Laws.NoWord.Statement (.ccmOpen sq m) := noWord_all _
theorem Laws.NoWord.keyDerive (sq : Fin 16) (m : HostMem) : Laws.NoWord.Statement (.keyDerive sq m) := noWord_all _
theorem Laws.NoWord.keyInvalidate (sq : Fin 16) (m : HostMem) : Laws.NoWord.Statement (.keyInvalidate sq m) := noWord_all _
theorem Laws.NoWord.keyInfo (sq : Fin 16) (m : HostMem) : Laws.NoWord.Statement (.keyInfo sq m) := noWord_all _
theorem Laws.NoWord.keyImport (sq : Fin 16) (m : HostMem) : Laws.NoWord.Statement (.keyImport sq m) := noWord_all _
theorem Laws.NoWord.rngGet (sq : Fin 16) (m : HostMem) : Laws.NoWord.Statement (.rngGet sq m) := noWord_all _
theorem Laws.NoWord.configStageImage (sq : Fin 16) (m : HostMem) : Laws.NoWord.Statement (.configStageImage sq m) := noWord_all _
theorem Laws.NoWord.configCommit (sq : Fin 16) (m : HostMem) : Laws.NoWord.Statement (.configCommit sq m) := noWord_all _
theorem Laws.NoWord.polderCtl (sq : Fin 16) (m : HostMem) : Laws.NoWord.Statement (.polderCtl sq m) := noWord_all _
theorem Laws.NoWord.imageLoad (sq : Fin 16) (m : HostMem) : Laws.NoWord.Statement (.imageLoad sq m) := noWord_all _
theorem Laws.NoWord.restart (sq : Fin 16) (m : HostMem) : Laws.NoWord.Statement (.restart sq m) := noWord_all _
theorem Laws.NoWord.lifecycleAdvance (sq : Fin 16) (m : HostMem) : Laws.NoWord.Statement (.lifecycleAdvance sq m) := noWord_all _
theorem Laws.NoWord.debugUnlock (sq : Fin 16) (m : HostMem) : Laws.NoWord.Statement (.debugUnlock sq m) := noWord_all _
theorem Laws.NoWord.sqTailDoorbell (sq : Fin 16) (v : Word) : Laws.NoWord.Statement (.sqTailDoorbell sq v) := noWord_all _
theorem Laws.NoWord.cqHeadDoorbell (cq : Fin 16) (v : Word) : Laws.NoWord.Statement (.cqHeadDoorbell cq v) := noWord_all _
theorem Laws.NoWord.eqHeadDoorbell (v : Word) : Laws.NoWord.Statement (.eqHeadDoorbell v) := noWord_all _
theorem Laws.NoWord.descriptorFetch (ds : List (Option Desc)) : Laws.NoWord.Statement (.descriptorFetch ds) := noWord_all _
theorem Laws.NoWord.sqEnable (sq : Fin 16) (v : Word) : Laws.NoWord.Statement (.sqEnable sq v) := noWord_all _
theorem Laws.NoWord.sqDisable (sq : Fin 16) (v : Word) : Laws.NoWord.Statement (.sqDisable sq v) := noWord_all _
theorem Laws.NoWord.cqEnable (cq : Fin 16) (v : Word) : Laws.NoWord.Statement (.cqEnable cq v) := noWord_all _
theorem Laws.NoWord.cqDisable (cq : Fin 16) (v : Word) : Laws.NoWord.Statement (.cqDisable cq v) := noWord_all _
theorem Laws.NoWord.eqEnable (v : Word) : Laws.NoWord.Statement (.eqEnable v) := noWord_all _
theorem Laws.NoWord.eqDisable (v : Word) : Laws.NoWord.Statement (.eqDisable v) := noWord_all _
theorem Laws.NoWord.qHoldWrite (v : Word) : Laws.NoWord.Statement (.qHoldWrite v) := noWord_all _
theorem Laws.NoWord.cfgHold (on : Bool) : Laws.NoWord.Statement (.cfgHold on) := noWord_all _
theorem Laws.NoWord.cfgDiscard : Laws.NoWord.Statement .cfgDiscard := noWord_all _
theorem Laws.NoWord.cfgSealRefWrite (v : Word) : Laws.NoWord.Statement (.cfgSealRefWrite v) := noWord_all _
theorem Laws.NoWord.sleepRequest : Laws.NoWord.Statement .sleepRequest := noWord_all _
theorem Laws.NoWord.hibernateRequest : Laws.NoWord.Statement .hibernateRequest := noWord_all _
theorem Laws.NoWord.ptmCapture : Laws.NoWord.Statement .ptmCapture := noWord_all _
theorem Laws.NoWord.rlRead (path : Path) (off : BitVec 16) : Laws.NoWord.Statement (.rlRead path off) := noWord_all _
theorem Laws.NoWord.poweredOffAccess (path : Path) (off : BitVec 16) (write : Bool) : Laws.NoWord.Statement (.poweredOffAccess path off write) := noWord_all _
theorem Laws.NoWord.registerWrite (path : Path) (off : BitVec 16) (v : Word) (be : BitVec 4) : Laws.NoWord.Statement (.registerWrite path off v be) := noWord_all _
theorem Laws.NoWord.interruptTimerExpiry (q : Fin 17) : Laws.NoWord.Statement (.interruptTimerExpiry q) := noWord_all _
theorem Laws.NoWord.beatBoundary (b : BeatIn) : Laws.NoWord.Statement (.beatBoundary b) := noWord_all _
theorem Laws.NoWord.sealReload : Laws.NoWord.Statement .sealReload := noWord_all _
theorem Laws.NoWord.sealReloadLimit : Laws.NoWord.Statement .sealReloadLimit := noWord_all _
theorem Laws.NoWord.sealGraceExpiry : Laws.NoWord.Statement .sealGraceExpiry := noWord_all _
theorem Laws.NoWord.leaseExpiry (n : Fin 4) : Laws.NoWord.Statement (.leaseExpiry n) := noWord_all _
theorem Laws.NoWord.verificationAgeOut (ch : Fin 96) : Laws.NoWord.Statement (.verificationAgeOut ch) := noWord_all _
theorem Laws.NoWord.tokenAgeOut (reg : Fin 4096) : Laws.NoWord.Statement (.tokenAgeOut reg) := noWord_all _
theorem Laws.NoWord.toleranceExpiry (ch : Fin 96) : Laws.NoWord.Statement (.toleranceExpiry ch) := noWord_all _
theorem Laws.NoWord.leveeDeferLimit (ch : Fin 96) : Laws.NoWord.Statement (.leveeDeferLimit ch) := noWord_all _
theorem Laws.NoWord.uplinkReply (ch : Fin 96) (r : AirResult) : Laws.NoWord.Statement (.uplinkReply ch r) := noWord_all _
theorem Laws.NoWord.calibrationCommit (ch : Fin 96) : Laws.NoWord.Statement (.calibrationCommit ch) := noWord_all _
theorem Laws.NoWord.channelFault (ch : Fin 96) (f : ChFault) : Laws.NoWord.Statement (.channelFault ch f) := noWord_all _
theorem Laws.NoWord.faultRetry (ch : Fin 96) : Laws.NoWord.Statement (.faultRetry ch) := noWord_all _
theorem Laws.NoWord.channelRetirement (ch : Fin 96) : Laws.NoWord.Statement (.channelRetirement ch) := noWord_all _
theorem Laws.NoWord.bankReady (b : Fin 4) : Laws.NoWord.Statement (.bankReady b) := noWord_all _
theorem Laws.NoWord.bankSupplyFault (b : Fin 4) (vdrv : Nat) : Laws.NoWord.Statement (.bankSupplyFault b vdrv) := noWord_all _
theorem Laws.NoWord.bankTemperatureChange (b : Fin 4) (temp : Int) : Laws.NoWord.Statement (.bankTemperatureChange b temp) := noWord_all _
theorem Laws.NoWord.bankLinkFrameError (b : Fin 4) (retx : Fin 4) (undelivered : Bool) : Laws.NoWord.Statement (.bankLinkFrameError b retx undelivered) := noWord_all _
theorem Laws.NoWord.bankLinkRetirement (b : Fin 4) : Laws.NoWord.Statement (.bankLinkRetirement b) := noWord_all _
theorem Laws.NoWord.polderAckTimeout (p : Fin 5) : Laws.NoWord.Statement (.polderAckTimeout p) := noWord_all _
theorem Laws.NoWord.polderFault (p : Fin 5) (k : PldFault) : Laws.NoWord.Statement (.polderFault p k) := noWord_all _
theorem Laws.NoWord.polderFailover (p : Fin 5) : Laws.NoWord.Statement (.polderFailover p) := noWord_all _
theorem Laws.NoWord.polderFaultSelfTestDone (p : Fin 5) (pass : Bool) : Laws.NoWord.Statement (.polderFaultSelfTestDone p pass) := noWord_all _
theorem Laws.NoWord.polderStartSelfTestDone (p : Fin 5) (pass : Bool) : Laws.NoWord.Statement (.polderStartSelfTestDone p pass) := noWord_all _
theorem Laws.NoWord.spareSelfTest (pass : Bool) : Laws.NoWord.Statement (.spareSelfTest pass) := noWord_all _
theorem Laws.NoWord.polderFcntClear (p : Fin 5) : Laws.NoWord.Statement (.polderFcntClear p) := noWord_all _
theorem Laws.NoWord.rebalance : Laws.NoWord.Statement .rebalance := noWord_all _
theorem Laws.NoWord.channelMoveWhenIdle (ch : Fin 96) : Laws.NoWord.Statement (.channelMoveWhenIdle ch) := noWord_all _
theorem Laws.NoWord.migrationRestart (ch : Fin 96) : Laws.NoWord.Statement (.migrationRestart ch) := noWord_all _
theorem Laws.NoWord.nextPassStart (p : Fin 5) : Laws.NoWord.Statement (.nextPassStart p) := noWord_all _
theorem Laws.NoWord.laneDeath (l : LaneId) (c : LaneCause) : Laws.NoWord.Statement (.laneDeath l c) := noWord_all _
theorem Laws.NoWord.laneReturn (l : LaneId) : Laws.NoWord.Statement (.laneReturn l) := noWord_all _
theorem Laws.NoWord.laneRejoin (l : LaneId) : Laws.NoWord.Statement (.laneRejoin l) := noWord_all _
theorem Laws.NoWord.laneDownTimeout (l : LaneId) : Laws.NoWord.Statement (.laneDownTimeout l) := noWord_all _
theorem Laws.NoWord.sluiceStageTrip (n : Fin 4) (thermal : Bool) : Laws.NoWord.Statement (.sluiceStageTrip n thermal) := noWord_all _
theorem Laws.NoWord.sluiceOutputFaulted (n : Fin 4) : Laws.NoWord.Statement (.sluiceOutputFaulted n) := noWord_all _
theorem Laws.NoWord.sluiceOpenLoad (n : Fin 4) : Laws.NoWord.Statement (.sluiceOpenLoad n) := noWord_all _
theorem Laws.NoWord.driveHoldChange (level : Bool) : Laws.NoWord.Statement (.driveHoldChange level) := noWord_all _
theorem Laws.NoWord.tamperChange (idx : Fin 4) (level : Bool) : Laws.NoWord.Statement (.tamperChange idx level) := noWord_all _
theorem Laws.NoWord.voucherApply : Laws.NoWord.Statement .voucherApply := noWord_all _
theorem Laws.NoWord.meterInputFault (vInput : Bool) (faulted : Bool) : Laws.NoWord.Statement (.meterInputFault vInput faulted) := noWord_all _
theorem Laws.NoWord.counterRecordPeriodic : Laws.NoWord.Statement .counterRecordPeriodic := noWord_all _
theorem Laws.NoWord.meterSummaryPeriod : Laws.NoWord.Statement .meterSummaryPeriod := noWord_all _
theorem Laws.NoWord.journalSeal : Laws.NoWord.Statement .journalSeal := noWord_all _
theorem Laws.NoWord.journalChainCatchup : Laws.NoWord.Statement .journalChainCatchup := noWord_all _
theorem Laws.NoWord.dailyCheckpoint : Laws.NoWord.Statement .dailyCheckpoint := noWord_all _
theorem Laws.NoWord.journalCompaction : Laws.NoWord.Statement .journalCompaction := noWord_all _
theorem Laws.NoWord.journalRoll : Laws.NoWord.Statement .journalRoll := noWord_all _
theorem Laws.NoWord.supplyWarning (x : Supply) (bits : List (Bool × Bool)) : Laws.NoWord.Statement (.supplyWarning x bits) := noWord_all _
theorem Laws.NoWord.supplyUndervoltage (x : Supply) : Laws.NoWord.Statement (.supplyUndervoltage x) := noWord_all _
theorem Laws.NoWord.por : Laws.NoWord.Statement .por := noWord_all _
theorem Laws.NoWord.rstNAssert (lowUs : Nat) (taken : Bool) : Laws.NoWord.Statement (.rstNAssert lowUs taken) := noWord_all _
theorem Laws.NoWord.rstNRelease : Laws.NoWord.Statement .rstNRelease := noWord_all _
theorem Laws.NoWord.optionLoadDone (aOk bOk : Bool) : Laws.NoWord.Statement (.optionLoadDone aOk bOk) := noWord_all _
theorem Laws.NoWord.armatureLoadDone (ticketOk : Bool) : Laws.NoWord.Statement (.armatureLoadDone ticketOk) := noWord_all _
theorem Laws.NoWord.keeperBoot (aOk bOk : Bool) : Laws.NoWord.Statement (.keeperBoot aOk bOk) := noWord_all _
theorem Laws.NoWord.configImageLoad (aOk bOk : Bool) : Laws.NoWord.Statement (.configImageLoad aOk bOk) := noWord_all _
theorem Laws.NoWord.domainSwitchOn (d : Fin 17) : Laws.NoWord.Statement (.domainSwitchOn d) := noWord_all _
theorem Laws.NoWord.domainReady (d : Fin 17) : Laws.NoWord.Statement (.domainReady d) := noWord_all _
theorem Laws.NoWord.domainSwitchOff (d : Fin 17) : Laws.NoWord.Statement (.domainSwitchOff d) := noWord_all _
theorem Laws.NoWord.startComplete : Laws.NoWord.Statement .startComplete := noWord_all _
theorem Laws.NoWord.startWatchdog : Laws.NoWord.Statement .startWatchdog := noWord_all _
theorem Laws.NoWord.keeperWatchdog : Laws.NoWord.Statement .keeperWatchdog := noWord_all _
theorem Laws.NoWord.keeperRestartDone : Laws.NoWord.Statement .keeperRestartDone := noWord_all _
theorem Laws.NoWord.functionReset : Laws.NoWord.Statement .functionReset := noWord_all _
theorem Laws.NoWord.busMasterEnableChange (on : Bool) : Laws.NoWord.Statement (.busMasterEnableChange on) := noWord_all _
theorem Laws.NoWord.linkSpeedChange (gen3 : Bool) : Laws.NoWord.Statement (.linkSpeedChange gen3) := noWord_all _
theorem Laws.NoWord.vcoreRampCheck (reached : Bool) : Laws.NoWord.Statement (.vcoreRampCheck reached) := noWord_all _
theorem Laws.NoWord.ptmDialogue (valid : Bool) : Laws.NoWord.Statement (.ptmDialogue valid) := noWord_all _
theorem Laws.NoWord.dozeEntry : Laws.NoWord.Statement .dozeEntry := noWord_all _
theorem Laws.NoWord.dozeExit : Laws.NoWord.Statement .dozeExit := noWord_all _
theorem Laws.NoWord.powerDownEntry : Laws.NoWord.Statement .powerDownEntry := noWord_all _
theorem Laws.NoWord.wake (src : WakeSrc) : Laws.NoWord.Statement (.wake src) := noWord_all _
theorem Laws.NoWord.wakeInPattern (gapUs : Nat) (pulseUs : Nat) : Laws.NoWord.Statement (.wakeInPattern gapUs pulseUs) := noWord_all _
theorem Laws.NoWord.uhfSniff (preamble : Bool) : Laws.NoWord.Statement (.uhfSniff preamble) := noWord_all _
theorem Laws.NoWord.devWake (t : Telegram) : Laws.NoWord.Statement (.devWake t) := noWord_all _
theorem Laws.NoWord.rtcAlarm : Laws.NoWord.Statement .rtcAlarm := noWord_all _
theorem Laws.NoWord.aonClockSwitch : Laws.NoWord.Statement .aonClockSwitch := noWord_all _
theorem Laws.NoWord.aonCrystalFail : Laws.NoWord.Statement .aonCrystalFail := noWord_all _
theorem Laws.NoWord.radioActivityStart (lock : Bool) (clear : Bool) : Laws.NoWord.Statement (.radioActivityStart lock clear) := noWord_all _
theorem Laws.NoWord.synthLockTimeout : Laws.NoWord.Statement .synthLockTimeout := noWord_all _
theorem Laws.NoWord.synthLockLost (tone : Option (Fin 64)) : Laws.NoWord.Statement (.synthLockLost tone) := noWord_all _
theorem Laws.NoWord.radioCalibration (e : Fin 8) (r : RadioCal) : Laws.NoWord.Statement (.radioCalibration e r) := noWord_all _
theorem Laws.NoWord.coexGrantTimeout : Laws.NoWord.Statement .coexGrantTimeout := noWord_all _
theorem Laws.NoWord.coexGntRise : Laws.NoWord.Statement .coexGntRise := noWord_all _
theorem Laws.NoWord.coexGntFall : Laws.NoWord.Statement .coexGntFall := noWord_all _
theorem Laws.NoWord.lbtRetry (clear : Bool) : Laws.NoWord.Statement (.lbtRetry clear) := noWord_all _
theorem Laws.NoWord.dutyBinRoll : Laws.NoWord.Statement .dutyBinRoll := noWord_all _
theorem Laws.NoWord.locReply (t : Telegram) : Laws.NoWord.Statement (.locReply t) := noWord_all _
theorem Laws.NoWord.locatePollRoundEnd (collided : Nat) : Laws.NoWord.Statement (.locatePollRoundEnd collided) := noWord_all _
theorem Laws.NoWord.rangeReport (t : Telegram) (m : RangeMeas) : Laws.NoWord.Statement (.rangeReport t m) := noWord_all _
theorem Laws.NoWord.rangeReportTimeout : Laws.NoWord.Statement .rangeReportTimeout := noWord_all _
theorem Laws.NoWord.accessTelegram (t : Telegram) : Laws.NoWord.Statement (.accessTelegram t) := noWord_all _
theorem Laws.NoWord.hostTelegramRx (t : Telegram) : Laws.NoWord.Statement (.hostTelegramRx t) := noWord_all _
theorem Laws.NoWord.rxWindowEnd : Laws.NoWord.Statement .rxWindowEnd := noWord_all _
theorem Laws.NoWord.radioRetirement : Laws.NoWord.Statement .radioRetirement := noWord_all _
theorem Laws.NoWord.cipherMismatch (agree : Bool) : Laws.NoWord.Statement (.cipherMismatch agree) := noWord_all _
theorem Laws.NoWord.cipherKatDone (aOk bOk agree : Bool) : Laws.NoWord.Statement (.cipherKatDone aOk bOk agree) := noWord_all _
theorem Laws.NoWord.maskReseed : Laws.NoWord.Statement .maskReseed := noWord_all _
theorem Laws.NoWord.patinaPass (onTime : Bool) : Laws.NoWord.Statement (.patinaPass onTime) := noWord_all _
theorem Laws.NoWord.keyRamError (idx : Fin 256) : Laws.NoWord.Statement (.keyRamError idx) := noWord_all _
theorem Laws.NoWord.nodeUsageLimit (idx : Fin 256) : Laws.NoWord.Statement (.nodeUsageLimit idx) := noWord_all _
theorem Laws.NoWord.usesMarkRaise (idx : Fin 256) : Laws.NoWord.Statement (.usesMarkRaise idx) := noWord_all _
theorem Laws.NoWord.instanceMarkRaise (idx : Fin 256) : Laws.NoWord.Statement (.instanceMarkRaise idx) := noWord_all _
theorem Laws.NoWord.sessResRaise (idx : Fin 4096) : Laws.NoWord.Statement (.sessResRaise idx) := noWord_all _
theorem Laws.NoWord.rekeyConfirm (idx : Fin 4096) : Laws.NoWord.Statement (.rekeyConfirm idx) := noWord_all _
theorem Laws.NoWord.registryChangeApply : Laws.NoWord.Statement .registryChangeApply := noWord_all _
theorem Laws.NoWord.entropyWindowEnd (srcB : Bool) (bits : BitVec 1024) : Laws.NoWord.Statement (.entropyWindowEnd srcB bits) := noWord_all _
theorem Laws.NoWord.entropyWarmupTimeout : Laws.NoWord.Statement .entropyWarmupTimeout := noWord_all _
theorem Laws.NoWord.softReseedLimit : Laws.NoWord.Statement .softReseedLimit := noWord_all _
theorem Laws.NoWord.hardReseedLimit : Laws.NoWord.Statement .hardReseedLimit := noWord_all _
theorem Laws.NoWord.entropyWaitTimeout : Laws.NoWord.Statement .entropyWaitTimeout := noWord_all _
theorem Laws.NoWord.advanceClose : Laws.NoWord.Statement .advanceClose := noWord_all _
theorem Laws.NoWord.advanceCommit : Laws.NoWord.Statement .advanceCommit := noWord_all _
theorem Laws.NoWord.advanceDestroy : Laws.NoWord.Statement .advanceDestroy := noWord_all _
theorem Laws.NoWord.advanceInstall : Laws.NoWord.Statement .advanceInstall := noWord_all _
theorem Laws.NoWord.advanceResume : Laws.NoWord.Statement .advanceResume := noWord_all _
theorem Laws.NoWord.debugOpen : Laws.NoWord.Statement .debugOpen := noWord_all _
theorem Laws.NoWord.debugWindowEnd : Laws.NoWord.Statement .debugWindowEnd := noWord_all _
theorem Laws.NoWord.retirementTableSwap : Laws.NoWord.Statement .retirementTableSwap := noWord_all _
theorem Laws.NoWord.supplyRecovery (x : Supply) : Laws.NoWord.Statement (.supplyRecovery x) := noWord_all _
theorem Laws.NoWord.perstDeassert : Laws.NoWord.Statement .perstDeassert := noWord_all _
theorem Laws.NoWord.linkL0Reached : Laws.NoWord.Statement .linkL0Reached := noWord_all _
theorem Laws.NoWord.wakeSignalTimeout : Laws.NoWord.Statement .wakeSignalTimeout := noWord_all _
theorem Laws.NoWord.entryWaitExpiry : Laws.NoWord.Statement .entryWaitExpiry := noWord_all _
theorem Laws.NoWord.sniffSyncTimeout : Laws.NoWord.Statement .sniffSyncTimeout := noWord_all _
theorem Laws.NoWord.calibrationDone (ch : Fin 96) (r : CalResult) : Laws.NoWord.Statement (.calibrationDone ch r) := noWord_all _
theorem Laws.NoWord.flashWriteDone (op : FlashOp) (ok : Bool) : Laws.NoWord.Statement (.flashWriteDone op ok) := noWord_all _
theorem Laws.NoWord.jtagTapAccess (op : TapOp) : Laws.NoWord.Statement (.jtagTapAccess op) := noWord_all _
theorem Laws.NoWord.pcieConfigAccess (reg : Fin 1024) (write : Option Word) : Laws.NoWord.Statement (.pcieConfigAccess reg write) := noWord_all _
theorem Laws.NoWord.msixTableWrite (vec : Fin 32) (dw : Fin 4) (v : Word) : Laws.NoWord.Statement (.msixTableWrite vec dw v) := noWord_all _

end Sys2Proof
end

