-- ==== Sys2Proof/Tests/Slice0.lean ====
section
/-! SUPPORT. Tests: an ill-formed command for each check that refuses it, what single commands do on small states, and for each
statement with hypotheses a state and operands that meet them. Expected values come from the manual's own examples and rules. -/

namespace Sys2Proof.Tests

open Sys2Proof Sys2Proof.Machine

/-! ### Small states -/

/-- The state a command answers. -/
def after (i : Instr) (s : State) : State :=
  match exec i s with
  | .next t => t
  | _ => State.reset

/-- A part in RUN with every domain ready, the host link up, SQ 0 and CQ 0 and the EQ active, and the ring bases apart. -/
def up : State :=
  { State.reset with
    ring := { Ring.reset with bme := true, memEn := true, linkUp := true, msixCtl := 1, msixMask := 0,
                              sqs := [(0, { Sq.reset with base := 0x10000, st := .active })],
                              cqs := [(0, { Cq.reset with base := 0x20000, active := true, ien := true })],
                              eq := { Eq.reset with base := 0x30000, active := true, ien := true } },
    key := { Keys.reset with ready := true },
    pwr := { Power.reset with phase := .started, keeperRunning := true, tc := true, perst := false, supplyOk := 0x3FF, rstPend := 0,
                              doms := (List.range 17).map fun d => (d, ⟨true, true, 0⟩) } }

def noDesc : Desc := ⟨0, 0, 0, 0, 0, 0, 0, 0, 0, 0, 0, 0, 0, 0, 0, 0⟩

/-- A descriptor of an opcode with CMD_ID 7. -/
def op (n : Nat) : Desc := { noDesc with dw0 := BitVec.ofNat 32 (n + 7 * 65536) }

/-- Command 1 of SQ 0, waiting. -/
def cmd (d : Desc) : Cmd :=
  { uid := 1, sq := 0, desc := d, st := .waiting, fetchBeat := 0, fetchUs := 0, outOk := true, recs := [], left := 0, count := 0, flag := false,
    bytes := [], voted := false }

def withCmds (s : State) (l : List Cmd) : State := { s with ring := { s.ring with cmds := l, nextUid := 3 } }

/-- `s` with command 1 waiting on SQ 0. -/
def ask (s : State) (d : Desc) : State := withCmds s [cmd d]

def mem (l : List Byte) : HostMem := ⟨some l, true⟩

def noBeat : BeatIn := ⟨[], [2400, 2400, 2400, 2400], [25, 25, 25, 25], 0⟩

theorem begins_of {s : State} {sq : Fin 16} {n : Nat} {m : HostMem} {c : Cmd} {inp : List Byte}
    (h : (keeperUp s && decide (oldestCmd s sq.val n = some c) && domsReady s (cmdDomains s c.desc) &&
      decide ((if descLenIn c.desc = 0 then some [] else m.inp) = some inp)) = true) : Begins s sq n m c inp := by
  simp only [Bool.and_eq_true, decide_eq_true_eq] at h
  exact ⟨h.1.1.1, h.1.1.2, h.1.2, h.2⟩

theorem cqTakes_of {s : State} {sq : Nat}
    (h : (s.ring.bme && !s.flt.restarting && (getCq s (getSq s sq).cq).active && (getCq s (getSq s sq).cq).held.isEmpty &&
      decide (let q := getCq s (getSq s sq).cq; unreleased q.size q.head q.tail + 1 < ringSize q.size)) = true) : CqTakes s sq := by
  simp only [Bool.and_eq_true, Bool.not_eq_true', List.isEmpty_iff, decide_eq_true_eq] at h
  exact ⟨h.1.1.1.1, h.1.1.1.2, h.1.1.2, h.1.2, h.2⟩

theorem lands_of {s : State} {off : Nat}
    (h : (hostReach s && !(inSpillway s && !recovery off true) && decide (poweredOff s off = none) && !s.flt.restarting) = true) :
    Lands s off := by
  simp only [Bool.and_eq_true, Bool.not_eq_true', decide_eq_true_eq] at h
  exact ⟨h.1.1.1, h.1.1.2, h.1.2, h.2⟩

/-! ### Well-formedness -/

theorem test_wellFormed_offset : Instr.wellFormed (.registerWrite .host 0x0402 0 15) = false ∧
    Instr.wellFormed (.rlRead .host 0x0402) = false ∧ Instr.wellFormed (.poweredOffAccess .debug 0x0401 true) = false ∧
    Instr.wellFormed (.registerWrite .host 0x0400 0 15) = true := by decide

theorem test_wellFormed_fetch : Instr.wellFormed (.descriptorFetch []) = false ∧
    Instr.wellFormed (.descriptorFetch (List.replicate 17 none)) = false ∧
    Instr.wellFormed (.descriptorFetch [some noDesc]) = true := by decide

theorem test_wellFormed_beat : Instr.wellFormed (.beatBoundary ⟨[], [0], [0], 0⟩) = false ∧
    Instr.wellFormed (.beatBoundary noBeat) = true := by decide

def quietAir : AirResult := ⟨[], false, 0, 0, 0, 0, 0x400000⟩
def loudReply : RawReply := ⟨0, 0, [], 0, 0⟩

theorem test_wellFormed_air : Instr.wellFormed (.uplinkReply 0 { quietAir with slots := List.replicate 17 loudReply }) = false ∧
    Instr.wellFormed (.uplinkReply 0 { quietAir with slots := [{ loudReply with stamps := List.replicate 33 0 }] }) = false ∧
    Instr.wellFormed (.uplinkReply 0 { quietAir with slots := [loudReply] }) = true := by decide

theorem test_wellFormed_telegram : Instr.wellFormed (.locReply ⟨List.replicate 259 0, 0, 0⟩) = false ∧
    Instr.wellFormed (.devWake ⟨List.replicate 258 0, 0, 0⟩) = true := by decide +kernel

theorem test_wellFormed_meas : Instr.wellFormed (.rangeReport ⟨[], 0, 0⟩ ⟨List.replicate 65 none⟩) = false ∧
    Instr.wellFormed (.rangeReport ⟨[], 0, 0⟩ ⟨List.replicate 64 none⟩) = true := by decide

/-! ### Every step -/

theorem wit_StepRunsFront : { up with pending := [.dozeExit] }.pending = .dozeExit :: [] ∧ up.pending = [] := by decide

def funded : State :=
  let b : Buckets := ⟨60, 20, 15, 5, 100⟩
  { up with pending := [.dozeExit], ldg := { Ledger.reset with st := .active, cA := b, cB := b, billRes := 999 } }

theorem wit_LedgerStaysConserved : LedgerOk funded ∧ ∃ t, step funded = .next t :=
  ⟨⟨by unfold BucketsOk; decide, rfl, by decide, fun _ h => by cases h⟩, _, rfl⟩

theorem wit_BeatCountNeverSkips : (∃ t, step { up with pending := [.beatBoundary noBeat] } = .next t) ∧
    (∃ t, step { up with pending := [.por] } = .next t) ∧ ∃ t, step { up with pending := [.dozeExit] } = .next t :=
  ⟨⟨_, rfl⟩, ⟨_, rfl⟩, ⟨_, rfl⟩⟩

theorem wit_FusesOnlyAddedByCommit : (∃ t, step { up with pending := [.advanceCommit] } = .next t) ∧
    ∃ t, step { up with pending := [.por] } = .next t := ⟨⟨_, rfl⟩, ⟨_, rfl⟩⟩

/-! ### Host commands -/

def fenced : Cmd := { cmd { op 1 with dw0 := 0x00070101#32 } with uid := 2 }
def nopTwo : Cmd := { cmd (op 1) with uid := 2 }
def running (d : Desc) : Cmd := { cmd d with st := .running, voted := true }

theorem wit_NopCompletesInTurn :
    (descOpcode (op 1) = 1 ∧ checkDesc up (op 1) = none) ∧
    (Begins (ask up (op 1)) 0 0x01 (mem []) (cmd (op 1)) [] ∧ (∀ x ∈ (ask up (op 1)).ring.cmds, x.sq = (0 : Fin 16).val → 1 ≤ x.uid) ∧
      CqTakes (ask up (op 1)) 0) ∧
    (oldestCmd (withCmds up [running (op 2), nopTwo]) 0 1 = some nopTwo ∧
      running (op 2) ∈ (withCmds up [running (op 2), nopTwo]).ring.cmds ∧ (running (op 2)).uid < nopTwo.uid) ∧
    (fenced ∈ (withCmds up [cmd (op 1), fenced]).ring.cmds ∧ descFence fenced.desc = true ∧
      oldestCmd (withCmds up [cmd (op 1), fenced]) 0 1 = some (cmd (op 1))) :=
  ⟨by decide, ⟨begins_of (by decide), by decide, cqTakes_of (by decide)⟩, by decide, by decide⟩

/-- A descriptor of an opcode with LEN_OUT and BUF_CAP. -/
def opOut (n len : Nat) : Desc := { op n with dw4 := BitVec.ofNat 32 len, dw5 := BitVec.ofNat 32 len, dw6 := 0x40000 }

theorem wit_CapturesBeginAndComplete :
    Begins (ask up (op 2)) 0 0x02 (mem []) (cmd (op 2)) [] ∧ Begins (ask up (op 0x31)) 0 0x31 (mem []) (cmd (op 0x31)) [] ∧
    Begins (ask up (op 0x41)) 0 0x41 (mem []) (cmd (op 0x41)) [] ∧
    (Begins (ask up (op 0x42)) 0 0x42 (mem []) (cmd (op 0x42)) [] ∧ keyBusy (ask up (op 0x42)) = false) ∧
    Begins (ask up (op 0x71)) 0 0x71 (mem []) (cmd (op 0x71)) [] ∧
    (∀ n, n = 0x02 ∨ n = 0x31 ∨ n = 0x41 → let s := withCmds up [running (opOut n 128)]
      keeperUp s = true ∧ s.ring.cmds = [running (opOut n 128)] ∧ CqTakes s 0 ∧ descOpcode (running (opOut n 128)).desc = n) :=
  ⟨begins_of (by decide), begins_of (by decide), begins_of (by decide), ⟨begins_of (by decide), rfl⟩, begins_of (by decide),
    fun n h => by rcases h with rfl | rfl | rfl <;> exact ⟨rfl, rfl, cqTakes_of (by decide), by decide⟩⟩

/-- An active host node with index `i` under the plinth, handle `256 + i`. -/
def hostNode (i : Nat) : Node :=
  { Node.free with inst := 1, st := .active, type := 4, loaded := true, owner := 0x20, level := 1, limit := 1000, gen := BitVec.ofNat 16 i }

def keyed : State :=
  { up with key := { Keys.reset with ready := true, nodes := [(0, { hostNode 0 with type := 1, owner := 0x1F }),
      (1, { hostNode 1 with type := 1, owner := 0x1F }), (2, { hostNode 2 with type := 1, owner := 0x1F }),
      (3, { hostNode 3 with type := 1, owner := 0x40 }), (32, hostNode 32)] } }

def jRec (seq : Nat) : JRec := ⟨seq, 0, 0, 1, 0, 0, [], none, 0⟩

def infoDesc : Desc := { opOut 0x5A 64 with dw8 := 0x120 }
def readDesc (mode : Nat) : Desc := { opOut 0x48 256 with dw8 := BitVec.ofNat 32 mode, dw9 := 1, dw11 := 1 }

theorem wit_ReportsComplete :
    (let s := ask keyed infoDesc
     CqTakes s 0 ∧ Begins s 0 0x5A (mem []) (cmd infoDesc) [] ∧ keyBusy s = false ∧ infoIndex s infoDesc = some 32) ∧
    (Begins (ask up (readDesc 0)) 0 0x48 (mem []) (cmd (readDesc 0)) [] ∧ fld (readDesc 0).dw8 0 2 = 0) ∧
    (Begins (ask up (readDesc 1)) 0 0x48 (mem []) (cmd (readDesc 1)) [] ∧ fld (readDesc 1).dw8 0 2 = 1) :=
  ⟨⟨cqTakes_of (by decide), begins_of (by decide), rfl, by decide⟩, ⟨begins_of (by decide), by decide⟩, begins_of (by decide), by decide⟩

/-- A cipher command on node 32 with DW9, DW10, LEN_IN and LEN_OUT. -/
def ciph (n dw9 dw10 lin lout : Nat) : Desc :=
  { opOut n lout with dw1 := BitVec.ofNat 32 lin, dw2 := 0x50000, dw8 := 0x120, dw9 := BitVec.ofNat 32 dw9, dw10 := BitVec.ofNat 32 dw10 }

def sealed1 : List Byte := [0xD0, 0x57, 0x7F, 0x71, 0xCE]

theorem wit_CipherCommandsComplete :
    (∀ d ∈ [ciph 0x50 4 0 1 4, ciph 0x50 0x104 0 1 0, ciph 0x51 0 0 1 1, ciph 0x52 4 0 1 21, ciph 0x53 0xD04 0 5 1],
      let s := ask keyed d
      CqTakes s 0 ∧ cipherJudge s (cmd d) = .go ∧ nodeOfHandle s d.dw8.toNat = some 32 ∧ (getNode s 32).uses + 1 < (getNode s 32).limit) ∧
    (Begins (ask keyed (ciph 0x50 4 0 1 4)) 0 0x50 (mem [5]) (cmd (ciph 0x50 4 0 1 4)) [5] ∧ bitOf (ciph 0x50 4 0 1 4).dw9 8 = false) ∧
    (Begins (ask keyed (ciph 0x50 0x104 0 1 0)) 0 0x50 (mem [5]) (cmd (ciph 0x50 0x104 0 1 0)) [5] ∧
      bitOf (ciph 0x50 0x104 0 1 0).dw9 8 = true) ∧
    (Begins (ask keyed (ciph 0x51 0 0 1 1)) 0 0x51 (mem [5]) (cmd (ciph 0x51 0 0 1 1)) [5] ∧ padTo 1 [(5 : Byte)] ≠ []) ∧
    Begins (ask keyed (ciph 0x52 4 0 1 21)) 0 0x52 (mem [5]) (cmd (ciph 0x52 4 0 1 21)) [5] ∧
    (let d := ciph 0x53 0xD04 0 5 1
     let msg := padTo 5 sealed1
     Begins (ask keyed d) 0 0x53 (mem sealed1) (cmd d) sealed1 ∧
      ccmOpenBytes (nodeKey (getNode keyed 32)) ((descBytes16 d).take 13) (toN (msg.take 0)) (toN (slice msg 0 1)) (toN (msg.drop 1)) =
        some [5]) := by
  refine ⟨fun d h => ?_, ⟨begins_of (by decide), by decide⟩, ⟨begins_of (by decide), by decide⟩, ⟨begins_of (by decide), by decide⟩,
    begins_of (by decide), ⟨begins_of (by decide), by decide +kernel⟩⟩
  simp only [List.mem_cons, List.not_mem_nil, or_false] at h
  rcases h with rfl | rfl | rfl | rfl | rfl <;> exact ⟨cqTakes_of (by decide), by decide, by decide, by decide⟩

/-! ### Keys, tickets and images of the part, whatever its fuses hold -/

def uidBytes : List Byte := leBytes Config.deviceUid.toNat 8

theorem leNat_uidBytes : leNat uidBytes = Config.deviceUid.toNat := leNat_leBytes 8 _ (by have := Config.deviceUid.isLt; omega)

theorem devKey_bytes : IsBytes 32 devKey :=
  isBytes_kdf (.inr (isBytes_nBe _ 32)) (by decide) (isBytes_nBe _ 8).2 true

/-- A blob for fleet slot 0, generation 5, ISEQ 1, with the tag that K_tr gives it. -/
def blobHead : List Byte :=
  [0x01, 0x4B, 1, 0] ++ uidBytes ++ [1, 0, 5, 0] ++ List.replicate 16 0 ++ [0xE8, 3, 0, 0, 0, 0, 0, 0, 1, 0, 0, 0, 0, 0, 0, 0]
def blobKs : List (List Nat) := expandKey (List.replicate 16 0)
def blobNonce : List Nat := [0x4B] ++ toN uidBytes ++ [1, 0, 0, 0]
def blobPt : List Nat := ccmStream blobKs blobNonce (chunks 16 (List.replicate 32 0)) 1
def blobTag : List Nat := ccmTag blobKs blobNonce (toN blobHead) blobPt 16
def blob : List Byte := (blobHead ++ List.replicate 32 0) ++ ofN blobTag

theorem blobNonce_bytes : blobNonce.length = 13 ∧ ∀ x ∈ blobNonce, x < 256 := by
  have h := toN_lt uidBytes
  refine ⟨rfl, fun x hx => ?_⟩
  simp only [blobNonce, List.mem_append, List.mem_cons, List.not_mem_nil, or_false] at hx
  rcases hx with (rfl | hx) | rfl | rfl | rfl | rfl
  all_goals first | exact h x hx | omega

theorem blobTag_bytes : IsBytes 16 blobTag := by
  have k : KeysOk blobKs := keysOk_expandKey (.inl (isBytes_zeros 16))
  have n := blobNonce_bytes
  exact isBytes_ccmTag k (by omega) (by omega) n.2 (toN_lt _)
    (isBytes_ccmStream k (by omega) n.2 _ 1 (isBytes_chunks (k := 2) (by omega) (isBytes_zeros 32))).2

theorem blob_tag : slice blob 80 16 = ofN blobTag := by
  unfold slice blob
  rw [List.drop_left' (l₁ := blobHead ++ List.replicate 32 0) (l₂ := ofN blobTag) (i := 80) rfl]
  exact List.take_of_length_le (by simp [ofN, blobTag_bytes.1])

theorem blob_uid : BitVec.ofNat 64 (leAt blob 4 8) = Config.deviceUid := by
  have : leAt blob 4 8 = leNat uidBytes := rfl
  rw [this, leNat_uidBytes, BitVec.ofNat_toNat, BitVec.setWidth_eq]

set_option maxRecDepth 20000 in
theorem blob_key : blobKey keyed blob = some blobPt := by
  have e : blobKey keyed blob = ccmOpenBytes (List.replicate 16 0) blobNonce (toN blobHead) (List.replicate 32 0) (toN (slice blob 80 16)) :=
    rfl
  rw [e, blob_tag, toN_ofN blobTag_bytes.2]
  have t : ccmTag (expandKey (List.replicate 16 0)) blobNonce (toN blobHead)
    (ccmStream (expandKey (List.replicate 16 0)) blobNonce (chunks 16 (List.replicate 32 0)) 1) blobTag.length = blobTag := by
    rw [blobTag_bytes.1]; rfl
  simp only [ccmOpenBytes, t, if_true]
  rfl

def factory (s : State) : State := { s with lcy := { s.lcy with fuses := 1 } }

def importDesc : Desc := { op 0x5B with dw1 := 96, dw2 := 0x50000, dw5 := 96 }
def importing : State := factory (ask keyed importDesc)
def deriveDesc : Desc := { op 0x58 with dw8 := 0x120, dw12 := 9 }
def killDesc : Desc := { op 0x59 with dw8 := 0x120 }

/-- Node 8 of fleet slot 0, in use by a range exchange. -/
def inUse : State :=
  { keyed with key := { keyed.key with nodes := [(8, { hostNode 8 with parent := 0x100 })] },
               rad := { Radio.reset with cur := some (newAct 1 .range 0 0 5 0 10) } }
def killFleet : Desc := { op 0x59 with dw8 := 0x108 }

theorem wit_KeyCommandsComplete :
    (let s := ask keyed deriveDesc
     CqTakes s 0 ∧ Begins s 0 0x58 (mem []) (cmd deriveDesc) [] ∧ deriveJudge s (cmd deriveDesc) = .go ∧
      nodeOfHandle s deriveDesc.dw8.toNat = some 32 ∧ freeHostIndex s = some 33 ∧ (getNode s 32).uses + 1 < (getNode s 32).limit) ∧
    (let s := ask keyed killDesc
     CqTakes s 0 ∧ Begins s 0 0x59 (mem []) (cmd killDesc) [] ∧ s.key.ready = true ∧ nodeOfHandle s killDesc.dw8.toNat = some 32 ∧
      (getNode s 32).type = 4 ∧ (getNode s 32).st = .active ∧ nodeBusy s 32 = false) ∧
    (let s := ask inUse killFleet
     CqTakes s 0 ∧ Begins s 0 0x59 (mem []) (cmd killFleet) [] ∧ s.key.ready = true ∧ nodeOfHandle s killFleet.dw8.toNat = some 8 ∧
      (getNode s 8).type = 4 ∧ (getNode s 8).st = .active ∧ nodeBusy s 8 = true) ∧
    (let s := importing
     Begins s 0 0x5B (mem blob) (cmd importDesc) blob ∧ importJudge s (cmd importDesc) = .go ∧ CqTakes s 0 ∧ padTo 96 blob = blob ∧
      blobShape blob = true ∧ BitVec.ofNat 64 (leAt blob 4 8) = Config.deviceUid ∧ leAt blob 12 1 = lcState s ∧ engineFailed s = false ∧
      nodeLive s 1 = true ∧ blobKey s blob = some blobPt ∧ blobFresh s blob = true ∧ blobIndex s blob = some 8 ∧ (∀ j ∈ subtree s 8, 2 < j) ∧
      ∀ j, j = 1 ∨ j = 2 → (getNode s j).uses + 1 < (getNode s j).limit) := by
  refine ⟨⟨cqTakes_of (by decide), begins_of (by decide), by decide, by decide, by decide, by decide⟩,
    ⟨cqTakes_of (by decide), begins_of (by decide), rfl, by decide, by decide, by decide, by decide⟩,
    ⟨cqTakes_of (by decide), begins_of (by decide), rfl, by decide, by decide, by decide, by decide⟩,
    ⟨by decide, by decide, by decide, rfl⟩, by decide, cqTakes_of (by decide), ?_, rfl, blob_uid, rfl, rfl, rfl, blob_key, rfl, rfl, by decide,
    by rintro j (rfl | rfl) <;> decide⟩
  have l : blob.length = 96 := by simp [blob, ofN, blobTag_bytes.1]; rfl
  simp [padTo, l, List.take_of_length_le]

def ready : State := { up with ent := { Entropy.reset with st := .ready } }
def rngDesc : Desc := opOut 0x60 16

theorem wit_RngGetCompletes :
    let s := ask ready rngDesc
    Begins s 0 0x60 (mem []) (cmd rngDesc) [] ∧ CqTakes s 0 ∧ 1 ≤ descLenOut rngDesc ∧ descLenOut rngDesc ≤ 4096 ∧ s.ent.st = .ready ∧
      softDue s = false ∧ hardDue s = false ∧ s.ent.waiting = [] :=
  ⟨begins_of (by decide), cqTakes_of (by decide), by decide, by decide, rfl, by decide, by decide, rfl⟩

/-- A ticket from BLANK to FACTORY with the tag that K_tk gives it. -/
def ticketHead : List Byte := [0x01, 0x54, 0, 1] ++ uidBytes ++ [0, 0, 0, 0] ++ List.replicate 32 1
def ticketTag : List Nat := cmac (ticketKey 0 1) (toN ticketHead)
def ticketBytes : List Byte := ticketHead ++ ofN ticketTag

theorem ticketTag_bytes : IsBytes 16 ticketTag :=
  isBytes_cmac (.inl (isBytes_kdf (.inr devKey_bytes) (by decide)
    (fun x hx => (List.mem_append.1 hx).elim ((isBytes_nBe _ 8).2 x) ((by decide : ∀ y ∈ [0, 1], y < 256) x)) false)) (toN_lt _)

theorem ticket_tag : ticketTagOk ticketBytes = true := by
  have e : slice ticketBytes 48 16 = ofN ticketTag := by
    unfold slice ticketBytes
    rw [List.drop_left' (l₁ := ticketHead) (l₂ := ofN ticketTag) (i := 48) rfl]
    exact List.take_of_length_le (by simp [ofN, ticketTag_bytes.1])
  have k : cmac (ticketKey (leAt ticketBytes 2 1) (leAt ticketBytes 3 1)) (toN (ticketBytes.take 48)) = ticketTag := by
    have t : ticketBytes.take 48 = ticketHead := List.take_left' (l₁ := ticketHead) (l₂ := ofN ticketTag) (i := 48) rfl
    have a : leAt ticketBytes 2 1 = 0 := rfl
    have b : leAt ticketBytes 3 1 = 1 := rfl
    rw [t, a, b]
    rfl
  unfold ticketTagOk
  rw [k, e, toN_ofN ticketTag_bytes.2]
  simp

/-- A keeper image of 16 bytes, version 2. -/
def imageHead : List Byte := [0x01, 0x49, 0, 0, 2, 0, 0, 0, 16, 0, 0, 0] ++ uidBytes ++ List.replicate 28 0
def imageTag : List Nat := cmac imageKey (toN (imageHead ++ List.replicate 16 9))
def imageBytes : List Byte := imageHead ++ (ofN imageTag ++ List.replicate 16 9)

theorem imageTag_bytes : IsBytes 16 imageTag :=
  isBytes_cmac (.inl (isBytes_kdf (.inr devKey_bytes) (by decide) (isBytes_nBe _ 8).2 false)) (toN_lt _)

theorem image_tag : keeperTagOk up imageBytes 80 = true := by
  have t : imageBytes.take 48 = imageHead := List.take_left' (l₁ := imageHead) (i := 48) rfl
  have l : (ofN imageTag).length = 16 := by simp [ofN, imageTag_bytes.1]
  have e : slice imageBytes 48 16 = ofN imageTag := by
    unfold slice imageBytes
    rw [List.drop_left' (l₁ := imageHead) (i := 48) rfl]
    exact List.take_left' (l₁ := ofN imageTag) l
  have b : slice imageBytes 64 (80 - 64) = List.replicate 16 9 := by
    have : imageBytes = (imageHead ++ ofN imageTag) ++ List.replicate 16 9 := by simp [imageBytes]
    unfold slice
    rw [this, List.drop_left' (l₁ := imageHead ++ ofN imageTag) (i := 64) (by rw [List.length_append, l]; rfl)]
    rfl
  unfold keeperTagOk
  rw [t, e, b, toN_ofN imageTag_bytes.2]
  show (true && (imageTag == imageTag)) = true
  simp

theorem image_shape : keeperShape up imageBytes 80 = true := by
  have u : leAt imageBytes 12 8 = Config.deviceUid.toNat := leNat_uidBytes
  unfold keeperShape
  rw [u, decide_eq_true (rfl : Config.deviceUid.toNat = _)]
  rfl

theorem ticket_uid (s : State) (h : lcState s = 0) : ticketShape s ticketBytes = true := by
  have u : leAt ticketBytes 4 8 = leNat uidBytes := rfl
  have p : (parseTicket ticketBytes).pseed ≠ 0 := by
    show BitVec.ofNat 256 (beN (List.replicate 32 1)) ≠ 0
    decide
  have q : (parseTicket ticketBytes).uid = Config.deviceUid := by
    show BitVec.ofNat 64 (leAt ticketBytes 4 8) = _
    rw [u, leNat_uidBytes, BitVec.ofNat_toNat, BitVec.setWidth_eq]
  have c : (parseTicket ticketBytes).dest = 1 := rfl
  have d : (parseTicket ticketBytes).frm = 0 := rfl
  unfold ticketShape
  simp only [c, d, h, q, p]
  rfl

/-! ### LF, radio, sluice and device commands -/

def inFlight : Job := { newJob 9 .sweep 0 (some 0) 0 with phase := .onAir }
def busyChan : Chan := { Chan.reset with place := some ⟨0, 1, 0⟩, jobs := [inFlight] }

/-- Channel 0 a MODULE_SLOT with its token, 2 a KEY_SLOT, 4 a ZONE, each with a transaction on air; token 2 a service tool. -/
def lfUp : State :=
  { factory ready with
    cfg := { CfgState.reset with vals := [(0x2000, 5), (0x2080, 5), (0x2100, 5), (0x3908, 1), (0x3910, 2)] },
    lf := { Lf.reset with auto := true, pols := [(0, { Polder.reset with st := .running })],
                          chans := [(0, busyChan), (2, busyChan), (4, busyChan)] },
    tok := { Tok.reset with reg := [(0, { RegEntry.free with id := 1, st := .active, slot := some 0 }),
                                    (1, { RegEntry.free with id := 2, kind := 3, st := .active, roles := 8 })],
                            recs := [(0, ⟨0, true, 100, 50, 0, 0x400000, 0⟩)] },
    key := { Keys.reset with ready := true, nodes := [(8, { hostNode 8 with type := 2, owner := 0x1F })] },
    rad := { Radio.reset with heard := [⟨1, 0, 0, false, 0⟩] },
    fl := { Flash.reset with opts := .shipped } }

def lfDesc (n dw8 dw9 dw10 : Nat) : Desc :=
  { op n with dw8 := BitVec.ofNat 32 dw8, dw9 := BitVec.ofNat 32 dw9, dw10 := BitVec.ofNat 32 dw10 }

theorem wit_LfCommandsQueue :
    let busy := fun n => ∃ j, headOf lfUp n = some j ∧ jobInFlight j = true
    let at_ := fun (n : Nat) (d : Desc) => Begins (ask lfUp d) 0 n (mem []) (cmd d) []
    (∀ n ∈ [0, 2, 4], busy n) ∧
    (at_ 0x10 (lfDesc 0x10 0 1 0) ∧ sweepJudge (ask lfUp (lfDesc 0x10 0 1 0)) (cmd (lfDesc 0x10 0 1 0)) = .go ∧
      maskChans (lfDesc 0x10 0 1 0) = [0] ∧ skipReason lfUp 0 (some 0) true = none) ∧
    (at_ 0x11 (lfDesc 0x11 0 0 0) ∧ authJudge (ask lfUp (lfDesc 0x11 0 0 0)) (cmd (lfDesc 0x11 0 0 0)) = .go ∧ roleOf lfUp 0 = 0) ∧
    (at_ 0x11 (lfDesc 0x11 0x208 0 2) ∧ authJudge (ask lfUp (lfDesc 0x11 0x208 0 2)) (cmd (lfDesc 0x11 0x208 0 2)) = .go ∧
      roleOf lfUp 2 ≠ 0 ∧ skipReason lfUp 2 (some 0) false = none ∧ addressedEntry lfUp (lfDesc 0x11 0x208 0 2) = some 1) ∧
    (at_ 0x11 (lfDesc 0x11 0x200 0 0) ∧ authJudge (ask lfUp (lfDesc 0x11 0x200 0 0)) (cmd (lfDesc 0x11 0x200 0 0)) = .go) ∧
    (at_ 0x14 (lfDesc 0x14 0x200 0 2) ∧ rekeyJudge (ask lfUp (lfDesc 0x14 0x200 0 2)) (cmd (lfDesc 0x14 0x200 0 2)) = .go ∧
      rekeyEntry lfUp (lfDesc 0x14 0x200 0 2) = some 1 ∧ (getReg lfUp 1).gen ≠ 0xFFFF#16) ∧
    (at_ 0x13 (lfDesc 0x13 0 0 0) ∧ enrolJudge (ask lfUp (lfDesc 0x13 0 0 0)) (cmd (lfDesc 0x13 0 0 0)) = .go ∧
      enrolMode (lfDesc 0x13 0 0 0) ≤ 1 ∧ lfUp.cfg.enrolProg.active = false) ∧
    (at_ 0x79 (lfDesc 0x79 0x210 0 2) ∧ unlockJudge (ask lfUp (lfDesc 0x79 0x210 0 2)) (cmd (lfDesc 0x79 0x210 0 2)) = .go ∧
      unlockDenied (ask lfUp (lfDesc 0x79 0x210 0 2)) (lfDesc 0x79 0x210 0 2) = 0 ∧ findId lfUp (tokenField (lfDesc 0x79 0x210 0 2)) = some 1) ∧
    (at_ 0x18 (lfDesc 0x18 0 1 0) ∧ calJudge (ask lfUp (lfDesc 0x18 0 1 0)) (cmd (lfDesc 0x18 0 1 0)) = .go ∧
      calChans lfUp (lfDesc 0x18 0 1 0) = [0] ∧ calSkip lfUp 0 false = none) ∧
    (at_ 0x12 (lfDesc 0x12 0 16 0) ∧ locateJudge (ask lfUp (lfDesc 0x12 0 16 0)) (cmd (lfDesc 0x12 0 16 0)) = .go ∧
      maskChans (lfDesc 0x12 0 16 0) = [4]) := by
  refine ⟨?_, ⟨begins_of ?_, by decide, by decide, by decide⟩, ⟨begins_of ?_, by decide, by decide⟩,
    ⟨begins_of ?_, by decide, by decide, by decide, by decide⟩, ⟨begins_of ?_, by decide⟩, ⟨begins_of ?_, by decide, by decide, by decide⟩,
    ⟨begins_of ?_, by decide, by decide, rfl⟩, ⟨begins_of ?_, by decide, by decide, by decide⟩, ⟨begins_of ?_, by decide, by decide, by decide⟩,
    ⟨begins_of ?_, by decide, by decide⟩⟩
  · intro n hn
    simp only [List.mem_cons, List.not_mem_nil, or_false] at hn
    rcases hn with rfl | rfl | rfl <;> exact ⟨inFlight, by decide, by decide⟩
  all_goals decide

def txDesc : Desc := { op 0x20 with dw1 := 1, dw2 := 0x50000, dw5 := 1, dw8 := 0x34 }
def winDesc : Desc := { opOut 0x21 64 with dw8 := 0x34, dw9 := 1000 }
def rangeDesc : Desc := { op 0x22 with dw10 := 2 }

theorem wit_RadioCommandsQueue :
    (Begins (ask lfUp txDesc) 0 0x20 (mem [0x80]) (cmd txDesc) [0x80] ∧ radioOff (ask lfUp txDesc) = false ∧ 0x80 ≤ leAt (padTo 1 [0x80]) 0 1) ∧
    (Begins (ask lfUp winDesc) 0 0x21 (mem []) (cmd winDesc) [] ∧ windowMs winDesc ≠ 0) ∧
    (let s := ask lfUp rangeDesc
     Begins s 0 0x22 (mem []) (cmd rangeDesc) [] ∧ rangeJudge s (cmd rangeDesc) = .go ∧ addressedEntry s rangeDesc = some 1 ∧
      s.ent.st = .ready ∧ softDue s = false ∧ hardDue s = false ∧ ∀ w ∈ s.ent.waiting, w.cls ≠ 0) :=
  ⟨⟨begins_of (by decide), by decide, by decide⟩, ⟨begins_of (by decide), by decide⟩,
    ⟨begins_of (by decide), by decide, by decide, rfl, by decide, by decide, by decide⟩⟩

def setDesc : Desc := { op 0x30 with dw8 := 0x21 }
def confirmDesc : Desc := { op 0x32 with dw8 := 0x11, dw9 := 5 }
def prepared : State := { ask up confirmDesc with slu := { Slus.reset with prepare := some ⟨5, 1, 0⟩ } }

theorem wit_SluiceCommandsTakeEffect :
    (let s := factory (ask up setDesc)
     Begins s 0 0x30 (mem []) (cmd setDesc) [] ∧ setJudge s (cmd setDesc) = .go) ∧
    (Begins prepared 0 0x32 (mem []) (cmd confirmDesc) [] ∧ bitOf confirmDesc.dw8 0 = true ∧ confirmOk prepared (cmd confirmDesc) = true) ∧
    (let s := ask up confirmDesc
     Begins s 0 0x32 (mem []) (cmd confirmDesc) [] ∧ CqTakes s 0 ∧ s.slu.prepare = none) :=
  ⟨⟨begins_of (by decide), by decide⟩, ⟨begins_of (by decide), by decide, by decide⟩, begins_of (by decide), cqTakes_of (by decide), rfl⟩

def topupDesc : Desc := { op 0x40 with dw1 := 64, dw2 := 0x50000 }

theorem wit_LedgerTopupQueues :
    let s := ask up topupDesc
    Begins s 0 0x40 (mem (List.replicate 64 0)) (cmd topupDesc) (List.replicate 64 0) ∧ keyBusy s = false ∧ engineFailed s = false ∧
      s.ldg.st ≠ .active :=
  ⟨begins_of (by decide), rfl, by decide, by decide⟩

/-- A configuration image of one entry: BEAT_CTL 1. -/
def cfgImage : List Byte :=
  [0x01, 0x43, 1, 0, 0, 0, 0, 0, 0, 0, 0, 0, 0, 4, 0, 0, 1, 0, 0, 0, 0x57, 0x09, 0xBC, 0xF2]

def imageDesc : Desc := { op 0x70 with dw1 := 24, dw2 := 0x50000, dw5 := 24 }
def loadDesc : Desc := { op 0x73 with dw1 := 80, dw2 := 0x50000, dw5 := 80 }
def advDesc : Desc := { op 0x78 with dw1 := 64, dw2 := 0x50000, dw5 := 64 }
def restartDesc (k : Nat) : Desc := { op 0x74 with dw8 := BitVec.ofNat 32 k }

theorem imageBytes_length : imageBytes.length = 80 := by simp [imageBytes, ofN, imageTag_bytes.1]; rfl
theorem ticketBytes_length : ticketBytes.length = 64 := by simp [ticketBytes, ofN, ticketTag_bytes.1]; rfl

theorem wit_DeviceCommandsBegin :
    (let s := ask up imageDesc
     let b := padTo 24 cfgImage
     Begins s 0 0x70 (mem cfgImage) (cmd imageDesc) cfgImage ∧ s.cfg.imageUid = none ∧ s.cfg.hold = false ∧
      crc32c (toN (b.take 20)) = leAt b 20 4 ∧ leAt b 0 2 = 0x4301 ∧ 24 = 16 + 8 * leAt b 2 2 ∧ firstBad none 0 (imageEntries b) = none) ∧
    (let s := ask up loadDesc
     Begins s 0 0x73 (mem imageBytes) (cmd loadDesc) imageBytes ∧ s.fl.imageJob = none ∧ padTo 80 imageBytes = imageBytes ∧
      keeperShape s imageBytes 80 = true ∧ keeperTagOk s imageBytes 80 = true) ∧
    (let s := ask up advDesc
     Begins s 0 0x78 (mem ticketBytes) (cmd advDesc) ticketBytes ∧ engineFailed s = false ∧ padTo 64 ticketBytes = ticketBytes ∧
      advanceCheck s ticketBytes = 0 ∧ s.lcy.dbg = .locked) ∧
    (Begins (ask up (restartDesc 0)) 0 0x74 (mem []) (cmd (restartDesc 0)) [] ∧ fld (restartDesc 0).dw8 0 2 = 0) ∧
    (Begins (ask up (restartDesc 1)) 0 0x74 (mem []) (cmd (restartDesc 1)) [] ∧ fld (restartDesc 1).dw8 0 2 = 1 ∧
      inSpillway up = false ∧ otherImageOk up = true) := by
  refine ⟨⟨begins_of (by decide), rfl, rfl, by decide +kernel, by decide, by decide, by decide⟩,
    ⟨⟨by decide, by decide, by decide, rfl⟩, rfl, ?_, image_shape, image_tag⟩, ⟨⟨by decide, by decide, by decide, rfl⟩, by decide, ?_, ?_, rfl⟩,
    ⟨begins_of (by decide), by decide⟩, begins_of (by decide), by decide, by decide, by decide⟩
  · simp [padTo, imageBytes_length, List.take_of_length_le]
  · simp [padTo, ticketBytes_length, List.take_of_length_le]
  · unfold advanceCheck
    rw [ticket_uid _ (by decide), ticket_tag]
    rfl

theorem wit_PolderCtlTakesEffect :
    let at_ := fun (s : State) (d : Desc) => Begins (ask s d) 0 0x72 (mem []) (cmd d) [] ∧ ctlJudge (ask s d) (cmd d) = .go
    (at_ lfUp (lfDesc 0x72 0 0 0) ∧ ctlAction (lfDesc 0x72 0 0 0) = 0) ∧ (at_ lfUp (lfDesc 0x72 1 0 0) ∧ ctlAction (lfDesc 0x72 1 0 0) = 1) ∧
    (at_ lfUp (lfDesc 0x72 0x12 0 0) ∧ ctlAction (lfDesc 0x72 0x12 0 0) = 2) ∧
    (at_ lfUp (lfDesc 0x72 0x13 0 0) ∧ ctlAction (lfDesc 0x72 0x13 0 0) = 3 ∧ (getPol lfUp 1).st ≠ .running) ∧
    (let s := { lfUp with lf := { lfUp.lf with chans := [] } }
     at_ s (lfDesc 0x72 3 0 0) ∧ ctlAction (lfDesc 0x72 3 0 0) = 3 ∧ (getPol s 0).st = .running) ∧
    (at_ lfUp (lfDesc 0x72 5 0 0) ∧ ctlAction (lfDesc 0x72 5 0 0) = 5) :=
  ⟨⟨⟨begins_of (by decide), by decide⟩, by decide⟩, ⟨⟨begins_of (by decide), by decide⟩, by decide⟩,
    ⟨⟨begins_of (by decide), by decide⟩, by decide⟩, ⟨⟨begins_of (by decide), by decide⟩, by decide, by decide⟩,
    ⟨⟨begins_of (by decide), by decide⟩, by decide, by decide⟩, ⟨begins_of (by decide), by decide⟩, by decide⟩

/-! ### Doorbells, queues and registers -/

def cqFull : State := { up with ring := { up.ring with cqs := [(0, { getCq up 0 with tail := 3, counted := 1 })],
                                                       eq := { up.ring.eq with tail := 3, counted := 1 } } }

theorem wit_DoorbellsActAtOnce :
    hostReach cqFull = true ∧ cqFull.flt.restarting = false ∧ ((getSq cqFull 0).st = .active ∧ (2#32).toNat < ringSize (getSq cqFull 0).size) ∧
    ((getCq cqFull 0).active = true ∧ (getCq cqFull 0).held = [] ∧ releases (2#32).toNat 0 0 3 = true ∧
      (getCq cqFull 0).size = 0 ∧ (getCq cqFull 0).head = 0 ∧ (getCq cqFull 0).tail = 3) ∧
    (cqFull.ring.eq.active = true ∧ releases (2#32).toNat cqFull.ring.eq.size cqFull.ring.eq.head cqFull.ring.eq.tail = true) ∧
    (getSq cqFull 1).st ≠ .active ∧ ringSize (getSq cqFull 0).size ≤ (16#32).toNat ∧ releases (4#32).toNat 0 0 3 = false := by decide

def fetching (l : Nat) : State :=
  { up with ring := { up.ring with sqs := [(0, { getSq up 0 with tail := 1 })] },
            jrn := { Journal.reset with staged := List.replicate l ⟨0, 0, 0, 0, 0, 0, [], none, 0⟩ } }

set_option maxRecDepth 40000 in
theorem wit_DescriptorFetchTakesOne :
    (fetchRuns (fetching 0) = true ∧ nextSq (fetching 0) = some 0) ∧ checkDesc (fetching 0) (op 1) = none ∧
    (checkDesc (fetching 0) (op 3) = some .opcodeUnsupported ∧ stagingOps.contains (descOpcode (op 3)) = false ∧ CqTakes (fetching 0) 0) ∧
    (fetchRuns (fetching 1025) = true ∧ nextSq (fetching 1025) = some 0 ∧ stagingOps.contains (descOpcode (op 0x10)) = true ∧
      1024 < (fetching 1025).jrn.staged.length) :=
  ⟨by decide, by decide, ⟨by decide, by decide, cqTakes_of (by decide)⟩, by decide, by decide, by decide,
    by show 1024 < (List.replicate 1025 _).length; rw [List.length_replicate]; decide⟩

def quietRings : State := { up with ring := { up.ring with sqs := [], cqs := [(1, { getCq up 0 with base := 0 })], eq := { up.ring.eq with active := false } } }
def bound : State := { up with ring := { up.ring with sqs := [(0, { getSq up 0 with cq := 1, base := 0x10000 })],
                                                       cqs := [(0, getCq up 0), (1, { getCq up 0 with base := 0x40000 })] } }

theorem wit_QueuesEnableAndDisable :
    (Lands quietRings (0x808 + 16 * (3 : Fin 16).val) ∧ (getSq quietRings 3).st = .disabled ∧ cfgSize (0x100#32 ||| 1#32) ≤ 8 ∧
      fld (0x100#32 ||| 1#32) 8 4 = 1 ∧ (getCq quietRings 1).active = true ∧
      ringOverlaps quietRings 3 (0x1000) (64 * ringSize (cfgSize (0x100#32 ||| 1#32))) = false) ∧
    (Lands quietRings (0x908 + 16 * (3 : Fin 16).val) ∧ (getCq quietRings 3).active = false ∧
      ringOverlaps up (16 + 3) (getCq quietRings 3).base.toNat 256 = false) ∧
    (Lands quietRings 0xA08 ∧ quietRings.ring.eq.active = false ∧
      ringOverlaps quietRings 32 quietRings.ring.eq.base.toNat (16 * ringSize (cfgSize (0x800#32 ||| 1#32))) = false ∧
      quietRings.ring.heldWake = false) ∧
    (8 < cfgSize (0x12#32 ||| 1#32) ∧ (getCq quietRings 0).active = false) ∧
    (Lands up (0x808 + 16 * (0 : Fin 16).val) ∧ (getSq up 0).st ≠ .disabled ∧ cfgSize (0#32 &&& ~~~1#32) = (getSq up 0).size ∧
      fld (0#32 &&& ~~~1#32) 8 4 = (getSq up 0).cq ∧ ∀ c ∈ up.ring.cmds, c.sq ≠ 0) ∧
    (Lands bound (0x908 + 16 * (0 : Fin 16).val) ∧ (getCq bound 0).active = true ∧ cfgSize (0#32 &&& ~~~1#32) = (getCq bound 0).size ∧
      ∀ i, i < 16 → (getSq bound i).cq = 0 → (getSq bound i).st = .disabled) ∧
    (Lands up 0xA08 ∧ up.ring.eq.active = true ∧ cfgSize (0#32 &&& ~~~1#32) = up.ring.eq.size) ∧
    ((getSq up 0).cq = 0 ∧ (getSq up 0).st ≠ .disabled ∧ (getCq up 0).active = true ∧ Lands up (0x908 + 16 * (0 : Fin 16).val)) :=
  ⟨⟨lands_of (by decide), by decide⟩, ⟨lands_of (by decide), by decide⟩, ⟨lands_of (by decide), by decide⟩, by decide,
    ⟨lands_of (by decide), by decide⟩, ⟨lands_of (by decide), by decide⟩, ⟨lands_of (by decide), by decide⟩, by decide, by decide,
    by decide, lands_of (by decide)⟩

theorem wit_RegisterWritesAct :
    (∀ o ∈ [0xB04, 0x7800, 0x7808, 0x7004, 0x410], Lands up o) ∧
    (Lands up (0x0400#16).toNat ∧ (0x0400#16).toNat % 4 = 0 ∧ regOf (0x0400#16).toNat = some .beatCtl ∧
      up.cfg.eccShadow.contains (0x0400#16).toNat = false ∧ (meterLocked up && inMeterSet (0x0400#16).toNat) = false) ∧
    (7#4 ≠ 15#4 ∧ span (0x0400#16).toNat 0xF000 0xF200 = false) ∧ (Lands up (0x0300#16).toNat ∧ homeOf (0x0300#16).toNat = none) := by
  refine ⟨fun o h => ?_, ⟨lands_of (by decide), by decide⟩, by decide, lands_of (by decide), by decide⟩
  simp only [List.mem_cons, List.not_mem_nil, or_false] at h
  rcases h with rfl | rfl | rfl | rfl | rfl <;> exact lands_of (by decide)

/-- METER without power. -/
def meterOff : State := setDom up 7 ⟨false, false, 0⟩

theorem wit_RegisterReads :
    ((0x0408#16).toNat % 4 = 0 ∧ pathOpen up .host = true ∧ isRl (0x0408#16).toNat = true ∧ poweredOff up (0x0408#16).toNat = none ∧
      (inSpillway up && !recovery (0x0408#16).toNat false) = false) ∧
    (pathOpen meterOff .host = true ∧ poweredOff meterOff (0x501C#16).toNat = some 7 ∧ span (0x501C#16).toNat 0xF000 0xF200 = false) ∧
    (let s := { meterOff with flt := { Faults.reset with offPosted := 0x80 } }
     poweredOff s (0x501C#16).toNat = some 7 ∧ s.flt.offPosted.getLsbD 7 = true) := by decide

def timed : State := { up with ring := { up.ring with cqs := [(0, { getCq up 0 with counted := 1, timer := true })] } }

theorem wit_RingEventsTakeEffect :
    ((getCq timed 0).timer = true ∧ (getCq timed 0).ien = true ∧ 0 < (getCq timed 0).counted ∧ timed.ring.bme = true ∧
      timed.ring.msixCtl = 1#2 ∧ timed.ring.msixMask.getLsbD (getCq timed 0).vector = false) ∧
    (let s := withCmds up [running (op 2)]
     ∀ c ∈ s.ring.cmds, cmdWaits s c = false) ∧ hostReach up = true := by decide

theorem wit_LinkPortAndClock :
    (domReady up dLINK = true ∧ up.pwr.perst = false ∧ configReady up = true) ∧
    (State.reset.pwr.phase ≠ .started ∧ State.reset.pwr.phase ≠ .spillway) ∧ up.lcy.dbg = .locked ∧
    { up with lcy := { up.lcy with dbg := .opn } }.lcy.dbg = .opn ∧ (up.pwr.entering = 0 ∧ up.pwr.phase ≠ .aonInit) ∧
    State.reset.pwr.phase = .aonInit ∧ domReady State.reset dLINK = false := by decide

/-! ### Banks, polders and channels -/

theorem wit_BanksAct :
    (∀ c, bankOf c = (1 : Fin 4).val → (getChan up c).jobs = []) ∧
    ((getDom up (dBANK 1)).on = true ∧ up.pwr.supplyOk.getLsbD (5 + 1) = true) ∧ (getBank up 1).linkRetired = false ∧
    ((getBank up 1).errNow = false ∧ (getBank (setBank up 1 { Bank.reset with linkRetired := true }) 1).linkRetired = true) ∧
    ((getBank up 1).ov = false ∧ (getBank up 1).vdrv ≤ 4000) := ⟨fun _ _ => rfl, by decide⟩

def owed (r : Nat × Nat × Byte) : State := { up with flt := { Faults.reset with retireDue := [r] } }
def full : State := { up with fl := { Flash.reset with retLog := (List.range bankEntries).map fun i => ⟨1, i % 3, false, 0, 0, 0, 0⟩ } }

theorem wit_RetirementsTakeEffect :
    ((owed (1, 4, 2)).flt.restarting = false ∧ (owed (1, 4, 2)).fl.retLog.length < 256 ∧ masterOf (owed (1, 4, 2)) 4 = 4 ∧
      ((owed (1, 4, 2)).flt.retireDue.filter fun r => r.1 == 1 && r.2.1 == 4) = [(1, 4, 2)] ∧
      (getChan (owed (1, 4, 2)) 4).jobs = [] ∧ (getChan (owed (1, 4, 2)) 4).retired = false) ∧
    (((owed (5, 1, 0)).flt.retireDue.filter fun r => r.1 == 5 && r.2.1 == 1) = [(5, 1, 0)] ∧
      (∀ i, bankOf i = 1 → (getChan (owed (5, 1, 0)) i).jobs = []) ∧ (getBank (owed (5, 1, 0)) 1).linkRetired = false) ∧
    (((owed (6, 0, 0)).flt.retireDue.filter fun r => r.1 == 6 && r.2.1 == 0) = [(6, 0, 0)] ∧ (owed (6, 0, 0)).rad = Radio.reset ∧
      (owed (6, 0, 0)).ring.cmds = []) ∧
    up.flt.retireDue = [] ∧ bankEntries ≤ full.fl.retLog.length ∧ up.fl.retLog.length < bankEntries :=
  ⟨by decide, ⟨by decide, fun _ _ => rfl, by decide⟩, by decide, rfl, by simp [full], by decide⟩


/-! ### Faults and replies of polders and channels -/

def polUp (x : Polder) : State := setPol up 0 x

theorem wit_PolderFaultsAndTests :
    (let x := getPol lfUp 0
     x.st ≠ .off ∧ x.st ≠ .retired ∧ x.st ≠ .faulted) ∧
    (let s := { lfUp with lf := { lfUp.lf with spare := some 0 } }
     s.lf.spare = some (0 : Fin 5).val ∧ s.clk.beat.toNat % 1024 = 0) ∧
    (let s := polUp { Polder.reset with fcnt := 1 }
     let t := { s with clk := { s.clk with nowUs := 255 * 3600000000 } }
     0 < (getPol t 0).fcnt ∧ regF t .fltPld 8 8 * 3600000000 ≤ t.clk.nowUs - (getPol t 0).lastFaultUs) ∧
    (let s := polUp { Polder.reset with st := .faulted }
     (getPol s 0).st = .faulted ∧ (getPol s 0).fcnt < regF s .fltPld 0 3 ∧ (getPol s 0).cmdUid = none ∧ s.flt.retireDue = []) ∧
    (let s := polUp { Polder.reset with st := .starting }
     (getPol s 0).st = .starting ∧ (getPol s 0).upDue = false ∧ domReady s (dPOLDER 0) = true ∧ s.pwr.phase ≠ .starting ∧
       (getPol s 0).cmdUid = none) := by decide

/-- At a boundary that its rows have not carried out. -/
def due (s : State) : State := { s with clk := { s.clk with acted := s.clk.beat - 1 } }

/-- Polder 0 with channels 0, 2 and 4 has a fault; polder 4 stands by. -/
def polFails : State :=
  { due lfUp with lf := { lfUp.lf with spare := some 4, pols := [(0, { Polder.reset with st := .running, failoverDue := true }),
                                                            (4, { Polder.reset with st := .spare })] } }
/-- Channel 0 waits, idle, to move to polder 1; a rebalance is due. -/
def moving : State :=
  { due lfUp with cfg := { lfUp.cfg with vals := (0x1004, 4) :: lfUp.cfg.vals },
                  lf := { lfUp.lf with chans := [(0, { busyChan with jobs := [], moveTo := some ⟨1, 1, 3⟩ })], rebalUid := some 1,
                                       pols := [(0, { Polder.reset with st := .running }), (1, { Polder.reset with st := .running })] } }

theorem wit_FailoverAndMoves :
    (atBoundary polFails = true ∧ (getPol polFails 0).failoverDue = true ∧ (getPol polFails 0).st ≠ .starting ∧ polFails.lf.spare = some 4 ∧
      (getPol polFails 4).failoverDue = false ∧ (polHeads polFails 0).isEmpty = false) ∧ ((getPol lfUp 0).failoverDue = false ∧ lfUp.lf.moved = []) ∧
    atBoundary lfUp = false ∧
    (atBoundary moving = true ∧ rebalanceWanted moving = true) ∧
    (atBoundary (due lfUp) = true ∧ rebalanceWanted (due lfUp) = false ∧ keeperUp (due lfUp) = true ∧ (due lfUp).lf.moved = []) ∧
    (keeperUp moving = true ∧ masterOf moving 0 = 0 ∧ (getChan moving 0).moveTo = some ⟨1, 1, 3⟩ ∧ (getPol moving 1).st = .running ∧
      chanActive moving 0 = true ∧ chanIdle moving 0 = true ∧ movedNow moving 0 = false ∧ seatFits moving 0 ⟨1, 1, 3⟩ [0] = true) ∧
    (getChan lfUp (masterOf lfUp 0)).moveTo = none := by decide

/-- Channel 0 of a ready bank waits for its pass. -/
def offering (budget : Word) (j : Job) : State :=
  { due lfUp with cfg := { lfUp.cfg with vals := (0x1A00, budget) :: lfUp.cfg.vals },
                  tok := { lfUp.tok with reg := [(0, { getReg lfUp 0 with sessRes := 1024 })] },
                  lf := { lfUp.lf with chans := [(0, { busyChan with jobs := [j] })],
                                       banks := [(0, { Bank.reset with ready := true, vdrv := 2400 })] } }
def waitsPass : Job := { newJob 1 .sweep 0 (some 0) 0 with phase := .waitAdmit, nonceReady := true }
def sweepDesc : Desc := lfDesc 0x10 0 1 0
def sweeping : Cmd := { running sweepDesc with left := 1 }

theorem wit_PassesAdmitAndDefer :
    (let s := offering 0x403C0190 waitsPass
     let mine := fun (s : State) => (allChans.filter fun c => decide (chanPol s c = some 0)).filter (offered s)
     s.lf.moved = [] ∧ atBoundary s = true ∧ atBoundary (due up) = true ∧ mine (due up) = [] ∧ (mine s = [0] ∧ headOf s 0 = some waitsPass ∧ isLoc waitsPass = false ∧
       startPol s 0 waitsPass = some 0 ∧ bankHot s (bankOf 0) = false ∧ leveeFits s (reservation s 0 (carrier s 0)) = true) ∧
     (let z := offering 0x40000000 waitsPass
      mine z = [0] ∧ headOf z 0 = some waitsPass ∧ leveeFits z (reservation z 0 (carrier z 0)) = false ∧
       waitsPass.defers + 1 < regF z .leveeCfg 24 8) ∧
     (let y := setBank s 0 { getBank s 0 with otOff := true }
      mine y = [0] ∧ headOf y 0 = some waitsPass ∧ bankHot y (bankOf 0) = true ∧ waitsPass.defers + 1 < regF y .leveeCfg 24 8)) ∧
    (let j := { waitsPass with defers := 64 }
     let s := withCmds (offering 0x403C0190 j) [sweeping]
     (getChan s 0).jobs = [j] ∧ j.phase = .waitAdmit ∧ 0 < regF s .leveeCfg 24 8 ∧ regF s .leveeCfg 24 8 ≤ j.defers ∧ j.kind = .sweep ∧
       findCmd s j.uid = some sweeping ∧ sweeping.left = 1 ∧ sweeping.recs = [] ∧ sweeping.sq < 16 ∧ descOpcode sweeping.desc = 0x10 ∧
       sweeping.outOk = true ∧ waitsPass.defers < regF s .leveeCfg 24 8 ∧ CqTakes s sweeping.sq) := by
  refine ⟨by decide, by decide, by decide, by decide, by decide, by decide, by decide, by decide, by decide, by decide, by decide,
    by decide, by decide, cqTakes_of (by decide)⟩

def onAirJob : Job := { newJob 1 .sweep 0 (some 0) 0 with phase := .onAir, nonceReady := true }
def airing (j : Job) : State := offering 0x403C0190 j

theorem wit_FaultsRetryAndRestart :
    (headOf (airing onAirJob) (masterOf (airing onAirJob) 0) = some onAirJob ∧ onAirJob.phase = .onAir ∧ isLoc onAirJob = false ∧
      onAirJob.retries < regF (airing onAirJob) .lfRetry 0 3) ∧ (headOf up (masterOf up 0)).isNone = true ∧
    (∀ ph, ph = .faultWait ∨ ph = .quiet → let j := { onAirJob with phase := ph }; let s := airing j
      headOf s (masterOf s 0) = some j ∧ isLoc j = false ∧ bankUp s (bankOf (masterOf s 0)) = true ∧
        atBoundary s = true ∧ resumeDue s (masterOf s 0) ph = true) ∧
    resumeDue (airing onAirJob) 0 .faultWait = false ∧ resumeDue (airing onAirJob) 0 .quiet = false :=
  ⟨by decide, by decide, fun ph h => by rcases h with rfl | rfl <;> decide, by decide, by decide⟩

def replyJob : Job :=
  { onAirJob with keyInst := 1, attempts := 1, entry := { RegEntry.free with id := 1, st := .active, slot := some 0 },
                  set := { TxSet.none with ftw := 0x400000, tbTol := 10, csTol := 12, csFloor := 20 } }

/-- Channel 0's transaction is on air and ends in the beat that runs; its slot is unverified. -/
def replying (j : Job) : State :=
  let s := airing j
  { s with clk := { s.clk with nowUs := 26000, beat := 26 },
           slu := { s.slu with a := { s.slu.a with slots := [(0, { SlotEnt.reset with st := .unverified })] } } }
/-- The AUTH reply of token 1 to challenge 0: ADDR set, its MAC and CRC. -/
def authWord : BitVec 96 := 39948201171655362225876537263#96
def authReply : RawReply := ⟨~~~authWord, authWord, [114560], 100, 50⟩

theorem wit_RepliesDecideSlots :
    let s := replying replyJob
    (headOf s (0 : Fin 96).val = some replyJob ∧ replyJob.phase = .onAir ∧ replyJob.kind = .sweep ∧ replyJob.frame = .auth ∧
      replyJob.heldReply = none ∧ bankUp s (bankOf 0) = true ∧ jobEndUs s replyJob < nextBoundUs s ∧ keyBusy s = false) ∧
    ({ quietAir with late := true }.late = true) ∧ (quietAir.late = false ∧ quietAir.slots = [] ∧ (getChan s 0).jobs = [replyJob]) ∧
    (decodeReply authReply = .bits authWord ∧ replyCrcOk authWord = true ∧
      (findings (setHead s 0 (measured replyJob { quietAir with slots := [authReply] })) 0 (measured replyJob { quietAir with slots := [authReply] }) authReply authWord true true).status = .ok ∧
      replyJob.set.role = 0 ∧ replyJob.attempts ≠ 0 ∧ (laneSlot s.slu.a 0).st = .unverified) :=
  ⟨by decide, rfl, by decide, by decide +kernel, by decide +kernel, by decide +kernel, rfl, by decide, by decide⟩

def calJob (l : Nat) (commit : Bool) : Job := { onAirJob with kind := .cal l commit false, frame := .cal }
def calRuns (l : Nat) (commit : Bool) : State :=
  let s := replying (calJob l commit)
  { s with clk := { s.clk with nowUs := 64500 } }
def calMeasured : CalResult := ⟨true, 0x400000, 20000, 100, 5000, 7, 3, 9, 4, 11, -12⟩

theorem wit_CalibrationsComplete :
    (∀ l c, (l = 0 ∨ l = 1 ∨ l = 2) → let j := calJob l c
      let s := calRuns l c
      (getChan s 0).jobs = [j] ∧ j.kind = .cal l c false ∧ j.uid ≠ 0 ∧ j.phase = .onAir ∧ jobEndUs s j < nextBoundUs s ∧
        calMeasured.resonance = true) ∧
    (getChan (setChan up 0 { Chan.reset with calDue := some { Cal.none with valid := true, fRes := 0x400000 } }) 0).calDue =
      some { Cal.none with valid := true, fRes := 0x400000 } ∧ (getChan up 0).calDue = none := by
  refine ⟨fun l c h => ?_, by decide, by decide⟩
  rcases h with rfl | rfl | rfl <;> cases c <;> decide

/-! ### The boundary, the seal and the ages -/

def asleepPart : State := { up with pwr := { up.pwr with st := .sleep } }

theorem wit_BoundariesCount : up.pwr.porHeld = false ∧ (asleepPart.pwr.porHeld = false ∧ asleep asleepPart = true) ∧
    { up with pwr := { up.pwr with porHeld := true } }.pwr.porHeld = true := by decide

theorem wit_SealedSetHolds763 : up.cfg.excluded = [] ∧ (sealSet up).length = 763 := ⟨rfl, by decide +kernel⟩

/-- An image of no entry in force, `v` in the active and the staged registers, and `n` failed reloads before this one. -/
def sealing (v : List (Nat × Word)) (n : Nat) : State :=
  { up with cfg := { CfgState.reset with imageSel := 0, reloadDue := true, vals := v, staged := [(0x0400, 1), (0x1840, 1)],
                                         sealRef := 9, reloads := n },
            fl := { Flash.reset with imgA := some ⟨1, 77, []⟩ } }

theorem wit_WrongReferenceNeverReloads : (sealing [] 2).cfg.reloadDue = true ∧ (sealing [] 2).flt.restarting = false ∧
    (sealing [] 2).cfg.reloads < 3 ∧ imageInForce (sealing [] 2) = some ⟨1, 77, []⟩ ∧ differing (sealing [] 2) ⟨1, 77, []⟩ = [] := by
  decide +kernel

def dirtyFor (t : Nat) : State := { up with clk := { up.clk with nowUs := t }, cfg := { up.cfg with dirty := true } }

theorem wit_ReloadsRestoreTheImage :
    (let s := sealing [(0x0400, 3)] 2
     s.cfg.reloadDue = true ∧ s.flt.restarting = false ∧ s.cfg.reloads < 3 ∧ imageInForce s = some ⟨1, 77, []⟩ ∧
      differing s ⟨1, 77, []⟩ = [0x0400] ∧ (0x0400, 1) ∈ s.cfg.staged ∧ regOf 0x0400 = some .beatCtl ∧ isSealed .beatCtl = true) ∧
    up.cfg.reloadDue = false ∧
    ((dirtyFor 10000000).cfg.dirty = true ∧
      (dirtyFor 10000000).cfg.dirtyUs + 1000000 * regF (dirtyFor 10000000) .sealCfg 0 8 ≤ (dirtyFor 10000000).clk.nowUs) ∧
    up.cfg.dirty = false ∧
    (let s := sealing [(0x0400, 3)] 3
     s.cfg.reloadDue = true ∧ 3 ≤ s.cfg.reloads ∧ imageInForce s = some ⟨1, 77, []⟩ ∧ differing s ⟨1, 77, []⟩ ≠ [] ∧
      ∀ o ∈ differing s ⟨1, 77, []⟩, unitOfReg o = none) ∧ up.cfg.reloads < 3 := by decide +kernel

def openSl : LaneSl := { LaneSl.reset with released := true, leftUs := 1000 }
/-- Sluice 0 released in lane A with a lease that runs out; a slot and a token verified long ago; a toleration that runs. -/
def aged (t : Nat) : State :=
  { up with clk := { up.clk with nowUs := t }, cfg := { up.cfg with vals := [(0x4844, 0x00010060)] },
            slu := { Slus.reset with a := { Slus.reset.a with sl := [(0, openSl)], slots := [(0, { SlotEnt.reset with st := .verified })],
                                                              toks := [⟨7, 1, 0, 0, 0⟩] },
                                     tol := [(0, (0, 0))] } }

theorem wit_LeasesAndAges :
    (let s := aged 0
     s.slu.a.st = .active ∧ (laneSl s.slu.a 0).released = true ∧ s.slu.withdrawDue.getLsbD 0 = false ∧ (laneSl s.slu.a 0).leftUs ≠ 0 ∧
      (decideSl s s.slu.a 0).sl.leftUs = 0) ∧ (laneSl up.slu.a 0).released = false ∧
    (let s := aged 4000000000
     let l := getLane s (viewLane s)
     (laneSlot l 0).st = .verified ∧ 100000 * regF s .vper 0 13 < slotAge s (laneSlot l 0).okUs ∧
      (l.toks.any fun t => t.reg == 7 && decide (1000000 * regF s .tokenWin 0 10 < slotAge s t.us)) = true ∧
      smFind s.slu.tol 0 = some (0, 0) ∧ tolLimit s ≤ tolAge s (0, 0)) ∧
    (let s := aged 0
     let l := getLane s (viewLane s)
     slotAge s (laneSlot l 0).okUs ≤ 100000 * regF s .vper 0 13 ∧
      (l.toks.any fun t => t.reg == 7 && decide (1000000 * regF s .tokenWin 0 10 < slotAge s t.us)) = false ∧
      smFind s.slu.tol 0 = some (0, 0) ∧ tolAge s (0, 0) < tolLimit s) := by decide

/-! ### Lanes and sluices -/

/-- Lane B in state `b`, lane A ACTIVE with sluice 0 released in both. -/
def lanes (b : Lane) : State := { up with slu := { Slus.reset with a := { Slus.reset.a with sl := [(0, openSl)] }, b := b } }
def bLive : Lane := { Slus.reset.b with st := .active, sl := [(0, openSl)] }
def bDead : Lane := { Slus.reset.b with st := .dead }
def bBack (fresh : Bool) : Lane := { bLive with st := .shadow, fresh := fresh }

theorem wit_LanesDieAndReturn :
    (laneDead (lanes bLive) .b = false ∧ (getLane (lanes bLive) (other .b)).st = .active) ∧
    (∀ b, b = bDead ∨ b = bBack false →
      let s := { lanes b with slu := { (lanes b).slu with outs := [(0, { SluOut.reset with armed := true, latched := true })] } }
      laneDead s .a = false ∧ (getLane s (other .a)).st ≠ .active ∧ (getOut s 0).latched = true ∧
        (laneSl (getLane s (viewLane s)) 0).released = true ∧ (getOut (lanes b) 0).latched = false) ∧
    (getLane (lanes (bBack false)) .b).st = .shadow ∧ laneDead (lanes bDead) .b = true ∧
    (domReady (lanes bDead) dSLUICE = true ∧ (getLane (lanes bDead) (other .b)).st = .active) ∧
    (let s := setLane (lanes bDead) .a { bDead with down1s := true }
     laneDead s .a = true ∧ (getLane s (other .a)).st ≠ .active) ∧
    ((getLane (lanes (bBack true)) .b).st = .shadow ∧ (getLane (lanes (bBack true)) .b).fresh = true) ∧
    (let s := lanes (bBack false)
     (getLane s .b).st = .shadow ∧ (getLane s .b).fresh = false ∧ (getLane s (other .b)).st = .active ∧
      (∀ n, n < 4 → laneSl (getLane s .b) n = laneSl (getLane s (other .b)) n) ∧ slotsAgree s = true) ∧
    (getLane (lanes bLive) .b).st ≠ .shadow ∧
    (let s := { lanes bDead with clk := { Clock.reset with nowUs := 1000001 } }
     (getLane s .b).st = .dead ∧ 1000000 < s.clk.nowUs - (getLane s .b).downSinceUs) ∧ (getLane (lanes bLive) .b).st ≠ .dead := by
  refine ⟨by decide, fun b h => ?_, by decide⟩
  rcases h with rfl | rfl <;> decide

def tripping (x : SluOut) : State := { lanes bLive with slu := { (lanes bLive).slu with outs := [(0, x)] } }

theorem wit_SluiceInputsAndOutputs :
    (let s := tripping { SluOut.reset with armed := true }
     (laneSl s.slu.a 0).released = true ∧ (getOut s 0).tripped = false ∧ (getOut s 0).faulted = false) ∧
    ((laneSl up.slu.a 0).released = false ∧ (laneSl up.slu.b 0).released = false) ∧
    (let s := tripping { SluOut.reset with armed := true, tripped := true, failedRetries := 3 }
     (getOut s 0).tripped = true ∧ 3 ≤ (getOut s 0).failedRetries ∧ s.slu.dhold = false ∧ (getOut s 0).faulted = false) ∧
    { up with slu := { up.slu with dhold := true } }.slu.dhold = true ∧
    (asleep up = false ∧ up.pwr.entering = 0 ∧ true ≠ up.slu.dhold ∧ false = up.slu.dhold ∧ true ≠ up.slu.tampPin.getLsbD 2 ∧
      false = up.slu.tampPin.getLsbD 2) := by decide

/-! ### Meter, ledger, journal and flash -/

/-- A ledger with one voucher due of 30 Wh. -/
def vouched (type amount : Nat) : State :=
  { funded with pending := [], key := up.key,
                ldg := { funded.ldg with lgen := 3, rseq := 8, due := [(1, ⟨type, 5, 3, amount, 0, none⟩)] } }

theorem wit_VouchersMoveCredit :
    (∀ ty, ty ∈ [1, 2, 3, 4, 5] → ∀ am, am ∈ [10, 2 ^ 62] → ∃ v : Voucher, (vouched ty am).ldg.due = [(1, v)] ∧ v.refused = none ∧
      v.lgen = (vouched ty am).ldg.lgen ∧ 1 ≤ v.type ∧ v.type ≤ 5) ∧
    (let b := funded.ldg.cA
     (b.accepted + 10 ≤ 2 ^ 62 ∧ ¬ b.accepted + 2 ^ 62 ≤ 2 ^ 62) ∧ ((10 : Int) ≤ b.balance ∧ ¬ (2 ^ 62 : Int) ≤ b.balance) ∧
      ((10 : Int) ≤ b.consumed ∧ ¬ (2 ^ 62 : Int) ≤ b.consumed) ∧ ((10 : Int) ≤ b.reserved ∧ ¬ (2 ^ 62 : Int) ≤ b.reserved)) := by
  refine ⟨fun ty h am k => ?_, by decide⟩
  simp only [List.mem_cons, List.not_mem_nil, or_false] at h k
  rcases h with rfl | rfl | rfl | rfl | rfl <;> rcases k with rfl | rfl <;> exact ⟨_, rfl, rfl, rfl, by decide, by decide⟩

/-- A metering part with an open chain, `us` after its last record. -/
def metering (us : Nat) : State :=
  { funded with clk := { Clock.reset with nowUs := us }, jrn := { Journal.reset with isOpen := true }, cfg := up.cfg }

theorem wit_MeterRowsRecord :
    counterDue (metering 100000000) = true ∧ counterDue (metering 0) = false ∧
    (summaryDue (metering 100000000) = true ∧ (metering 100000000).jrn.isOpen = true ∧
      (metering 100000000).jrn.staged.length < 2048) ∧ summaryDue (metering 0) = false ∧
    up.ldg.due = [] := by decide

/-- An open chain under KGEN 5 with K_j and K_c held, what is staged and what flash holds. -/
def chained (staged inFlash : List JRec) : State :=
  { up with jrn := { Journal.reset with isOpen := true, kgen := 5, staged := staged },
            key := { Keys.reset with ready := true, nodes := [(3, { hostNode 3 with gen := 5 }), (4, hostNode 4)] },
            fl := { Flash.reset with journal := inFlash } }
def sealedRec (seq : Nat) : JRec := { jRec seq with chain := some 1 }
def noKeys (s : State) : State := { s with key := { s.key with nodes := [] } }
def crowded (n : Nat) : State := chained [] (List.replicate n (jRec 0))

theorem wit_JournalSealsAndHouse :
    (let s := chained [jRec 1, jRec 2] [sealedRec 0]
     keeperUp s = true ∧ engineFailed s = false ∧ keyBusy s = false ∧ s.jrn.staged = jRec 1 :: [jRec 2] ∧ unsealed s.fl.journal = false ∧
      kjHeld s = true ∧ (getNode s 3).uses + 1 < (getNode s 3).limit ∧ kjHeld (noKeys s) = false ∧ keyBusy (noKeys s) = false) ∧
    (chained [] []).jrn.staged = [] ∧ (unsealed (chained [] [jRec 0]).fl.journal = true ∧ kjHeld (chained [] [jRec 0]) = true) ∧
    (let s := { chained [] [] with ldg := { Ledger.reset with svcUs := 86400000000 } }
     dailyDue s = true ∧ s.fl.ckpts.length + 64 ≤ 8192) ∧ dailyDue (chained [] []) = false ∧
    (let s := chained [] []
     let t := { s with jrn := { s.jrn with rollDue := some 2 } }
     rollReason t = some 2 ∧ ckptReady t = true ∧ kjHeld t = true ∧ t.lcy.adv = none ∧ rollReason s = none) := by decide

theorem wit_JournalSealsAndHouse_compaction (n : Nat) (h : 1961985 ≤ n) :
    freeSectors (crowded n) < 4 ∧ keeperUp (crowded n) = true ∧
      ∀ r ∈ (crowded n).fl.journal.take sectorRecs, uncovered (crowded n) r = false := by
  refine ⟨?_, rfl, fun r h => ?_⟩
  · simp only [freeSectors, sectorRecs, crowded, chained, List.length_replicate]
    omega
  · have e : r = jRec 0 := List.eq_of_mem_replicate (List.mem_of_mem_take h)
    subst e
    rfl

theorem wit_JournalSealsAndHouse_room : 4 ≤ freeSectors up := by decide

/-- A command under way whose flash write ends. -/
def writing (f : Flash → Flash) : State := let s := withCmds up [running (op 0x71)]; { s with fl := f s.fl }

theorem wit_FlashWritesComplete :
    (let s := writing id
     keeperUp s = true ∧ findCmd s 1 = some (running (op 0x71)) ∧ (running (op 0x71)).sq < 16 ∧ (running (op 0x71)).outOk = true ∧
      descLenOut (running (op 0x71)).desc = 0 ∧ ∀ r ∈ (running (op 0x71)).recs, r.good = true) ∧ CqTakes (writing id) 0 ∧
    (writing fun f => { f with commitCap := some (1, 0, [(0x0400, 1)]) }).fl.commitCap = some (1, (writing id).clk.beat, [(0x0400, 1)]) ∧
    (writing fun f => { f with imageJob := some (1, ⟨2, 16, true⟩, false) }).fl.imageJob = some (1, ⟨2, 16, true⟩, false) ∧
    (writing fun f => { f with topupUids := [(1, 0)] }).fl.topupUids = [(1, (writing id).clk.beat)] ∧
    (up.fl.topupUids = [] ∧ up.fl.imageJob = none ∧ up.fl.commitCap = none) := by
  refine ⟨by decide, cqTakes_of (by decide), by decide⟩

/-- A TOPUP of 10 Wh with serial 1 and the tag that K_v of 16 zeros gives it. -/
def voucherHead : List Byte :=
  [0x01, 0x56, 1, 0] ++ uidBytes ++ [1, 0, 0, 0, 0, 0, 0, 0, 10, 0, 0, 0, 0, 0, 0, 0] ++ List.replicate 20 0
def voucherTag : List Nat := cmac (List.replicate 16 0) (toN voucherHead)
def voucherBytes : List Byte := voucherHead ++ ofN voucherTag

theorem voucherTag_bytes : IsBytes 16 voucherTag := isBytes_cmac (.inl (isBytes_zeros 16)) (toN_lt _)

theorem voucherBytes_length : voucherBytes.length = 64 := by simp [voucherBytes, ofN, voucherTag_bytes.1]; rfl

/-- An ACTIVE ledger under a ledger node with K_v; a LEDGER_TOPUP waits. -/
def toppingUp : State :=
  { ask up topupDesc with
    ldg := funded.ldg,
    key := { Keys.reset with ready := true, nodes := [(5, { hostNode 5 with type := 1, owner := 0x40, gen := 0 }),
                                                      (16, { hostNode 16 with type := 3, owner := 0x40, gen := 0 })] } }

theorem voucher_shape : voucherShape toppingUp voucherBytes = true := by
  have u : leAt voucherBytes 4 8 = Config.deviceUid.toNat := leNat_uidBytes
  unfold voucherShape
  rw [u, decide_eq_true (rfl : Config.deviceUid.toNat = _)]
  rfl

theorem voucher_tag : voucherTagOk toppingUp voucherBytes = true := by
  have e : slice voucherBytes 48 16 = ofN voucherTag := by
    unfold slice voucherBytes
    rw [List.drop_left' (l₁ := voucherHead) (l₂ := ofN voucherTag) (i := 48) rfl]
    exact List.take_of_length_le (by simp [ofN, voucherTag_bytes.1])
  have t : voucherBytes.take 48 = voucherHead := List.take_left' (l₁ := voucherHead) (l₂ := ofN voucherTag) (i := 48) rfl
  unfold voucherTagOk
  rw [e, t, toN_ofN voucherTag_bytes.2]
  show (voucherTag == voucherTag) = true
  simp

theorem wit_TopupsAndFlashWritesRun :
    (Begins toppingUp 0 0x40 (mem voucherBytes) (cmd topupDesc) voucherBytes ∧ keyBusy toppingUp = false ∧
      engineFailed toppingUp = false ∧ descLenIn topupDesc = 64 ∧ toppingUp.ldg.st = .active ∧ nodeLive toppingUp 16 = true ∧
      nodeLive toppingUp 5 = true ∧ slice (padTo 64 voucherBytes) 0 64 = voucherBytes ∧ voucherShape toppingUp voucherBytes = true ∧
      voucherTagOk toppingUp voucherBytes = true ∧
      serialFresh (pendingWindow toppingUp).1 (pendingWindow toppingUp).2 (leAt voucherBytes 12 6) = true) ∧
    (keeperUp (writing id) = true ∧ findCmd (writing id) 1 = some (running (op 0x71))) ∧
    (writing fun f => { f with commitCap := some (1, 9, [(0x0400, 1)]) }).fl.commitCap = some (1, 9, [(0x0400, 1)]) ∧
    (∀ act, (writing fun f => { f with imageJob := some (1, ⟨2, 16, true⟩, act) }).fl.imageJob = some (1, ⟨2, 16, true⟩, act)) ∧
    (inSpillway (writing id) = false ∧
      inSpillway { writing id with pwr := { (writing id).pwr with phase := .spillway } } = true) ∧
    (writing fun f => { f with topupUids := [(1, 9), (2, 9)] }).fl.topupUids = (1, 9) :: [(2, 9)] := by
  refine ⟨⟨⟨by decide, by decide, by decide, rfl⟩, by decide, by decide, by decide, by decide, by decide, by decide, ?_, voucher_shape,
    voucher_tag, rfl⟩, by decide, by decide, fun _ => rfl, by decide, by decide⟩
  have l := voucherBytes_length
  simp [slice, padTo, l, List.take_of_length_le]

/-! ### Supplies, resets and the start -/

/-- Every supply good but `x`, the part waiting in AON_INIT. -/
def cold (x : Supply) : State :=
  setSupply { State.reset with pwr := { Power.reset with supplyOk := 0x3FF, porHeld := decide (x = .vaon) } } x false

theorem wit_SuppliesAct :
    meterRuns up = false ∧ meterRuns funded = true ∧
    (∀ x, x ∈ [.vana, .vrf, .vfl, .vio, .vcore, .vaon] → let m := setSupply (cold x) x true
      let p := if x = .vaon then setPwr m fun p => { p with porHeld := false } else m
      p.pwr.phase = .aonInit ∧ p.pwr.porHeld = false ∧ p.pwr.rstHeld = false ∧ suppliesGood p = true) ∧
    (setSupply up .vrf true).pwr.phase ≠ .aonInit ∧
    (let m := setSupply { State.reset with pwr := { Power.reset with supplyOk := 0 } } .vana true
     m.pwr.phase = .aonInit ∧ suppliesGood m = false) := by
  refine ⟨by decide, by decide, fun x h => ?_, by decide, by decide⟩
  simp only [List.mem_cons, List.not_mem_nil, or_false] at h
  rcases h with rfl | rfl | rfl | rfl | rfl | rfl <;> decide

def waitingForRst : State := { cold .vrf with pwr := { (cold .vrf).pwr with rstHeld := true } }

theorem wit_ResetsKeepAndClear :
    (suppliesGood up = true ∧ up.pwr.porHeld = false ∧ up.pwr.rstHeld = false) ∧ waitingForRst.pwr.rstHeld = true ∧
    (waitingForRst.pwr.phase = .aonInit ∧ waitingForRst.pwr.porHeld = false ∧ suppliesGood waitingForRst = true) ∧
    up.pwr.phase ≠ .aonInit := by decide

def phased (p : Phase) (s : State) : State := { s with pwr := { s.pwr with phase := p } }
def inState (n : Nat) (s : State) : State := { s with lcy := { s.lcy with fuses := BitVec.ofNat 6 (2 ^ n - 1) } }
def booting : State := phased .boot { up with key := Keys.reset }
def withTicket (s : State) : State := { s with fl := { s.fl with ticket := some ⟨0, 1, 5, 0, false, 9, 0⟩ } }

theorem wit_StartLoadsAndBoots :
    (let s := phased .optLoad up
     s.pwr.phase = .optLoad ∧ domReady s dKEEPER = true ∧ s.fl.optA.lcCode = lcState s ∧ lcState s ≠ 5 ∧
      s.fl.failedStarts < s.fl.optA.fsThresh ∧ s.fl.failedStarts < s.fl.optB.fsThresh ∧
      (let t := { s with fl := { s.fl with failedStarts := 4 } }
       t.fl.optA.fsThresh ≤ t.fl.failedStarts ∧ t.fl.optB.fsThresh ≤ t.fl.failedStarts) ∧ lcState (inState 5 s) = 5) ∧
    up.pwr.phase ≠ .optLoad ∧ up.key.ready = true ∧
    (booting.key.ready = false ∧ booting.pwr.phase = .boot ∧ booting.key.nodes = [] ∧ booting.fl.newTicket = none ∧ lcState booting = 0) ∧
    (let s := inState 1 booting
     1 ≤ lcState s ∧ lcState s ≤ 3 ∧ ticketFound s = none ∧ ticketFound (withTicket s) ≠ none ∧ usesMarkOf (withTicket s) 0 < 2 ^ 48 - 1 ∧
      (withTicket s).key.ready = false) ∧
    (domReady booting dCIPHER = true ∧ pickImage booting false false = none ∧ pickImage booting true false = some (false, false) ∧
      pickImage booting false true = some (true, false)) ∧ up.pwr.phase ≠ .boot := by decide

def starting (tc : Bool) : State := let s := phased .starting up; { s with pwr := { s.pwr with tc := tc } }
def images (a b : Nat) (s : State) : State := { s with fl := { s.fl with imgA := some ⟨a, 1, []⟩, imgB := some ⟨b, 2, []⟩ } }

theorem wit_StartReachesStarted :
    (let s := starting false
     s.pwr.phase = .starting ∧ s.pwr.tc = false ∧ keeperUp s = true ∧ imageFound (flushLog s) false = none ∧ imageFound (flushLog s) true = none) ∧
    (let f := flushLog (images 4 4 (starting false))
     ∃ i j, imageFound f false = some i ∧ imageFound f true = some j ∧ j.seq ≤ i.seq) ∧
    (let f := flushLog (images 4 5 (starting false))
     ∃ i j, imageFound f false = some i ∧ imageFound f true = some j ∧ i.seq < j.seq) ∧
    up.pwr.phase ≠ .starting ∧ startReady (starting true) = true ∧ startReady up = false ∧
    (suppliesGood (starting true) = true ∧ (starting true).pwr.porHeld = false ∧ (starting true).pwr.rstHeld = false) ∧
    up.pwr.phase = .started :=
  ⟨by decide, ⟨_, _, rfl, rfl, by decide⟩, ⟨_, _, rfl, rfl, by decide⟩, by decide, by decide, by decide, by decide, rfl⟩

/-! ### Domains, power states and wakes -/

def darkDom (d : Nat) : State :=
  let s := setDom up d .off
  { s with pwr := { s.pwr with startVotes := BitVec.ofNat 17 (2 ^ d) } }
def warming (d : Nat) : State := setDom up d ⟨true, false, 0⟩
def idleDom (d : Nat) : State := let s := setDom up d ⟨true, true, 9⟩; { s with pwr := { s.pwr with keeperRunning := false } }
def storedCounter : CounterRec := ⟨4, 0, .active, 1, 0, ⟨60, 20, 15, 5, 100⟩, 7, 8, 0, 0, 0, 3, 1, 0, 0, 0, 0, 0⟩
def metered : State := inState 1 { warming 7 with fl := { Flash.reset with counter := some storedCounter } }

theorem wit_DomainsAndKeeperRestart :
    (∀ d : Fin 17, d.val ≠ 0 → (getDom (darkDom d) d).on = false ∧ domRetired (darkDom d) d = false ∧ domHeld (darkDom d) d = true ∧
      supplyAllows (darkDom d) d = true ∧ phaseAllows (darkDom d) d = true) ∧ (getDom up 5).on = true ∧
    (∀ d : Fin 17, (getDom (warming d) d).on = true ∧ (getDom (warming d) d).ready = false ∧
      (13 ≤ d.val → (warming d).pwr.supplyOk.getLsbD (d.val - 8) = true)) ∧
    ((getDom metered 7).on = true ∧ (getDom metered 7).ready = false ∧ 1 ≤ lcState metered ∧ lcState metered ≤ 3 ∧
      metered.fl.newTicket = none) ∧ (getDom up 5).ready = true ∧
    (∀ d : Fin 17, d.val = 5 ∨ d.val = 4 ∨ 13 ≤ d.val → (getDom (idleDom d) d).on = true ∧ domHeld (idleDom d) d = false ∧
      regF (idleDom d) .pwrCfg 8 8 < (getDom (idleDom d) d).idle) ∧ (getDom (darkDom 5) 5).on = false ∧
    (up.pwr.keeperRunning = true ∧ up.flt.restarting = false ∧ domReady up dKEEPER = true) ∧
    (let s := { up with flt := { Faults.reset with restarting := true } }
     s.flt.restarting = true ∧ s.flt.logDue = [] ∧ s.ring.restartEv = [] ∧ s.ring.restartCp = [] ∧ s.flt.restartUids = [] ∧
      s.ring.deferred = []) := by decide

theorem wit_DomainsAndKeeperRestart_counter : startCounter metered = some storedCounter :=
  if_pos (show ringClean metered = true by decide)

def entering (l : List Cmd) : State := let s := withCmds up l; { s with pwr := { s.pwr with entering := 2 } }

theorem wit_PowerStatesChange :
    { up with pwr := { up.pwr with ramp := true } }.pwr.ramp = true ∧ up.pwr.ramp = false ∧
    (let s := { up with pwr := { up.pwr with idleBounds := 2 } }
     s.pwr.st = .run ∧ 2 ≤ s.pwr.idleBounds ∧ dozeOk s = true ∧ s.pwr.entering = 0) ∧ up.pwr.idleBounds < 2 ∧
    { up with pwr := { up.pwr with st := .doze } }.pwr.st = .doze ∧ up.pwr.st ≠ .doze ∧
    ((entering [cmd (op 2)]).pwr.entering ≠ 0 ∧ (entering [cmd (op 2)]).ring.cmds ≠ []) ∧ up.pwr.entering = 0 ∧
    ((entering []).pwr.entering ≠ 0 ∧ (entering []).ring.cmds = []) ∧
    (let s := { entering [] with ldg := funded.ldg }
     s.pwr.entering ≠ 0 ∧ s.ring.cmds = [] ∧ s.ldg.st = .active ∧ (entering []).ldg.st ≠ .active ∧
      meterRuns (setDom s dMETER .off) = false) := by decide

/-- SLEEP with every wake source enabled, `n` pulses of the WAKE_IN pattern seen, and the sniff on. -/
def sleeping (n : Nat) : State :=
  { asleepPart with cfg := { CfgState.reset with vals := [(0x700C, 0x3F)] }, fl := { Flash.reset with opts := .shipped },
                    pwr := { asleepPart.pwr with wakePulses := n, alarm := 5 },
                    rad := { Radio.reset with preamble := true, sniffing := true, wakeCfg := 0x1319, wakeCode := 0x34120000 } }
def deaf : State := { asleepPart with cfg := { CfgState.reset with vals := [(0x700C, 0)] } }
def devWake (b : Byte) (c1 c2 : Byte) : Telegram := ⟨[5, 0x51, b, 0x12, 0, 0, c1, c2], 40, 40⟩

set_option maxRecDepth 4000 in
theorem wit_WakesWake :
    (∀ x, x ∈ [.hostLink, .wakeIn, .uhf, .driveHold, .tamp 2, .rtc, .rstN] → asleep (sleeping 0) = true ∧
      wakeEnabled (sleeping 0) x = true) ∧ (asleep deaf = true ∧ wakeEnabled deaf .uhf = false) ∧
    (asleep up = false ∧ up.pwr.entering = 0) ∧
    (asleep (entering []) = false ∧ (entering []).pwr.entering ≠ 0 ∧
      wakeEnabled { entering [] with pwr := { up.pwr with st := .sleep } } .wakeIn = true) ∧
    (∀ n, n < 3 → (sleeping n).pwr.wakePulses = n ∧ wakeEnabled (sleeping n) .wakeIn = true) ∧
    (sniffOn (sleeping 0) = true ∧ (sleeping 0).rad.preamble = true ∧ sniffOn deaf = false ∧
      tLen (devWake 0x34 0x39 0x69) = 5 ∧ tCrcOk (devWake 0x34 0x39 0x69) = true ∧ tType (devWake 0x34 0x39 0x69) = 0x51 ∧
      beN (tPay (devWake 0x34 0x39 0x69) 0 4) = (sleeping 0).rad.wakeCode.toNat ∧ (sleeping 0).rad.wakeCode.toNat ≠ 0 ∧
      (sleeping 0).rad.wakeCode.toNat ≠ 0xFFFFFFFF ∧ tCrcOk (devWake 0x35 0x4F 0xDD) = true ∧
      beN (tPay (devWake 0x35 0x4F 0xDD) 0 4) ≠ (sleeping 0).rad.wakeCode.toNat) ∧
    (let s := { sleeping 0 with clk := { Clock.reset with nowUs := 6000000, rtcMicroTicks := 6 * 32768000000 } }
     s.pwr.alarm.toNat ≤ rtcSeconds s) ∧ rtcSeconds (sleeping 0) < (sleeping 0).pwr.alarm.toNat := by
  refine ⟨fun x h => ?_, by decide, by decide, by decide, by decide, by decide, by decide, by decide⟩
  simp only [List.mem_cons, List.not_mem_nil, or_false] at h
  rcases h with rfl | rfl | rfl | rfl | rfl | rfl | rfl <;> decide

/-! ### The radio -/

def telegram : RadAct := { newAct 1 .tx 0 5 5 0 10 with airUs := 1000, seedReady := true }

/-- A calibrated radio with `r`. -/
def radUp (r : Radio) : State :=
  { up with rad := { r with calDone := 3 }, fl := { Flash.reset with opts := .shipped },
            tok := { Tok.reset with reg := [(3, { RegEntry.free with id := 9, kind := 1, st := .active, gen := 2 })] } }
def radCur (a : RadAct) : State := radUp { Radio.reset with cur := some a }
def coex (s : State) : State := { s with cfg := { CfgState.reset with vals := [(0x4008, 1)] } }
def rangeAct1 : RadAct := { newAct 1 .range 0 0 5 0 10 with phase := .running, reg := 3, nt := 16, seed := 77, gen := 2 }

theorem wit_RadioSchedulerRuns :
    (let s := radUp { Radio.reset with waiting := [telegram] }
     let t := { s with rad := { s.rad with bins := [(64, 40000000)] } }
     radioUp s = true ∧ s.rad.cur = none ∧ nextAct s = some telegram ∧ telegram.kind = .tx ∧ coexOn s = false ∧ calibrated s = true ∧
      actEntry s telegram = some 1 ∧ (bandsOf s)[1]? = some ⟨863000, 870000, true, false, 28, 10⟩ ∧
      dutyOk s ⟨863000, 870000, true, false, 28, 10⟩ 1 telegram.airUs = true ∧
      dutyOk t ⟨863000, 870000, true, false, 28, 10⟩ 1 telegram.airUs = false ∧ telegram.inLoc = false ∧ telegram.inWin = false) ∧
    (radioUp State.reset = false ∧ nextAct up = none) ∧
    (let a := { telegram with phase := .running }
     (radCur a).rad.cur = some a ∧ a.kind = .tx ∧ a.dead = [] ∧ a.startUs + a.airUs ≤ 1000 ∧ actEntry (radCur a) a = some 1 ∧
      sending (radCur a) a = true ∧ sending (radCur telegram) telegram = false) ∧
    (let en := fun (s : State) (e : Nat) => ((bandsOf s)[e]?.map (·.en)).getD false
     let s := radUp Radio.reset
     let t := { s with rad := { s.rad with calDone := 0 } }
     radioUp s = true ∧ en s 1 = true ∧ en s 7 = false ∧ t.rad.calDone.getLsbD 1 = false ∧
      (s.rad.cur = none ∧ s.rad.loc = none ∧ s.rad.win = none ∧ 20 < ((25 : Int) - smGet s.rad.calTemp 1 0).natAbs)) ∧
    (let s := radCur telegram
     s.rad.cur = some telegram ∧ telegram.phase = .lock ∧ s.rad.lock = false) ∧ (up.rad.cur = none ∧ up.rad.gnt = false) ∧
    ((radCur rangeAct1).rad.cur = some rangeAct1 ∧ rangeAct1.phase = .running ∧ rangeAct1.kind = .range) ∧
    (let s := coex (radCur telegram)
     needsGrant s telegram = true ∧ s.rad.gnt = false ∧ needsGrant (radCur telegram) telegram = false) ∧
    (let a := { telegram with kind := .locate }
     let s := radUp { Radio.reset with cur := some a, lock := true }
     s.rad.cur = some a ∧ a.phase = .lock ∧ s.rad.lock = true ∧ a.kind = .locate) ∧
    (let a := { telegram with phase := .running }
     let s := coex (radCur a)
     s.rad.cur = some a ∧ s.clk.nowUs < a.startUs + a.airUs ∧ coexOn s = true) ∧
    (∀ n, n < 5 → let a := { telegram with phase := .lbt, lbtTries := n }; (radCur a).rad.cur = some a ∧ a.phase = .lbt) := by decide

/-- A LOCATE of one coil in its reply slots. -/
def locAct : RadAct := { newAct 1 .locate 0 0 5 0 10 with phase := .running, inLoc := true }
def locOne : LocSess := ⟨1, 0x01020304, 1, 2, 0, false, [], [], [], 0, false, false⟩
def locating : State :=
  let s := withCmds (radUp { Radio.reset with cur := some locAct, loc := some locOne }) [running (op 0x12)]
  { s with ent := { Entropy.reset with st := .ready } }
def anyMeas : RangeMeas := ⟨List.replicate 16 none⟩

def crcd (l : List Byte) (a b : Byte) : Telegram := ⟨l ++ [a, b], 40, 40⟩
def locTelegram : Telegram := crcd ([31, 0x21, 0, 0, 0, 0, 0, 0, 0, 5, 1, 2, 3, 4] ++ List.replicate 18 0) 0x29 0xC8
def reportTelegram : Telegram := crcd ([45, 0x32, 0, 0, 0, 9, 0, 0, 0, 0, 0, 77] ++ List.replicate 34 0) 0xF6 0xCE
def accessTelegram : Telegram := crcd ([23, 0x41, 0, 0, 0, 0, 0, 0, 0, 5] ++ List.replicate 14 0) 0xBB 0x4D
def hostTelegram1 : Telegram := crcd [2, 0x80, 7] 0xC9 0x83
def winOne : Win := ⟨1, 0, 500, false, 0, 0, 2⟩
def winOpen : State := withCmds (radUp { Radio.reset with win := some winOne }) [running (opOut 0x21 64)]
def rangingOne : State := withCmds (radCur rangeAct1) [running (opOut 0x22 64)]

theorem wit_RadioReceives :
    (locListening up = none ∧ ranging up = none ∧ winListening up = none ∧ up.rad.win = none ∧ keyBusy up = false ∧
      keyBusy { up with cip := { up.cip with mode := .kat } } = true) ∧
    (locListening locating = some locOne ∧ keyBusy locating = false ∧ tLen hostTelegram1 = 2 ∧ tCrcOk hostTelegram1 = true ∧ tCrcOk { hostTelegram1 with bytes := [2, 0x80, 7, 0, 0] } = false ∧
      tCrcOk locTelegram = true ∧ tType locTelegram = 0x21 ∧ tLen locTelegram = 27 + 4 * locOne.ncoil ∧
      tPay locTelegram 8 4 = nBe locOne.nonce.toNat 4 ∧ findId locating (BitVec.ofNat 64 (beN (tPay locTelegram 0 8))) = none ∧
      (∀ x ∈ locOne.found, x.id ≠ 5) ∧ (locOne.found.filter fun y => y.status == .ok).length < 16 ∧ locOne.repolls < 3 ∧
      findCmd locating locOne.uid = some (running (op 0x12)) ∧ bitOf (running (op 0x12)).desc.dw8 3 = false) ∧
    (let s := rangingOne
     ranging s = some rangeAct1 ∧ keyBusy s = false ∧ (planOf s).isSome = true ∧ rangeAct1.inLoc = false ∧ rangeAct1.inWin = false ∧
      tCrcOk reportTelegram = true ∧ tType reportTelegram = 0x32 ∧ tLen reportTelegram = 29 + rangeAct1.nt ∧
      tPay reportTelegram 0 4 = nBe ((getReg s rangeAct1.reg).id.toNat % 2 ^ 32) 4 ∧ tPay reportTelegram 4 6 = nBe rangeAct1.seed 6 ∧
      findCmd s rangeAct1.uid = some (running (opOut 0x22 64))) ∧
    (winListening winOpen = some winOne ∧ keyBusy winOpen = false ∧ winOne.cap = 0 ∧ findCmd winOpen winOne.uid = some (running (opOut 0x21 64)) ∧
      tCrcOk accessTelegram = true ∧ tType accessTelegram = 0x41 ∧ tLen accessTelegram = 23 ∧
      findId winOpen (BitVec.ofNat 64 (beN (tPay accessTelegram 0 8))) = none ∧ 0x80 ≤ tType hostTelegram1 ∧
      winOpen.rad.win = some winOne ∧ winOne.endUs ≤ nextBoundUs winOpen ∧ winOpen.rad.cur = none ∧
      nextBoundUs winOpen < { winOne with endUs := 5000 }.endUs) ∧ CqTakes rangingOne 0 ∧ CqTakes winOpen 0 := by
  refine ⟨by decide, by decide +kernel, by decide +kernel, by decide +kernel, cqTakes_of (by decide), cqTakes_of (by decide)⟩

/-! ### Cipher engine, keys, registry, entropy, life cycle -/

def cipIn (m : CipMode) : State := { ready with cip := { Cipher.reset with mode := m } }

theorem wit_EngineChecksItself :
    (∀ m, m = .dual ∨ m = .single ∨ m = .kat → domReady (cipIn m) dCIPHER = true ∧ (cipIn m).cip.mode = m ∧ (cipIn m).cip.startKat = false ∧
      (cipIn m).cip.held = []) ∧
    domReady State.reset dCIPHER = false ∧ (ready.ent.st = .ready ∧ softDue ready = false ∧ hardDue ready = false) ∧
    { up with ent := { Entropy.reset with st := .warmup } }.ent.st = .warmup :=
  ⟨fun m h => by rcases h with rfl | rfl | rfl <;> decide, by decide, by decide, rfl⟩

/-- Nodes 1, 3 and 32 at their limit, 33 held by key RAM alone under 32. -/
def worn : State :=
  let nodes := [(1, { hostNode 1 with uses := 1000 }), (3, { hostNode 3 with uses := 1000 }),
    (32, { hostNode 32 with uses := 1000, persistent := true }), (33, { hostNode 33 with parent := 0x120 })]
  { up with key := { Keys.reset with ready := true, nodes := nodes, usesMark := [(32, 2024)], inst := [(32, 300)] } }
def unworn : State := { worn with key := { worn.key with nodes := [(32, { hostNode 32 with persistent := true })], inst := [] } }

theorem wit_KeysKeepLimits :
    (∀ i, i = 1 ∨ i = 3 ∨ i = 32 → (getNode worn i).st = .active ∧ (getNode worn i).limit ≤ (getNode worn i).uses) ∧
    ((getNode worn 33).uses < (getNode worn 33).limit ∧ (getNode worn 33).st ≠ .free ∧ (getNode worn 33).persistent = false ∧
      (getNode worn 33).parent.toNat = handleOf worn 32 ∧ (getNode worn 34).st = .free ∧ (getNode worn 33).st ≠ .invalid ∧
      nodeBusy worn 33 = false ∧ (getNode worn 32).st ≠ .free ∧ (getNode worn 32).st ≠ .invalid) ∧
    ((getNode inUse 8).st = .active ∧ (getNode inUse 8).persistent = false ∧ nodeBusy inUse 8 = true) ∧
    (keeperUp worn = true ∧ (getNode worn 32).persistent = true ∧ usesMarkOf worn 32 ≤ (getNode worn 32).uses + 1024 ∧
      (getNode unworn 32).uses + 1024 < usesMarkOf unworn 32) ∧
    (smGet worn.key.instMark 32 256 ≤ smGet worn.key.inst 32 0 + 64 ∧ smGet unworn.key.inst 32 0 + 64 < smGet unworn.key.instMark 32 256) ∧
    (worn.pwr.st = .run ∧ worn.key.ready = true ∧ asleepPart.pwr.st ≠ .run) :=
  ⟨fun i h => by rcases h with rfl | rfl | rfl <;> decide, by decide, by decide, by decide, by decide, by decide⟩

def entryOne : RegEntry := { RegEntry.free with id := 9, st := .active, sessRes := 1024, sess := 600 }
def entryTwo : RegEntry := { entryOne with gen := 3 }
def confirmTwo : RegChange := ⟨[(4, entryTwo)], [], [], 6, 4, 3, 0, false⟩
/-- A confirmed re-key of entry 4 waits; `busy`: a transaction of it is in flight. -/
def changing (busy : Bool) : State :=
  { up with tok := ⟨[(4, entryOne)], [], [confirmTwo]⟩,
            lf := { Lf.reset with chans := if busy then [(0, { busyChan with jobs := [{ inFlight with reg := 4 }] })] else [] } }

theorem wit_RegistryChangesApply :
    (keeperUp (changing false) = true ∧ entryOne.st ≠ .free ∧ getReg (changing false) 4 = entryOne ∧ entryOne.sessRes < 0xFFFFFFFF ∧
      entryOne.sessRes ≤ entryOne.sess + 512) ∧ (getReg up 4).st = .free ∧
    ((changing false).flt.restarting = false ∧ (changing false).tok.changes = [confirmTwo] ∧ confirmTwo.action = 6 ∧ confirmTwo.reg = 4 ∧
      confirmTwo.entries = [(4, entryTwo)] ∧ entryOne.id = entryTwo.id ∧ confirmTwo.recs = [] ∧ confirmTwo.slotFx = [] ∧
      changeBlocked { changing false with tok := { (changing false).tok with changes := [] } } confirmTwo = false ∧
      changeBlocked { changing true with tok := { (changing true).tok with changes := [] } } confirmTwo = true) ∧ up.tok.changes = [] := by
  decide

def entropyIn (st : EntState) (pool : Nat) : State :=
  { up with ent := { Entropy.reset with st := st, pool := List.replicate pool 5 } }
/-- A window of alternating bits. -/
def evenWindow : BitVec 1024 := BitVec.ofNat 1024 ((2 ^ 1024 - 1) / 3)
def rngWait : State :=
  let s := withCmds (entropyIn .warmup 0) [running rngDesc]
  { s with clk := { Clock.reset with nowUs := 2000000 }, ent := { s.ent with waiting := [⟨3, .cmd 1, 128, 0⟩] } }

theorem wit_EntropyIsHeld :
    (let s := entropyIn .ready 4
     (getDom s dENTROPY).on = true ∧ s.ent.st ≠ .off ∧ s.pwr.st = .run) ∧
    ((runThrough (windowBits 0) (entropyIn .ready 4).ent.runA false).2 = true ∧ aptFails (windowBits 0) = true ∧
      (runThrough (windowBits evenWindow) (entropyIn .ready 4).ent.runA false).2 = false ∧ aptFails (windowBits evenWindow) = false) ∧
    ((entropyIn .warmup 1).ent.st = .warmup ∧ (entropyIn .warmup 1).ent.pool.length < 2 ∧ (entropyIn .warmup 2).ent.pool.length = 2 ∧
      (entropyIn .warmup 2).ent.waiting = []) ∧ up.ent.st = .off ∧
    (∀ n, n = 2 ∨ n = 3 → let s := entropyIn .ready n
      let t := { s with ent := { s.ent with reqs := 2 ^ 20 } }
      softDue t = true ∧ hardDue t = true ∧ t.ent.st = .ready ∧ t.pwr.st = .run ∧ t.ent.pool.length = n) ∧
    (softDue up = false ∧ hardDue up = false) ∧
    (rngWait.ent.waiting.find? (fun r => decide (r.us + 1000 * regF rngWait .entCfg 16 10 ≤ nextBoundUs rngWait)) = some ⟨3, .cmd 1, 128, 0⟩ ∧
      findCmd rngWait 1 = some (running rngDesc) ∧ descOpcode (running rngDesc).desc = 0x60) ∧ ∀ r ∈ up.ent.waiting, False :=
  ⟨by decide, by decide +kernel, by decide, by decide, fun n h => by rcases h with rfl | rfl <;> decide, by decide, by decide, by decide⟩

def ticketTwo (keep : Bool) (dest : Nat) : Ticket := ⟨1, dest, 5, 1, keep, 9, 0⟩
/-- An advance to `dest` in `phase`, its ledger closing on an open chain. -/
def advancing (keep : Bool) (dest phase : Nat) (done : Bool) : State :=
  let s := inState 1 (chained [] [])
  { s with lcy := { s.lcy with adv := some ⟨0, ticketTwo keep dest, phase, true, done⟩ }, ldg := { funded.ldg with st := .closing } }
def resuming (fuses : Nat) : State := let s := inState fuses up; { s with fl := { s.fl with newTicket := some (ticketTwo true 2) } }
def unlocked (s : DbgState) : State :=
  { keyed with lcy := { Life.reset with dbg := s, dbgDue := some (.opn, 9, 30), dbgEndUs := 5 }, clk := { Clock.reset with nowUs := 5 } }

theorem wit_AdvanceAndDebug :
    (∀ k d, let s := advancing k d 1 false
      s.lcy.adv = some ⟨0, ticketTwo k d, 1, true, false⟩) ∧
    (let s := advancing true 2 1 false
     keeperUp s = true ∧ closeReady s = true ∧ s.jrn.isOpen = true ∧ engineFailed s = false ∧ s.cip.mode ≠ .kat) ∧
    (let s := advancing true 2 3 true
     { s with cip := { s.cip with mode := .kat } }.cip.mode = .kat) ∧
    (let s := advancing true 2 1 false
     let t := { s with jrn := { s.jrn with isOpen := false } }
     closeReady t = true ∧ t.jrn.isOpen = false) ∧
    ((advancing true 2 1 true).lcy.adv = some ⟨0, ticketTwo true 2, 1, true, true⟩) ∧
    (∀ k, (advancing k 2 2 true).lcy.adv = some ⟨0, ticketTwo k 2, 2, true, true⟩ ∧ (ticketTwo k 2).dest ≠ 5) ∧
    (∀ d, d = 2 ∨ d = 4 → (advancing true d 3 true).lcy.adv = some ⟨0, ticketTwo true d, 3, true, true⟩) ∧ up.lcy.adv = none ∧
    ((resuming 1).lcy.adv = none ∧ (resuming 1).fl.newTicket = some (ticketTwo true 2) ∧ (resuming 1).pwr.phase = .started ∧
      lcState (resuming 1) ≠ 2 ∧ lcState (resuming 2) = 2) ∧
    (∀ d, d = 2 ∨ d = 5 → let s := phased .spillway up
      let t := { s with fl := { s.fl with newTicket := some (ticketTwo true d) } }
      t.lcy.adv = none ∧ t.fl.newTicket = some (ticketTwo true d) ∧ inSpillway t = true ∧ t.pwr.phase ≠ .started ∧
        (ticketTwo true d).dest = d) ∧
    (let s := { keyed with key := { keyed.key with ready := false } }
     s.key.ready = false ∧ s.pwr.phase ≠ .aonInit ∧ s.pwr.phase ≠ .optLoad ∧ s.key.nodes ≠ []) ∧ up.fl.newTicket = none ∧
    ((unlocked .locked).lcy.dbgDue = some (.opn, 9, 30) ∧ up.lcy.dbgDue = none ∧ (unlocked .opn).lcy.dbg ≠ .locked ∧
      (unlocked .opn).lcy.dbgEndUs ≤ (unlocked .opn).clk.nowUs ∧ up.lcy.dbg = .locked) :=
  ⟨fun _ _ => rfl, by decide, rfl, by decide, rfl, fun k => ⟨rfl, by cases k <;> decide⟩, fun d _ => rfl, rfl, by decide,
    fun d h => by rcases h with rfl | rfl <;> decide, by decide, rfl, by decide⟩

/-! ### Worked examples of the manual, and the published vectors of its algorithms -/

/-- R106: the CRC of the nine ASCII bytes 123456789 is 0x29B1. -/
theorem test_crc16_check : crc16 (ascii "123456789") = 0x29B1 := by decide +kernel

/-- The published check value of CRC-32C. -/
theorem test_crc32c_check : crc32c (ascii "123456789") = 0xE3069283 := by decide +kernel

/-- FIPS 197, appendices C.1 and C.3. -/
theorem test_aes128 : beN (aesWith (expandKey (List.range 16)) ((List.range 16).map (17 * ·))) = 0x69C4E0D86A7B0430D8CDB78070B4C55A := by
  decide +kernel
theorem test_aes256 : beN (aesWith (expandKey (List.range 32)) ((List.range 16).map (17 * ·))) = 0x8EA2B7CA516745BFEAFC49904B496089 := by
  decide +kernel

/-- RFC 4493, examples 1 and 2. -/
theorem test_cmac_empty : beN (cmac (nBe 0x2B7E151628AED2A6ABF7158809CF4F3C 16) []) = 0xBB1D6929E95937287FA37D129B756746 := by decide +kernel
theorem test_cmac_block : beN (cmac (nBe 0x2B7E151628AED2A6ABF7158809CF4F3C 16) (nBe 0x6BC1BEE22E409F96E93D7E117393172A 16)) =
    0x070A16B46B4D4144F79BDD9DD04A287C := by decide +kernel

/-- RFC 3610, packet vector 1. -/
theorem test_ccm : (let k := (List.range 16).map (0xC0 + ·)
    let pt := (List.range 23).map (8 + ·)
    let r := ccmSealBytes k (nBe 0x00000003020100A0A1A2A3A4A5 13) (List.range 8) pt 8
    (beN r.1, beN r.2)) = (0x588C979A61C663D2F066D0C2C0F989806D5F6B61DAC384, 0x17E8D12CFDF926E0) := by decide +kernel

/-- R88's example: a slot coil of 200 mA at 24 V and 125 kHz reserves 24.8 mW, in nW here. -/
theorem test_levee_example : (reservation (offering 0x403C0190 waitsPass) 0 0x400000).1 = 24800000 := by decide

/-- R115's example: a mean raw transition start of 114 062 with 10/64 of group delay is T_m 114 052. -/
theorem test_timing_example : measuredStart { authReply with stamps := [114062 + 64 * 8] } authWord false 10 = 114052 := by decide +kernel

/-- R117's example: the genuine module shows CS_DEV 24 and passes, the counterfeit 237 and fails. -/
theorem test_coupling_example :
    (let a := sqMag 1184 962
     let good := sqMag (1201 - 1184) (940 - 962)
     let bad := sqMag (971 - 1184) (805 - 962)
     (csDev good a 12 4000 200, within good a 12 4000 200, csDev bad a 12 4000 200, within bad a 12 4000 200)) =
    (24, true, 237, false) := by decide +kernel

/-- R111 and R126: AUTH 26.544 ms, READ_INFO 20.544 ms, REKEY 46.544 ms, the LF part of a LOCATE on four coils 28.144 ms. -/
theorem test_frame_times :
    cyclesUs (exchangeCycles .auth false) 0x400000 = 26544 ∧ cyclesUs (exchangeCycles .readInfo false) 0x400000 = 20544 ∧
    cyclesUs (exchangeCycles .rekey false) 0x400000 = 46544 ∧ cyclesUs (locCycles 4 false) 0x400000 = 28144 := by decide

/-- R214's example: 625 samples of 300 A and 720 V on the reset scales are 960 mWh. -/
theorem test_energy_example :
    (moveWhole { Meter.reset with aDis := (1572864 * 6039798 * 0xB60B60B6 * 2 ^ (80 - 74)) * 625 }).eDis = 960 ∧
    energy (meterCfg up) (trimmed (meterCfg up) [(1572864, 6039798)]) = 1572864 * 6039798 * 0xB60B60B6 * 2 ^ (80 - 74) := by decide

/-- The day of billing: 371 + 268 904 215 mWh debit 268 904 Wh and leave 586 mWh. -/
theorem test_billing_example :
    (let s := bill { up with ldg := { Ledger.reset with cA := ⟨342310, 0, 97690, 1360000, 1800000⟩, billRes := 371 } } 268904215
     (s.ldg.billRes, s.ldg.cA, bktSettle 366594 s.ldg.cA)) =
    (586, ⟨73406, 0, 366594, 1360000, 1800000⟩, ⟨73406, 0, 0, 1726594, 1800000⟩) := by decide

/-- R243's example: DISPOSITION 1 carries the returned reservation. -/
theorem test_close_example : closeBuckets ⟨12840, 500, 4210, 9782450, 9800000⟩ 1 = ⟨13340, 0, 4210, 9782450, 9800000⟩ := by decide

/-- The example of the bit flip: LFC_53_FREQ lies at 0x2D44 and takes FTW 0x0040_0000 after reset. -/
theorem test_upset_example : offOf (.lfcFreq 53) = 0x2D44 ∧ regOf 0x2D44 = some (.lfcFreq 53) ∧ resetAt 0x2D44 = 0x00400000 := by decide

/-- The example of three commands: 64 entries, HEAD and TAIL 62; the doorbell moves TAIL to 1, one turn fetches all three. -/
def ringed (tail : Nat) : State :=
  { up with ring := { up.ring with sqs := [(0, { getSq up 0 with size := 2, burst := 7, head := 62, tail := tail })] } }
theorem test_sqTailDoorbell_example : (getSq (after (.sqTailDoorbell 0 1) (ringed 62)) 0).tail = 1 := by decide
theorem test_descriptorFetch_example :
    (let s := after (.descriptorFetch [some (op 0x10), some { opOut 0x41 128 with dw0 := 0x01020041 }, some (opOut 0x31 128)]) (ringed 1)
     ((getSq s 0).head, s.ring.fetched)) = (1, 3) := by decide

/-- The example of the sluice status: SL0 to SL2 armed, both lanes ACTIVE, nothing released: RESULT 0x6070. -/
theorem test_sluiceStatus_example : sluResult { lanes { bLive with sl := [] } with
    slu := { (lanes bLive).slu with a := Slus.reset.a, b := { bLive with sl := [] },
                                    outs := [0, 1, 2].map fun n => (n, { SluOut.reset with armed := true }) } } = 0x6070 := by decide

/-- The example of the warm-up: A1 passes, and POSITION is 128 with PROGRESS 333. -/
theorem test_entropyWindowEnd_example :
    (let s := after (.entropyWindowEnd false evenWindow) (entropyIn .warmup 0)
     (s.ent.prog.position, s.ent.prog.progress, s.ent.windows)) = (128, 333, 1) := by decide +kernel


/-- The example of three commands: the entries at index 14 in phase 1 and at index 0 in phase 0. -/
theorem test_completion_example :
    completionBytes true 1 ⟨0x102, .ok, 0x80, 5001, 0, false⟩ = dwordBytes [0x00000102, 0x00000080, 0x00001389, 0x80000001] ∧
    completionBytes false 1 ⟨0x101, .ok, 0x10, 5027, 0, false⟩ = dwordBytes [0x00000101, 0x00000010, 0x000013A3, 0x00000001] ∧
    dwordBytes [0x00001389] = [0x89, 0x13, 0, 0] := by decide

/-- R105 to R108: LEAD 0b1111, PATTERN 0x2D and CMD 1 open an AUTH frame of 112 bits; R101: at FAST its bits begin after 0, 15,
31 and 46 cycles, a 1 full then reduced and a 0 reduced then full. -/
theorem test_frame_layout :
    (let b := frameBytes up { inFlight with nonce := 0x010203040506, reg := 5 } 1
     (b.take 2, (b.drop 6).take 6, (bitsOf b).length, crc16 b)) = ([0xF2, 0xD1], [1, 2, 3, 4, 5, 6], 112, 0) ∧
    codeBits 0 (rate8 false) [true, true, false, true] = [(0, .full), (7, .reduced), (15, .full), (23, .reduced),
      (31, .reduced), (39, .full), (46, .full), (54, .reduced)] := by decide +kernel

/-- R170: the preamble, the sync word, LEN and the CRC around a body. -/
theorem test_telegram_layout : telegramBytes [0x80, 7] =
    [0x55, 0x55, 0x55, 0x55, 0x55, 0x55, 0x93, 0xD1, 0x7A, 0x0E, 2, 0x80, 7, 0xC9, 0x83] := by decide +kernel

/-- The Reset column of R437 and R438. -/
theorem test_reset_reads : viewReg State.reset 0x4C00 = 0x10#32 ∧ viewReg State.reset 0x50A8 = 0#32 ∧
    viewReg State.reset 0x4870 = 0xC#32 ∧ viewReg State.reset 0x1804 = 0xE01#32 := by decide
end Sys2Proof.Tests
end

section
/-! Settles the statement about NOP (R343) and what it rests on: the checks of a fetched descriptor, the fence, NOP's row. -/

namespace Sys2Proof.Machine

open Sys2Proof

/-! ### The checks of a fetched descriptor (R338) -/

/-- A descriptor is accepted exactly where each of the checks 1 to 5 passes. -/
theorem checkDesc_eq_none_iff (s : State) (d : Desc) :
    checkDesc s d = none ↔ opcodes.contains (descOpcode d) = true ∧
      (inSpillway s && !spillOpcodes.contains (descOpcode d)) = false ∧ (commonReserved d || opReserved d) = false ∧
      lengthsOk s d = true ∧ addressesOk s d = true := by
  unfold checkDesc
  generalize (commonReserved d || opReserved d) = reserved
  split_ifs <;> simp_all

theorem word_eq_zero_of_and_allOnes {w : Word} (h : w.toNat &&& allOnes = 0) : w = 0 := by
  have hmod : w.toNat &&& allOnes = w.toNat % 2 ^ 32 := Nat.and_two_pow_sub_one_eq_mod w.toNat 32
  exact BitVec.eq_of_toNat_eq (by rw [← Nat.mod_eq_of_lt w.isLt, ← hmod, h]; rfl)

/-- Where every bit of DW8 to DW15 is reserved and none is set, each of the eight dwords is 0. -/
theorem descOps_eq_zero_of_clear {d : Desc} (h : descClear d allReserved = true) : ∀ w ∈ descOps d, w = 0 := by
  have hpairs : (descOps d).zip allReserved = (descOps d).map fun w => (w, allOnes) := rfl
  rw [descClear, hpairs, List.all_map, List.all_eq_true] at h
  exact fun w hw => word_eq_zero_of_and_allOnes (of_decide_eq_true (h w hw))

theorem opReserved_nop {d : Desc} (h : descOpcode d = 0x01) : opReserved d = !descClear d allReserved := by
  simp [opReserved, h]

theorem opLengths_nop {s : State} {d : Desc} (h : descOpcode d = 0x01) :
    opLengths s d = (decide (descLenIn d = 0) && decide (descLenOut d = 0)) := by
  simp [opLengths, h]

/-- An accepted NOP has no operands and no buffers. -/
theorem accepted_nop_is_bare {s : State} {d : Desc} (hop : descOpcode d = 0x01) (h : checkDesc s d = none) :
    (∀ w ∈ descOps d, w = 0) ∧ descLenIn d = 0 ∧ descLenOut d = 0 := by
  obtain ⟨-, -, hres, hlen, -⟩ := (checkDesc_eq_none_iff s d).1 h
  have hclear : descClear d allReserved = true := by
    simpa [opReserved_nop hop] using (Bool.or_eq_false_iff.1 hres).2
  have hzero : descLenIn d = 0 ∧ descLenOut d = 0 := by
    simp only [lengthsOk, opLengths_nop hop, Bool.and_eq_true, decide_eq_true_eq] at hlen
    exact hlen.1.1
  exact ⟨descOps_eq_zero_of_clear hclear, hzero⟩

/-! ### The fence (R352) -/

/-- A command that no fence holds back comes before every fenced command of its SQ, or is that command. -/
theorem uid_le_of_fenceOpen {s : State} {c x : Cmd} (hc : c ∈ s.ring.cmds) (hsq : c.sq = x.sq)
    (hf : descFence c.desc = true) (ho : fenceOpen s x = true) : x.uid ≤ c.uid := by
  by_contra hlt
  have hearlier : c ∈ s.ring.cmds.filter fun y => y.sq == x.sq && decide (y.uid < x.uid) := by
    simp [hc, hsq, Nat.lt_of_not_le hlt]
  unfold fenceOpen at ho
  split at ho
  case isTrue => exact List.ne_nil_of_mem hearlier (List.isEmpty_iff.1 ho)
  case isFalse =>
    simp only [Bool.not_eq_true', List.any_eq_false] at ho
    exact ho c hearlier hf

/-! ### NOP's row (R343) -/

theorem nopJudge_go {s : State} {c : Cmd} (h : ∀ x ∈ s.ring.cmds, x.sq = c.sq → c.uid ≤ x.uid) : nopJudge s c = .go := by
  refine if_neg fun hany => ?_
  obtain ⟨x, hx, hb⟩ := List.any_eq_true.1 hany
  simp only [Bool.and_eq_true, beq_iff_eq, decide_eq_true_eq] at hb
  exact absurd hb.2 (Nat.not_lt.2 (h x hx hb.1))

theorem nopJudge_hold {s : State} {c x : Cmd} (hx : x ∈ s.ring.cmds) (hsq : x.sq = c.sq) (hlt : x.uid < c.uid) :
    nopJudge s c = .hold :=
  if_pos (List.any_eq_true.2 ⟨x, hx, by simp [hsq, hlt]⟩)

/-- A command that its own checks hold back leaves the state as it is. -/
theorem runCmd_holds {s : State} {sq op : Nat} {m : HostMem} {c : Cmd} {own : State → Cmd → Judge}
    {body : State → Cmd → List Byte → State} (ho : oldestCmd s sq op = some c) (hj : own s c = .hold) :
    runCmd s sq op m own body = s := by
  unfold runCmd
  split
  · rfl
  · simp only [ho, hj]

/-- The oldest uncompleted command of its SQ, a NOP completes with OK and RESULT 0. -/
theorem execNop_posts {s : State} {sq : Fin 16} {m : HostMem} {c : Cmd} (hb : Begins s sq 0x01 m c [])
    (hold : ∀ x ∈ s.ring.cmds, x.sq = sq.val → c.uid ≤ x.uid) (hq : CqTakes s sq.val) :
    ∃ t, execNop sq m s = .next t ∧ PostedOnly s t c .ok 0 [] := by
  have hgo : nopJudge s c = .go := nopJudge_go fun x hx hsq => hold x hx (hsq.trans hb.sq_lt)
  refine ⟨_, congrArg Host.Outcome.next (runCmd_begins hb hgo), ?_⟩
  exact finish_begun hb hq .ok 0 [] (.inr rfl)

/-- Behind an uncompleted command of its SQ, a NOP waits. -/
theorem execNop_waits {s : State} {sq : Fin 16} {m : HostMem} {c x : Cmd} (ho : oldestCmd s sq.val 0x01 = some c)
    (hx : x ∈ s.ring.cmds) (hsq : x.sq = sq.val) (hlt : x.uid < c.uid) : execNop sq m s = .next s := by
  have hhold : nopJudge s c = .hold := nopJudge_hold hx (hsq.trans (oldestCmd_sq ho).1.symm) hlt
  exact congrArg Host.Outcome.next (runCmd_holds ho hhold)

/-- Settles O8, from the checks of its descriptor, the judgement of its row and the fence. -/
theorem nopCompletesInTurn : Obligations.NopCompletesInTurn := by
  unfold Obligations.NopCompletesInTurn
  refine ⟨fun s d hop h => accepted_nop_is_bare hop h, fun s sq m c hb hold hq => execNop_posts hb hold hq,
    fun s sq m c x ho hx hsq hlt => execNop_waits ho hx hsq hlt, fun s sq op c x hc hsq hf ho => ?_⟩
  obtain ⟨hxsq, -, -, hopen, -⟩ := oldestCmd_sq ho
  exact uid_le_of_fenceOpen hc (hsq.trans hxsq.symm) hf hopen

end Sys2Proof.Machine
end

section
/-! Settles the statement about a wrong seal reference (R371) and what it rests on: whether a reload is still due bears neither
on the image in force nor on the registers that differ from it. -/

namespace Sys2Proof.Machine

open Sys2Proof

/-! ### The reload that is due (R370) -/

@[simp] theorem imageInForce_reloadDue (s : State) (due : Bool) :
    imageInForce { s with cfg := { s.cfg with reloadDue := due } } = imageInForce s := rfl

@[simp] theorem differing_reloadDue (s : State) (img : ConfigImage) (due : Bool) :
    differing { s with cfg := { s.cfg with reloadDue := due } } img = differing s img := rfl

/-! ### The difference lies in the reference (R371) -/

/-- What a reload due makes of the state where only the reference differs: it takes the image's SEAL, and CFG_UPSET_ADDR
reads 0. -/
def refCorrected (s : State) (img : ConfigImage) : State :=
  { s with cfg := { s.cfg with reloadDue := false, sealRef := img.chk, upsetAddr := 0 } }

theorem sealReloadNow_eq_refCorrected {s : State} {img : ConfigImage} (hdue : s.cfg.reloadDue = true)
    (hrun : s.flt.restarting = false) (hfew : s.cfg.reloads < 3) (himg : imageInForce s = some img)
    (hsame : differing s img = []) : sealReloadNow s = refCorrected s img := by
  have hgo : (!s.cfg.reloadDue || s.flt.restarting || decide (3 ≤ s.cfg.reloads)) = false := by
    simp [hdue, hrun, hfew]
  simp [sealReloadNow, hgo, himg, hsame, refCorrected]

theorem exec_sealReload (s : State) : exec .sealReload s = .next (sealReloadNow s) := rfl

/-- Settles O37: the reload corrects the reference, and every other field named is the one it was. -/
theorem wrongReferenceNeverReloads : Obligations.WrongReferenceNeverReloads := by
  unfold Obligations.WrongReferenceNeverReloads
  intro s img hdue hrun hfew himg hsame
  have hnext : exec .sealReload s = .next (refCorrected s img) :=
    (exec_sealReload s).trans (congrArg _ (sealReloadNow_eq_refCorrected hdue hrun hfew himg hsame))
  exact ⟨refCorrected s img, hnext, rfl, rfl, rfl, rfl, rfl, rfl, rfl⟩

end Sys2Proof.Machine
end

section
/-! Settles the statement about the sealed set (R444) and what it rests on: the sources of R444's table, each with the part of
BAR0 that holds its registers and no register of another source. -/

namespace Sys2Proof.Machine

open Sys2Proof

/-! ### The sources of the sealed set (R444) -/

/-- A row of R444's table: the offsets of its registers, which lie from `lo` up to but not including `hi`. -/
structure SealSource where
  lo : Nat
  hi : Nat
  offs : List Nat

/-- Whether an offset lies in the part of BAR0 that belongs to a source. -/
def SealSource.covers (p : SealSource) (o : Nat) : Bool := decide (p.lo ≤ o) && decide (o < p.hi)

theorem SealSource.covers_iff {p : SealSource} {o : Nat} : p.covers o = true ↔ p.lo ≤ o ∧ o < p.hi := by
  simp [covers]

/-- The rows of R444's table, in its order. -/
def sealSources : List SealSource :=
  [⟨0x0400, 0x1000, [0x0400]⟩,
   ⟨0x1000, 0x2000, (List.range 5).map (fun n => 0x1004 + 0x100 * n) ++ [0x1800, 0x1A00, 0x1A10]⟩,
   ⟨0x2000, 0x3800, (List.range 96).flatMap fun n => (List.range 5).map fun j => 0x2000 + 0x40 * n + 4 * j⟩,
   ⟨0x3800, 0x4000, [0x3800] ++ (List.range 5).map (fun n => 0x3810 + 4 * n) ++
      (List.range 96).map (fun m => 0x3900 + 4 * m) ++ [0x3F10]⟩,
   ⟨0x4000, 0x4800, [0x4000, 0x4008, 0x400C, 0x4010, 0x4014, 0x4018, 0x401C]⟩,
   ⟨0x4800, 0x5000, (List.range 4).flatMap (fun n => [0x4800 + 0x10 * n, 0x4804 + 0x10 * n]) ++
      [0x4840, 0x4844, 0x4848, 0x484C, 0x4850, 0x4854, 0x4858, 0x485C, 0x4868]⟩,
   ⟨0x5000, 0x5800, [0x5000, 0x5004, 0x5008, 0x500C, 0x5010, 0x5014, 0x5018, 0x5080, 0x5084]⟩,
   ⟨0x5800, 0x7000, [0x5800, 0x6000, 0x6404, 0x6844]⟩,
   ⟨0x7000, 0x7800, [0x7008, 0x700C, 0x7010]⟩,
   ⟨0x7800, 0x8000, 0x7810 :: (List.range 128).map fun i => 0x7900 + 4 * i⟩,
   ⟨0x8000, 0x8800, [0x8018, 0x8020]⟩]

theorem sealedOffs_eq_flatMap : sealedOffs = sealSources.flatMap SealSource.offs := by
  simp only [sealedOffs, sealSources, List.flatMap_cons, List.flatMap_nil, List.append_assoc, List.cons_append,
    List.nil_append, List.append_nil]

/-- How many registers each row of the table counts. -/
theorem sealSources_counts :
    sealSources.map (fun p => p.offs.length) = [1, 8, 480, 103, 7, 17, 9, 4, 3, 129, 2] := by
  simp [sealSources]

theorem sealSources_ordered : sealSources.Pairwise fun p q => p.hi ≤ q.lo := by
  simp [sealSources]

theorem sealSources_cover : ∀ p ∈ sealSources, ∀ o ∈ p.offs, p.covers o = true := by
  simp only [sealSources, SealSource.covers_iff, List.forall_mem_cons, List.forall_mem_append, List.forall_mem_map,
    List.forall_mem_flatMap, List.mem_range, List.not_mem_nil, false_imp_iff, implies_true, and_true]
  and_intros <;> intros <;> omega

/-! ### Which registers lie in the part of a source -/

/-- Where the parts of the sources follow one another, filtering by a source's part gives the registers of that source. -/
theorem filter_covers_flatMap {l : List SealSource} (hord : l.Pairwise fun p q => p.hi ≤ q.lo)
    (hcov : ∀ p ∈ l, ∀ o ∈ p.offs, p.covers o = true) :
    ∀ p ∈ l, (l.flatMap SealSource.offs).filter p.covers = p.offs := by
  induction l with
  | nil => simp
  | cons q l ih =>
    obtain ⟨hq, hl⟩ := List.pairwise_cons.1 hord
    obtain ⟨hqcov, hlcov⟩ := List.forall_mem_cons.1 hcov
    intro p hp
    rw [List.flatMap_cons, List.filter_append]
    rcases List.mem_cons.1 hp with rfl | hp
    case inl =>
      have hrest : (l.flatMap SealSource.offs).filter p.covers = [] := by
        refine List.filter_eq_nil_iff.2 fun o ho hc => ?_
        obtain ⟨r, hr, hor⟩ := List.mem_flatMap.1 ho
        have hro := SealSource.covers_iff.1 (hlcov r hr o hor)
        have hpo := SealSource.covers_iff.1 hc
        have hpr := hq r hr
        omega
      rw [List.filter_eq_self.2 hqcov, hrest, List.append_nil]
    case inr =>
      have hfirst : q.offs.filter p.covers = [] := by
        refine List.filter_eq_nil_iff.2 fun o ho hc => ?_
        have hqo := SealSource.covers_iff.1 (hqcov o ho)
        have hpo := SealSource.covers_iff.1 hc
        have hqp := hq p hp
        omega
      rw [hfirst, ih hl hlcov p hp, List.nil_append]

theorem filter_covers_sealedOffs {p : SealSource} (hp : p ∈ sealSources) : sealedOffs.filter p.covers = p.offs := by
  rw [sealedOffs_eq_flatMap]
  exact filter_covers_flatMap sealSources_ordered sealSources_cover p hp

/-! ### The sealed set with no unit retired -/

theorem sealSet_eq_sealedOffs {s : State} (h : s.cfg.excluded = []) : sealSet s = sealedOffs := by
  simp [sealSet, h]

theorem length_sealedOffs : sealedOffs.length = 763 := by
  rw [sealedOffs_eq_flatMap, List.length_flatMap, sealSources_counts]
  rfl

/-- The sealed set holds in each source's part of BAR0 as many registers as the table says. -/
theorem sealedOffs_counts :
    sealSources.map (fun p => (sealedOffs.filter p.covers).length) = [1, 8, 480, 103, 7, 17, 9, 4, 3, 129, 2] := by
  rw [← sealSources_counts]
  exact List.map_congr_left fun p hp => congrArg List.length (filter_covers_sealedOffs hp)

/-- Settles O36: the set is R444's table, row by row, and each row's registers lie in a part of BAR0 of their own. -/
theorem sealedSetHolds763 : Obligations.SealedSetHolds763 := by
  unfold Obligations.SealedSetHolds763
  intro s hnone
  have hparts := sealedOffs_counts
  simp only [sealSources, List.map_cons, List.map_nil, List.cons.injEq, and_true] at hparts
  rw [sealSet_eq_sealedOffs hnone]
  exact ⟨length_sealedOffs, hparts⟩

end Sys2Proof.Machine
end

section
/-! Settles the statements about every step (R31, R218, R265) and about the reset state, and what they rest on: the state that a
command passes through, from which `Keeps` carries queue, count, fuses and ledger on to its end. -/

namespace Sys2Proof.Machine

open Sys2Proof

/-! ### What one command leaves -/

/-- What a command makes of the queue, the count, the fuses and the ledger's invariant. -/
structure CommandLeaves (c : Instr) (s t : State) : Prop where
  pending : t.pending = s.pending
  beat : t.clk.beat = s.clk.beat ∨ ((∃ b, c = .beatBoundary b) ∧ t.clk.beat = s.clk.beat + 1) ∨
    ((c = .por ∨ c = .supplyUndervoltage .vaon) ∧ t.clk.beat = 0)
  fuses : t.lcy.fuses = s.lcy.fuses ∨ (c = .advanceCommit ∧ ∃ m, t.lcy.fuses = s.lcy.fuses ||| m)
  ledger : LedgerOk s → LedgerOk t

theorem Keeps.commandLeaves {c : Instr} {s t : State} (h : Keeps s t) : CommandLeaves c s t :=
  ⟨h.pending, .inl h.beat, .inl h.fuses, h.ledger⟩

theorem beatBoundary_held {s : State} (b : BeatIn) (hp : s.pwr.porHeld = true) : beatBoundary s b = s := if_pos hp

theorem beatBoundary_leaves (s : State) (b : BeatIn) : CommandLeaves (.beatBoundary b) s (beatBoundary s b) := by
  cases hp : s.pwr.porHeld with
  | true =>
    rw [beatBoundary_held b hp]
    exact (Keeps.refl s).commandLeaves
  | false =>
    obtain ⟨z, hpend, hbeat, hfuse, hled, hk⟩ := beatBoundary_counts s b hp
    exact ⟨hk.pending.trans hpend, .inr (.inl ⟨⟨b, rfl⟩, hk.beat.trans hbeat⟩), .inl (hk.fuses.trans hfuse),
      fun h => hk.ledger (hled h)⟩

/-- A command that passes through a power-on reset starts the count at 0. -/
theorem commandLeaves_of_clears {c : Instr} {s t : State} (hc : c = .por ∨ c = .supplyUndervoltage .vaon)
    (h : ∃ z, z.pending = s.pending ∧ z.clk.beat = 0 ∧ z.lcy.fuses = s.lcy.fuses ∧ (LedgerOk s → LedgerOk z) ∧ Keeps z t) :
    CommandLeaves c s t := by
  obtain ⟨z, hpend, hbeat, hfuse, hled, hk⟩ := h
  exact ⟨hk.pending.trans hpend, .inr (.inr ⟨hc, hk.beat.trans hbeat⟩), .inl (hk.fuses.trans hfuse),
    fun w => hk.ledger (hled w)⟩

theorem advanceCommitNow_leaves (s : State) : CommandLeaves .advanceCommit s (advanceCommitNow s) := by
  obtain ⟨z, hpend, hbeat, ⟨m, hfuse⟩, hled, hk⟩ := advanceCommitNow_adds s
  exact ⟨hk.pending.trans hpend, .inl (hk.beat.trans hbeat), .inr ⟨rfl, m, hk.fuses.trans hfuse⟩, fun w => hk.ledger (hled w)⟩

theorem exec_beatBoundary (s : State) (b : BeatIn) : exec (.beatBoundary b) s = .next (beatBoundary s b) := rfl

theorem exec_leaves {c : Instr} {s t : State} (h : exec c s = .next t) : CommandLeaves c s t := by
  rcases exec_keeps h with ⟨b, rfl⟩ | rfl | rfl | rfl | hk
  · cases h
    exact beatBoundary_leaves s b
  · cases h
    exact commandLeaves_of_clears (.inl rfl) (porPulse_clears s)
  · cases h
    exact commandLeaves_of_clears (.inr rfl) (supplyUnder_vaon_clears s)
  · cases h
    exact advanceCommitNow_leaves s
  · exact hk.commandLeaves

/-- No row of the table faults or is refused. -/
theorem exec_answers (c : Instr) (s : State) : ∃ t, exec c s = .next t := by
  cases c <;> exact ⟨_, rfl⟩

/-! ### What one step leaves -/

/-- A step idles on an empty queue, or runs the command in front with the rest of the queue. -/
theorem step_cases {s t : State} (h : step s = .next t) :
    t = s ∨ ∃ c rest, s.pending = c :: rest ∧ CommandLeaves c { s with pending := rest } t := by
  unfold step at h
  split at h
  next hp =>
    cases h
    exact .inl rfl
  next c rest hp => exact .inr ⟨c, rest, hp, exec_leaves h⟩

/-- Settles O1, by the queue's two shapes. -/
theorem stepRunsFront : Obligations.StepRunsFront := by
  unfold Obligations.StepRunsFront
  constructor
  · intro c rest s hp
    simp only [step, hp]
  · intro s hp
    simp only [step, hp]

/-- Settles O2, row by row of the table. -/
theorem everyCommandAnswers : Obligations.EveryCommandAnswers := by
  unfold Obligations.EveryCommandAnswers
  intro c s
  obtain ⟨t, ht⟩ := exec_answers c s
  exact ⟨t, ht, (exec_leaves ht).pending⟩

/-- Settles O3: every command keeps the ledger's invariant, and the queue is no part of it. -/
theorem ledgerStaysConserved : Obligations.LedgerStaysConserved := by
  unfold Obligations.LedgerStaysConserved
  intro s t hs h
  rcases step_cases h with rfl | ⟨c, rest, -, hc⟩
  · exact hs
  · exact hc.ledger hs

/-- Settles O4, on the counters of the reset state. -/
theorem ledgerConservedAtReset : Obligations.LedgerConservedAtReset := by
  unfold Obligations.LedgerConservedAtReset LedgerOk
  refine ⟨by simp [State.reset, Ledger.reset, BucketsOk, Buckets.zero], rfl, by simp [State.reset, Ledger.reset], ?_⟩
  intro r hr
  cases hr

/-- Settles O5, command by command. -/
theorem beatCountNeverSkips : Obligations.BeatCountNeverSkips := by
  unfold Obligations.BeatCountNeverSkips
  intro s t h
  rcases step_cases h with rfl | ⟨c, rest, hp, hc⟩
  · exact .inl rfl
  · rcases hc.beat with hb | ⟨⟨b, rfl⟩, hb⟩ | ⟨rfl | rfl, hb⟩
    · exact .inl hb
    · exact .inr (.inl ⟨b, rest, hp, hb⟩)
    · exact .inr (.inr ⟨⟨rest, .inl hp⟩, hb⟩)
    · exact .inr (.inr ⟨⟨rest, .inr hp⟩, hb⟩)

/-- Settles O6: the commit joins a mask to the fuse row, and no other command touches it. -/
theorem fusesOnlyAddedByCommit : Obligations.FusesOnlyAddedByCommit := by
  unfold Obligations.FusesOnlyAddedByCommit
  intro s t h
  rcases step_cases h with rfl | ⟨c, rest, hp, hc⟩
  · exact .inl rfl
  · rcases hc.fuses with hf | ⟨rfl, m, hf⟩
    · exact .inl hf
    · refine .inr ⟨⟨rest, hp⟩, fun i hi => ?_⟩
      simp [hf, hi]

/-! ### The reset state -/

theorem reg_reset (r : RReg) : reg State.reset r = regReset r := rfl

theorem anyReleased_reset : anyReleased State.reset = false := by decide

theorem getDom_reset_on (d : Nat) : (getDom State.reset d).on = decide (d = 0) := by
  by_cases h : d = 0
  · subst h
    rfl
  · simp [getDom, State.reset, Power.reset, smGet, h, Dom.off, Ne.symm h]

/-- Settles O7: no table of the reset state holds an entry but that of the AON domain. -/
theorem resetState : Obligations.ResetState := by
  unfold Obligations.ResetState
  exact ⟨rfl, rfl, fun _ => rfl, fun _ => rfl, rfl, rfl, rfl, rfl, rfl, rfl, reg_reset, fun _ => ⟨rfl, rfl⟩, anyReleased_reset,
    rfl, getDom_reset_on⟩

/-! ### The boundary's count -/

theorem beatBoundary_asleep {s : State} (b : BeatIn) (hp : s.pwr.porHeld = false) (ha : asleep s = true) :
    beatBoundary s b = countBeat s := by
  simp [beatBoundary, hp, ha]

/-- Settles O35: awake, asleep and under POR. -/
theorem boundariesCount : Obligations.BoundariesCount := by
  unfold Obligations.BoundariesCount
  intro s b
  refine ⟨fun hp => ?_, fun hp ha => ?_, fun hp => ?_⟩
  · obtain ⟨z, -, hbeat, hfuse, -, hk⟩ := beatBoundary_counts s b hp
    exact ⟨_, exec_beatBoundary s b, hk.beat.trans hbeat, hk.fuses.trans hfuse⟩
  · rw [exec_beatBoundary, beatBoundary_asleep b hp ha]
    rfl
  · rw [exec_beatBoundary, beatBoundary_held b hp]

end Sys2Proof.Machine
end

section
/-! What the shared operations leave alone: those that speak to the host change the rings alone, those that stage records the
journal's staging beside them. -/

namespace Sys2Proof.Machine

open Sys2Proof

/-! ### Rings alone, and rings with the journal's staging -/

/-- `t` is `s` but for the rings. -/
def RingOnly (s t : State) : Prop := ∃ r, t = { s with ring := r }

/-- `t` is `s` but for the rings, the journal and the records that wait for an open chain. -/
def LogOnly (s t : State) : Prop := ∃ r j p, t = { s with ring := r, jrn := j, pwr := { s.pwr with startRecs := p } }

namespace RingOnly

theorem refl (s : State) : RingOnly s s := ⟨s.ring, rfl⟩
theorem of_ring (s : State) (r : Ring) : RingOnly s { s with ring := r } := ⟨r, rfl⟩

theorem trans {s t u : State} (h : RingOnly s t) (k : RingOnly t u) : RingOnly s u := by
  obtain ⟨r, rfl⟩ := h
  obtain ⟨q, rfl⟩ := k
  exact ⟨q, rfl⟩

theorem logOnly {s t : State} (h : RingOnly s t) : LogOnly s t := by
  obtain ⟨r, rfl⟩ := h
  exact ⟨r, s.jrn, s.pwr.startRecs, rfl⟩

theorem eq {s t : State} (h : RingOnly s t) : t = { s with ring := t.ring } := by
  obtain ⟨r, rfl⟩ := h
  rfl

theorem jrn {s t : State} (h : RingOnly s t) : t.jrn = s.jrn := by obtain ⟨r, rfl⟩ := h; rfl
theorem pwr {s t : State} (h : RingOnly s t) : t.pwr = s.pwr := by obtain ⟨r, rfl⟩ := h; rfl

theorem foldl {α : Type} {f : State → α → State} (hf : ∀ s a, RingOnly s (f s a)) (l : List α) (s : State) :
    RingOnly s (l.foldl f s) := by
  induction l generalizing s with
  | nil => exact refl s
  | cons a l ih => exact (hf s a).trans (ih (f s a))

end RingOnly

namespace LogOnly

theorem refl (s : State) : LogOnly s s := (RingOnly.refl s).logOnly

theorem trans {s t u : State} (h : LogOnly s t) (k : LogOnly t u) : LogOnly s u := by
  obtain ⟨r, j, p, rfl⟩ := h
  obtain ⟨r', j', p', rfl⟩ := k
  exact ⟨r', j', p', rfl⟩

theorem foldl {α : Type} {f : State → α → State} (hf : ∀ s a, LogOnly s (f s a)) (l : List α) (s : State) :
    LogOnly s (l.foldl f s) := by
  induction l generalizing s with
  | nil => exact refl s
  | cons a l ih => exact (hf s a).trans (ih (f s a))

theorem eq {s t : State} (h : LogOnly s t) :
    t = { s with ring := t.ring, jrn := t.jrn, pwr := { s.pwr with startRecs := t.pwr.startRecs } } := by
  obtain ⟨r, j, p, rfl⟩ := h
  rfl

section
variable {s t : State} (h : LogOnly s t)
include h

theorem pending : t.pending = s.pending := by obtain ⟨r, j, p, rfl⟩ := h; rfl
theorem clk : t.clk = s.clk := by obtain ⟨r, j, p, rfl⟩ := h; rfl
theorem cfg : t.cfg = s.cfg := by obtain ⟨r, j, p, rfl⟩ := h; rfl
theorem lf : t.lf = s.lf := by obtain ⟨r, j, p, rfl⟩ := h; rfl
theorem tok : t.tok = s.tok := by obtain ⟨r, j, p, rfl⟩ := h; rfl
theorem slu : t.slu = s.slu := by obtain ⟨r, j, p, rfl⟩ := h; rfl
theorem rad : t.rad = s.rad := by obtain ⟨r, j, p, rfl⟩ := h; rfl
theorem mtr : t.mtr = s.mtr := by obtain ⟨r, j, p, rfl⟩ := h; rfl
theorem ldg : t.ldg = s.ldg := by obtain ⟨r, j, p, rfl⟩ := h; rfl
theorem key : t.key = s.key := by obtain ⟨r, j, p, rfl⟩ := h; rfl
theorem lcy : t.lcy = s.lcy := by obtain ⟨r, j, p, rfl⟩ := h; rfl
theorem cip : t.cip = s.cip := by obtain ⟨r, j, p, rfl⟩ := h; rfl
theorem ent : t.ent = s.ent := by obtain ⟨r, j, p, rfl⟩ := h; rfl
theorem flt : t.flt = s.flt := by obtain ⟨r, j, p, rfl⟩ := h; rfl
theorem fl : t.fl = s.fl := by obtain ⟨r, j, p, rfl⟩ := h; rfl

end

end LogOnly

/-! ### What leaves for the host -/

theorem emit_ringOnly (s : State) (o : BusOut) : RingOnly s (emit s o) := ⟨_, emit_ring s o⟩
theorem sendVector_ringOnly (s : State) (v : Nat) : RingOnly s (sendVector s v) := ⟨_, sendVector_ring s v⟩
theorem setCq_ringOnly (s : State) (n : Nat) (q : Cq) : RingOnly s (setCq s n q) := ⟨_, setCq_ring s n q⟩
theorem setSq_ringOnly (s : State) (n : Nat) (q : Sq) : RingOnly s (setSq s n q) := ⟨_, rfl⟩
theorem putCmd_ringOnly (s : State) (c : Cmd) : RingOnly s (putCmd s c) := ⟨_, rfl⟩
theorem dropCmd_ringOnly (s : State) (u : Nat) : RingOnly s (dropCmd s u) := ⟨_, rfl⟩
theorem settleSq_ringOnly (s : State) (n : Nat) : RingOnly s (settleSq s n) := ⟨_, settleSq_ring s n⟩

theorem cqIrq_ringOnly (s : State) (n : Nat) : RingOnly s (cqIrq s n) := by
  unfold cqIrq
  dsimp only
  split
  · exact (setCq_ringOnly _ _ _).trans (sendVector_ringOnly _ _)
  · exact setCq_ringOnly _ _ _

theorem eqIrq_ringOnly (s : State) : RingOnly s (eqIrq s) := by
  unfold eqIrq
  dsimp only
  split
  · exact (RingOnly.of_ring s _).trans (sendVector_ringOnly _ _)
  · exact ⟨_, rfl⟩

theorem errVector_ringOnly (s : State) (b : Bool) : RingOnly s (errVector s b) := by
  unfold errVector
  split
  · exact sendVector_ringOnly _ _
  · exact .refl _

theorem writeCompletion_ringOnly (s : State) (n : Nat) (c : Completion) : RingOnly s (writeCompletion s n c) := by
  unfold writeCompletion
  dsimp only
  split
  · exact ((emit_ringOnly _ _).trans (setCq_ringOnly _ _ _)).trans (.of_ring _ _)
  · exact (((emit_ringOnly _ _).trans (setCq_ringOnly _ _ _)).trans (.of_ring _ _)).trans (cqIrq_ringOnly _ _)

theorem postCompletion_ringOnly (s : State) (n : Nat) (c : Completion) : RingOnly s (postCompletion s n c) := by
  unfold postCompletion
  dsimp only
  split_ifs
  · exact .refl _
  · exact .of_ring _ _
  · exact writeCompletion_ringOnly _ _ _
  · exact setCq_ringOnly _ _ _

theorem writeEvent_ringOnly (s : State) (e : Event) : RingOnly s (writeEvent s e) := by
  unfold writeEvent
  dsimp only
  split
  · exact ((emit_ringOnly _ _).trans (.of_ring _ _)).trans (eqIrq_ringOnly _)
  · exact .of_ring _ _

theorem postEventAt_ringOnly (s : State) (i src d : Nat) (b : Word) : RingOnly s (postEventAt s i src d b) := by
  unfold postEventAt
  dsimp only
  split
  · exact .of_ring _ _
  · exact writeEvent_ringOnly _ _

theorem postEvent_ringOnly (s : State) (i src d : Nat) : RingOnly s (postEvent s i src d) := postEventAt_ringOnly _ _ _ _ _

theorem postProgress_ringOnly (s : State) (op src old new pos : Nat) : RingOnly s (postProgress s op src old new pos) := by
  unfold postProgress
  split
  · exact postEvent_ringOnly _ _ _ _
  · exact .refl _

/-! ### Completions -/

theorem emitData_ringOnly (s : State) (c : Cmd) (out : List Byte) : RingOnly s (emitData s c out) := by
  unfold emitData
  dsimp only
  split_ifs
  · exact .refl _
  · exact emit_ringOnly _ _
  · exact emit_ringOnly _ _

theorem finishCmd_ringOnly (s : State) (c : Cmd) (st : Status) (r : Word) (b : BitVec 64) (out : List Byte) :
    RingOnly s (finishCmd s c st r b out) := by
  have hdrop : RingOnly s (dropCmd (emitData s c out) c.uid) := (emitData_ringOnly _ _ _).trans (dropCmd_ringOnly _ _)
  unfold finishCmd
  dsimp only
  split
  · exact hdrop
  · exact (hdrop.trans (postCompletion_ringOnly _ _ _)).trans (settleSq_ringOnly _ _)

theorem finishNow_ringOnly (s : State) (c : Cmd) (st : Status) (r : Nat) (out : List Byte) : RingOnly s (finishNow s c st r out) :=
  finishCmd_ringOnly _ _ _ _ _ _

theorem finishBytes_ringOnly (s : State) (c : Cmd) (out : List Byte) : RingOnly s (finishBytes s c out) := finishNow_ringOnly _ _ _ _ _

theorem failCmd_ringOnly (s : State) (c : Cmd) (st : Status) : RingOnly s (failCmd s c st) := finishNow_ringOnly _ _ _ _ _

/-! ### Records staged -/

theorem stageRec_logOnly (s : State) (type source : Nat) (beat : BitVec 64) (pl : List Byte) (uid : Nat) :
    LogOnly s (stageRec s type source beat pl uid) := by
  unfold stageRec
  dsimp only
  split
  · exact .refl _
  · exact ⟨_, _, _, rfl⟩

theorem stage_logOnly (s : State) (type source : Nat) (fs : List (Nat × List Byte)) : LogOnly s (stage s type source fs) :=
  stageRec_logOnly _ _ _ _ _ _

theorem stageSoon_logOnly (s : State) (type source : Nat) (fs : List (Nat × List Byte)) : LogOnly s (stageSoon s type source fs) := by
  unfold stageSoon
  split_ifs
  · exact stage_logOnly _ _ _ _
  · exact .refl _
  · exact ⟨_, _, _, rfl⟩

theorem stageBatch_logOnly (s : State) (uid cmdId p ch : Nat) (st : Status) : LogOnly s (stageBatch s uid cmdId p ch st) := by
  unfold stageBatch
  split
  · exact ⟨_, _, _, rfl⟩
  · exact stageRec_logOnly _ _ _ _ _ _

end Sys2Proof.Machine
end

section
/-! Settles the statement about retirements (R96, R415, R417, R419, R421) and what it rests on: the table's entry, what leaves
service with a unit, and the compaction of a full bank. -/

namespace Sys2Proof.Machine

open Sys2Proof

/-! ### The table's entry (R415, R422) -/

/-- A bank with room is left alone. -/
theorem swapTable_room {s : State} (h : s.fl.retLog.length < bankEntries) : swapTable s = s := if_pos h

/-- The entry that a unit's retirement gets in a table whose keeper runs. -/
def nextEntry (s : State) (cls idx : Nat) (cause : Byte) : RetEntry :=
  ⟨cls, idx, false, cause, s.clk.beat, s.ldg.svcUs, (s.fl.retLog.getLast?.map (·.eseq + 1)).getD 0⟩

theorem appendEntry_room {s : State} (cls idx : Nat) (cause : Byte) (hr : s.flt.restarting = false)
    (hl : s.fl.retLog.length < bankEntries) :
    ∃ fl, appendEntry s (retireEntry s cls idx false cause) = { s with fl := fl } ∧
      fl.retLog = s.fl.retLog ++ [nextEntry s cls idx cause] := by
  unfold appendEntry
  rw [swapTable_room hl]
  simp only [hr, Bool.false_eq_true, if_false]
  exact ⟨_, rfl, rfl⟩

/-- A retirement recorded: one entry in the table; what else changes is the rings, the journal and the words of flash renewed. -/
theorem recordRetire_room {s : State} (cls idx : Nat) (cause : Byte) (hr : s.flt.restarting = false)
    (hl : s.fl.retLog.length < bankEntries) :
    ∃ fl, LogOnly { s with fl := fl } (recordRetire s cls idx cause) ∧ fl.retLog = s.fl.retLog ++ [nextEntry s cls idx cause] := by
  obtain ⟨fl, hfl, hlog⟩ := appendEntry_room cls idx cause hr hl
  refine ⟨fl, ?_, hlog⟩
  unfold recordRetire stageRetire
  simp only [hfl]
  split
  · exact (stageSoon_logOnly _ _ _ _).trans (postEvent_ringOnly _ _ _ _).logOnly
  · exact (stageSoon_logOnly _ _ _ _).trans (postEvent_ringOnly _ _ _ _).logOnly

theorem excludeRegs_cfg (s : State) (offs : List Nat) : ∃ cfg, excludeRegs s offs = { s with cfg := cfg } := by
  unfold excludeRegs
  dsimp only
  split
  · exact ⟨_, rfl⟩
  · exact ⟨_, rfl⟩

/-! ### Which retirements are carried out (R415) -/

theorem retireDueWhere_none {s : State} {p : Nat → Nat → Bool} (h : (s.flt.retireDue.filter fun r => p r.1 r.2.1) = []) :
    retireDueWhere s p = s := by
  have hrest : (s.flt.retireDue.filter fun r => !p r.1 r.2.1) = s.flt.retireDue := by
    refine List.filter_eq_self.2 fun r hr => ?_
    simpa using List.filter_eq_nil_iff.1 h r hr
  simp only [retireDueWhere, h, hrest, List.foldl_nil]

theorem retireDueWhere_one {s : State} {p : Nat → Nat → Bool} {r : Nat × Nat × Byte}
    (h : (s.flt.retireDue.filter fun r => p r.1 r.2.1) = [r]) :
    retireDueWhere s p =
      retireUnit { s with flt := { s.flt with retireDue := s.flt.retireDue.filter fun r => !p r.1 r.2.1 } } r := by
  simp only [retireDueWhere, h, List.foldl_cons, List.foldl_nil, insertUnit]

/-! ### A channel without work leaves service (R96) -/

/-- A channel whose place is gone, and with it the place it waited for. -/
def Chan.unplaced (c : Chan) : Chan := { c with place := none, moveTo := none }

@[simp] theorem retireJobs_idle {s : State} {ch : Nat} (h : (getChan s ch).jobs = []) (k : Nat) : retireJobs k s ch = s := by
  cases k with
  | zero => rfl
  | succ k => simp [retireJobs, headOf, h]

theorem laneSlot_put_self (l : Lane) (ch : Nat) (e : SlotEnt) : laneSlot (laneSlotPut l ch e) ch = e := smGet_smPut_self _ _ _ _

theorem laneSlot_put_ne (l : Lane) {i ch : Nat} (h : i ≠ ch) (e : SlotEnt) : laneSlot (laneSlotPut l ch e) i = laneSlot l i :=
  smGet_smPut_ne _ h _ _

/-- A channel with no job goes out of service: it has no place, its slot entry is UNVERIFIABLE, and beside the sluice unit
nothing else changes. -/
theorem outOfService_idle {s : State} {ch : Nat} (h : (getChan s ch).jobs = []) :
    ∃ slu, outOfService s ch = { setChan s ch (getChan s ch).unplaced with slu := slu } ∧
      slu.a = laneSlotPut s.slu.a ch { laneSlot s.slu.a ch with st := .unverifiable } := by
  have hj : (getChan (setChan s ch (getChan s ch).unplaced) ch).jobs = [] := by simpa [Chan.unplaced] using h
  have hm : modChan s ch (fun c => { c with place := none, moveTo := none }) = setChan s ch (getChan s ch).unplaced := rfl
  unfold outOfService
  rw [hm]
  simp only [retireJobs_idle hj]
  split
  · exact ⟨_, rfl, rfl⟩
  · exact ⟨_, rfl, rfl⟩

/-- What a channel that leaves service loses. -/
structure OutOfService (s : State) (c : Nat) : Prop where
  place : (getChan s c).place = none
  slot : (laneSlot s.slu.a c).st = .unverifiable

theorem outOfService_out {s : State} {ch : Nat} (h : (getChan s ch).jobs = []) : OutOfService (outOfService s ch) ch := by
  obtain ⟨slu, ht, ha⟩ := outOfService_idle h
  rw [ht]
  constructor
  · show (getChan (setChan s ch _) ch).place = none
    rw [getChan_setChan]
    rfl
  · show (laneSlot slu.a ch).st = _
    rw [ha, laneSlot_put_self]

theorem outOfService_other {s : State} {ch i : Nat} (h : (getChan s ch).jobs = []) (hi : i ≠ ch) :
    getChan (outOfService s ch) i = getChan s i ∧ laneSlot (outOfService s ch).slu.a i = laneSlot s.slu.a i := by
  obtain ⟨slu, ht, ha⟩ := outOfService_idle h
  rw [ht]
  refine ⟨getChan_setChan_ne s hi _, ?_⟩
  show laneSlot slu.a i = _
  rw [ha, laneSlot_put_ne _ hi]

theorem outOfService_keepsOut {s : State} {ch c : Nat} (h : (getChan s ch).jobs = []) (hc : OutOfService s c) :
    OutOfService (outOfService s ch) c := by
  by_cases hne : c = ch
  · subst hne
    exact outOfService_out h
  · obtain ⟨hchan, hslot⟩ := outOfService_other h hne
    exact ⟨hchan ▸ hc.place, hslot ▸ hc.slot⟩

/-- What a retirement of channels leaves alone. -/
structure ServiceFrame (s t : State) : Prop where
  flt : t.flt = s.flt
  fl : t.fl = s.fl
  clk : t.clk = s.clk
  ldg : t.ldg = s.ldg
  banks : t.lf.banks = s.lf.banks

theorem ServiceFrame.refl (s : State) : ServiceFrame s s := ⟨rfl, rfl, rfl, rfl, rfl⟩

theorem ServiceFrame.trans {s t u : State} (h : ServiceFrame s t) (k : ServiceFrame t u) : ServiceFrame s u :=
  ⟨k.flt.trans h.flt, k.fl.trans h.fl, k.clk.trans h.clk, k.ldg.trans h.ldg, k.banks.trans h.banks⟩

theorem outOfService_frame {s : State} {ch : Nat} (h : (getChan s ch).jobs = []) : ServiceFrame s (outOfService s ch) := by
  obtain ⟨slu, ht, -⟩ := outOfService_idle h
  rw [ht]
  exact ⟨rfl, rfl, rfl, rfl, rfl⟩

/-- Channels without work leave service one after the other, and no other channel is touched. -/
theorem foldl_outOfService {l : List Nat} {s : State} (h : ∀ c ∈ l, (getChan s c).jobs = []) :
    (∀ c ∈ l, OutOfService (l.foldl outOfService s) c) ∧ (∀ c, OutOfService s c → OutOfService (l.foldl outOfService s) c) ∧
      (∀ i, i ∉ l → getChan (l.foldl outOfService s) i = getChan s i) ∧ ServiceFrame s (l.foldl outOfService s) := by
  induction l generalizing s with
  | nil => exact ⟨by simp, fun _ hc => hc, fun _ _ => rfl, .refl s⟩
  | cons a l ih =>
    obtain ⟨ha, hl⟩ := List.forall_mem_cons.1 h
    have hjobs : ∀ c ∈ l, (getChan (outOfService s a) c).jobs = [] := by
      intro c hc
      by_cases hne : c = a
      · obtain ⟨slu, ht, -⟩ := outOfService_idle ha
        rw [ht, hne]
        show (getChan (setChan s a _) a).jobs = []
        rw [getChan_setChan]
        exact ha
      · rw [(outOfService_other ha hne).1]
        exact hl c hc
    obtain ⟨hin, hkeep, hother, hframe⟩ := ih hjobs
    refine ⟨List.forall_mem_cons.2 ⟨hkeep a (outOfService_out ha), hin⟩, fun c hc => hkeep c (outOfService_keepsOut ha hc),
      fun i hi => ?_, (outOfService_frame ha).trans hframe⟩
    obtain ⟨hia, hil⟩ := not_or.1 (mt List.mem_cons.2 hi)
    exact (hother i hil).trans (outOfService_other ha hia).1

/-! ### Retirement of a channel, of a bank link, of the radio -/

/-- The second channel of a gang pair loses its place with the first. -/
def unplacePartner (s : State) (gang : Bool) (n : Nat) : State :=
  if gang then modChan s n fun c => { c with place := none, moveTo := none } else s

theorem unplacePartner_frame (s : State) (gang : Bool) (n : Nat) :
    (∀ i, i ≠ n → getChan (unplacePartner s gang n) i = getChan s i) ∧ (unplacePartner s gang n).slu = s.slu ∧
      ServiceFrame s (unplacePartner s gang n) := by
  unfold unplacePartner
  split
  · exact ⟨fun i hi => getChan_setChan_ne _ hi _, rfl, rfl, rfl, rfl, rfl, rfl⟩
  · exact ⟨fun _ _ => rfl, rfl, .refl _⟩

theorem retireChannel_spec {s : State} {ch : Nat} {cause : Byte} (hr : s.flt.restarting = false)
    (hl : s.fl.retLog.length < bankEntries) (hj : (getChan s ch).jobs = []) (hn : (getChan s ch).retired = false) :
    let t := retireChannel s ch cause
    (getChan t ch).retired = true ∧ OutOfService t ch ∧ t.fl.retLog = s.fl.retLog ++ [nextEntry s 1 ch cause] ∧
      (∀ i, i ≠ ch → i ≠ ch + 1 → getChan t i = getChan s i) ∧ t.flt = s.flt := by
  unfold retireChannel
  simp only [hn, Bool.false_eq_true, if_false]
  generalize hs1 : modChan s ch (fun c => { c with retired := true, retireDue := false }) = s1
  have hc1 : getChan s1 ch = { getChan s ch with retired := true, retireDue := false } := by rw [← hs1]; exact getChan_setChan _ _ _
  have hj1 : (getChan s1 ch).jobs = [] := by rw [hc1]; exact hj
  have hframe : ServiceFrame s (outOfService s1 ch) :=
    ServiceFrame.trans (by rw [← hs1]; exact ⟨rfl, rfl, rfl, rfl, rfl⟩) (outOfService_frame hj1)
  have hret : (getChan (outOfService s1 ch) ch).retired = true := by
    obtain ⟨slu, ht, -⟩ := outOfService_idle hj1
    rw [ht]
    show (getChan (setChan s1 ch _) ch).retired = true
    rw [getChan_setChan, hc1]
    rfl
  have hother : ∀ i, i ≠ ch → getChan (outOfService s1 ch) i = getChan s i := by
    intro i hi
    rw [(outOfService_other hj1 hi).1, ← hs1]
    exact getChan_setChan_ne s hi _
  have hout := outOfService_out hj1
  obtain ⟨hchan3, hslu3, hframe3⟩ := unplacePartner_frame (outOfService s1 ch) (gangMaster s ch) (ch + 1)
  generalize hs3 : unplacePartner (outOfService s1 ch) (gangMaster s ch) (ch + 1) = s3 at hchan3 hslu3 hframe3
  unfold unplacePartner at hs3
  rw [hs3]
  have hf := hframe.trans hframe3
  have hch : ch ≠ ch + 1 := by omega
  obtain ⟨cfg, hcfg⟩ := excludeRegs_cfg s3 ((if gangMaster s ch = true then [ch, ch + 1] else [ch]).flatMap chanRegs)
  rw [hcfg]
  obtain ⟨fl, hlog, hfl⟩ := recordRetire_room (s := { s3 with cfg := cfg }) clsChannel ch cause (by rw [← hr]; exact congrArg _ hf.flt)
    (by rw [show ({ s3 with cfg := cfg } : State).fl = s.fl from hf.fl]; exact hl)
  have hlf : ∀ i, getChan (recordRetire { s3 with cfg := cfg } clsChannel ch cause) i = getChan s3 i :=
    fun i => congrArg (fun l : Lf => smGet l.chans i Chan.reset) hlog.lf
  refine ⟨?_, ⟨?_, ?_⟩, ?_, fun i hi hi' => ?_, hlog.flt.trans hf.flt⟩
  · rw [hlf, hchan3 ch hch]; exact hret
  · rw [hlf, hchan3 ch hch]; exact hout.place
  · rw [hlog.slu]
    show (laneSlot s3.slu.a ch).st = _
    rw [hslu3]; exact hout.slot
  · rw [hlog.fl, hfl]
    simp only [nextEntry, hf.fl, hf.clk, hf.ldg]
    rfl
  · rw [hlf, hchan3 i hi', hother i hi]

theorem retireLink_spec {s : State} {b : Nat} (hr : s.flt.restarting = false) (hl : s.fl.retLog.length < bankEntries)
    (hj : ∀ i, bankOf i = b → (getChan s i).jobs = []) (hn : (getBank s b).linkRetired = false) :
    let t := retireLink s b
    (getBank t b).linkRetired = true ∧ (∀ i, i < 96 → bankOf i = b → OutOfService t i) ∧
      (∀ i, bankOf i ≠ b → getChan t i = getChan s i) ∧ t.fl.retLog = s.fl.retLog ++ [nextEntry s 5 b 0] := by
  unfold retireLink
  simp only [hn, Bool.false_eq_true, if_false]
  generalize hs1 : setBank s b { getBank s b with linkRetired := true } = s1
  generalize hcs : (allChans.filter fun c => decide (bankOf c = b)) = l
  have hmem : ∀ i, i ∈ l ↔ i < 96 ∧ bankOf i = b := by intro i; simp [← hcs, allChans]
  have hchan : ∀ i, getChan s1 i = getChan s i := fun i => by rw [← hs1]; rfl
  obtain ⟨hin, -, hother, hframe⟩ := foldl_outOfService (s := s1) (l := l) fun c hc => by
    rw [hchan]; exact hj c ((hmem c).1 hc).2
  have h1 : ({ s1 with lf := s.lf } : State) = s := by rw [← hs1]; rfl
  have hfl1 : s1.fl = s.fl := by rw [← hs1]; rfl
  have hflt1 : s1.flt = s.flt := by rw [← hs1]; rfl
  obtain ⟨fl, hlog, hfl⟩ := recordRetire_room (s := l.foldl outOfService s1) clsLink b 0
    (by rw [hframe.flt, hflt1]; exact hr) (by rw [hframe.fl, hfl1]; exact hl)
  have hlf : ∀ i, getChan (recordRetire (l.foldl outOfService s1) clsLink b 0) i = getChan (l.foldl outOfService s1) i :=
    fun i => congrArg (fun l : Lf => smGet l.chans i Chan.reset) hlog.lf
  refine ⟨?_, fun i hi hb => ⟨?_, ?_⟩, fun i hi => ?_, ?_⟩
  · have hbank : (recordRetire (l.foldl outOfService s1) clsLink b 0).lf.banks = s1.lf.banks := by
      rw [hlog.lf]; exact hframe.banks
    show (smGet (recordRetire (l.foldl outOfService s1) clsLink b 0).lf.banks b Bank.reset).linkRetired = true
    rw [hbank, ← hs1]
    show (getBank (setBank s b _) b).linkRetired = true
    rw [getBank_setBank]
  · rw [hlf]; exact (hin i ((hmem i).2 ⟨hi, hb⟩)).place
  · rw [hlog.slu]; exact (hin i ((hmem i).2 ⟨hi, hb⟩)).slot
  · rw [hlf, hother i fun hm => hi ((hmem i).1 hm).2, hchan]
  · rw [hlog.fl, hfl, hframe.fl, hfl1]
    simp only [nextEntry, hframe.clk, hframe.ldg, hframe.fl, hfl1]
    rw [← hs1]
    rfl

theorem cutAct_idle {s : State} (h : s.rad.cur = none) : ∃ rad, cutAct s = { s with rad := rad } ∧ rad.win = s.rad.win := by
  simp only [cutAct, endAct, h, dropReq]
  exact ⟨_, rfl, rfl⟩

/-- A radio at rest has nothing to end. -/
theorem radioOut_idle {s : State} (hc : s.ring.cmds = []) (hcur : s.rad.cur = none) (hw : s.rad.waiting = [])
    (hl : s.rad.loc = none) (hwin : s.rad.win = none) : ∃ rad, radioOut s = { s with rad := rad } := by
  have hloc : locateOut s = s := by simp [locateOut, hc]
  have hfin : ∀ st, locFinish s st = s := fun st => by simp [locFinish, hl]
  obtain ⟨rad, hrad, hsame⟩ := cutAct_idle (s := { s with rad := { s.rad with waiting := [] } }) hcur
  have hnone : rad.win = none := hsame.trans hwin
  unfold radioOut
  simp only [hloc, hfin, hrad]
  simp only [hw, hcur, Option.toList_none, List.append_nil, List.foldl_nil, hnone]
  exact ⟨rad, rfl⟩

theorem retireUnit_radio {s : State} (cause : Byte) (h : s.rad.retired = false) : retireUnit s (6, 0, cause) = retireRadio s 0 := by
  simp [retireUnit, clsChannel, clsPolder, clsLink, clsRadio, h]

theorem retireRadio_spec {s : State} (hr : s.flt.restarting = false) (hlen : s.fl.retLog.length < bankEntries)
    (hc : s.ring.cmds = []) (hcur : s.rad.cur = none) (hw : s.rad.waiting = []) (hl : s.rad.loc = none) (hwin : s.rad.win = none) :
    (retireRadio s 0).rad.retired = true ∧ (retireRadio s 0).fl.retLog = s.fl.retLog ++ [nextEntry s 6 0 0] := by
  obtain ⟨rad, hout⟩ := radioOut_idle hc hcur hw hl hwin
  unfold retireRadio
  simp only [hout]
  obtain ⟨cfg, hcfg⟩ := excludeRegs_cfg { s with rad := { rad with retired := true, lock := false } } radRegs
  rw [hcfg]
  obtain ⟨fl, hlog, hfl⟩ := recordRetire_room
    (s := { s with rad := { rad with retired := true, lock := false }, cfg := cfg }) clsRadio 0 0 hr hlen
  exact ⟨by rw [hlog.rad], by rw [hlog.fl, hfl]; rfl⟩

/-! ### Compaction of a full bank (R421) -/

/-- The entries kept: those that retire and that no later entry of their unit follows. -/
def keptEntries : List RetEntry → List RetEntry
  | [] => []
  | e :: l => if e.reinstated || l.any (fun x => x.cls == e.cls && x.idx == e.idx) then keptEntries l else e :: keptEntries l

/-- A list under consecutive ESEQ numbers from `n` on. -/
def renumbered (n : Nat) (l : List RetEntry) : List RetEntry :=
  (l.zip (List.range l.length)).map fun p => { p.1 with eseq := n + p.2 }

/-- The number that the next entry gets. -/
def nextEseq (l : List RetEntry) : Nat := (l.getLast?.map (·.eseq + 1)).getD 0

/-- What a compaction keeps of the entry at a place. -/
def keptAt (l : List RetEntry) (i : Nat) : Option RetEntry :=
  match l[i]? with
  | some e => if e.reinstated || (l.drop (i + 1)).any (fun x => x.cls == e.cls && x.idx == e.idx) then none else some e
  | none => none

theorem keptAt_cons_comp_succ (e : RetEntry) (l : List RetEntry) : keptAt (e :: l) ∘ Nat.succ = keptAt l := by
  funext i
  simp [keptAt]

theorem filterMap_keptAt (l : List RetEntry) : (List.range l.length).filterMap (keptAt l) = keptEntries l := by
  induction l with
  | nil => rfl
  | cons e l ih =>
    rw [List.length_cons, List.range_succ_eq_map, List.filterMap_cons, List.filterMap_map, keptAt_cons_comp_succ, ih, keptEntries]
    cases h : (e.reinstated || l.any fun x => x.cls == e.cls && x.idx == e.idx) <;> simp [keptAt, h]

theorem swapTable_full {s : State} (h : bankEntries ≤ s.fl.retLog.length) :
    ∃ fl, swapTable s = { s with fl := fl } ∧ fl.retLog = renumbered (nextEseq s.fl.retLog) (keptEntries s.fl.retLog) ∧
      fl.retBank = 1 - s.fl.retBank ∧
      fl = { s.fl with retLog := fl.retLog, retBank := fl.retBank, dbgBytes := fl.dbgBytes, weak := fl.weak, bad := fl.bad } := by
  have hkeep := congrArg (renumbered (nextEseq s.fl.retLog)) (filterMap_keptAt s.fl.retLog)
  unfold swapTable
  rw [if_neg (Nat.not_lt.2 h)]
  exact ⟨_, rfl, hkeep, rfl, rfl⟩

theorem mem_keptEntries {l : List RetEntry} {e : RetEntry} (h : e ∈ keptEntries l) : e ∈ l ∧ e.reinstated = false := by
  induction l with
  | nil => cases h
  | cons a l ih =>
    unfold keptEntries at h
    split at h
    next => exact ⟨List.mem_cons_of_mem _ (ih h).1, (ih h).2⟩
    next hk =>
      rcases List.mem_cons.1 h with rfl | h
      · refine ⟨List.mem_cons_self, ?_⟩
        simp only [Bool.or_eq_true, not_or, Bool.not_eq_true] at hk
        exact hk.1
      · exact ⟨List.mem_cons_of_mem _ (ih h).1, (ih h).2⟩

theorem keptEntries_units (l : List RetEntry) : (keptEntries l).Pairwise fun a b => ¬ (a.cls = b.cls ∧ a.idx = b.idx) := by
  induction l with
  | nil => exact .nil
  | cons a l ih =>
    unfold keptEntries
    split
    next => exact ih
    next hk =>
      refine List.pairwise_cons.2 ⟨fun b hb hab => hk ?_, ih⟩
      have hany : l.any (fun x => x.cls == a.cls && x.idx == a.idx) = true :=
        List.any_eq_true.2 ⟨b, (mem_keptEntries hb).1, by simp [hab.1, hab.2]⟩
      simp [hany]

/-- Of a unit's entries the last is kept where it retires, and none where it reinstates. -/
theorem getLast?_keptEntries (l : List RetEntry) (cls idx : Nat) :
    ((keptEntries l).filter fun e => e.cls == cls && e.idx == idx).getLast? =
      (l.filter fun e => e.cls == cls && e.idx == idx).getLast?.filter fun e => !e.reinstated := by
  induction l with
  | nil => rfl
  | cons a l ih =>
    unfold keptEntries
    cases ha : (a.cls == cls && a.idx == idx) with
    | false =>
      rw [List.filter_cons_of_neg (by simp [ha])]
      split
      · exact ih
      · rw [List.filter_cons_of_neg (by simp [ha])]
        exact ih
    | true =>
      have hunit : (fun x : RetEntry => x.cls == a.cls && x.idx == a.idx) = fun x => x.cls == cls && x.idx == idx := by
        simp only [Bool.and_eq_true, beq_iff_eq] at ha
        simp [ha.1, ha.2]
      rw [List.filter_cons_of_pos (by simp [ha]), hunit, List.getLast?_cons]
      cases hl : (l.filter fun e => e.cls == cls && e.idx == idx) with
      | nil =>
        have hany : (l.any fun x => x.cls == cls && x.idx == idx) = false := by
          simpa using List.filter_eq_nil_iff.1 hl
        rw [hl] at ih
        have hnone := List.getLast?_eq_none_iff.1 (ih.trans rfl)
        cases hre : a.reinstated <;> simp [hany, hre, ha, hnone, Option.filter]
      | cons b m =>
        have hany : (l.any fun x => x.cls == cls && x.idx == idx) = true := by
          have hb : b ∈ l.filter fun e => e.cls == cls && e.idx == idx := hl ▸ List.mem_cons_self
          exact List.any_eq_true.2 ⟨b, List.mem_of_mem_filter hb, (List.mem_filter.1 hb).2⟩
        rw [hl] at ih
        simp only [hany, Bool.or_true, if_true, ih]
        rw [List.getLast?_eq_some_getLast (List.cons_ne_nil b m)]
        rfl

theorem length_zip_range (l : List RetEntry) : l.length ≤ (List.range l.length).length := by simp

theorem mem_renumbered {n : Nat} {l : List RetEntry} {e : RetEntry} (h : e ∈ renumbered n l) :
    ∃ x ∈ l, e = { x with eseq := e.eseq } := by
  obtain ⟨p, hp, rfl⟩ := List.mem_map.1 h
  exact ⟨p.1, (List.of_mem_zip (a := p.1) (b := p.2) hp).1, rfl⟩

theorem length_renumbered (n : Nat) (l : List RetEntry) : (renumbered n l).length = l.length := by simp [renumbered]

theorem map_eseq_renumbered (n : Nat) (l : List RetEntry) :
    (renumbered n l).map (·.eseq) = (List.range (renumbered n l).length).map fun i => n + i := by
  have hsnd := List.map_snd_zip (l₁ := l) (l₂ := List.range l.length) (by simp)
  rw [length_renumbered]
  conv_rhs => rw [← hsnd]
  simp [renumbered]

/-- Renumbering keeps what a predicate of class, index and kind finds last. -/
theorem getLast?_renumbered (n : Nat) (l : List RetEntry) (cls idx : Nat) :
    ((renumbered n l).filter fun e => e.cls == cls && e.idx == idx).getLast?.map (·.reinstated) =
      (l.filter fun e => e.cls == cls && e.idx == idx).getLast?.map (·.reinstated) := by
  have hfst := List.map_fst_zip (l₁ := l) (l₂ := List.range l.length) (by simp)
  conv_rhs => rw [← hfst]
  simp [renumbered, List.filter_map, Function.comp_def]

theorem renumbered_units {n : Nat} {l : List RetEntry} (h : l.Pairwise fun a b => ¬ (a.cls = b.cls ∧ a.idx = b.idx)) :
    (renumbered n l).Pairwise fun a b => ¬ (a.cls = b.cls ∧ a.idx = b.idx) := by
  have hfst := List.map_fst_zip (l₁ := l) (l₂ := List.range l.length) (by simp)
  rw [← hfst, List.pairwise_map] at h
  exact List.pairwise_map.2 h

theorem tableRetired_eq_map (s : State) (cls idx : Nat) : tableRetired s cls idx =
    (((s.fl.retLog.filter fun e => e.cls == cls && e.idx == idx).getLast?.map (·.reinstated)).map (!·)).getD false := by
  unfold tableRetired
  split <;> simp [*]

/-- The compacted bank says of every unit what the full one said. -/
theorem tableRetired_compacted {s t : State} {n : Nat} (h : t.fl.retLog = renumbered n (keptEntries s.fl.retLog)) (cls idx : Nat) :
    tableRetired t cls idx = tableRetired s cls idx := by
  rw [tableRetired_eq_map, tableRetired_eq_map, h, getLast?_renumbered, getLast?_keptEntries]
  cases (s.fl.retLog.filter fun e => e.cls == cls && e.idx == idx).getLast? with
  | none => rfl
  | some e => cases he : e.reinstated <;> simp [Option.filter, he]

/-! ### The statement -/

theorem exec_channelRetirement (s : State) (ch : Fin 96) :
    exec (.channelRetirement ch) s = .next (retireDueWhere s fun c i => c == 1 && i == masterOf s ch.val) := rfl

theorem exec_bankLinkRetirement (s : State) (b : Fin 4) :
    exec (.bankLinkRetirement b) s = .next (retireDueWhere s fun c i => c == 5 && i == b.val) := rfl

theorem exec_radioRetirement (s : State) : exec .radioRetirement s = .next (retireDueWhere s fun c i => c == 6 && i == 0) := rfl

/-- Settles O28: a retirement that is due is carried out on its unit, and the table's bank is compacted where it is full. -/
theorem retirementsTakeEffect : Obligations.RetirementsTakeEffect := by
  unfold Obligations.RetirementsTakeEffect
  refine ⟨fun s ch b cause hr hlen => ⟨fun hdue hj hn => ?_, fun hdue hj hn => ?_, fun hdue hn hcmds hcur hw hl hwin => ?_,
    fun hdue => ?_, fun hdue => ?_, fun hdue => ?_⟩, fun s => ⟨fun hfull => ?_, fun hroom => ?_⟩⟩
  · rw [exec_channelRetirement, retireDueWhere_one (p := fun c i => c == 1 && i == masterOf s ch.val) hdue]
    obtain ⟨h1, h2, h3, h4, h5⟩ := retireChannel_spec (cause := cause) (s := { s with flt := { s.flt with
      retireDue := s.flt.retireDue.filter fun r => !(r.1 == 1 && r.2.1 == masterOf s ch.val) } }) hr hlen hj hn
    exact ⟨_, rfl, h1, h2.place, h2.slot, h3, h4, congrArg Faults.retireDue h5⟩
  · rw [exec_bankLinkRetirement, retireDueWhere_one (p := fun c i => c == 5 && i == b.val) hdue]
    obtain ⟨h1, h2, h3, h4⟩ := retireLink_spec (s := { s with flt := { s.flt with
      retireDue := s.flt.retireDue.filter fun r => !(r.1 == 5 && r.2.1 == b.val) } }) hr hlen hj hn
    exact ⟨_, rfl, h1, fun i hi hb => ⟨(h2 i hi hb).place, (h2 i hi hb).slot⟩, h3, h4⟩
  · rw [exec_radioRetirement, retireDueWhere_one (p := fun c i => c == 6 && i == 0) hdue]
    obtain ⟨h1, h2⟩ := retireRadio_spec (s := { s with flt := { s.flt with
      retireDue := s.flt.retireDue.filter fun r => !(r.1 == 6 && r.2.1 == 0) } }) hr hlen hcmds hcur hw hl hwin
    exact ⟨_, congrArg _ (retireUnit_radio cause hn), h1, h2⟩
  · rw [exec_channelRetirement, retireDueWhere_none (p := fun c i => c == 1 && i == masterOf s ch.val) hdue]
  · rw [exec_bankLinkRetirement, retireDueWhere_none (p := fun c i => c == 5 && i == b.val) hdue]
  · rw [exec_radioRetirement, retireDueWhere_none (p := fun c i => c == 6 && i == 0) hdue]
  · obtain ⟨fl, ht, hlog, hbank, hfl⟩ := swapTable_full hfull
    refine ⟨{ s with fl := fl }, congrArg _ ht, tableRetired_compacted hlog, fun e he => ?_, ?_, ?_, hbank, ?_⟩
    · obtain ⟨x, hx, hex⟩ := mem_renumbered (hlog ▸ he)
      obtain ⟨hmem, hre⟩ := mem_keptEntries hx
      exact ⟨by rw [hex]; exact hre, x, hmem, hex⟩
    · show fl.retLog.map _ = _
      rw [hlog]
      exact map_eseq_renumbered _ _
    · show fl.retLog.Pairwise _
      rw [hlog]
      exact renumbered_units (keptEntries_units _)
    · exact congrArg (fun f => { s with fl := f }) hfl
  · exact congrArg _ (swapTable_room hroom)

end Sys2Proof.Machine
end

section
/-! Settles the statement about failover, rebalancing and idle moves (R43, R48 to R50, R416) and what it rests on: what gives a
channel its place, and what leaves the places of the others alone. -/

namespace Sys2Proof.Machine

open Sys2Proof

/-! ### The generator draws on its own state -/

/-- `t` is `s` but for the rings and the entropy block. -/
def EntropyOnly (s t : State) : Prop := ∃ r e, t = { s with ring := r, ent := e }

namespace EntropyOnly

theorem refl (s : State) : EntropyOnly s s := ⟨s.ring, s.ent, rfl⟩
theorem of_ent (s : State) (e : Entropy) : EntropyOnly s { s with ent := e } := ⟨s.ring, e, rfl⟩

theorem trans {s t u : State} (h : EntropyOnly s t) (k : EntropyOnly t u) : EntropyOnly s u := by
  obtain ⟨r, e, rfl⟩ := h
  obtain ⟨r', e', rfl⟩ := k
  exact ⟨r', e', rfl⟩

theorem lf {s t : State} (h : EntropyOnly s t) : t.lf = s.lf := by obtain ⟨r, e, rfl⟩ := h; rfl
theorem cfg {s t : State} (h : EntropyOnly s t) : t.cfg = s.cfg := by obtain ⟨r, e, rfl⟩ := h; rfl

end EntropyOnly

theorem RingOnly.entropyOnly {s t : State} (h : RingOnly s t) : EntropyOnly s t := by
  obtain ⟨r, rfl⟩ := h
  exact ⟨r, s.ent, rfl⟩

theorem postEntFail_ringOnly (s : State) (n : Nat) : RingOnly s (postEntFail s n) := postEvent_ringOnly _ _ _ _

theorem drbgReseed_entropyOnly (s : State) : EntropyOnly s (drbgReseed s) := by
  unfold drbgReseed
  dsimp only
  split
  · exact (EntropyOnly.of_ent s _).trans (postEntFail_ringOnly _ _).entropyOnly
  · exact .of_ent s _

theorem drbgLimits_entropyOnly (s : State) : EntropyOnly s (drbgLimits s) := by
  unfold drbgLimits
  split_ifs
  · exact drbgReseed_entropyOnly s
  · exact (EntropyOnly.of_ent s _).trans (postEntFail_ringOnly _ _).entropyOnly
  · exact .refl s
  · exact drbgReseed_entropyOnly s
  · exact .refl s

theorem drbgDraw_entropyOnly {s : State} {n : Nat} {d : List Nat × State} (h : drbgDraw s n = some d) : EntropyOnly s d.2 := by
  unfold drbgDraw at h
  dsimp only at h
  split at h
  · cases h
    exact (drbgLimits_entropyOnly s).trans (.of_ent _ _)
  · cases h

/-! ### What leaves the places alone -/

/-- A job that makes its retired channel count as active (R98). -/
def reinstates (j : Job) : Bool := match j.kind with
  | .cal _ _ r => r
  | _ => false

theorem reinstating_eq (s : State) (n : Nat) : reinstating s n = (getChan s (masterOf s n)).jobs.any reinstates := rfl

/-- What the placement asks of a channel: its place, the one it waits for, its epoch, and whether it is retired. -/
structure SameSeat (c d : Chan) : Prop where
  place : d.place = c.place
  moveTo : d.moveTo = c.moveTo
  epoch : d.epoch = c.epoch
  retired : d.retired = c.retired

theorem SameSeat.refl (c : Chan) : SameSeat c c := ⟨rfl, rfl, rfl, rfl⟩

/-- From `s` to `t` every channel keeps its place, and the channels for which `P` holds keep their jobs; polders, spare, banks
and registers are the same. -/
structure SeatFrame (P : Nat → Prop) (s t : State) : Prop where
  seat : ∀ i, SameSeat (getChan s i) (getChan t i)
  jobs : ∀ i, P i → (getChan t i).jobs = (getChan s i).jobs
  pols : t.lf.pols = s.lf.pols
  spare : t.lf.spare = s.lf.spare
  banks : t.lf.banks = s.lf.banks
  vals : t.cfg.vals = s.cfg.vals

namespace SeatFrame
variable {P : Nat → Prop} {s t u : State}

theorem of_chans (hc : t.lf.chans = s.lf.chans) (hp : t.lf.pols = s.lf.pols) (hs : t.lf.spare = s.lf.spare)
    (hb : t.lf.banks = s.lf.banks) (hv : t.cfg.vals = s.cfg.vals) : SeatFrame P s t := by
  have hg : ∀ i, getChan t i = getChan s i := fun i => by simp only [getChan, hc]
  exact ⟨fun i => hg i ▸ .refl _, fun i _ => by rw [hg], hp, hs, hb, hv⟩

theorem of_lf (hl : t.lf = s.lf) (hv : t.cfg.vals = s.cfg.vals) : SeatFrame P s t :=
  of_chans (by rw [hl]) (by rw [hl]) (by rw [hl]) (by rw [hl]) hv

theorem mono {Q : Nat → Prop} (h : SeatFrame P s t) (hq : ∀ i, Q i → P i) : SeatFrame Q s t :=
  ⟨h.seat, fun i hi => h.jobs i (hq i hi), h.pols, h.spare, h.banks, h.vals⟩

theorem refl (s : State) : SeatFrame P s s := of_lf rfl rfl

theorem trans (h : SeatFrame P s t) (k : SeatFrame P t u) : SeatFrame P s u where
  seat i := ⟨(k.seat i).place.trans (h.seat i).place, (k.seat i).moveTo.trans (h.seat i).moveTo,
    (k.seat i).epoch.trans (h.seat i).epoch, (k.seat i).retired.trans (h.seat i).retired⟩
  jobs i hi := (k.jobs i hi).trans (h.jobs i hi)
  pols := k.pols.trans h.pols
  spare := k.spare.trans h.spare
  banks := k.banks.trans h.banks
  vals := k.vals.trans h.vals

theorem foldl {α : Type} {f : State → α → State} (hf : ∀ s a, SeatFrame P s (f s a)) (l : List α) (s : State) :
    SeatFrame P s (l.foldl f s) := by
  induction l generalizing s with
  | nil => exact refl s
  | cons a l ih => exact (hf s a).trans (ih (f s a))

theorem of_logOnly (h : LogOnly s t) : SeatFrame P s t := of_lf h.lf (congrArg _ h.cfg)
theorem of_ringOnly (h : RingOnly s t) : SeatFrame P s t := of_logOnly h.logOnly
theorem of_entropyOnly (h : EntropyOnly s t) : SeatFrame P s t := of_lf h.lf (congrArg _ h.cfg)

/-- A change of one channel that keeps its place, and its jobs where they count. -/
theorem setChan {ch : Nat} {c : Chan} (h : SameSeat (getChan s ch) c) (hj : P ch → c.jobs = (getChan s ch).jobs) : SeatFrame P s (setChan s ch c) where
  seat i := by
    by_cases hi : i = ch
    · subst hi
      rw [getChan_setChan]
      exact h
    · rw [getChan_setChan_ne s hi]
      exact .refl _
  jobs i hp := by
    by_cases hi : i = ch
    · subst hi
      rw [getChan_setChan]
      exact hj hp
    · rw [getChan_setChan_ne s hi]
  pols := rfl
  spare := rfl
  banks := rfl
  vals := rfl

end SeatFrame

/-! ### What the registers say of pairs -/

section
variable {s t : State} (h : t.cfg.vals = s.cfg.vals)
include h

theorem reg_of_vals (r : RReg) : reg t r = reg s r := by simp only [reg, h]
theorem regB_of_vals (r : RReg) (i : Nat) : regB t r i = regB s r i := by simp only [regB, reg_of_vals h]
theorem gangSlave_of_vals (n : Nat) : gangSlave t n = gangSlave s n := by simp only [gangSlave, gangBit, regB_of_vals h]
theorem gangMaster_of_vals (n : Nat) : gangMaster t n = gangMaster s n := by simp only [gangMaster, gangBit, regB_of_vals h]
theorem masterOf_of_vals (n : Nat) : masterOf t n = masterOf s n := by simp only [masterOf, gangSlave_of_vals h]
theorem chanEn_of_vals (n : Nat) : chanEn t n = chanEn s n := by simp only [chanEn, masterOf_of_vals h, regB_of_vals h]
theorem heads_of_vals : heads t = heads s := by simp only [heads, gangSlave_of_vals h]

end

theorem masterOf_head {s : State} {c : Nat} (h : gangSlave s c = false) : masterOf s c = c := by simp [masterOf, h]

/-- The odd half of a ganged pair. -/
theorem gangSlave_succ {s : State} {c : Nat} (h : gangMaster s c = true) : gangSlave s (c + 1) = true := by
  simp only [gangMaster, Bool.and_eq_true, decide_eq_true_eq] at h
  simp only [gangSlave, Nat.add_sub_cancel, h.2, Bool.and_true, decide_eq_true_eq]
  omega

theorem gangSlave_masterOf (s : State) (c : Nat) : gangSlave s (masterOf s c) = false := by
  unfold masterOf
  split
  next h =>
    simp only [gangSlave, Bool.and_eq_true, decide_eq_true_eq] at h
    simp only [gangSlave, Bool.and_eq_false_iff, decide_eq_false_iff_not]
    omega
  next h => simpa using h

/-! ### A channel takes a place (R50) -/

/-- The epoch of a channel that takes a place: one higher where the polder changes. -/
def epochAt (c : Chan) (pl : Place) : BitVec 16 := match c.place with
  | some old => if old.pol = pl.pol then c.epoch else c.epoch + 1
  | none => c.epoch

/-- A channel that has taken a place. -/
def seatedAt (c : Chan) (pl : Place) : Chan := { c with place := some pl, moveTo := settleMove c pl, epoch := epochAt c pl }

/-- What a change of channels leaves of the rest. -/
structure PolFrame (s t : State) : Prop where
  pols : t.lf.pols = s.lf.pols
  spare : t.lf.spare = s.lf.spare
  banks : t.lf.banks = s.lf.banks
  vals : t.cfg.vals = s.cfg.vals

theorem PolFrame.refl (s : State) : PolFrame s s := ⟨rfl, rfl, rfl, rfl⟩

theorem PolFrame.trans {s t u : State} (h : PolFrame s t) (k : PolFrame t u) : PolFrame s u :=
  ⟨k.pols.trans h.pols, k.spare.trans h.spare, k.banks.trans h.banks, k.vals.trans h.vals⟩

theorem SeatFrame.polFrame {P : Nat → Prop} {s t : State} (h : SeatFrame P s t) : PolFrame s t := ⟨h.pols, h.spare, h.banks, h.vals⟩

theorem setPlace_polFrame (s : State) (ch : Nat) (pl : Place) : PolFrame s (setPlace s ch pl) := by
  unfold setPlace
  dsimp only
  split
  · exact ⟨rfl, rfl, rfl, rfl⟩
  · split <;> exact ⟨rfl, rfl, rfl, rfl⟩

theorem getChan_setPlace (s : State) (ch : Nat) (pl : Place) : getChan (setPlace s ch pl) ch = seatedAt (getChan s ch) pl := by
  unfold setPlace seatedAt epochAt
  dsimp only
  split
  next hp => simp only [getChan_setChan, hp]
  next old hp =>
    split
    next he => simp only [getChan_setChan, hp, he, if_true]
    next he =>
      simp only [hp, he, if_false]
      exact getChan_setChan _ _ _

theorem getChan_setPlace_ne (s : State) {i ch : Nat} (pl : Place) (h : i ≠ ch) : getChan (setPlace s ch pl) i = getChan s i := by
  unfold setPlace
  dsimp only
  split
  · exact getChan_setChan_ne s h _
  · split <;> exact getChan_setChan_ne s h _

theorem moveChan_polFrame (s : State) (ch : Nat) (pl : Place) : PolFrame s (moveChan s ch pl) := by
  unfold moveChan
  split
  · exact (setPlace_polFrame _ _ _).trans (setPlace_polFrame _ _ _)
  · exact setPlace_polFrame _ _ _

theorem getChan_moveChan (s : State) (ch : Nat) (pl : Place) : getChan (moveChan s ch pl) ch = seatedAt (getChan s ch) pl := by
  unfold moveChan
  split
  · rw [getChan_setPlace_ne _ _ (Nat.ne_of_lt ch.lt_succ_self), getChan_setPlace]
  · exact getChan_setPlace _ _ _

theorem getChan_moveChan_ne (s : State) {i ch : Nat} (pl : Place) (h : i ≠ ch) (h' : i ≠ ch + 1) :
    getChan (moveChan s ch pl) i = getChan s i := by
  unfold moveChan
  split
  · rw [getChan_setPlace_ne _ _ h', getChan_setPlace_ne _ _ h]
  · exact getChan_setPlace_ne _ _ h

/-- A move touches no channel that stands for itself but the one moved. -/
theorem getChan_moveChan_head (s : State) {i ch : Nat} (pl : Place) (h : i ≠ ch) (hi : gangSlave s i = false) :
    getChan (moveChan s ch pl) i = getChan s i := by
  unfold moveChan
  split
  next hg =>
    have hi' : i ≠ ch + 1 := fun e => by rw [e, gangSlave_succ hg] at hi; cases hi
    rw [getChan_setPlace_ne _ _ hi', getChan_setPlace_ne _ _ h]
  next => exact getChan_setPlace_ne _ _ h

/-! ### Moves that go on in quiet segments (R51) -/

theorem setHead_seatFrame (s : State) (ch : Nat) (j : Job) : SeatFrame (fun _ => False) s (setHead s ch j) :=
  SeatFrame.setChan ⟨rfl, rfl, rfl, rfl⟩ False.elim

theorem askNonce_seatFrame (s : State) (ch : Nat) (j : Job) : SeatFrame (fun _ => False) s (askNonce s ch j) := by
  unfold askNonce
  dsimp only
  split
  · exact setHead_seatFrame _ _ _
  · split
    next d hd =>
      obtain ⟨-, hdraw⟩ := Option.ite_none_right_eq_some.1 hd
      exact (SeatFrame.of_entropyOnly (drbgDraw_entropyOnly hdraw)).trans (setHead_seatFrame _ _ _)
    next =>
      exact (SeatFrame.of_entropyOnly ((drbgLimits_entropyOnly s).trans (.of_ent _ _))).trans (setHead_seatFrame _ _ _)

theorem quietCoil_seatFrame (s : State) (c late : Nat) : SeatFrame (fun _ => False) s (quietCoil s c late) := by
  unfold quietCoil
  split
  · exact .refl s
  · dsimp only
    split
    · exact askNonce_seatFrame _ _ _
    · exact setHead_seatFrame _ _ _
    · exact setHead_seatFrame _ _ _
    · exact .refl s

theorem quietJob_seatFrame (s : State) (ch : Nat) : SeatFrame (fun _ => False) s (quietJob s ch) := by
  unfold quietJob
  split
  · exact .refl s
  · dsimp only
    split
    · exact .foldl (fun s c => quietCoil_seatFrame s c _) _ _
    · exact .refl s

theorem quietMoved_seatFrame (s : State) (chs : List Nat) : SeatFrame (fun _ => False) s (quietMoved s chs) := by
  refine .foldl (fun s c => ?_) _ _
  split
  · exact quietJob_seatFrame _ _
  · exact .refl s

/-! ### The events of the moves (R54) -/

theorem postMoves_ringOnly (s : State) : RingOnly { s with lf := { s.lf with moved := [] } } (postMoves s) := by
  refine .foldl (fun s a => .foldl (fun s b => ?_) _ _) _ _
  dsimp only
  split
  · exact .refl s
  · exact postEvent_ringOnly _ _ _ _

/-- Where no channel has moved there is nothing to post. -/
theorem postMoves_none {s : State} (h : s.lf.moved = []) : postMoves s = s := by
  have hs : ({ s with lf := { s.lf with moved := [] } } : State) = s := by rw [← h]
  unfold postMoves
  simp only [h, List.filter_nil, List.length_nil, if_true, List.foldl_fixed]
  exact hs

theorem getChan_postMoves (s : State) (i : Nat) : getChan (postMoves s) i = getChan s i := by
  simp only [getChan, (postMoves_ringOnly s).logOnly.lf]

theorem getPol_postMoves (s : State) (p : Nat) : getPol (postMoves s) p = getPol s p := by
  simp only [getPol, (postMoves_ringOnly s).logOnly.lf]

/-! ### A group of channels moves (R50) -/

/-- Each of the heads goes to polder `q`, with its pass and position. -/
def moveTo (s : State) (q : Nat) (l : List Nat) : State :=
  l.foldl (fun s c => match (getChan s c).place with
    | some pl => moveChan s c { pl with pol := q }
    | none => s) s

theorem moveTo_polFrame (s : State) (q : Nat) (l : List Nat) : PolFrame s (moveTo s q l) := by
  unfold moveTo
  induction l generalizing s with
  | nil => exact .refl s
  | cons c l ih =>
    refine PolFrame.trans ?_ (ih _)
    dsimp only
    split
    · exact moveChan_polFrame _ _ _
    · exact .refl s

theorem getChan_moveTo_of_not_mem {s : State} {q i : Nat} {l : List Nat} (hi : i ∉ l) (hs : gangSlave s i = false) :
    getChan (moveTo s q l) i = getChan s i := by
  unfold moveTo
  induction l generalizing s with
  | nil => rfl
  | cons c l ih =>
    obtain ⟨hic, hil⟩ := not_or.1 (mt List.mem_cons.2 hi)
    rw [List.foldl_cons]
    split
    · rw [ih hil ((gangSlave_of_vals (moveChan_polFrame _ _ _).vals i).trans hs), getChan_moveChan_head _ _ hic hs]
    · exact ih hil hs

theorem getChan_moveTo_of_mem {s : State} {q c : Nat} {l : List Nat} (hn : l.Nodup) (hc : c ∈ l) (hs : gangSlave s c = false)
    {pl : Place} (hp : (getChan s c).place = some pl) :
    getChan (moveTo s q l) c = seatedAt (getChan s c) { pl with pol := q } := by
  unfold moveTo
  induction l generalizing s with
  | nil => cases hc
  | cons a l ih =>
    obtain ⟨ha, hl⟩ := List.nodup_cons.1 hn
    rw [List.foldl_cons]
    rcases List.mem_cons.1 hc with rfl | hc
    · simp only [hp]
      have hrest := getChan_moveTo_of_not_mem (s := moveChan s c { pl with pol := q }) (q := q) ha
        ((gangSlave_of_vals (moveChan_polFrame _ _ _).vals c).trans hs)
      exact hrest.trans (getChan_moveChan _ _ _)
    · have hne : c ≠ a := fun e => ha (e ▸ hc)
      split
      next pa hpa =>
        have hsame := getChan_moveChan_head s { pa with pol := q } hne hs
        rw [ih hl hc ((gangSlave_of_vals (moveChan_polFrame _ _ _).vals c).trans hs) (by rw [hsame]; exact hp), hsame]
      next => exact ih hl hc hs hp

theorem mem_polHeads {s : State} {p c : Nat} : c ∈ polHeads s p ↔ c < 96 ∧ gangSlave s c = false ∧ chanPol s c = some p := by
  simp only [polHeads, heads, allChans, List.mem_filter, List.mem_range, Bool.not_eq_true', decide_eq_true_eq, and_assoc]

theorem nodup_polHeads (s : State) (p : Nat) : (polHeads s p).Nodup :=
  (List.nodup_range.filter _).filter _

/-! ### The failover (R43, R416) -/

/-- What a channel keeps while only the place it waits for changes. -/
structure SamePlace (c d : Chan) : Prop where
  place : d.place = c.place
  epoch : d.epoch = c.epoch

/-- Renaming the polder that channels wait for moves none of them. -/
theorem redirect_places (f : State → Nat → State) (l : List Nat)
    (hf : ∀ s c, (∀ i, SamePlace (getChan s i) (getChan (f s c) i)) ∧ PolFrame s (f s c)) (s : State) :
    (∀ i, SamePlace (getChan s i) (getChan (l.foldl f s) i)) ∧ PolFrame s (l.foldl f s) := by
  induction l generalizing s with
  | nil => exact ⟨fun _ => ⟨rfl, rfl⟩, .refl s⟩
  | cons c l ih =>
    obtain ⟨h1, h2⟩ := hf s c
    obtain ⟨k1, k2⟩ := ih (f s c)
    exact ⟨fun i => ⟨(k1 i).place.trans (h1 i).place, (k1 i).epoch.trans (h1 i).epoch⟩, h2.trans k2⟩

theorem modChan_moveTo_places (s : State) (c : Nat) (m : Option Place) :
    (∀ i, SamePlace (getChan s i) (getChan (modChan s c fun x => { x with moveTo := m }) i)) ∧
      PolFrame s (modChan s c fun x => { x with moveTo := m }) := by
  refine ⟨fun i => ?_, rfl, rfl, rfl, rfl⟩
  unfold modChan
  by_cases hi : i = c
  · subst hi
    rw [getChan_setChan]
    exact ⟨rfl, rfl⟩
  · rw [getChan_setChan_ne s hi]
    exact ⟨rfl, rfl⟩

theorem moveGroup_spec (s : State) (p q : Nat) :
    PolFrame s (moveGroup s p q) ∧
      ∀ i, SamePlace (getChan (moveTo s q (polHeads s p)) i) (getChan (moveGroup s p q) i) := by
  have hq := quietMoved_seatFrame (moveTo s q (polHeads s p)) (polHeads s p)
  have hlast : ∀ z : State, ∀ c : Nat, (∀ i, SamePlace (getChan z i) (getChan (match (getChan z c).moveTo with
      | some pl => if pl.pol = p then modChan z c fun x => { x with moveTo := some { pl with pol := q } } else z
      | none => z) i)) ∧ PolFrame z (match (getChan z c).moveTo with
      | some pl => if pl.pol = p then modChan z c fun x => { x with moveTo := some { pl with pol := q } } else z
      | none => z) := by
    intro z c
    split
    · split
      · exact modChan_moveTo_places _ _ _
      · exact ⟨fun _ => ⟨rfl, rfl⟩, .refl z⟩
    · exact ⟨fun _ => ⟨rfl, rfl⟩, .refl z⟩
  obtain ⟨h1, h2⟩ := redirect_places _ allChans hlast (quietMoved (moveTo s q (polHeads s p)) (polHeads s p))
  exact ⟨((moveTo_polFrame s q _).trans hq.polFrame).trans h2, fun i =>
    ⟨(h1 i).place.trans (hq.seat i).place, (h1 i).epoch.trans (hq.seat i).epoch⟩⟩

theorem handRadio_rad (s : State) (p : Nat) : ∃ rad, handRadio s p = { s with rad := rad } := by
  unfold handRadio
  split
  · exact ⟨s.rad, rfl⟩
  · exact ⟨_, rfl⟩

/-- Where a spare without a fault stands by, a polder with channels hands them to it. -/
theorem evacuate_spare {s : State} {p q : Nat} (hs : s.lf.spare = some q) (hne : q ≠ p) (hf : (getPol s q).failoverDue = false)
    (hh : (polHeads s p).isEmpty = false) : evacuate s p = moveGroup (spareRuns s q) p q := by
  have hnot : s.lf.spare ≠ some p := by simp [hs, hne]
  have hready : spareReady s p = some q := by simp [spareReady, hs, hne, hf]
  simp only [evacuate, hnot, hh, hready, Bool.false_eq_true, if_false]

/-- A polder whose failover is due, as it leaves service. -/
def leavesService (s : State) (p : Nat) : State := modPol s p fun y => { y with failoverDue := false, st := .faulted }

theorem failover_spec {s : State} {p q : Nat} (hdue : (getPol s p).failoverDue = true) (hst : (getPol s p).st ≠ .starting)
    (hs : s.lf.spare = some q) (hne : q ≠ p) (hf : (getPol s q).failoverDue = false) (hh : (polHeads s p).isEmpty = false) :
    let t := failover s p
    (getPol t p).st = .faulted ∧ (getPol t p).failoverDue = false ∧ (getPol t p).fcnt = min 15 ((getPol s p).fcnt + 1) ∧
      (getPol t q).st = .running ∧ t.lf.spare = none ∧
      (∀ c, c < 96 → gangSlave s c = false → ∀ pl, (getChan s c).place = some pl → pl.pol = p →
        SamePlace (seatedAt (getChan s c) { pl with pol := q }) (getChan t c)) ∧
      ∀ c, gangSlave s c = false → chanPol s c ≠ some p → SamePlace (getChan s c) (getChan t c) := by
  have hq0 : getPol (leavesService s p) q = getPol s q := getPol_setPol_ne s hne _
  have hev := evacuate_spare (s := leavesService s p) (p := p) hs hne (hq0 ▸ hf) hh
  unfold failover
  simp only [hdue, if_true, if_neg hst]
  rw [show modPol s p (fun y => { y with failoverDue := false, st := .faulted }) = leavesService s p from rfl, hev]
  generalize hz : spareRuns (leavesService s p) q = z
  obtain ⟨hpol, hplaces⟩ := moveGroup_spec z p q
  generalize moveGroup z p q = g at hpol hplaces ⊢
  obtain ⟨rad, hrad⟩ := handRadio_rad g p
  rw [hrad]
  have hzp : getPol z p = { getPol s p with failoverDue := false, st := .faulted } := by
    rw [← hz]
    have hspare : getPol (spareRuns (leavesService s p) q) p = getPol (leavesService s p) p := getPol_setPol_ne _ (Ne.symm hne) _
    exact hspare.trans (getPol_setPol s p _)
  have hzq : (getPol z q).st = .running := by
    rw [← hz]
    exact congrArg Polder.st (getPol_setPol _ q _)
  have hg : ∀ x, getPol { g with rad := rad } x = getPol z x := fun x => by
    show smGet g.lf.pols x Polder.reset = _
    rw [hpol.pols]
    rfl
  have hzc : ∀ i, getChan z i = getChan s i := fun i => by rw [← hz]; rfl
  have hzs : ∀ i, gangSlave z i = gangSlave s i := fun i => by rw [← hz]; rfl
  have hzpol : ∀ i, chanPol z i = chanPol s i := fun i => by rw [chanPol, hzc]; rfl
  refine ⟨?_, ?_, ?_, ?_, ?_, fun c hc hs pl hpl hp => ?_, fun c hs hp => ?_⟩
  · simp only [modPol, getPol_setPol, hg, hzp]
  · simp only [modPol, getPol_setPol, hg, hzp]
  · simp only [modPol, getPol_setPol, hg, hzp]
  · rw [modPol, getPol_setPol_ne _ hne, hg, hzq]
  · show g.lf.spare = none
    rw [hpol.spare, ← hz]
    rfl
  · have hmem : c ∈ polHeads z p := mem_polHeads.2 ⟨hc, (hzs c).trans hs, by rw [hzpol, chanPol, hpl]; exact congrArg some hp⟩
    have hmoved := getChan_moveTo_of_mem (q := q) (nodup_polHeads z p) hmem ((hzs c).trans hs) (by rw [hzc]; exact hpl)
    rw [hzc] at hmoved
    exact hmoved ▸ hplaces c
  · have hnot : c ∉ polHeads z p := fun hm => hp (by rw [← hzpol]; exact (mem_polHeads.1 hm).2.2)
    have hkept := getChan_moveTo_of_not_mem (q := q) hnot ((hzs c).trans hs)
    rw [hzc] at hkept
    exact hkept ▸ hplaces c

/-- The channel that stands for `i` keeps its place, and counts as active where it did. -/
structure KeepsHead (i : Nat) (s t : State) : Prop where
  seat : SameSeat (getChan s i) (getChan t i)
  calib : (getChan t i).jobs.any reinstates = (getChan s i).jobs.any reinstates
  frame : PolFrame s t

theorem KeepsHead.refl (i : Nat) (s : State) : KeepsHead i s s := ⟨.refl _, rfl, .refl s⟩

theorem KeepsHead.trans {i : Nat} {s t u : State} (h : KeepsHead i s t) (k : KeepsHead i t u) : KeepsHead i s u where
  seat := ⟨k.seat.place.trans h.seat.place, k.seat.moveTo.trans h.seat.moveTo, k.seat.epoch.trans h.seat.epoch,
    k.seat.retired.trans h.seat.retired⟩
  calib := k.calib.trans h.calib
  frame := h.frame.trans k.frame

theorem SeatFrame.keepsHead {P : Nat → Prop} {s t : State} (h : SeatFrame P s t) {i : Nat} (hi : P i) : KeepsHead i s t :=
  ⟨h.seat i, by rw [h.jobs i hi], h.polFrame⟩

theorem chanActive_of_keeps {s t : State} {c : Nat} (hf : PolFrame s t) (hr : (getChan t c).retired = (getChan s c).retired)
    (hj : (getChan t c).jobs.any reinstates = (getChan s c).jobs.any reinstates) (hc : gangSlave s c = false) :
    chanActive t c = chanActive s c := by
  have hm : masterOf t c = c := (masterOf_of_vals hf.vals c).trans (masterOf_head hc)
  have hret : chanRetired t c = chanRetired s c := by
    simp only [chanRetired, hm, masterOf_head hc, hr, linkRetired, getBank, hf.banks]
  simp only [chanActive, chanEn_of_vals hf.vals, hret, reinstating_eq, hm, masterOf_head hc, hj]

/-! ### A transaction ends: no place changes (R43, R94) -/

theorem drawFree_seatFrame (P : Nat → Prop) (s : State) : SeatFrame P s (drawFree s).2 := .of_lf rfl rfl

theorem freeMeas_seatFrame (P : Nat → Prop) (s : State) : SeatFrame P s (freeMeas s).2 := .of_lf rfl rfl

theorem trackCarrier_seatFrame (P : Nat → Prop) (s : State) (ch w : Nat) : SeatFrame P s (trackCarrier s ch w) := by
  unfold trackCarrier
  split
  · exact .refl s
  · exact .setChan ⟨rfl, rfl, rfl, rfl⟩ fun _ => rfl

theorem measureEnd_seatFrame (P : Nat → Prop) (s : State) (ch : Nat) (j : Job) : SeatFrame P s (measureEnd s ch j) := by
  unfold measureEnd
  split
  · exact .refl s
  · have hx : SeatFrame P s (match j.meas with
        | some m => (m, s)
        | none => freeMeas s).2 := by
      split
      · exact .refl s
      · exact freeMeas_seatFrame P s
    have hmod : ∀ (z : State) (m : Meas), SeatFrame P z (modChan z ch fun c =>
        { c with zre := m.zre, zim := m.zim, ipk := m.ipk, theta := m.theta }) :=
      fun z m => .setChan ⟨rfl, rfl, rfl, rfl⟩ fun _ => rfl
    dsimp only
    split
    · exact (hx.trans (hmod _ _)).trans (trackCarrier_seatFrame P _ _ _)
    · exact hx.trans (hmod _ _)

/-- A conditional keeps what both of its branches keep. -/
theorem SeatFrame.ite {P : Nat → Prop} {s t u : State} {c : Prop} [Decidable c] (h : SeatFrame P s t) (k : SeatFrame P s u) :
    SeatFrame P s (if c then t else u) := by
  split
  · exact h
  · exact k

theorem closeTx_seatFrame (P : Nat → Prop) (s : State) (ch : Nat) (j : Job) (st : Status) (clean : Bool) :
    SeatFrame P s (closeTx s ch j st clean) := by
  have hresv : ∀ z : State, SeatFrame P z (match j.resv with
      | some r => { z with lf := { z.lf with ended := z.lf.ended ++ [(z.clk.beat, r)] } }
      | none => z) := by
    intro z
    split
    · exact .of_chans rfl rfl rfl rfl rfl
    · exact .refl z
  have hdrop : ∀ z : State, SeatFrame P z (dropWait z (.chan ch)) := fun z => .of_lf rfl rfl
  have hmod : ∀ (z : State) (f : Chan → Chan), (∀ c, SameSeat c (f c)) → (∀ c, (f c).jobs = c.jobs) → SeatFrame P z (modChan z ch f) :=
    fun z f hs hj => .setChan (hs _) fun _ => hj _
  have hbase := ((measureEnd_seatFrame P s ch j).trans (hresv _)).trans (hdrop _)
  have hdue : ∀ z flt, SeatFrame P s z → SeatFrame P s { z with flt := flt } := fun z flt h => h.trans (.of_lf rfl rfl)
  have hbatch : ∀ z u i p, SeatFrame P s z → SeatFrame P s (stageBatch z u i p ch st) :=
    fun z u i p h => h.trans (.of_logOnly (stageBatch_logOnly _ _ _ _ _ _))
  unfold closeTx
  refine .ite (hbatch _ _ _ _ (.ite (hdue _ _ ?_) ?_)) (.ite (hdue _ _ ?_) ?_) <;>
    exact hbase.trans (hmod _ _ (fun c => ⟨rfl, rfl, rfl, rfl⟩) fun c => rfl)

/-- A change of one channel's jobs, which count for the others only. -/
theorem modChan_jobs_seatFrame (s : State) (ch : Nat) (f : Chan → Chan) (h : ∀ c, SameSeat c (f c)) :
    SeatFrame (· ≠ ch) s (modChan s ch f) := .setChan (h _) fun h => absurd rfl h

theorem popHead_seatFrame (s : State) (ch : Nat) : SeatFrame (· ≠ ch) s (popHead s ch) :=
  SeatFrame.trans (t := dropWait s (.chan ch)) (.of_lf rfl rfl)
    (modChan_jobs_seatFrame _ ch _ fun _ => ⟨rfl, rfl, rfl, rfl⟩)

theorem getChan_popHead_jobs (s : State) (ch : Nat) : (getChan (popHead s ch) ch).jobs = (getChan s ch).jobs.drop 1 :=
  congrArg Chan.jobs (getChan_setChan _ _ _)

theorem addRec_ringOnly (s : State) (u : Nat) (r : Rec) : RingOnly s (addRec s u r) := by
  unfold addRec
  split
  · exact putCmd_ringOnly _ _
  · exact .refl s

theorem authCmdStep_ringOnly (s : State) (u : Nat) : RingOnly s (authCmdStep s u) := by
  unfold authCmdStep
  split
  · exact .refl s
  · dsimp only
    split
    · exact finishNow_ringOnly _ _ _ _ _
    · exact putCmd_ringOnly _ _

theorem noteStep_ringOnly (s : State) (j : Job) : RingOnly s (noteStep s j) := by
  unfold noteStep
  split
  · exact putCmd_ringOnly _ _
  · exact .refl s

theorem calCmdStep_seatFrame (P : Nat → Prop) (s : State) (u : Nat) : SeatFrame P s (calCmdStep s u) := by
  unfold calCmdStep
  split
  · exact .refl s
  · dsimp only
    split
    · refine SeatFrame.trans ?_ (.of_ringOnly (finishNow_ringOnly _ _ _ _ _))
      split_ifs
      · exact (SeatFrame.of_ringOnly (postProgress_ringOnly _ _ _ _ _ _)).trans (.of_chans rfl rfl rfl rfl rfl)
      · exact .of_chans rfl rfl rfl rfl rfl
      · exact .refl s
    · exact .of_ringOnly (putCmd_ringOnly _ _)

theorem enrolFail_seatFrame (P : Nat → Prop) (s : State) (c : Cmd) (st : Status) (r : Nat) : SeatFrame P s (enrolFail s c st r) := by
  have hstop : SeatFrame P s (enrolStop s c.uid) := by
    unfold enrolStop
    split
    · exact .of_lf rfl rfl
    · exact .refl s
  unfold enrolFail
  dsimp only
  refine SeatFrame.trans ?_ (.of_ringOnly (finishNow_ringOnly _ _ _ _ _))
  split
  · exact hstop.trans (.of_lf rfl rfl)
  · exact hstop

theorem stageLife_logOnly (s : State) (event old new b23 : Nat) (tail : List Byte) : LogOnly s (stageLife s event old new b23 tail) := by
  unfold stageLife
  dsimp only
  split
  · exact (stageSoon_logOnly _ _ _ _).trans (postEvent_ringOnly _ _ _ _).logOnly
  · exact stageSoon_logOnly _ _ _ _

theorem unlockRefuse_logOnly (s : State) (c : Cmd) (n r : Nat) : LogOnly s (unlockRefuse s c n r) :=
  (stageLife_logOnly _ _ _ _ _ _).trans (finishNow_ringOnly _ _ _ _ _).logOnly

theorem setLcy_seatFrame (P : Nat → Prop) (s : State) (l : Life) : SeatFrame P s { s with lcy := l } := .of_lf rfl rfl

theorem unlockAuthFailed_seatFrame (P : Nat → Prop) (s : State) (c : Cmd) (st : Status) : SeatFrame P s (unlockAuthFailed s c st) :=
  (setLcy_seatFrame P s _).trans (.of_logOnly (unlockRefuse_logOnly _ _ _ _))

theorem countAuth_seatFrame (P : Nat → Prop) (s : State) (n : Nat) : SeatFrame P s { s with lf := { s.lf with authOk := n } } :=
  .of_chans rfl rfl rfl rfl rfl

theorem setSlu_seatFrame (P : Nat → Prop) (s : State) (x : Slus) : SeatFrame P s { s with slu := x } := .of_lf rfl rfl

theorem validateJob_seatFrame (P : Nat → Prop) (s : State) (ch : Nat) (j : Job) (i : Nat) : SeatFrame P s (validateJob s ch j i) :=
  .ite (.refl s) (setSlu_seatFrame P s _)

theorem clearLoc_seatFrame (P : Nat → Prop) (s : State) (b : Bool) :
    SeatFrame P s (if b then { s with rad := { s.rad with loc := none } } else s) :=
  .ite (.of_lf rfl rfl) (.refl s)

theorem recordAuth_seatFrame (P : Nat → Prop) (s : State) (u : Nat) (r : Rec) : SeatFrame P s (authCmdStep (addRec s u r) u) :=
  .of_ringOnly ((addRec_ringOnly _ _ _).trans (authCmdStep_ringOnly _ _))

theorem recordCal_seatFrame (P : Nat → Prop) (s : State) (u : Nat) (r : Rec) : SeatFrame P s (calCmdStep (addRec s u r) u) :=
  (SeatFrame.of_ringOnly (addRec_ringOnly _ _ _)).trans (calCmdStep_seatFrame P _ _)

/-- What the end of an AUTH does to slot, token and counter. -/
theorem authEnd_seatFrame (P : Nat → Prop) (s : State) (ch : Nat) (j : Job) (out : Status) (role0 ok : Prop) [Decidable role0]
    [Decidable ok] (n : Nat) :
    let s1 := if role0 then slotOutcome s ch out else if ok then validateJob s ch j j.reg else s
    SeatFrame P s (if ok then { s1 with lf := { s1.lf with authOk := n } } else s1) := by
  have h1 : SeatFrame P s (if role0 then slotOutcome s ch out else if ok then validateJob s ch j j.reg else s) :=
    .ite (setSlu_seatFrame P s _) (.ite (validateJob_seatFrame P _ _ _ _) (.refl s))
  exact .ite (h1.trans (countAuth_seatFrame P _ _)) h1

theorem finishJob_seatFrame (P : Nat → Prop) (s : State) (ch : Nat) (j : Job) (st : Status) (f : Facts) :
    SeatFrame P s (finishJob s ch j st f) := by
  have henrol : SeatFrame P s (match findCmd s j.uid with
      | none => s
      | some c => if st.isOk then s else enrolFail s c st (if j.reg < 4096 then j.reg else 0xFFFF)) := by
    split
    · exact .refl s
    · exact .ite (.refl s) (enrolFail_seatFrame P _ _ _ _)
  have hcal : ∀ (b : Prop) [Decidable b], SeatFrame P s (if b then (some (freeCal s).1, (freeCal s).2) else (none, s)).2 := by
    intro b _
    split
    · exact .of_lf rfl rfl
    · exact .refl s
  unfold finishJob
  split
  · exact (authEnd_seatFrame P s ch j _ _ _ _).trans (recordAuth_seatFrame P _ _ _)
  · exact (authEnd_seatFrame P s ch j _ _ _ _).trans (recordAuth_seatFrame P _ _ _)
  · exact (authEnd_seatFrame P s ch j _ _ _ _).trans (recordAuth_seatFrame P _ _ _)
  · exact (authEnd_seatFrame P s ch j _ _ _ _).trans (recordAuth_seatFrame P _ _ _)
  · exact henrol
  · exact henrol
  · have hn : SeatFrame P s (noteStep s j) := .of_ringOnly (noteStep_ringOnly s j)
    generalize noteStep s j = z at hn
    dsimp only
    split
    · exact hn
    · exact .ite (hn.trans (setLcy_seatFrame P _ _)) (hn.trans (unlockAuthFailed_seatFrame P _ _ _))
  · dsimp only
    exact (hcal _).trans (recordCal_seatFrame P _ _ _)
  · dsimp only
    have hl := clearLoc_seatFrame P s (match s.rad.loc with
      | some l => l.uid == j.uid
      | none => false)
    split
    · exact hl
    · exact hl.trans (.of_ringOnly (failCmd_ringOnly _ _ _))

/-- No place changes, and no channel but `ch` loses a reinstating calibration. -/
structure EndFrame (ch : Nat) (s t : State) : Prop where
  seats : SeatFrame (fun _ => False) s t
  calib : ∀ i, i ≠ ch → (getChan t i).jobs.any reinstates = (getChan s i).jobs.any reinstates

theorem EndFrame.trans {ch : Nat} {s t u : State} (h : EndFrame ch s t) (k : EndFrame ch t u) : EndFrame ch s u :=
  ⟨h.seats.trans k.seats, fun i hi => (k.calib i hi).trans (h.calib i hi)⟩

theorem SeatFrame.endFrame {ch : Nat} {s t : State} (h : SeatFrame (· ≠ ch) s t) : EndFrame ch s t :=
  ⟨h.mono fun _ => False.elim, fun i hi => by rw [h.jobs i hi]⟩

theorem EndFrame.refl (ch : Nat) (s : State) : EndFrame ch s s := SeatFrame.endFrame (.refl s)

theorem EndFrame.keepsHead {ch i : Nat} {s t : State} (h : EndFrame ch s t) (hi : i ≠ ch) : KeepsHead i s t :=
  ⟨h.seats.seat i, h.calib i hi, h.seats.polFrame⟩

/-- One coil of a LOCATE leaves its transaction. -/
def popLoc (st : Status) (clean : Bool) (s : State) (c : Nat) : State :=
  match headOf s c with
  | some x => popHead (closeTx s c x st clean) c
  | none => s

theorem popLoc_seatFrame (st : Status) (clean : Bool) (s : State) (c : Nat) : SeatFrame (· ≠ c) s (popLoc st clean s c) := by
  unfold popLoc
  split
  · exact (closeTx_seatFrame _ _ _ _ _ _).trans (popHead_seatFrame _ _)
  · exact .refl s

/-- The coils of a LOCATE lose no calibration: their first jobs are the LOCATE's. -/
theorem foldl_popLoc_endFrame (ch : Nat) (st : Status) (clean : Bool) {l : List Nat} {s : State} (hn : l.Nodup)
    (h : ∀ c ∈ l, ∀ x, headOf s c = some x → reinstates x = false) : EndFrame ch s (l.foldl (popLoc st clean) s) := by
  induction l generalizing s with
  | nil => exact .refl ch s
  | cons a l ih =>
    obtain ⟨ha, hl⟩ := List.nodup_cons.1 hn
    obtain ⟨hhead, hrest⟩ := List.forall_mem_cons.1 h
    have hstep := popLoc_seatFrame st clean s a
    have hcal : (getChan (popLoc st clean s a) a).jobs.any reinstates = (getChan s a).jobs.any reinstates := by
      unfold popLoc
      split
      next x hx =>
        have hkept := (closeTx_seatFrame (fun _ => True) s a x st clean).jobs a trivial
        have hfirst := hhead x hx
        rw [getChan_popHead_jobs, hkept]
        unfold headOf at hx
        cases hj : (getChan s a).jobs with
        | nil => rfl
        | cons y m =>
          rw [hj] at hx
          cases hx
          simp [hfirst]
      next => rfl
    have hfirst : EndFrame ch s (popLoc st clean s a) := by
      refine ⟨hstep.mono fun _ => False.elim, fun i _ => ?_⟩
      by_cases hi : i = a
      · rw [hi, hcal]
      · rw [hstep.jobs i hi]
    refine hfirst.trans (ih hl fun c hc x hx => hrest c hc x ?_)
    have hne : c ≠ a := fun e => ha (e ▸ hc)
    rw [← hx, headOf, headOf, hstep.jobs c hne]

theorem locCoils_head {s : State} {u c : Nat} (hc : c ∈ locCoils s u) {x : Job} (hx : headOf s c = some x) : reinstates x = false := by
  have hl := (List.mem_filter.1 hc).2
  rw [show (getChan s c).jobs.head? = some x from hx] at hl
  unfold reinstates
  cases hk : x.kind <;> simp [hk] at hl ⊢

theorem failTx_endFrame (s : State) (ch : Nat) (j : Job) (st : Status) (clean : Bool) (f : Facts) :
    EndFrame ch s (failTx s ch j st clean f) := by
  have hpop : SeatFrame (· ≠ ch) s (popHead (closeTx s ch j st clean) ch) :=
    (closeTx_seatFrame _ _ _ _ _ _).trans (popHead_seatFrame _ _)
  unfold failTx
  split
  next hk =>
    have hcoils : coils s ch j = locCoils s j.uid := by simp only [coils, hk]
    have hpops : EndFrame ch s ((coils s ch j).foldl (popLoc st clean) s) := by
      rw [hcoils]
      exact foldl_popLoc_endFrame ch st clean (List.nodup_range.filter _) fun c hc x hx => locCoils_head hc hx
    exact hpops.trans (finishJob_seatFrame _ _ _ _ _ _).endFrame
  · dsimp only
    split
    · exact (hpop.trans (.of_ringOnly ((addRec_ringOnly _ _ _).trans (authCmdStep_ringOnly _ _)))).endFrame
    · split
      · exact (hpop.trans (finishJob_seatFrame _ _ _ _ _ _)).endFrame
      · refine SeatFrame.endFrame (SeatFrame.trans (hpop.trans (.of_ringOnly (addRec_ringOnly _ _ _)))
          (modChan_jobs_seatFrame _ ch _ ?_))
        exact fun _ => ⟨rfl, rfl, rfl, rfl⟩
  · dsimp only
    have hfin := hpop.trans (finishJob_seatFrame (· ≠ ch) (popHead (closeTx s ch j st clean) ch) ch j st f)
    split
    · refine SeatFrame.endFrame (SeatFrame.trans hfin (modChan_jobs_seatFrame _ ch _ ?_))
      exact fun _ => ⟨rfl, rfl, rfl, rfl⟩
    · exact hfin.endFrame
  · exact (hpop.trans (finishJob_seatFrame _ _ _ _ _ _)).endFrame

theorem abortJobs_endFrame (k : Nat) (s : State) (ch : Nat) : EndFrame ch s (abortJobs k s ch) := by
  induction k generalizing s with
  | zero => exact .refl ch s
  | succ k ih =>
    unfold abortJobs
    split
    · split
      · exact (popHead_seatFrame s ch).endFrame.trans (ih _)
      · exact (failTx_endFrame _ _ _ _ _ _).trans (ih _)
    · exact .refl ch s

/-! ### One idle channel moves: the others stay (R49) -/

/-- A change of one channel leaves the others as they are. -/
theorem modChan_keepsHead {s : State} {i c : Nat} (f : Chan → Chan) (h : i ≠ c) : KeepsHead i s (modChan s c f) where
  seat := by
    unfold modChan
    rw [getChan_setChan_ne s h]
    exact .refl _
  calib := by
    unfold modChan
    rw [getChan_setChan_ne s h]
  frame := ⟨rfl, rfl, rfl, rfl⟩

theorem unassign_keepsHead {s : State} {i c : Nat} (h : i ≠ c) (hi : gangSlave s i = false) : KeepsHead i s (unassign s c) := by
  have habort : ∀ z, KeepsHead i z (abortAll z c) := fun z => (abortJobs_endFrame _ z c).keepsHead h
  unfold unassign
  dsimp only
  split
  next hg =>
    have h' : i ≠ c + 1 := fun e => by rw [e, gangSlave_succ hg] at hi; cases hi
    exact ((modChan_keepsHead _ h).trans (modChan_keepsHead _ h')).trans (habort _)
  next => exact (modChan_keepsHead _ h).trans (habort _)

theorem moveChan_keepsHead {s : State} {i c : Nat} (pl : Place) (h : i ≠ c) (hi : gangSlave s i = false) :
    KeepsHead i s (moveChan s c pl) := by
  have hsame := getChan_moveChan_head s pl h hi
  exact ⟨hsame ▸ .refl _, by rw [hsame], moveChan_polFrame _ _ _⟩

theorem moveOne_keepsHead {s : State} {i c : Nat} (h : i ≠ c) (hi : gangSlave s i = false) : KeepsHead i s (moveOne s c) := by
  unfold moveOne
  split
  · exact .refl i s
  · split_ifs
    · exact unassign_keepsHead h hi
    · exact moveChan_keepsHead _ h hi
    · exact moveChan_keepsHead _ h hi

/-! ### Rebalancing (R48, R49) -/

/-- The channel has the place, or waits for it. -/
def HasOrAwaits (s : State) (c : Nat) (pl : Place) : Prop :=
  ((getChan s c).place = some pl ∧ (getChan s c).moveTo = none) ∨ (getChan s c).moveTo = some pl

/-- A channel that counts in a placement: it stands for itself and is active, and the place is one of a polder's. -/
structure Placeable (s : State) (c : Nat) (pl : Place) : Prop where
  head : gangSlave s c = false
  active : chanActive s c = true
  pos : pl.pos < 24
  pol : pl.pol < 5

/-- Moving a channel, this or another, does not take from a channel the place it has or waits for. -/
theorem moveOne_hasOrAwaits {s : State} {c : Nat} {pl : Place} (k : Nat) (hp : Placeable s c pl) (h : HasOrAwaits s c pl) :
    HasOrAwaits (moveOne s k) c pl ∧ Placeable (moveOne s k) c pl := by
  by_cases hk : c = k
  · subst hk
    rcases h with ⟨hplace, hmove⟩ | hmove
    · have hid : moveOne s c = s := by simp only [moveOne, hmove]
      rw [hid]
      exact ⟨.inl ⟨hplace, hmove⟩, hp⟩
    · have hpol : pl.pol ≠ 7 := by have := hp.pol; omega
      have hid : moveOne s c = moveChan s c pl := by
        simp only [moveOne, hmove, hpol, if_false, hp.pos, hp.active, and_self, if_true]
      have hc := getChan_moveChan s c pl
      have hf := moveChan_polFrame s c pl
      rw [hid]
      refine ⟨.inl ?_, (gangSlave_of_vals hf.vals c).trans hp.head, ?_, hp.pos, hp.pol⟩
      · rw [hc]
        exact ⟨rfl, by simp [seatedAt, settleMove, hmove]⟩
      · rw [chanActive_of_keeps hf (by rw [hc]; rfl) (by rw [hc]; rfl) hp.head]
        exact hp.active
  · have hkeep := moveOne_keepsHead (c := k) hk hp.head
    refine ⟨?_, (gangSlave_of_vals hkeep.frame.vals c).trans hp.head, ?_, hp.pos, hp.pol⟩
    · simp only [HasOrAwaits, hkeep.seat.place, hkeep.seat.moveTo]
      exact h
    · rw [chanActive_of_keeps hkeep.frame hkeep.seat.retired hkeep.calib hp.head]
      exact hp.active

theorem foldl_moveOne_hasOrAwaits {s : State} {c : Nat} {pl : Place} (l : List Nat) (hp : Placeable s c pl)
    (h : HasOrAwaits s c pl) : HasOrAwaits (l.foldl moveOne s) c pl ∧ Placeable (l.foldl moveOne s) c pl := by
  induction l generalizing s with
  | nil => exact ⟨h, hp⟩
  | cons k l ih =>
    obtain ⟨h', hp'⟩ := moveOne_hasOrAwaits k hp h
    exact ih hp' h'

theorem moveIdle_hasOrAwaits {s : State} {c : Nat} {pl : Place} (only : List Nat) (hp : Placeable s c pl)
    (h : HasOrAwaits s c pl) : HasOrAwaits (moveIdle s only) c pl := by
  unfold moveIdle
  dsimp only
  obtain ⟨h1, hp1⟩ := foldl_moveOne_hasOrAwaits ((leavers s only).filter fun c => decide ((getChan s c).moveTo = some nowhere)) hp h
  obtain ⟨h2, hp2⟩ := foldl_moveOne_hasOrAwaits (movers _ _ _) hp1 h1
  exact (foldl_moveOne_hasOrAwaits _ hp2 h2).1

/-- Only the places that channels wait for differ. -/
structure RequestFrame (s t : State) : Prop where
  chan : ∀ i, ∃ m, getChan t i = { getChan s i with moveTo := m }
  frame : PolFrame s t

theorem RequestFrame.refl (s : State) : RequestFrame s s := ⟨fun i => ⟨(getChan s i).moveTo, rfl⟩, .refl s⟩

theorem RequestFrame.trans {s t u : State} (h : RequestFrame s t) (k : RequestFrame t u) : RequestFrame s u := by
  refine ⟨fun i => ?_, h.frame.trans k.frame⟩
  obtain ⟨m, hm⟩ := h.chan i
  obtain ⟨n, hn⟩ := k.chan i
  exact ⟨n, by rw [hn, hm]⟩

theorem modChan_request (s : State) (c : Nat) (m : Option Place) :
    RequestFrame s (modChan s c fun x => { x with moveTo := m }) := by
  refine ⟨fun i => ?_, rfl, rfl, rfl, rfl⟩
  unfold modChan
  by_cases hi : i = c
  · exact ⟨m, by rw [hi, getChan_setChan]⟩
  · exact ⟨_, by rw [getChan_setChan_ne s hi]⟩

/-- Asks a channel to take the place that a placement gives it. -/
def askSeat (s : State) (p : Nat × Place) : State :=
  if (getChan s p.1).place = some p.2 then modChan s p.1 fun c => { c with moveTo := none }
  else modChan s p.1 fun c => { c with moveTo := some p.2 }

theorem askSeat_request (s : State) (p : Nat × Place) : RequestFrame s (askSeat s p) := by
  unfold askSeat
  split <;> exact modChan_request _ _ _

theorem askSeat_hasOrAwaits (s : State) (p : Nat × Place) : HasOrAwaits (askSeat s p) p.1 p.2 := by
  unfold askSeat modChan
  split
  next hp => exact .inl (by rw [getChan_setChan]; exact ⟨hp, rfl⟩)
  next => exact .inr (by rw [getChan_setChan])

theorem getChan_askSeat_ne (s : State) {p : Nat × Place} {i : Nat} (h : i ≠ p.1) : getChan (askSeat s p) i = getChan s i := by
  unfold askSeat
  split <;> exact getChan_setChan_ne s h _

theorem getChan_foldl_askSeat {l : List (Nat × Place)} {i : Nat} (h : i ∉ l.map Prod.fst) (s : State) :
    getChan (l.foldl askSeat s) i = getChan s i := by
  induction l generalizing s with
  | nil => rfl
  | cons p l ih =>
    obtain ⟨hp, hl⟩ := not_or.1 (mt List.mem_cons.2 h)
    exact (ih hl _).trans (getChan_askSeat_ne s hp)

/-- Where each channel is listed once, each is left with its place or waiting for it. -/
theorem foldl_askSeat_hasOrAwaits {l : List (Nat × Place)} (hn : (l.map Prod.fst).Nodup) (s : State) :
    (∀ p ∈ l, HasOrAwaits (l.foldl askSeat s) p.1 p.2) ∧ RequestFrame s (l.foldl askSeat s) := by
  induction l generalizing s with
  | nil => exact ⟨by simp, .refl s⟩
  | cons p l ih =>
    obtain ⟨hp, hl⟩ := List.nodup_cons.1 hn
    obtain ⟨hin, hframe⟩ := ih hl (askSeat s p)
    refine ⟨List.forall_mem_cons.2 ⟨?_, hin⟩, (askSeat_request s p).trans hframe⟩
    rw [List.foldl_cons, HasOrAwaits, getChan_foldl_askSeat hp]
    exact askSeat_hasOrAwaits s p

/-- What a full placement lists so far: channels of the list in its order, on places of the polders. -/
structure PlacementOk (pols chs : List Nat) (out : List (Nat × Place)) : Prop where
  sub : (out.map Prod.fst).Sublist chs
  place : ∀ p ∈ out, p.2.pol ∈ pols ∧ p.2.pos < 24

theorem mem_placeOrder {pols : List Nat} {x : Nat × Nat} (h : x ∈ placeOrder pols) : x.1 ∈ pols := by
  obtain ⟨k, -, hk⟩ := List.mem_flatMap.1 h
  obtain ⟨p, hp, rfl⟩ := List.mem_map.1 hk
  exact hp

theorem width_pos (s : State) (c : Nat) : 1 ≤ width s c := by
  unfold width
  split <;> omega

/-- One channel more in a full placement. -/
def placeNext (s : State) (order : List (Nat × Nat)) (a : List (Nat × Place) × Nat × Nat) (c : Nat) : List (Nat × Place) × Nat × Nat :=
  let w := width s c
  let fits := decide (a.2.2 + w ≤ 24)
  let i := if fits then a.2.1 else a.2.1 + 1
  let n := if fits then a.2.2 else 0
  match order[i]? with
  | some x => (a.1 ++ [(c, ⟨x.1, x.2, n⟩)], i, n + w)
  | none => a

theorem placeNext_ok {s : State} {pols done : List Nat} {a : List (Nat × Place) × Nat × Nat} (c : Nat) (h : PlacementOk pols done a.1) :
    PlacementOk pols (done ++ [c]) (placeNext s (placeOrder pols) a c).1 := by
  unfold placeNext
  dsimp only
  split
  next x hx =>
    refine ⟨by simpa using h.sub.append (List.Sublist.refl [c]), fun p hp => ?_⟩
    rcases List.mem_append.1 hp with hp | hp
    · exact h.place p hp
    · rw [List.mem_singleton] at hp
      subst hp
      refine ⟨mem_placeOrder (List.mem_of_getElem? hx), ?_⟩
      have hw := width_pos s c
      dsimp only
      split
      next hfit => have := of_decide_eq_true hfit; omega
      next => omega
  next => exact ⟨h.sub.trans (List.sublist_append_left _ _), h.place⟩

theorem foldl_placeNext_ok {s : State} {pols done : List Nat} (l : List Nat) {a : List (Nat × Place) × Nat × Nat}
    (h : PlacementOk pols done a.1) : PlacementOk pols (done ++ l) (l.foldl (placeNext s (placeOrder pols)) a).1 := by
  induction l generalizing done a with
  | nil => simpa using h
  | cons c l ih =>
    have := ih (placeNext_ok (s := s) c h)
    simpa using this

theorem fullPlacement_ok (s : State) (pols : List Nat) :
    PlacementOk pols ((heads s).filter (chanActive s)) (fullPlacement s pols) := by
  have h := foldl_placeNext_ok (s := s) (pols := pols) (done := []) ((heads s).filter (chanActive s)) (a := ([], 0, 0))
    ⟨List.Sublist.refl _, by simp⟩
  rw [List.nil_append] at h
  exact h

theorem nodup_heads (s : State) : (heads s).Nodup := List.nodup_range.filter _

theorem clearWaits_request (l : List Nat) (s : State) :
    RequestFrame s (l.foldl (fun s c => if wantsSeat s c then modChan s c fun x => { x with moveTo := none } else s) s) := by
  induction l generalizing s with
  | nil => exact .refl s
  | cons c l ih =>
    rw [List.foldl_cons]
    refine RequestFrame.trans ?_ (ih _)
    split
    · exact modChan_request _ _ _
    · exact .refl s

/-- After the requests of a rebalance each channel of the full placement has its place or waits for it, and is still one that
can take it. -/
theorem rebalanceNow_hasOrAwaits {s : State} {x : Nat × Place} (hx : x ∈ fullPlacement s (runningPols s)) :
    HasOrAwaits (rebalanceNow s) x.1 x.2 ∧ Placeable (rebalanceNow s) x.1 x.2 := by
  obtain ⟨hsub, hplace⟩ := fullPlacement_ok s (runningPols s)
  have hnodup := hsub.nodup ((nodup_heads s).filter _)
  have hclear := clearWaits_request allChans s
  obtain ⟨hall, hask⟩ := foldl_askSeat_hasOrAwaits hnodup
    (allChans.foldl (fun s c => if wantsSeat s c then modChan s c fun x => { x with moveTo := none } else s) s)
  have hframe : RequestFrame s (rebalanceNow s) := hclear.trans hask
  obtain ⟨hhead, hact⟩ := List.mem_filter.1 (hsub.subset (List.mem_map_of_mem hx))
  have hslave : gangSlave s x.1 = false := by simpa [heads] using (List.mem_filter.1 hhead).2
  obtain ⟨m, hm⟩ := hframe.chan x.1
  obtain ⟨hpol, hpos⟩ := hplace x hx
  refine ⟨hall x hx, (gangSlave_of_vals hframe.frame.vals _).trans hslave, ?_, hpos, ?_⟩
  · exact (chanActive_of_keeps hframe.frame (by rw [hm]) (by rw [hm]) hslave).trans hact
  · have := (List.mem_filter.1 hpol).1
    simpa [polList] using this

theorem rebalanceStep_wanted {s : State} (h : rebalanceWanted s = true) :
    (rebalanceStep s).lf.rebalDue = false ∧ (rebalanceStep s).lf.rebalUid = none ∧
      ∀ i, getChan (rebalanceStep s) i = getChan (moveIdle (rebalanceNow s) (heads s)) i := by
  unfold rebalanceStep
  simp only [h, if_true]
  split
  next c hc =>
    have hlf := (finishNow_ringOnly { moveIdle (rebalanceNow s) (heads s) with
      lf := { (moveIdle (rebalanceNow s) (heads s)).lf with rebalDue := false, rebalUid := none } } c .ok 0 []).logOnly.lf
    exact ⟨by rw [hlf], by rw [hlf], fun i => by simp only [getChan, hlf]⟩
  next => exact ⟨rfl, rfl, fun _ => rfl⟩

/-! ### One channel that waits and is idle (R49) -/

theorem moveIdle_one {s : State} {c : Nat} {pl : Place} (hm : (getChan s c).moveTo = some pl) (hpos : pl.pos < 24)
    (hrun : (getPol s pl.pol).st = .running) (hpol : pl.pol < 5) (hact : chanActive s c = true) (hidle : chanIdle s c = true)
    (hmoved : movedNow s c = false) (hfits : seatFits s c pl [c] = true) (hhead : gangSlave s c = false) :
    moveIdle s [c] = moveChan s c pl := by
  have hleave : leavers s [c] = [c] := by simp [leavers, optB, hm, hidle, hhead, hmoved]
  have hnot : ¬ (getChan s c).moveTo = some nowhere := by
    rw [hm]
    intro e
    cases e
    exact absurd hpos (by decide)
  have hwants : wantsSeat s c = true := by simp [wantsSeat, hm, hpos]
  have hruns : targetRuns s c = true := by simp [targetRuns, hm, runningPols, polList, hpol, hrun]
  have hmovers : movers s 1 [c] = [c] := by simp [movers, hm, hfits]
  have hone : moveOne s c = moveChan s c pl := by
    have hpol7 : pl.pol ≠ 7 := by omega
    simp only [moveOne, hm, hpol7, if_false, hpos, hact, and_self, if_true]
  unfold moveIdle
  simp only [hleave, List.filter_cons, hnot, decide_false, Bool.false_eq_true, if_false, List.filter_nil, List.foldl_nil, hwants,
    hruns, Bool.and_self, if_true, List.length_singleton, hmovers, Bool.not_true, Bool.false_and, List.foldl_cons, hone]

theorem moveIdle_none {s : State} {c : Nat} (hm : (getChan s c).moveTo = none) : moveIdle s [c] = s := by
  have hleave : leavers s [c] = [] := by simp [leavers, optB, hm]
  simp only [moveIdle, hleave, List.filter_nil, List.foldl_nil, List.length_nil, movers]

/-! ### The statement -/

theorem exec_polderFailover (s : State) (p : Fin 5) :
    exec (.polderFailover p) s = .next (if atBoundary s then postMoves (failover s p.val) else s) := rfl

theorem exec_rebalance (s : State) : exec .rebalance s = .next (if atBoundary s then postMoves (rebalanceStep s) else s) := rfl

theorem exec_channelMoveWhenIdle (s : State) (ch : Fin 96) : exec (.channelMoveWhenIdle ch) s =
    .next (if atBoundary s && keeperUp s then postMoves (moveIdle s [masterOf s ch.val]) else s) := rfl

theorem lf_postMoves (s : State) : (postMoves s).lf = { s.lf with moved := [] } := (postMoves_ringOnly s).logOnly.lf

/-- Settles O30: the group's move at a failover, the requests of a rebalance, and the move of one idle channel. -/
theorem failoverAndMoves : Obligations.FailoverAndMoves := by
  unfold Obligations.FailoverAndMoves
  refine ⟨fun s p q => ⟨fun hat hdue hst hs hne hf hh => ?_, fun h => ?_⟩, fun s ch pl =>
    ⟨fun hat hw => ?_, fun hat => ?_, fun hat hw hk hmoved => ?_, fun hat hk hm hpos hrun hpol hact hidle hmoved hfits => ?_,
      fun hm hmoved => ?_⟩⟩
  · rw [exec_polderFailover, hat, if_pos rfl]
    obtain ⟨h1, h2, h3, h4, h5, h6, h7⟩ := failover_spec hdue hst hs hne hf hh
    refine ⟨_, rfl, ?_, ?_, ?_, ?_, ?_, fun c hc hslave x hx hxp => ?_, fun c hc hslave hpolc => ?_⟩
    · rw [getPol_postMoves, h1]
    · rw [getPol_postMoves, h2]
    · rw [getPol_postMoves, h3]
    · rw [getPol_postMoves, h4]
    · rw [lf_postMoves]; exact h5
    · obtain ⟨hplace, hepoch⟩ := h6 c hc hslave x hx hxp
      have hne' : ¬ x.pol = q := fun e => hne (e.symm.trans hxp)
      rw [getChan_postMoves, hplace, hepoch]
      exact ⟨rfl, by simp [seatedAt, epochAt, hx, hne']⟩
    · obtain ⟨hplace, hepoch⟩ := h7 c hslave hpolc
      rw [getChan_postMoves]
      exact ⟨hplace, hepoch⟩
  · rw [exec_polderFailover]
    rcases h with hat | ⟨hdue, hmoved⟩
    · rw [hat, if_neg Bool.false_ne_true]
    · have hid : failover s p.val = s := by simp [failover, hdue]
      rw [hid, postMoves_none hmoved, ite_self]
  · rw [exec_rebalance, hat, if_pos rfl]
    obtain ⟨h1, h2, h3⟩ := rebalanceStep_wanted hw
    refine ⟨_, rfl, by rw [lf_postMoves]; exact h1, by rw [lf_postMoves]; exact h2, fun x hx => ?_⟩
    obtain ⟨hhas, hp⟩ := rebalanceNow_hasOrAwaits hx
    rw [getChan_postMoves, h3]
    rcases moveIdle_hasOrAwaits (heads s) hp hhas with ⟨hplace, -⟩ | hwait
    · exact .inl hplace
    · exact .inr hwait
  · rw [exec_rebalance, hat, if_neg Bool.false_ne_true]
  · have hid : rebalanceStep s = { s with lf := { s.lf with rebalDue := false } } := by simp [rebalanceStep, hw, hk]
    rw [exec_rebalance, hat, if_pos rfl, hid]
    exact congrArg _ (postMoves_none hmoved)
  · rw [exec_channelMoveWhenIdle, hat, hk, Bool.and_self, if_pos rfl,
      moveIdle_one hm hpos hrun hpol hact hidle hmoved hfits (gangSlave_masterOf s _)]
    refine ⟨_, rfl, ?_, ?_, ?_, fun i hi hi' => ?_⟩
    · rw [getChan_postMoves, getChan_moveChan]; rfl
    · rw [getChan_postMoves, getChan_moveChan]; simp [seatedAt, settleMove, hm]
    · rw [getChan_postMoves, getChan_moveChan]; rfl
    · rw [getChan_postMoves, getChan_moveChan_ne _ _ hi hi']; exact ⟨rfl, rfl⟩
  · rw [exec_channelMoveWhenIdle, moveIdle_none hm, postMoves_none hmoved, ite_self]

end Sys2Proof.Machine
end

section
/-! Settles the statements about the levee (R88 to R90), about faults and restarts (R51, R94, R95) and about replies (R35, R113,
R147), and what they rest on: how an attempt starts, and what the end of a transaction leaves on its channel. -/

namespace Sys2Proof.Machine

open Sys2Proof

/-! ### The use of a node -/

/-- `t` is `s` but for the journal, the key tree, the engine and the key store. -/
def KeyUse (s t : State) : Prop := ∃ j p k c ks,
  t = { s with jrn := j, pwr := { s.pwr with startRecs := p }, key := k, cip := c, fl := { s.fl with keyStore := ks } }

namespace KeyUse

theorem refl (s : State) : KeyUse s s := ⟨s.jrn, s.pwr.startRecs, s.key, s.cip, s.fl.keyStore, rfl⟩

theorem trans {s t u : State} (h : KeyUse s t) (k : KeyUse t u) : KeyUse s u := by
  obtain ⟨j, p, k, c, ks, rfl⟩ := h
  obtain ⟨j', p', k', c', ks', rfl⟩ := k
  exact ⟨j', p', k', c', ks', rfl⟩

theorem ite {s t u : State} {c : Prop} [Decidable c] (h : KeyUse s t) (k : KeyUse s u) : KeyUse s (if c then t else u) := by
  split
  · exact h
  · exact k

theorem of_logOnly {s t : State} (h : LogOnly s t) (hr : t.ring = s.ring) : KeyUse s t := by
  obtain ⟨r, j, p, rfl⟩ := h
  have hr' : r = s.ring := hr
  subst hr'
  exact ⟨j, p, s.key, s.cip, s.fl.keyStore, rfl⟩

section
variable {s t : State} (h : KeyUse s t)
include h

theorem ring : t.ring = s.ring := by obtain ⟨j, p, k, c, ks, rfl⟩ := h; rfl
theorem clk : t.clk = s.clk := by obtain ⟨j, p, k, c, ks, rfl⟩ := h; rfl
theorem ldg : t.ldg = s.ldg := by obtain ⟨j, p, k, c, ks, rfl⟩ := h; rfl
theorem flt : t.flt = s.flt := by obtain ⟨j, p, k, c, ks, rfl⟩ := h; rfl

end

end KeyUse

theorem setKey_keyUse (s : State) (k : Keys) : KeyUse s { s with key := k } := ⟨s.jrn, s.pwr.startRecs, k, s.cip, s.fl.keyStore, rfl⟩
theorem setJrn_keyUse (s : State) (j : Journal) : KeyUse s { s with jrn := j } := ⟨j, s.pwr.startRecs, s.key, s.cip, s.fl.keyStore, rfl⟩
theorem addBlocks_keyUse (s : State) (n : Nat) : KeyUse s (addBlocks s n) := ⟨s.jrn, s.pwr.startRecs, s.key, _, s.fl.keyStore, rfl⟩
theorem setStore_keyUse (s : State) (ks : SMap Node) : KeyUse s { s with fl := { s.fl with keyStore := ks } } :=
  ⟨s.jrn, s.pwr.startRecs, s.key, s.cip, ks, rfl⟩

theorem stageRec_ring (s : State) (type source : Nat) (beat : BitVec 64) (pl : List Byte) (uid : Nat) :
    (stageRec s type source beat pl uid).ring = s.ring := by
  unfold stageRec
  dsimp only
  split <;> rfl

theorem stageSoon_ring (s : State) (type source : Nat) (fs : List (Nat × List Byte)) : (stageSoon s type source fs).ring = s.ring := by
  unfold stageSoon
  split_ifs
  · exact stageRec_ring _ _ _ _ _ _
  · rfl
  · rfl

/-- A node's life-cycle record is no event (R436). -/
theorem stageNode_keyUse (s : State) {event : Nat} (i : Nat) (old : NodeState) (h : 9 < event) : KeyUse s (stageNode s event i old) := by
  unfold stageNode stageLife
  rw [if_neg (Nat.not_le.2 h)]
  exact .of_logOnly (stageSoon_logOnly _ _ _ _) (stageSoon_ring _ _ _ _)

theorem raiseUses_keyUse (s : State) (i : Nat) : KeyUse s (raiseUses s i) := .ite (setKey_keyUse s _) (.refl s)

theorem noteUse_keyUse (s : State) (i : Nat) : KeyUse s (noteUse s i) :=
  .ite (setKey_keyUse s _) ((setKey_keyUse s _).trans (raiseUses_keyUse _ _))

/-- Where the plinth's next generation takes the place of K_tr (R251, R254). -/
theorem nextTr_keyUse (s : State) (k : Keys) (n : Node) (ks : SMap Node) :
    KeyUse s { setNode { s with key := k } 1 n with fl := { s.fl with keyStore := ks } } :=
  ((setKey_keyUse s k).trans (setKey_keyUse _ _)).trans (setStore_keyUse _ _)

theorem retireNode_keyUse (s : State) (i : Nat) : KeyUse s (retireNode s i) := by
  unfold retireNode
  have h2 : ∀ (ks : SMap Node) (n : Node) (k : Keys) (old : NodeState), KeyUse s
      (stageNode { setNode { s with fl := { s.fl with keyStore := ks } } i n with key := k } 12 i old) := fun ks n k old =>
    (((setStore_keyUse s ks).trans (setKey_keyUse _ _)).trans (setKey_keyUse _ k)).trans (stageNode_keyUse _ _ _ (by decide))
  refine .ite ((h2 _ _ _ _).trans (setJrn_keyUse _ _)) (.ite ?_ (h2 _ _ _ _))
  exact ((h2 _ _ _ _).trans (noteUse_keyUse _ _)).trans (nextTr_keyUse _ _ _ _)

theorem countUse_keyUse (s : State) (i : Nat) : KeyUse s (countUse s i) := by
  have h1 : ∀ n : Node, KeyUse s (setNode (addBlocks s (useBlocks i)) i n) := fun n =>
    (addBlocks_keyUse s _).trans (setKey_keyUse _ _)
  have h2 : ∀ (n : Node) (c : Prop) [Decidable c], KeyUse s (if c then setNode (addBlocks s (useBlocks i)) i n
      else raiseUses (setNode (addBlocks s (useBlocks i)) i n) i) := fun n c _ => .ite (h1 n) ((h1 n).trans (raiseUses_keyUse _ _))
  exact .ite ((h2 _ _).trans (retireNode_keyUse _ _)) (h2 _ _)

/-! ### Work on keys and registry leaves the channels alone -/

/-- `t` is `s` but for the rings, journal, key tree, engine, registry and flash. -/
def KeyWork (s t : State) : Prop := ∃ r j p k c tk fl,
  t = { s with ring := r, jrn := j, pwr := { s.pwr with startRecs := p }, key := k, cip := c, tok := tk, fl := fl }

namespace KeyWork

theorem refl (s : State) : KeyWork s s := ⟨s.ring, s.jrn, s.pwr.startRecs, s.key, s.cip, s.tok, s.fl, rfl⟩

theorem trans {s t u : State} (h : KeyWork s t) (k : KeyWork t u) : KeyWork s u := by
  obtain ⟨r, j, p, k, c, tk, fl, rfl⟩ := h
  obtain ⟨r', j', p', k', c', tk', fl', rfl⟩ := k
  exact ⟨r', j', p', k', c', tk', fl', rfl⟩

theorem of_logOnly {s t : State} (h : LogOnly s t) : KeyWork s t := by
  obtain ⟨r, j, p, rfl⟩ := h
  exact ⟨r, j, p, s.key, s.cip, s.tok, s.fl, rfl⟩

theorem of_keyUse {s t : State} (h : KeyUse s t) : KeyWork s t := by
  obtain ⟨j, p, k, c, ks, rfl⟩ := h
  exact ⟨s.ring, j, p, k, c, s.tok, _, rfl⟩

theorem ite {s t u : State} {c : Prop} [Decidable c] (h : KeyWork s t) (k : KeyWork s u) : KeyWork s (if c then t else u) := by
  split
  · exact h
  · exact k

section
variable {s t : State} (h : KeyWork s t)
include h

theorem lf : t.lf = s.lf := by obtain ⟨r, j, p, k, c, tk, fl, rfl⟩ := h; rfl
theorem clk : t.clk = s.clk := by obtain ⟨r, j, p, k, c, tk, fl, rfl⟩ := h; rfl
theorem slu : t.slu = s.slu := by obtain ⟨r, j, p, k, c, tk, fl, rfl⟩ := h; rfl
theorem getChan (i : Nat) : getChan t i = getChan s i := by simp only [Machine.getChan, h.lf]

end

end KeyWork

theorem setKey_keyWork (s : State) (k : Keys) : KeyWork s { s with key := k } := ⟨s.ring, s.jrn, s.pwr.startRecs, k, s.cip, s.tok, s.fl, rfl⟩
theorem setFl_keyWork (s : State) (f : Flash) : KeyWork s { s with fl := f } := ⟨s.ring, s.jrn, s.pwr.startRecs, s.key, s.cip, s.tok, f, rfl⟩
theorem setJrn_keyWork (s : State) (j : Journal) : KeyWork s { s with jrn := j } := ⟨s.ring, j, s.pwr.startRecs, s.key, s.cip, s.tok, s.fl, rfl⟩
theorem addBlocks_keyWork (s : State) (n : Nat) : KeyWork s (addBlocks s n) := ⟨s.ring, s.jrn, s.pwr.startRecs, s.key, _, s.tok, s.fl, rfl⟩
theorem setReg_keyWork (s : State) (i : Nat) (e : RegEntry) : KeyWork s (setReg s i e) :=
  ⟨s.ring, s.jrn, s.pwr.startRecs, s.key, s.cip, _, s.fl, rfl⟩

theorem countUse_keyWork (s : State) (i : Nat) : KeyWork s (countUse s i) := .of_keyUse (countUse_keyUse s i)

theorem storeReg_keyWork (s : State) (i : Nat) (e : RegEntry) : KeyWork s (storeReg s i e) :=
  (((setReg_keyWork s i _).trans (setFl_keyWork _ _)).trans (setFl_keyWork _ _)).trans (setFl_keyWork _ _)

theorem raiseSess_keyWork (s : State) (i : Nat) : KeyWork s (raiseSess s i) := .ite (storeReg_keyWork _ _ _) (.refl s)

theorem countSess_keyWork (s : State) (i : Nat) : KeyWork s (countSess s i) :=
  .ite ((setReg_keyWork s i _).trans (raiseSess_keyWork _ _)) (setReg_keyWork s i _)

theorem stageRegistry_keyWork (s : State) (a i src : Nat) : KeyWork s (stageRegistry s a i src) := .of_logOnly (stage_logOnly _ _ _ _)

theorem markExhausted_keyWork (s : State) (i src : Nat) : KeyWork s (markExhausted s i src) :=
  .ite (.refl s) ((storeReg_keyWork _ _ _).trans (stageRegistry_keyWork _ _ _ _))

theorem passAuth_keyWork (s : State) (ch : Nat) (j : Job) (pend : Bool) : KeyWork s (passAuth s ch j pend) := by
  have h1 : KeyWork s (activatePending s j.reg) := .ite (storeReg_keyWork _ _ _) (.refl s)
  have h2 : ∀ z src, KeyWork z (confirmRekey z j.reg src) := fun z src =>
    .ite (.refl z) ⟨z.ring, z.jrn, z.pwr.startRecs, z.key, z.cip, _, z.fl, rfl⟩
  exact .ite (h1.trans (h2 _ _)) h1

/-! ### An attempt starts (R51, R88, R95) -/

theorem coils_of_not_loc {s : State} {ch : Nat} {j : Job} (h : isLoc j = false) : coils s ch j = [ch] := by
  unfold coils
  unfold isLoc at h
  split
  · simp_all
  · rfl

theorem headOf_setHead (s : State) (ch : Nat) (j : Job) : headOf (setHead s ch j) ch = some j := by
  unfold headOf setHead modChan
  rw [getChan_setChan]
  rfl

theorem getChan_setHead_ne (s : State) {i ch : Nat} (j : Job) (h : i ≠ ch) : getChan (setHead s ch j) i = getChan s i :=
  getChan_setChan_ne s h _

theorem beginUses_keyWork (s : State) (ch : Nat) (j : Job) (first : Bool) : KeyWork s (beginUses s ch j first).1 := by
  unfold beginUses
  dsimp only
  split
  · split
    · exact (countUse_keyWork _ _).trans (countSess_keyWork _ _)
    · exact countUse_keyWork _ _
  · split
    · exact (countUse_keyWork _ _).trans (countUse_keyWork _ _)
    · exact (((countUse_keyWork _ _).trans (countUse_keyWork _ _)).trans (.ite (.refl _) (storeReg_keyWork _ _ _))).trans
        (stageRegistry_keyWork _ _ _ _)
  · exact .refl s

/-- An attempt takes the registry entry and the key's INST; the rest of its job is as it was. -/
theorem beginUses_job (s : State) (ch : Nat) (j : Job) (first : Bool) :
    ∃ e k, (beginUses s ch j first).2 = { j with entry := e, keyInst := k } := by
  unfold beginUses
  dsimp only
  split
  · split
    · exact ⟨_, _, rfl⟩
    · exact ⟨_, _, rfl⟩
  · split
    · exact ⟨_, _, rfl⟩
    · exact ⟨_, _, rfl⟩
  · exact ⟨_, _, rfl⟩

/-- A job as an attempt of it starts. -/
structure Started (s : State) (j h : Job) : Prop where
  phase : h.phase = .onAir
  uid : h.uid = j.uid
  startUs : h.startUs = s.clk.nowUs
  startBeat : h.startBeat = s.clk.beat
  resv : h.resv = j.resv
  attempts : h.attempts = j.attempts + 1
  retries : h.retries = j.retries
  restarts : h.restarts = j.restarts

theorem startCoil_spec (s : State) (ch : Nat) (j : Job) (group : List Nat) (first : Bool) :
    ∃ z h, startCoil s ch j group first = setHead z ch h ∧ KeyWork s z ∧ Started s j h := by
  obtain ⟨e, k, hj⟩ := beginUses_job s ch j first
  refine ⟨_, _, rfl, beginUses_keyWork s ch j first, ?_⟩
  constructor <;> simp only [hj]

/-! ### The levee's next pass (R48, R89) -/

theorem offerOrder_one {s : State} {ch : Nat} {j : Job} (h : headOf s ch = some j) : offerOrder s [ch] = [ch] := by
  have hlist : offerOrder s [ch] = (List.range 16).flatMap fun i => if min j.prio 15 = 15 - i then [ch] else [] := by
    refine List.flatMap_congr fun i _ => ?_
    simp [List.filter_cons, h]
  have hle : min j.prio 15 ≤ 15 := Nat.min_le_right _ _
  rw [hlist]
  generalize min j.prio 15 = p at hle
  interval_cases p <;> rfl

theorem chanPol_of_mine {s : State} {p ch : Nat}
    (h : (allChans.filter fun c => decide (chanPol s c = some p)).filter (offered s) = [ch]) :
    chanPol s ch = some p ∧ offered s ch = true := by
  have hmem : ch ∈ (allChans.filter fun c => decide (chanPol s c = some p)).filter (offered s) := h ▸ List.mem_singleton_self ch
  obtain ⟨h1, h2⟩ := List.mem_filter.1 hmem
  exact ⟨of_decide_eq_true (List.mem_filter.1 h1).2, h2⟩

theorem offered_waits {s : State} {ch : Nat} {j : Job} (h : offered s ch = true) (hj : headOf s ch = some j) : j.phase = .waitAdmit := by
  unfold offered startable at h
  simp only [hj, Bool.and_eq_true, decide_eq_true_eq] at h
  exact h.1.1.1.1.1.1.1

theorem nextPass_eq (s : State) (p : Nat) : nextPass s p = postMoves (admitGo (offerOrder s
    ((allChans.filter fun c => decide (chanPol s c = some p)).filter (offered s))) false s) := rfl

theorem groupResv_one {s : State} {ch : Nat} {j : Job} (h : isLoc j = false) :
    groupResv s ch j = reservation s ch (carrier s ch) := by
  simp [groupResv, coils_of_not_loc h]

/-- The one first segment offered is deferred, where its bank is too hot or it does not fit. -/
theorem admitGo_defers {s : State} {ch : Nat} {j : Job} (hj : headOf s ch = some j) (ho : offered s ch = true) (hl : isLoc j = false)
    (h : bankHot s (bankOf ch) = true ∨ leveeFits s (reservation s ch (carrier s ch)) = false) :
    admitGo [ch] false s = deferOne s ch j := by
  simp only [admitGo, hj, ho, coils_of_not_loc hl, groupResv_one hl, Bool.not_true, Bool.false_eq_true, if_false, List.any_cons,
    List.any_nil, Bool.or_false, Bool.false_or]
  rcases h with h | h
  · rw [h, if_pos rfl]
  · rw [h, Bool.not_false, if_pos rfl, ite_self]

theorem deferLimit_below {s : State} {ch : Nat} {j : Job} (hj : headOf s ch = some j) (h : j.defers < regF s .leveeCfg 24 8) :
    deferLimit s ch = s := by
  simp [deferLimit, hj, Nat.not_le.2 h]

/-- The one first segment offered that fits starts on its channel. -/
theorem admitGo_starts {s : State} {p ch : Nat} {j : Job} (hj : headOf s ch = some j) (ho : offered s ch = true) (hl : isLoc j = false)
    (hp : startPol s ch j = some p) (hc : chanPol s ch = some p) (hhot : bankHot s (bankOf ch) = false)
    (hfit : leveeFits s (reservation s ch (carrier s ch)) = true) :
    admitGo [ch] false s = startCoil s ch { j with resv := some (reservation s ch (carrier s ch)) } [ch] true := by
  have htake : takeRadio (takePol s ch j) ch j = s := by simp [takeRadio, takePol, coils_of_not_loc hl, hp, hc, hl]
  simp [admitGo, hj, ho, coils_of_not_loc hl, groupResv_one hl, hhot, hfit, htake, startTx]

/-! ### What the end of a transaction leaves on its channel (R84, R96) -/

/-- Only one channel, its measurements and its carrier differ, and the free values drawn. -/
structure OneChan (ch : Nat) (s t : State) : Prop where
  eq : t = { s with clk := { s.clk with fresh := t.clk.fresh }, lf := { s.lf with chans := t.lf.chans } }
  others : ∀ i, i ≠ ch → getChan t i = getChan s i
  jobs : (getChan t ch).jobs = (getChan s ch).jobs
  cal : (getChan t ch).cal = (getChan s ch).cal
  calDue : (getChan t ch).calDue = (getChan s ch).calDue

theorem OneChan.refl (ch : Nat) (s : State) : OneChan ch s s := ⟨rfl, fun _ _ => rfl, rfl, rfl, rfl⟩

theorem OneChan.trans {ch : Nat} {s t u : State} (h : OneChan ch s t) (k : OneChan ch t u) : OneChan ch s u := by
  refine ⟨?_, fun i hi => (k.others i hi).trans (h.others i hi), k.jobs.trans h.jobs, k.cal.trans h.cal, k.calDue.trans h.calDue⟩
  rw [k.eq, h.eq]

theorem modChan_oneChan (s : State) (ch : Nat) (f : Chan → Chan) (h : ∀ c, (f c).jobs = c.jobs ∧ (f c).cal = c.cal ∧ (f c).calDue = c.calDue) :
    OneChan ch s (modChan s ch f) := by
  have hc : getChan (modChan s ch f) ch = f (getChan s ch) := getChan_setChan s ch _
  obtain ⟨h1, h2, h3⟩ := h (getChan s ch)
  exact ⟨rfl, fun i hi => getChan_setChan_ne s hi _, by rw [hc, h1], by rw [hc, h2], by rw [hc, h3]⟩

theorem measureEnd_oneChan (s : State) (ch : Nat) (j : Job) : OneChan ch s (measureEnd s ch j) := by
  have hfree : ∀ x : Meas × State, x = (match j.meas with
      | some m => (m, s)
      | none => freeMeas s) → OneChan ch s x.2 := by
    intro x hx
    rw [hx]
    split
    · exact .refl ch s
    · exact ⟨rfl, fun _ _ => rfl, rfl, rfl, rfl⟩
  have htrack : ∀ z w, OneChan ch z (trackCarrier z ch w) := by
    intro z w
    unfold trackCarrier
    split
    · exact .refl ch z
    · dsimp only
      refine ⟨rfl, fun i hi => getChan_setChan_ne z hi _, ?_, ?_, ?_⟩ <;> rw [getChan_setChan]
  unfold measureEnd
  split
  · exact .refl ch s
  · have h1 := fun m : Meas => (hfree _ rfl).trans (modChan_oneChan _ ch
      (fun c => { c with zre := m.zre, zim := m.zim, ipk := m.ipk, theta := m.theta }) fun _ => ⟨rfl, rfl, rfl⟩)
    dsimp only
    split
    · exact (h1 _).trans (htrack _ _)
    · exact h1 _

/-- What an end of a transaction leaves: its channel with the outcome, and the rest but for clock, generator, journal and the
retirements that are due. -/
structure Closed (s t : State) (ch : Nat) (j : Job) (st : Status) (clean : Bool) : Prop where
  eq : t = { s with clk := { s.clk with fresh := t.clk.fresh }, lf := { s.lf with chans := t.lf.chans, ended := t.lf.ended },
                    ent := t.ent, jrn := t.jrn, flt := { s.flt with retireDue := t.flt.retireDue } }
  others : ∀ i, i ≠ ch → getChan t i = getChan s i
  jobs : (getChan t ch).jobs = (getChan s ch).jobs
  outcome : (getChan t ch).lastOutcome =
    some (if st = .ok then okStatus (decide (0 < j.retries)) (decide (0 < j.restarts)) else st)
  consec : clean = true → (getChan t ch).consec = 0
  cal : (getChan t ch).cal = (getChan s ch).cal
  calDue : (getChan t ch).calDue = (getChan s ch).calDue

theorem stageBatch_jrn (s : State) (uid cmdId p ch : Nat) (st : Status) : ∃ jr, stageBatch s uid cmdId p ch st = { s with jrn := jr } := by
  unfold stageBatch stageRec
  split
  · exact ⟨_, rfl⟩
  · dsimp only
    split
    · exact ⟨s.jrn, rfl⟩
    · exact ⟨_, rfl⟩

/-- The channel of a transaction that ends, as the registers of `z` and the beat have it (R96). -/
def closedChan (z : State) (j : Job) (st : Status) (clean : Bool) (c : Chan) : Chan :=
  let consec := if clean then 0 else if st = .channelFaultTransient ∧ j.hardSeen then min 15 (c.consec + 1) else c.consec
  { c with retries := j.retries, lastBeat := z.clk.beat, consec := consec,
           lastOutcome := some (if st = .ok then okStatus (decide (0 < j.retries)) (decide (0 < j.restarts)) else st),
           retireDue := c.retireDue || (decide (regF z .lfRetry 8 4 ≤ consec) && decide (0 < consec) && !clean) }

/-- The state of a transaction that ends, once measured: the reservation's end, the generator's queue and what is due of
retirements left open. -/
def closedAt (z : State) (ch : Nat) (j : Job) (st : Status) (clean : Bool) (e : List (BitVec 64 × Nat × Nat)) (n : Entropy)
    (due : List (Nat × Nat × Byte)) : State :=
  { modChan z ch (closedChan z j st clean) with
    lf := { (modChan z ch (closedChan z j st clean)).lf with ended := e }, ent := n, flt := { z.flt with retireDue := due } }

theorem closedAt_closed {s z : State} {ch : Nat} {j : Job} {st : Status} {clean : Bool} (h : OneChan ch s z)
    (e : List (BitVec 64 × Nat × Nat)) (n : Entropy) (due : List (Nat × Nat × Byte)) (jr : Journal) :
    Closed s { closedAt z ch j st clean e n due with jrn := jr } ch j st clean := by
  have hch : getChan { closedAt z ch j st clean e n due with jrn := jr } ch = closedChan z j st clean (getChan z ch) :=
    getChan_setChan z ch _
  refine ⟨?_, fun i hi => (getChan_setChan_ne z hi _).trans (h.others i hi), by rw [hch]; exact h.jobs, by rw [hch]; rfl,
    fun hc => by rw [hch]; simp [closedChan, hc], by rw [hch]; exact h.cal, by rw [hch]; exact h.calDue⟩
  unfold closedAt
  rw [h.eq]
  rfl

theorem closeTx_closed (s : State) (ch : Nat) (j : Job) (st : Status) (clean : Bool) :
    Closed s (closeTx s ch j st clean) ch j st clean := by
  have h := measureEnd_oneChan s ch j
  have hplain : ∀ {y}, (∃ e n due, y = closedAt (measureEnd s ch j) ch j st clean e n due) → Closed s y ch j st clean := by
    rintro y ⟨e, n, due, rfl⟩
    exact closedAt_closed h e n due (measureEnd s ch j).jrn
  have hbatch : ∀ {y} u ci p, (∃ e n due, y = closedAt (measureEnd s ch j) ch j st clean e n due) →
      Closed s (stageBatch y u ci p ch st) ch j st clean := by
    rintro y u ci p ⟨e, n, due, rfl⟩
    obtain ⟨jr, hjr⟩ := stageBatch_jrn (closedAt (measureEnd s ch j) ch j st clean e n due) u ci p ch st
    rw [hjr]
    exact closedAt_closed h e n due jr
  have hite : ∀ {y y'} (b : Bool), (∃ e n due, y = closedAt (measureEnd s ch j) ch j st clean e n due) →
      (∃ e n due, y' = closedAt (measureEnd s ch j) ch j st clean e n due) →
      ∃ e n due, (if b = true then y else y') = closedAt (measureEnd s ch j) ch j st clean e n due := by
    intro y y' b k k'
    cases b
    · exact k'
    · exact k
  unfold closeTx
  generalize measureEnd s ch j = z at hplain hbatch hite ⊢
  by_cases hj : journalled st = true
  · simp only [hj, if_true]
    refine hbatch _ _ _ (hite _ ?_ ?_)
    · cases j.resv <;> exact ⟨_, _, _, rfl⟩
    · cases j.resv <;> exact ⟨_, _, _, rfl⟩
  · simp only [hj, Bool.false_eq_true, if_false]
    refine hplain (hite _ ?_ ?_)
    · cases j.resv <;> exact ⟨_, _, _, rfl⟩
    · cases j.resv <;> exact ⟨_, _, _, rfl⟩

end Sys2Proof.Machine
end

section
/-! ## The end of a transaction of a SWEEP, and the levee (R48, R84, R88 to R90) -/

namespace Sys2Proof.Machine
open Sys2Proof

theorem layBytes_length (n : Nat) (fs : List (Nat × List Byte)) : (layBytes n fs).length = n := by
  have h : ∀ (l : List (Nat × List Byte)) (acc : List Byte), acc.length = n →
      (l.foldl (fun acc f => acc.take f.1 ++ f.2.take (n - f.1) ++ acc.drop (f.1 + f.2.length)) acc).length = n := by
    intro l
    induction l with
    | nil => exact fun acc ha => ha
    | cons f l ih =>
      refine fun acc ha => ih _ ?_
      simp only [List.length_append, List.length_take, List.length_drop, ha]
      omega
  exact h fs _ List.length_replicate

theorem authRecBytes_ne (r : AuthRec) : (authRecBytes r).isEmpty = false := by
  rw [List.isEmpty_eq_false_iff, ← List.length_pos_iff, authRecBytes, layBytes_length]
  decide

theorem findCmd_putCmd {s : State} {u : Nat} {c d : Cmd} (h : findCmd s u = some c) (hu : d.uid = c.uid) :
    findCmd (putCmd s d) u = some d := by
  have hc : c.uid = u := by
    have := List.find?_some h
    simpa using this
  unfold findCmd at h ⊢
  simp only [putCmd, List.find?_map]
  have hp : ((fun x : Cmd => x.uid == u) ∘ fun x => if (x.uid == d.uid) = true then d else x) = fun x : Cmd => x.uid == u := by
    funext x
    by_cases hx : x.uid = d.uid <;> simp [hx]
  rw [hp, h]
  simp [hu]

theorem findCmd_sq_uid {s : State} {u : Nat} {c : Cmd} (h : findCmd s u = some c) : c.uid = u := by
  simpa using List.find?_some h

/-- A command of one transaction left, without a record yet, that took `r`: it completes with the record. -/
theorem authCmdStep_last {s : State} {u : Nat} {c : Cmd} (r : Rec) (h : findCmd s u = some c) (hl : c.left = 1) (hr : c.recs = []) :
    authCmdStep (addRec s u r) u = finishNow (putCmd s { c with recs := [r] }) { c with recs := [r] }
      (authStatus (putCmd s { c with recs := [r] }) { c with recs := [r] }) (authResult [r]) (r.bytes.take (descLenOut c.desc)) := by
  have ha : addRec s u r = putCmd s { c with recs := [r] } := by simp [addRec, h, hr, insertRec]
  rw [ha]
  unfold authCmdStep
  rw [findCmd_putCmd (d := { c with recs := [r] }) h rfl]
  simp [hl]

theorem CqTakes.of_ring {s t : State} {n : Nat} (h : CqTakes s n) (hb : t.ring.bme = s.ring.bme) (hf : t.flt.restarting = s.flt.restarting)
    (hs : t.ring.sqs = s.ring.sqs) (hc : t.ring.cqs = s.ring.cqs) : CqTakes t n := by
  obtain ⟨h1, h2, h3, h4, h5⟩ := h
  constructor <;> simp only [getCq, getSq, hs, hc, hb, hf] at * <;> assumption

/-- What is posted speaks of the rings, the keeper and the beat alone. -/
theorem Posted.of_ring {s s' t : State} {c c' : Cmd} {st : Status} {r : Nat} {out : List Byte} (h : Posted s' t c' st r out)
    (ho : s'.ring.out = s.ring.out) (hs : s'.ring.sqs = s.ring.sqs) (hq : s'.ring.cqs = s.ring.cqs) (hb : s'.clk.beat = s.clk.beat)
    (hu : c'.uid = c.uid) (hsq : c'.sq = c.sq) (hd : c'.desc = c.desc) : Posted s t c st r out := by
  obtain ⟨h1, h2⟩ := h
  refine ⟨?_, fun x hx => hu ▸ h2 x hx⟩
  simpa only [getCq, getSq, beat32, ho, hs, hq, hb, hu, hsq, hd] using h1

/-- The one transaction of a SWEEP that failed: the slot takes the outcome where it is a module's, and the command completes
with its status. -/
theorem finishJob_sweepFails {s : State} {ch : Nat} {j : Job} {st : Status} {f : Facts} {c : Cmd} (hk : j.kind = .sweep)
    (hst : st.isOk = false) (hf : st ≠ .foreignToken)
    (hc : findCmd s j.uid = some c) (hl : c.left = 1) (hr : c.recs = []) (hsq : c.sq < 16) (hop : descOpcode c.desc = 0x10)
    (hout : c.outOk = true) (hq : CqTakes s c.sq) :
    ∃ out slu, Posted s (finishJob s ch j st f) c st 256 out ∧
      finishJob s ch j st f = { s with ring := (finishJob s ch j st f).ring, slu := slu } := by
  obtain ⟨slu, hslu⟩ : ∃ slu, (if jobRole s ch j = 0 then slotOutcome s ch st else s) = { s with slu := slu } := by
    split
    · exact ⟨_, rfl⟩
    · exact ⟨s.slu, rfl⟩
  have hfin : ∃ r : Rec, r.status = some st ∧ r.good = false ∧ r.foreign = false ∧ r.bytes.isEmpty = false ∧
      finishJob s ch j st f = authCmdStep (addRec { s with slu := slu } j.uid r) j.uid := by
    refine ⟨authRecord { s with slu := slu } ch j st f.terrGen f.low f.confirmed f.dev f.cs, rfl, hst, decide_eq_false hf,
      authRecBytes_ne _, ?_⟩
    unfold finishJob
    simp only [hk, hst, Bool.false_eq_true, if_false, hslu]
  obtain ⟨r, hrs, hrg, hrf, hrb, hfin⟩ := hfin
  rw [hfin, authCmdStep_last r (s := { s with slu := slu }) hc hl hr]
  have hstat : authStatus (putCmd { s with slu := slu } { c with recs := [r] }) { c with recs := [r] } = st := by
    simp [authStatus, isDiscover, hop, hrs, worstOf, hst]
  have hres : authResult [r] = 256 := by simp [authResult, hrb, hrg, hrf, hrs, optB]
  rw [hstat, hres]
  obtain ⟨hp, he⟩ := finishNow_posted (putCmd { s with slu := slu } { c with recs := [r] }) { c with recs := [r] } st 256
    (r.bytes.take (descLenOut c.desc)) hsq (.inl hout) (hq.of_ring rfl rfl rfl rfl)
  exact ⟨_, slu, hp.of_ring rfl rfl rfl rfl rfl rfl rfl, he.trans rfl⟩

/-- A channel without work has nothing to arm. -/
theorem arm_empty {s : State} {ch : Nat} (h : (getChan s ch).jobs = []) : arm s ch = s := by
  simp [arm, armOnce, nonceArrived, headOf, h]

/-- The end of the one transaction of a SWEEP on its channel. -/
theorem failTx_sweep {s : State} {ch : Nat} {j : Job} {st : Status} {clean : Bool} {f : Facts} (hk : j.kind = .sweep) :
    failTx s ch j st clean f = finishJob (popHead (closeTx s ch j st clean) ch) ch j st f := by
  unfold failTx
  simp only [hk]

theorem jobs_popHead (s : State) (ch : Nat) : (getChan (popHead s ch) ch).jobs = (getChan s ch).jobs.drop 1 := getChan_popHead_jobs s ch

theorem popHead_leaves (s : State) (ch : Nat) : ∃ e, popHead s ch = { modChan s ch (fun c => { c with jobs := c.jobs.drop 1 }) with ent := e } :=
  ⟨_, rfl⟩

theorem getChan_popHead_ne (s : State) {i ch : Nat} (h : i ≠ ch) : getChan (popHead s ch) i = getChan s i :=
  getChan_setChan_ne _ h _

theorem lastOutcome_popHead (s : State) (ch : Nat) : (getChan (popHead s ch) ch).lastOutcome = (getChan s ch).lastOutcome := by
  unfold popHead modChan
  rw [getChan_setChan]
  rfl

theorem consec_popHead (s : State) (ch : Nat) : (getChan (popHead s ch) ch).consec = (getChan s ch).consec := by
  unfold popHead modChan
  rw [getChan_setChan]
  rfl

/-- What the end of the last transaction of a SWEEP leaves, and its command's completion. -/
theorem failTx_lastSweep {s : State} {ch : Nat} {j : Job} {st : Status} {clean : Bool} {f : Facts} {c : Cmd}
    (hj : (getChan s ch).jobs = [j]) (hk : j.kind = .sweep) (hst : st.isOk = false) (hf : st ≠ .foreignToken)
    (hc : findCmd s j.uid = some c) (hl : c.left = 1) (hr : c.recs = []) (hsq : c.sq < 16) (hop : descOpcode c.desc = 0x10)
    (hout : c.outOk = true) (hq : CqTakes s c.sq) :
    ∃ out, Posted s (failTx s ch j st clean f) c st 256 out ∧ (failTx s ch j st clean f).lf.refused = s.lf.refused ∧
      (getChan (failTx s ch j st clean f) ch).jobs = [] ∧ (getChan (failTx s ch j st clean f) ch).lastOutcome = some st ∧
      ∀ i, i ≠ ch → getChan (failTx s ch j st clean f) i = getChan s i := by
  obtain ⟨heq, hothers, hjobs, houtc, -, -, -⟩ := closeTx_closed s ch j st clean
  rw [failTx_sweep hk]
  have hout' : (getChan (popHead (closeTx s ch j st clean) ch) ch).lastOutcome = some st := by
    rw [lastOutcome_popHead, houtc, if_neg (by rintro rfl; exact absurd hst (by decide))]
  have hjobs' : (getChan (popHead (closeTx s ch j st clean) ch) ch).jobs = [] := by rw [jobs_popHead, hjobs, hj]; rfl
  have hothers' : ∀ i, i ≠ ch → getChan (popHead (closeTx s ch j st clean) ch) i = getChan s i :=
    fun i hi => (getChan_popHead_ne _ hi).trans (hothers i hi)
  have hring : (popHead (closeTx s ch j st clean) ch).ring = s.ring := by
    change (closeTx s ch j st clean).ring = _
    rw [heq]
  have hflt : (popHead (closeTx s ch j st clean) ch).flt.restarting = s.flt.restarting := by
    change (closeTx s ch j st clean).flt.restarting = _
    rw [heq]
  have hbeat : (popHead (closeTx s ch j st clean) ch).clk.beat = s.clk.beat := by
    change (closeTx s ch j st clean).clk.beat = _
    rw [heq]
  have href : (popHead (closeTx s ch j st clean) ch).lf.refused = s.lf.refused := by
    change (closeTx s ch j st clean).lf.refused = _
    rw [heq]
  generalize popHead (closeTx s ch j st clean) ch = y at *
  obtain ⟨out, slu, hp, he⟩ := finishJob_sweepFails (s := y) (ch := ch) (f := f) hk hst hf (by unfold findCmd; rw [hring]; exact hc)
    hl hr hsq hop hout (hq.of_ring (by rw [hring]) hflt (by rw [hring]) (by rw [hring]))
  have hlf : (finishJob y ch j st f).lf = y.lf := by rw [he]
  have hchan : ∀ i, getChan (finishJob y ch j st f) i = getChan y i := fun i => by simp only [getChan, hlf]
  refine ⟨out, hp.of_ring (by rw [hring]) (by rw [hring]) (by rw [hring]) hbeat rfl rfl rfl, by rw [hlf, href], ?_, ?_, ?_⟩
  · rw [hchan, hjobs']
  · rw [hchan, hout']
  · exact fun i hi => by rw [hchan, hothers' i hi]

/-! ### The next pass and the limit of deferrals -/

theorem exec_nextPassStart {s : State} (p : Fin 5) (h : atBoundary s = true) : exec (.nextPassStart p) s = .next (nextPass s p.val) :=
  by
  rw [← if_pos (c := atBoundary s = true) (e := s) h (t := nextPass s p.val)]
  rfl

theorem exec_leveeDeferLimit (s : State) (ch : Fin 96) : exec (.leveeDeferLimit ch) s = .next (deferLimit s ch.val) := rfl

theorem headOf_jobs {s : State} {ch : Nat} {j : Job} {l : List Job} (h : (getChan s ch).jobs = j :: l) : headOf s ch = some j := by
  simp [headOf, h]

theorem headOf_postMoves (s : State) (ch : Nat) : headOf (postMoves s) ch = headOf s ch := by
  simp only [headOf, getChan_postMoves]

/-- A pass of one offered first segment that fits: it starts, and no other channel changes. -/
theorem nextPass_starts {s : State} {p ch : Nat} {j : Job}
    (hm : (allChans.filter fun c => decide (chanPol s c = some p)).filter (offered s) = [ch]) (hj : headOf s ch = some j)
    (hl : isLoc j = false) (hp : startPol s ch j = some p) (hhot : bankHot s (bankOf ch) = false)
    (hfit : leveeFits s (reservation s ch (carrier s ch)) = true) :
    ∃ h, headOf (nextPass s p) ch = some h ∧ Started s { j with resv := some (reservation s ch (carrier s ch)) } h ∧
      ∀ c, c ≠ ch → getChan (nextPass s p) c = getChan s c := by
  obtain ⟨hc, ho⟩ := chanPol_of_mine hm
  obtain ⟨z, h, hz, hkw, hst⟩ := startCoil_spec s ch { j with resv := some (reservation s ch (carrier s ch)) } [ch] true
  rw [nextPass_eq, hm, offerOrder_one hj, admitGo_starts hj ho hl hp hc hhot hfit, hz]
  refine ⟨h, by rw [headOf_postMoves, headOf_setHead], hst, fun c hcne => ?_⟩
  rw [getChan_postMoves, getChan_setHead_ne z h hcne, hkw.getChan]

/-- A pass of one offered first segment that is deferred, below the limit. -/
theorem nextPass_defers {s : State} {p ch : Nat} {j : Job} (hmv : s.lf.moved = [])
    (hm : (allChans.filter fun c => decide (chanPol s c = some p)).filter (offered s) = [ch]) (hj : headOf s ch = some j)
    (hl : isLoc j = false) (h : bankHot s (bankOf ch) = true ∨ leveeFits s (reservation s ch (carrier s ch)) = false)
    (hd : j.defers + 1 < regF s .leveeCfg 24 8) :
    nextPass s p = setHead { s with lf := { s.lf with defers := sat 32 (s.lf.defers + 1) } } ch { j with defers := j.defers + 1 } := by
  obtain ⟨-, ho⟩ := chanPol_of_mine hm
  have hdefer : deferOne s ch j =
      setHead { s with lf := { s.lf with defers := sat 32 (s.lf.defers + 1) } } ch { j with defers := j.defers + 1 } :=
    deferLimit_below (headOf_setHead _ ch _) hd
  rw [nextPass_eq, hm, offerOrder_one hj, admitGo_defers hj ho hl h, hdefer]
  exact postMoves_none hmv

/-- A transaction of a SWEEP, the last of its command, at the limit: it ends with LEVEE_DEFERRED and so does the command. -/
theorem deferLimit_ends {s : State} {ch : Nat} {j : Job} {c : Cmd} (hj : (getChan s ch).jobs = [j]) (hp : j.phase = .waitAdmit)
    (hpos : 0 < regF s .leveeCfg 24 8) (hlim : regF s .leveeCfg 24 8 ≤ j.defers) (hk : j.kind = .sweep)
    (hc : findCmd s j.uid = some c) (hl : c.left = 1) (hr : c.recs = []) (hsq : c.sq < 16) (hop : descOpcode c.desc = 0x10)
    (hout : c.outOk = true) (hq : CqTakes s c.sq) :
    ∃ out, (deferLimit s ch).lf.refused = sat 32 (s.lf.refused + 1) ∧ (getChan (deferLimit s ch) ch).jobs = [] ∧
      (getChan (deferLimit s ch) ch).lastOutcome = some .leveeDeferred ∧
      (∀ i, i ≠ ch → getChan (deferLimit s ch) i = getChan s i) ∧ Posted s (deferLimit s ch) c .leveeDeferred 256 out := by
  have hs : deferLimit s ch = arm (failTx { s with lf := { s.lf with refused := sat 32 (s.lf.refused + 1) } } ch j .leveeDeferred
      false {}) ch := by
    unfold deferLimit
    rw [headOf_jobs hj]
    exact if_pos ⟨hp, hlim, by omega⟩
  obtain ⟨out, hpost, href, hjobs, hlast, hoth⟩ := failTx_lastSweep
    (s := { s with lf := { s.lf with refused := sat 32 (s.lf.refused + 1) } }) (ch := ch) (clean := false) (f := {}) hj hk
    (by decide : Status.leveeDeferred.isOk = false) (by decide) hc hl hr hsq hop hout (hq.of_ring rfl rfl rfl rfl)
  rw [hs, arm_empty hjobs]
  exact ⟨out, href, hjobs, hlast, hoth, hpost.of_ring rfl rfl rfl rfl rfl rfl rfl⟩

/-- Settles O31, by the one channel that is offered, and the end of a SWEEP's last transaction. -/
theorem passesAdmitAndDefer : Obligations.PassesAdmitAndDefer := by
  unfold Obligations.PassesAdmitAndDefer
  refine ⟨fun s p ch j hmv hb => ?_, fun s ch j c hj hp hpos => ⟨fun hlim hk hc hl hr hsq hop hout hq => ?_, fun hlim => ?_⟩⟩
  · dsimp only
    rw [exec_nextPassStart p hb]
    refine ⟨fun hm => ?_, fun hm hj hl hp hhot hfit => ?_, fun hm hj hl h hd => ?_⟩
    · rw [nextPass_eq, hm]
      have hnone : offerOrder s [] = [] := by simp [offerOrder]
      rw [hnone]
      rw [admitGo, postMoves_none hmv]
    · obtain ⟨h, hh, hst, hoth⟩ := nextPass_starts hm hj hl hp hhot hfit
      exact ⟨_, h, rfl, hh, hst.phase, hst.uid, hst.startUs, hst.startBeat, hst.resv, hst.attempts, hoth⟩
    · rw [nextPass_defers hmv hm hj hl h hd]
  · obtain ⟨out, h⟩ := deferLimit_ends hj hp hpos hlim hk hc hl hr hsq hop hout hq
    exact ⟨_, out, exec_leveeDeferLimit s ch, h⟩
  · rw [exec_leveeDeferLimit, deferLimit_below (headOf_jobs hj) hlim]

end Sys2Proof.Machine
end

section
/-! ## Channel faults, retries and restarts (R51, R94, R95) -/

namespace Sys2Proof.Machine
open Sys2Proof

theorem getChan_setHead (s : State) (ch : Nat) (j : Job) :
    getChan (setHead s ch j) ch = { getChan s ch with jobs := j :: (getChan s ch).jobs.drop 1 } := getChan_setChan s ch _

theorem headOf_isSome_jobs {s : State} {ch : Nat} {j : Job} (h : headOf s ch = some j) :
    (getChan s ch).jobs = j :: (getChan s ch).jobs.drop 1 := by
  unfold headOf at h
  cases hj : (getChan s ch).jobs with
  | nil => simp [hj] at h
  | cons k l => simp [hj] at h; simp [h]

/-- The channel as a fault flags and counts it (R94). -/
def flagged (f : ChFault) (x : Chan) : Chan :=
  { x with faultFlags := x.faultFlags ||| BitVec.ofNat 8 (2 ^ faultBit f),
           crcCnt := if f = .crc then sat 8 (x.crcCnt + 1) else x.crcCnt,
           hardCnt := if isHard f then sat 16 (x.hardCnt + 1) else x.hardCnt }

theorem flagFault_eq (s : State) (ch : Nat) (f : ChFault) : flagFault s ch f = modChan s ch (flagged f) := by
  cases f <;> rfl

/-- The job as a fault marks it. -/
def marked (f : ChFault) (j : Job) : Job :=
  { j with hardSeen := j.hardSeen || isHard f, faults := j.faults ||| BitVec.ofNat 8 (2 ^ faultBit f), heldReply := none }

theorem askNonce_spec (s : State) (ch : Nat) (j : Job) :
    ∃ z n r, askNonce s ch j = setHead z ch { j with nonce := n, nonceReady := r } ∧ EntropyOnly s z := by
  unfold askNonce
  dsimp only
  split
  · exact ⟨s, j.nonce, true, rfl, .refl s⟩
  · split
    next d hd =>
      obtain ⟨-, hdraw⟩ := Option.ite_none_right_eq_some.1 hd
      exact ⟨_, _, _, rfl, drbgDraw_entropyOnly hdraw⟩
    next =>
      exact ⟨_, j.nonce, false, rfl, (drbgLimits_entropyOnly s).trans (.of_ent _ _)⟩

/-- A fault of a transaction on air that has retries left (R94, R95). -/
theorem txFault_retries {s : State} {c : Nat} {j : Job} (f : ChFault) (hj : headOf s c = some j) (hl : isLoc j = false)
    (hr : j.retries < regF s .lfRetry 0 3) :
    ∃ z n r, txFault s c f = setHead z c
      { marked f j with phase := .faultWait, notBeforeBeat := s.clk.beat + 2, nonce := n, nonceReady := r } ∧ EntropyOnly (setHead (flagFault s c f) c (marked f j)) z := by
  have hj1 : headOf (flagFault s c f) c = some j := by
    rw [flagFault_eq]
    simp only [headOf, modChan, getChan_setChan]
    exact hj
  have hjm : headOf (setHead (flagFault s c f) c (marked f j)) c = some (marked f j) := headOf_setHead _ _ _
  have hbeat : (setHead (flagFault s c f) c (marked f j)).clk.beat = s.clk.beat := by rw [flagFault_eq]; rfl
  obtain ⟨z, n, r, hz, hfr⟩ := askNonce_spec (setHead (flagFault s c f) c (marked f j)) c { marked f j with
    phase := .faultWait, notBeforeBeat := s.clk.beat + 2, nonceReady := false }
  refine ⟨z, n, r, ?_, hfr⟩
  have hlt : ¬ regF s .lfRetry 0 3 ≤ (marked f j).retries := Nat.not_le.2 hr
  unfold txFault
  rw [hj]
  simp only [coils_of_not_loc hl, List.foldl_cons, List.foldl_nil, List.headD_cons, hj1]
  rw [show ({ j with hardSeen := j.hardSeen || isHard f, faults := j.faults ||| BitVec.ofNat 8 (2 ^ faultBit f), heldReply := none } : Job)
    = marked f j from rfl, hjm]
  dsimp only
  rw [if_neg hlt, hbeat]
  exact hz

/-- A transaction that waits after a fault is not armed again. -/
theorem arm_faultWait {s : State} {ch : Nat} {j : Job} (hj : headOf s ch = some j) (hp : j.phase = .faultWait) : arm s ch = s := by
  have h1 : armOnce s ch = s := by simp [armOnce, hj, hp]
  simp [arm, h1, nonceArrived, hj, hp]

theorem chanFault_onAir {s : State} {n c : Nat} {j : Job} (f : ChFault) (hc : masterOf s n = c) (hj : headOf s c = some j)
    (hp : j.phase = .onAir) : chanFault s n f = arm (txFault s c f) c := by
  simp [chanFault, hc, hj, hp]

theorem exec_channelFault (s : State) (ch : Fin 96) (f : ChFault) : exec (.channelFault ch f) s = .next (chanFault s ch.val f) := rfl

/-- Frame of a channel's fault: the other channels and everything but channels, generator and rings. -/
theorem chanFault_frame {s z : State} {c : Nat} {f : ChFault} {j : Job} (h : EntropyOnly (setHead (flagFault s c f) c (marked f j)) z) :
    getChan z c = { flagged f (getChan s c) with jobs := marked f j :: (getChan s c).jobs.drop 1 } ∧
      (∀ i, i ≠ c → getChan z i = getChan s i) ∧ z = { s with lf := { s.lf with chans := z.lf.chans }, ent := z.ent, ring := z.ring } := by
  obtain ⟨r, e, rfl⟩ := h
  refine ⟨?_, fun i hi => ?_, ?_⟩
  · change getChan (setHead (flagFault s c f) c (marked f j)) c = _
    rw [getChan_setHead, flagFault_eq, modChan, getChan_setChan]
    rfl
  · change getChan (setHead (flagFault s c f) c (marked f j)) i = _
    rw [getChan_setHead_ne _ _ hi, flagFault_eq]
    exact getChan_setChan_ne _ hi _
  · rw [flagFault_eq]
    rfl

/-! ### A transaction starts again -/

/-- The job that starts again: one restart more after a move, one retry more after a fault. -/
def againJob (j : Job) : Job :=
  { j with restarts := if decide (j.phase = .quiet) then j.restarts + 1 else j.restarts,
           retries := if decide (j.phase = .quiet) then j.retries else j.retries + 1 }

theorem resumeOne_starts {s : State} {c : Nat} {j : Job} {ph : TxPhase} (hj : headOf s c = some j) (hl : isLoc j = false)
    (hb : bankUp s (bankOf c) = true) (hd : resumeDue s c ph = true) : resumeOne s c ph = startCoil
      (if decide (j.phase = .quiet) then { s with lf := { s.lf with restarts := sat 32 (s.lf.restarts + 1) } } else s) c (againJob j) [c] false := by
  have hhead : headOf (if decide (j.phase = .quiet) then { s with lf := { s.lf with restarts := sat 32 (s.lf.restarts + 1) } } else s) c
      = some j := by split <;> exact hj
  unfold resumeOne
  rw [if_pos hd, hj]
  simp only [coils_of_not_loc hl, List.all_cons, List.all_nil, hb, Bool.and_self, if_true]
  unfold resumeTx
  simp only [coils_of_not_loc hl, List.foldl_cons, List.foldl_nil, hhead]
  rfl

theorem resumeDue_phase {s : State} {c : Nat} {j : Job} {ph : TxPhase} (hj : headOf s c = some j) (h : resumeDue s c ph = true) :
    j.phase = ph := by
  unfold resumeDue at h
  rw [hj] at h
  simp only [Bool.and_eq_true, decide_eq_true_eq] at h
  exact h.1.1.1.1

/-- What a transaction that starts again leaves (R51, R95). -/
theorem resumeOne_spec {s : State} {c : Nat} {j : Job} {ph : TxPhase} (hj : headOf s c = some j) (hl : isLoc j = false)
    (hb : bankUp s (bankOf c) = true) (hd : resumeDue s c ph = true) :
    ∃ h, headOf (resumeOne s c ph) c = some h ∧ Started s (againJob j) h ∧ (∀ i, i ≠ c → getChan (resumeOne s c ph) i = getChan s i) ∧
      (resumeOne s c ph).lf.restarts = if ph = .quiet then sat 32 (s.lf.restarts + 1) else s.lf.restarts := by
  have hph := resumeDue_phase hj hd
  rw [resumeOne_starts hj hl hb hd, hph]
  by_cases hq : ph = .quiet
  · rw [if_pos (decide_eq_true hq), if_pos hq]
    obtain ⟨z, h, hz, hkw, hst⟩ := startCoil_spec { s with lf := { s.lf with restarts := sat 32 (s.lf.restarts + 1) } } c (againJob j) [c] false
    rw [hz]
    refine ⟨h, headOf_setHead _ _ _, ⟨hst.phase, hst.uid, hst.startUs, hst.startBeat, hst.resv, hst.attempts, hst.retries, hst.restarts⟩,
      fun i hi => (getChan_setHead_ne z h hi).trans (hkw.getChan i), ?_⟩
    exact (congrArg Lf.restarts hkw.lf : z.lf.restarts = _)
  · rw [if_neg (by simpa using hq), if_neg hq]
    obtain ⟨z, h, hz, hkw, hst⟩ := startCoil_spec s c (againJob j) [c] false
    rw [hz]
    exact ⟨h, headOf_setHead _ _ _, hst, fun i hi => (getChan_setHead_ne z h hi).trans (hkw.getChan i),
      (congrArg Lf.restarts hkw.lf : z.lf.restarts = _)⟩

theorem exec_faultRetry (s : State) (ch : Fin 96) :
    exec (.faultRetry ch) s = .next (if atBoundary s then resumeOne s (masterOf s ch.val) .faultWait else s) := rfl

theorem exec_migrationRestart (s : State) (ch : Fin 96) :
    exec (.migrationRestart ch) s = .next (if atBoundary s then resumeOne s (masterOf s ch.val) .quiet else s) := rfl

theorem resumeOne_notDue {s : State} {c : Nat} {ph : TxPhase} (h : resumeDue s c ph = false) : resumeOne s c ph = s := by
  simp [resumeOne, h]

/-- Settles O32, by the one coil of the transaction. -/
theorem faultsRetryAndRestart : Obligations.FaultsRetryAndRestart := by
  unfold Obligations.FaultsRetryAndRestart
  refine ⟨fun s ch f j => ⟨fun hj hp hl hr => ?_, fun hn => ?_⟩, fun s ch j => ?_⟩
  · obtain ⟨z, n, r, hz, hfr⟩ := txFault_retries f hj hl hr
    obtain ⟨hc, hoth, heq⟩ := chanFault_frame hfr
    refine ⟨txFault s (masterOf s ch.val) f, n, r, ?_, ?_, fun i hi => ?_, ?_⟩
    · rw [exec_channelFault, chanFault_onAir f rfl hj hp, hz, arm_faultWait (headOf_setHead _ _ _) rfl]
    · rw [hz, getChan_setHead, hc]
      rfl
    · rw [hz, getChan_setHead_ne _ _ hi, hoth i hi]
    · rw [hz, heq]
      rfl
  · rw [exec_channelFault]
    have : headOf s (masterOf s ch.val) = none := Option.isNone_iff_eq_none.1 hn
    simp [chanFault, this]
  · dsimp only
    intro hj hl hb
    refine ⟨fun hat hd => ?_, fun hat hd => ?_, fun hd => ?_, fun hd => ?_⟩
    · obtain ⟨h, hh, hst, hoth, hre⟩ := resumeOne_spec hj hl hb hd
      have hph := resumeDue_phase hj hd
      refine ⟨resumeOne s (masterOf s ch.val) .faultWait, h, by rw [exec_faultRetry, if_pos hat], ⟨hh, hst.phase, hst.uid, hst.resv, hst.startUs, hst.startBeat, hst.attempts, hoth⟩, ?_, ?_, hre⟩
      · rw [hst.retries]; simp [againJob, hph]
      · rw [hst.restarts]; simp [againJob, hph]
    · obtain ⟨h, hh, hst, hoth, hre⟩ := resumeOne_spec hj hl hb hd
      have hph := resumeDue_phase hj hd
      refine ⟨resumeOne s (masterOf s ch.val) .quiet, h, by rw [exec_migrationRestart, if_pos hat], ⟨hh, hst.phase, hst.uid, hst.resv, hst.startUs, hst.startBeat, hst.attempts, hoth⟩, ?_, ?_, hre⟩
      · rw [hst.retries]; simp [againJob, hph]
      · rw [hst.restarts]; simp [againJob, hph]
    · rw [exec_faultRetry, resumeOne_notDue hd, ite_self]
    · rw [exec_migrationRestart, resumeOne_notDue hd, ite_self]

end Sys2Proof.Machine
end

section
/-! ## Replies (R35, R113, R147) -/

namespace Sys2Proof.Machine
open Sys2Proof

/-- What a reply's findings keep: the lanes, the clock and the channel's work. -/
structure ReplyFrame (ch : Nat) (s t : State) : Prop where
  slu : t.slu = s.slu
  clk : t.clk = s.clk
  jobs : (getChan t ch).jobs = (getChan s ch).jobs

namespace ReplyFrame
variable {ch : Nat} {s t u : State}

theorem refl (s : State) : ReplyFrame ch s s := ⟨rfl, rfl, rfl⟩

theorem trans (h : ReplyFrame ch s t) (k : ReplyFrame ch t u) : ReplyFrame ch s u :=
  ⟨k.slu.trans h.slu, k.clk.trans h.clk, k.jobs.trans h.jobs⟩

theorem of_keyWork (h : KeyWork s t) : ReplyFrame ch s t := ⟨h.slu, h.clk, congrArg Chan.jobs (h.getChan ch)⟩

theorem ite {c : Prop} [Decidable c] (h : ReplyFrame ch s t) (k : ReplyFrame ch s u) : ReplyFrame ch s (if c then t else u) := by
  split
  · exact h
  · exact k

theorem modChan (s : State) (f : Chan → Chan) (h : ∀ c, (f c).jobs = c.jobs) : ReplyFrame ch s (modChan s ch f) :=
  ⟨rfl, rfl, by unfold Machine.modChan; rw [getChan_setChan, h]⟩

theorem of_chans {l : Lf} (h : l.chans = s.lf.chans) : ReplyFrame ch s { s with lf := l } :=
  ⟨rfl, rfl, by simp only [getChan, h]⟩

end ReplyFrame

theorem foreignEvent_ringOnly (s : State) (ch id : Nat) : RingOnly s (foreignEvent s ch id) := postEvent_ringOnly _ _ _ _

theorem foreignSeen_replyFrame (s : State) (ch id : Nat) : ReplyFrame ch s (foreignSeen s ch id) := by
  unfold foreignSeen
  generalize sat 32 (s.lf.foreign + 1) = n
  obtain ⟨r, hr⟩ := foreignEvent_ringOnly { s with lf := { s.lf with foreign := n } } ch id
  rw [hr]
  exact ⟨rfl, rfl, rfl⟩

theorem foundIte_replyFrame {ch : Nat} {s : State} {c : Prop} [Decidable c] {a b : Found} (h : ReplyFrame ch s a.st)
    (k : ReplyFrame ch s b.st) : ReplyFrame ch s (if c then a else b).st := by
  split
  · exact h
  · exact k

theorem csCount_replyFrame (ch : Nat) (s : State) (n : Nat) : ReplyFrame ch s { s with lf := { s.lf with csFails := n } } := ⟨rfl, rfl, rfl⟩
theorem tbCount_replyFrame (ch : Nat) (s : State) (n : Nat) : ReplyFrame ch s { s with lf := { s.lf with tbFails := n } } := ⟨rfl, rfl, rfl⟩
theorem macCount_replyFrame (ch : Nat) (s : State) (n : Nat) : ReplyFrame ch s { s with lf := { s.lf with authFails := n } } := ⟨rfl, rfl, rfl⟩

theorem couplingFinding_replyFrame (s : State) (ch : Nat) (j : Job) (r : RawReply) (x : SlotRec) (f : Facts) (pend : Bool) :
    ReplyFrame ch s (couplingFinding s ch j r x f pend).st := by
  have h : ∀ cs stale, ReplyFrame ch s (modChan s ch fun y => { y with csDev := cs, sigStale := y.sigStale || stale }) :=
    fun cs stale => .modChan s _ fun _ => rfl
  unfold couplingFinding
  exact foundIte_replyFrame ((h _ _).trans (csCount_replyFrame ch _ _)) (h _ _)

theorem macFinding_replyFrame (s : State) (ch : Nat) (j : Job) (r : RawReply) (w : BitVec 96) (f : Facts) (c : Bool) :
    ReplyFrame ch s (macFinding s ch j r w f c).st := by
  have hb : ReplyFrame ch s (addBlocks s 2) := .of_keyWork (addBlocks_keyWork s 2)
  have hfail : ∀ b : Bool, ReplyFrame ch s (if b = true then { addBlocks s 2 with lf := { (addBlocks s 2).lf with
      authFails := sat 32 ((addBlocks s 2).lf.authFails + 1) } } else addBlocks s 2) :=
    fun b => .ite (hb.trans (macCount_replyFrame ch _ _)) hb
  have hex : ∀ b (p : Prop) [Decidable p], ReplyFrame ch s (if p then markExhausted (if b = true then { addBlocks s 2 with
      lf := { (addBlocks s 2).lf with authFails := sat 32 ((addBlocks s 2).lf.authFails + 1) } } else addBlocks s 2) j.reg
      (3 + polOf s ch) else if b = true then { addBlocks s 2 with lf := { (addBlocks s 2).lf with
      authFails := sat 32 ((addBlocks s 2).lf.authFails + 1) } } else addBlocks s 2) :=
    fun b p _ => .ite ((hfail b).trans (.of_keyWork (markExhausted_keyWork _ _ _))) (hfail b)
  unfold macFinding
  refine foundIte_replyFrame (hex _ _) (foundIte_replyFrame ?_ (hex _ _))
  split
  · exact hex _ _
  · exact (hex _ _).trans (couplingFinding_replyFrame _ _ _ _ _ _ _)

theorem findings_replyFrame (s : State) (ch : Nat) (j : Job) (r : RawReply) (w : BitVec 96) (c : Bool) :
    ReplyFrame ch s (findings s ch j r w true c).st := by
  have hdev : ∀ dev, ReplyFrame ch s (modChan s ch fun x => { x with lastDev := dev }) := fun dev => .modChan s _ fun _ => rfl
  unfold findings
  exact foundIte_replyFrame (foundIte_replyFrame (.refl s) (foreignSeen_replyFrame s ch _)) <|
    foundIte_replyFrame ((hdev _).trans (tbCount_replyFrame ch _ _)) <| foundIte_replyFrame (hdev _) <|
    foundIte_replyFrame (hdev _) ((hdev _).trans (macFinding_replyFrame _ _ _ _ _ _ _))

/-! ### The end of a SWEEP's transaction -/

/-- The outcome shown of a SWEEP's transaction that ended with `st`. -/
def shownOutcome (j : Job) (st : Status) : Status :=
  if st.isOk then okStatus (decide (0 < j.retries)) (decide (0 < j.restarts)) else st

theorem validateJob_sluOnly (s : State) (ch : Nat) (j : Job) (i : Nat) : ∃ sl, validateJob s ch j i = { s with slu := sl } := by
  unfold validateJob
  split
  · exact ⟨s.slu, rfl⟩
  · exact ⟨_, rfl⟩

/-- What the end of a SWEEP's transaction leaves: the rings, a counter, and the slot where it is a module's. -/
theorem finishJob_sweepLeaves {s : State} {ch : Nat} {j : Job} (st : Status) (f : Facts) (hk : j.kind = .sweep) :
    ∃ rg sl n, finishJob s ch j st f = { s with ring := rg, slu := sl, lf := { s.lf with authOk := n } } ∧
      (jobRole s ch j = 0 → sl = (slotOutcome s ch (shownOutcome j st)).slu) := by
  obtain ⟨slu, hslu, hrole⟩ : ∃ slu, (if jobRole s ch j = 0 then slotOutcome s ch (shownOutcome j st)
      else if st.isOk then validateJob s ch j j.reg else s) = { s with slu := slu } ∧
      (jobRole s ch j = 0 → slu = (slotOutcome s ch (shownOutcome j st)).slu) := by
    by_cases h : jobRole s ch j = 0
    · exact ⟨_, if_pos h, fun _ => rfl⟩
    · obtain ⟨sl, hsl⟩ := validateJob_sluOnly s ch j j.reg
      rw [if_neg h]
      split
      · exact ⟨sl, hsl, fun h' => absurd h' h⟩
      · exact ⟨s.slu, rfl, fun h' => absurd h' h⟩
  obtain ⟨n, hn⟩ : ∃ n, (if st.isOk = true then { s with slu := slu, lf := { s.lf with authOk := sat 32 (s.lf.authOk + 1) } }
      else { s with slu := slu }) = { s with slu := slu, lf := { s.lf with authOk := n } } := by
    split
    · exact ⟨_, rfl⟩
    · exact ⟨s.lf.authOk, rfl⟩
  have hfin : ∃ r, finishJob s ch j st f =
      authCmdStep (addRec { s with slu := slu, lf := { s.lf with authOk := n } } j.uid r) j.uid := by
    unfold finishJob
    simp only [hk, ← hn]
    unfold shownOutcome at hslu
    rw [hslu]
    exact ⟨_, rfl⟩
  obtain ⟨r, hfin⟩ := hfin
  obtain ⟨rg, hrg⟩ := (addRec_ringOnly { s with slu := slu, lf := { s.lf with authOk := n } } j.uid r).trans (authCmdStep_ringOnly _ j.uid)
  exact ⟨rg, slu, n, by rw [hfin, hrg], hrole⟩

theorem finishJob_sweepChan {s : State} {ch : Nat} {j : Job} (st : Status) (f : Facts) (hk : j.kind = .sweep) (i : Nat) :
    getChan (finishJob s ch j st f) i = getChan s i := by
  obtain ⟨rg, sl, n, h, -⟩ := finishJob_sweepLeaves (s := s) (ch := ch) st f hk
  rw [h]
  rfl

/-- The end of the one transaction of a channel, of a SWEEP. -/
theorem sweepEnds {s : State} {ch : Nat} {j k : Job} {st : Status} {f : Facts} (hj : (getChan s ch).jobs = [k]) (hk : j.kind = .sweep) :
    let t := finishJob (popHead (closeTx s ch j st true) ch) ch j st f
    (getChan t ch).jobs = [] ∧ (getChan t ch).consec = 0 ∧ (getChan t ch).lastOutcome =
      some (if st = .ok then okStatus (decide (0 < j.retries)) (decide (0 < j.restarts)) else st) := by
  obtain ⟨heq, hothers, hjobs, houtc, hcon, -, -⟩ := closeTx_closed s ch j st true
  refine ⟨?_, ?_, ?_⟩
  · rw [finishJob_sweepChan st f hk, jobs_popHead, hjobs, hj]
    rfl
  · rw [finishJob_sweepChan st f hk, consec_popHead, hcon rfl]
  · rw [finishJob_sweepChan st f hk, lastOutcome_popHead, houtc]

/-! ### A module's slot -/

theorem laneSlot_slotOutcome (s : State) (ch : Nat) (st : Status) :
    laneSlot (slotOutcome s ch st).slu.a ch = slotResult st s.clk.beat (nextBoundUs s) (laneSlot s.slu.a ch) :=
  laneSlot_put_self _ _ _

theorem slotResult_verifies {st : Status} {e : SlotEnt} (b : BitVec 64) (us : Nat) (hst : st.isOk = true)
    (he : e.st = .unverified ∨ e.st = .verified ∨ e.st = .duplicate) :
    slotResult st b us e = { e with st := .verified, mismatch := false, cause := 0, lastOk := b, okUs := us } := by
  have hok : st = .ok ∨ st = .okRetried ∨ st = .okMigrated := by
    revert hst
    cases st <;> simp [Status.isOk]
  rcases hok with rfl | rfl | rfl <;> rcases he with h | h | h <;> simp [slotResult, h]

/-! ### A reply on air -/

theorem exec_uplinkReply {s : State} (ch : Fin 96) (r : AirResult) (hk : keyBusy s = false) :
    exec (.uplinkReply ch r) s = .next (uplinkReply s ch.val r) := by
  have h : takeMsg s (.air ch.val r) = uplinkReply s ch.val r := by simp [takeMsg, hk, runHeld]
  rw [← h]
  rfl

/-- A transaction that listens for its reply. -/
structure Listens (s : State) (ch : Nat) (j : Job) : Prop where
  head : headOf s ch = some j
  air : j.phase = .onAir
  kind : j.kind = .sweep
  frame : j.frame = .auth
  noneHeld : j.heldReply = none
  bank : bankUp s (bankOf ch) = true
  ends : jobEndUs s j < nextBoundUs s

theorem Listens.uplinkReply {s : State} {ch : Nat} {j : Job} (h : Listens s ch j) (r : AirResult) :
    uplinkReply s ch r = if r.late then setHead s ch { j with heldReply := some r } else arm (airReply s ch j r) ch := by
  have hc : j.phase = .onAir ∧ hasReply j = true ∧ bankUp s (bankOf ch) = true ∧ jobEndUs s j < nextBoundUs s ∧
      (!optB j.heldReply) = true :=
    ⟨h.air, by simp [hasReply, h.frame], h.bank, h.ends, by simp [h.noneHeld, optB]⟩
  unfold Machine.uplinkReply
  rw [h.head]
  exact if_pos hc

theorem measured_kind {j : Job} (r : AirResult) (h : j.kind = .sweep) : (measured j r).kind = .sweep := h

theorem airReply_silent {s : State} {ch : Nat} {j : Job} {r : AirResult} (hk : j.kind = .sweep) (hr : r.slots = []) :
    airReply s ch j r = failTx (setHead s ch (measured j r)) ch (measured j r) .noResponse true {} := by
  simp [airReply, measured_kind r hk, hr]

/-- A reply of a SWEEP's AUTH that passes every finding (R113, R147). -/
theorem airReply_passes {s : State} {ch : Nat} {j : Job} {r : AirResult} {x : RawReply} {rest : List RawReply} {w : BitVec 96}
    (hk : j.kind = .sweep) (hf : j.frame = .auth) (hr : r.slots = x :: rest) (hd : decodeReply x = .bits w) (hcrc : replyCrcOk w = true)
    (hok : (findings (setHead s ch (measured j r)) ch (measured j r) x w true true).status = .ok) :
    ∃ y f p, ReplyFrame ch (setHead s ch (measured j r)) y ∧ airReply s ch j r =
      finishJob (popHead (passAuth (closeTx y ch (measured j r) .ok true) ch (measured j r) p) ch) ch (measured j r) .ok f := by
  have hclean : airReply s ch j r = authPassed (setHead s ch (measured j r)) ch (measured j r) x w
      (findings (setHead s ch (measured j r)) ch (measured j r) x w true true) := by
    have hfr : (measured j r).frame = .auth := hf
    unfold airReply
    simp only [measured_kind r hk, hr, hd, hcrc, if_true]
    unfold cleanReply
    simp [hfr, measured_kind r hk, hok]
  refine ⟨_, { (findings (setHead s ch (measured j r)) ch (measured j r) x w true true).facts with
      confirmed := (findings (setHead s ch (measured j r)) ch (measured j r) x w true true).pend },
    (findings (setHead s ch (measured j r)) ch (measured j r) x w true true).pend,
    findings_replyFrame _ ch (measured j r) x w true, ?_⟩
  · rw [hclean]
    unfold authPassed
    simp only [measured_kind r hk]

/-- Settles O33, by what the findings, the registry's marks and the end of the transaction keep. -/
theorem repliesDecideSlots : Obligations.RepliesDecideSlots := by
  unfold Obligations.RepliesDecideSlots
  intro s ch j r x rest w hj hair hk hf hheld hbank hends hkey
  have hl : Listens s ch.val j := ⟨hj, hair, hk, hf, hheld, hbank, hends⟩
  dsimp only
  rw [exec_uplinkReply ch r hkey, hl.uplinkReply r]
  refine ⟨fun hlate => by rw [if_pos hlate], fun hlate hr hjobs => ?_, fun hlate hr hd hcrc hjobs hok hrole hatt hslot => ?_⟩
  · have hset : (getChan (setHead s ch.val (measured j r)) ch.val).jobs = [measured j r] := by
      rw [getChan_setHead, hjobs]
      rfl
    obtain ⟨hempty, hcon, hout⟩ := sweepEnds (st := .noResponse) (f := {}) hset (measured_kind r hk)
    rw [← failTx_sweep (measured_kind r hk), ← airReply_silent hk hr] at hempty hcon hout
    refine ⟨_, rfl, ?_⟩
    rw [hlate, if_neg Bool.false_ne_true, arm_empty hempty]
    exact ⟨hout, hcon, hempty⟩
  · obtain ⟨y, f, p, hy, hair⟩ := airReply_passes hk hf hr hd hcrc hok
    obtain ⟨heq, -, hcjobs, hcout, -, -, -⟩ := closeTx_closed y ch.val (measured j r) .ok true
    have hslu : (closeTx y ch.val (measured j r) .ok true).slu = s.slu := by
      rw [heq]
      exact hy.slu
    have hbeat : (closeTx y ch.val (measured j r) .ok true).clk.beat = s.clk.beat := by
      rw [heq]
      change y.clk.beat = _
      rw [hy.clk]
      rfl
    have hwork := passAuth_keyWork (closeTx y ch.val (measured j r) .ok true) ch.val (measured j r) p
    obtain ⟨rg, sl, n, hfin, hsl⟩ := finishJob_sweepLeaves (s := popHead (passAuth (closeTx y ch.val (measured j r) .ok true) ch.val
      (measured j r) p) ch.val) (ch := ch.val) .ok f (measured_kind r hk)
    have hrole' := hsl (by simp [jobRole, measured, hl.air, hatt, hrole])
    have hjobs' : (getChan (airReply s ch.val j r) ch.val).jobs = [] := by
      rw [hair, finishJob_sweepChan .ok f (measured_kind r hk), jobs_popHead, hwork.getChan, hcjobs, hy.jobs, getChan_setHead, hjobs]
      rfl
    have hlane : laneSlot (airReply s ch.val j r).slu.a ch.val = slotResult (shownOutcome (measured j r) .ok) s.clk.beat
        (nextBoundUs (popHead (passAuth (closeTx y ch.val (measured j r) .ok true) ch.val (measured j r) p) ch.val))
        (laneSlot s.slu.a ch.val) := by
      rw [hair, hfin, ← hslu, ← hbeat, ← hwork.slu, ← hwork.clk]
      change laneSlot sl.a ch.val = _
      rw [hrole', laneSlot_slotOutcome]
      rfl
    have hisOk : (shownOutcome (measured j r) .ok).isOk = true := by
      simp only [shownOutcome, okStatus]
      split_ifs <;> rfl
    rw [slotResult_verifies _ _ hisOk hslot] at hlane
    refine ⟨_, rfl, ?_⟩
    rw [hlate, if_neg Bool.false_ne_true, arm_empty hjobs', hlane]
    refine ⟨rfl, rfl, rfl, ?_, hjobs'⟩
    rw [hair, finishJob_sweepChan .ok f (measured_kind r hk), lastOutcome_popHead, hwork.getChan, hcout]
    rfl

end Sys2Proof.Machine
end

section
/-! ## Host commands that begin, complete or queue (R60, R207, R244 to R246, R261, R320, R375, R163, R179, R186, R221, R227, R55 to R58) -/

namespace Sys2Proof.Machine
open Sys2Proof

/-! ### Captures (R60, R207, R244, R245, R375) -/

theorem exec_snapshot (s : State) (sq : Fin 16) (m : HostMem) : exec (.snapshot sq m) s = .next (runCmd s sq.val 0x02 m always runs) := rfl
theorem exec_sluiceStatus (s : State) (sq : Fin 16) (m : HostMem) :
    exec (.sluiceStatus sq m) s = .next (runCmd s sq.val 0x31 m always runs) := rfl
theorem exec_ledgerQuery (s : State) (sq : Fin 16) (m : HostMem) :
    exec (.ledgerQuery sq m) s = .next (runCmd s sq.val 0x41 m always runs) := rfl
theorem exec_ledgerCheckpoint (s : State) (sq : Fin 16) (m : HostMem) :
    exec (.ledgerCheckpoint sq m) s = .next (runCmd s sq.val 0x42 m keysJudge runs) := rfl
theorem exec_configCommit (s : State) (sq : Fin 16) (m : HostMem) :
    exec (.configCommit sq m) s = .next (runCmd s sq.val 0x71 m always runs) := rfl

theorem keysJudge_go {s : State} {c : Cmd} (h : keyBusy s = false) : keysJudge s c = .go := by simp [keysJudge, h]

/-- A command that is captured at the boundary only begins at its row. -/
theorem runCmd_runs {s : State} {sq : Fin 16} {op : Nat} {m : HostMem} {c : Cmd} {inp : List Byte} {own : State → Cmd → Judge}
    (h : Begins s sq op m c inp) (hj : own s c = .go) : runCmd s sq.val op m own runs = begun s c m := runCmd_begins h hj

theorem captureStep_lone {s : State} {c : Cmd} (hk : keeperUp s = true) (hc : s.ring.cmds = [c]) : captureStep s = captureCmd s c := by
  simp [captureStep, hk, hc]

theorem captureCmd_snapshot {s : State} {c : Cmd} (hr : c.st = .running) (ho : descOpcode c.desc = 0x02) :
    captureCmd s c = finishNow s c .ok (snapshotBytes s (fld c.desc.dw8 0 7)).length (snapshotBytes s (fld c.desc.dw8 0 7)) := by
  simp only [captureCmd, hr, ho, ne_eq, not_true_eq_false, if_false, if_true]
  rfl

theorem captureCmd_sluiceStatus {s : State} {c : Cmd} (hr : c.st = .running) (ho : descOpcode c.desc = 0x31) :
    captureCmd s c = finishNow s c .ok (sluResult s) (reportOut c (sluReport s)) := by
  simp [captureCmd, hr, ho]

theorem captureCmd_ledgerQuery {s : State} {c : Cmd} (hr : c.st = .running) (ho : descOpcode c.desc = 0x41) :
    captureCmd s c = finishNow s c .ok (reportOut c (ledgerReport s)).length (reportOut c (ledgerReport s)) := by
  simp [captureCmd, hr, ho, finishBytes]

/-- Settles O9, by the beginning of a command and the capture of a lone one. -/
theorem capturesBeginAndComplete : Obligations.CapturesBeginAndComplete := by
  unfold Obligations.CapturesBeginAndComplete
  refine ⟨fun s sq m c inp => ⟨fun h => ?_, fun h => ?_, fun h => ?_, fun h hk => ?_, fun h => ?_⟩, fun s c hk hc hr hsq hout hq => ?_⟩
  · rw [exec_snapshot, runCmd_runs h rfl]
  · rw [exec_sluiceStatus, runCmd_runs h rfl]
  · rw [exec_ledgerQuery, runCmd_runs h rfl]
  · rw [exec_ledgerCheckpoint, runCmd_runs h (keysJudge_go hk)]
  · rw [exec_configCommit, runCmd_runs h rfl]
  · rw [captureStep_lone hk hc]
    refine ⟨fun ho => ?_, fun ho => ?_, fun ho => ?_⟩
    · rw [captureCmd_snapshot hr ho]
      exact finishNow_posted s c .ok _ _ hsq (.inl hout) hq
    · rw [captureCmd_sluiceStatus hr ho]
      exact finishNow_posted s c .ok _ _ hsq (.inl hout) hq
    · rw [captureCmd_ledgerQuery hr ho]
      exact finishNow_posted s c .ok _ _ hsq (.inl hout) hq

/-! ### Reports (R246, R261, R414) -/

theorem exec_keyInfo (s : State) (sq : Fin 16) (m : HostMem) :
    exec (.keyInfo sq m) s = .next (runCmd s sq.val 0x5A m infoJudge infoRun) := rfl
theorem exec_journalRead (s : State) (sq : Fin 16) (m : HostMem) :
    exec (.journalRead sq m) s = .next (runCmd s sq.val 0x48 m journalJudge journalRun) := rfl

theorem infoJudge_go {s : State} {c : Cmd} {i : Nat} (hk : keyBusy s = false) (hi : infoIndex s c.desc = some i) :
    infoJudge s c = .go := by simp [infoJudge, hk, hi]

theorem infoRun_begun {s : State} {c : Cmd} {m : HostMem} {inp : List Byte} {i : Nat} (hi : infoIndex s c.desc = some i) :
    infoRun (begun s c m) (runningCmd c m) inp = finishNow (begun s c m) (runningCmd c m) .ok
      (reportOut c (nodeBytes s i)).length (reportOut c (nodeBytes s i)) := by
  have h : infoIndex (begun s c m) (runningCmd c m).desc = some i := hi
  unfold infoRun
  rw [h]
  rfl

theorem journalJudge_go {s : State} {c : Cmd} (h : fld c.desc.dw8 0 2 ≠ 2) : journalJudge s c = .go := by simp [journalJudge, h]

theorem journalRun_records (z : State) (c : Cmd) (inp : List Byte) (h : fld c.desc.dw8 0 2 = 0) :
    journalRun z c inp = finishNow (countRead z (c.desc.dw9.toNat + fld c.desc.dw10 0 16 * 2 ^ 32) c.desc.dw11.toNat) c .ok
      (readRecs z (c.desc.dw9.toNat + fld c.desc.dw10 0 16 * 2 ^ 32) c.desc.dw11.toNat).2
      (readRecs z (c.desc.dw9.toNat + fld c.desc.dw10 0 16 * 2 ^ 32) c.desc.dw11.toNat).1 := by
  simp only [journalRun, h, if_true]

theorem journalRun_checkpoints (z : State) (c : Cmd) (inp : List Byte) (h : fld c.desc.dw8 0 2 = 1) :
    journalRun z c inp = finishNow z c .ok (readCkpts z c.desc.dw9.toNat c.desc.dw11.toNat).2
      (readCkpts z c.desc.dw9.toNat c.desc.dw11.toNat).1 := by
  simp [journalRun, h]

/-- A read of the journal counts words of the flash, and no more. -/
theorem countRead_flt (s : State) (k n : Nat) : ∃ f, countRead s k n = { s with flt := f } ∧ f.restarting = s.flt.restarting ∧
    (s.fl.weak = [] → f = s.flt) := by
  unfold countRead
  by_cases hw : s.fl.weak.isEmpty = true
  · rw [if_pos hw]
    exact ⟨s.flt, rfl, rfl, fun _ => rfl⟩
  · rw [if_neg hw]
    have hfold : ∀ (l : List (Nat × Option JRec)) (z : State), ∃ f, l.foldl
        (fun s p => countEcc s 6 (p.1 % journalRecs * 64) 64) z = { z with flt := f } ∧ f.restarting = z.flt.restarting := by
      intro l
      induction l with
      | nil => exact fun z => ⟨z.flt, rfl, rfl⟩
      | cons p l ih =>
        intro z
        obtain ⟨f, h1, h2⟩ := ih (countEcc z 6 (p.1 % journalRecs * 64) 64)
        exact ⟨f, h1.trans rfl, h2⟩
    obtain ⟨f, h1, h2⟩ := hfold _ s
    exact ⟨f, h1, h2, fun h => absurd (List.isEmpty_iff.2 h) hw⟩

theorem countRead_begun (s : State) (c : Cmd) (m : HostMem) (k n : Nat) {f : Faults} (h : countRead s k n = { s with flt := f }) :
    countRead (begun s c m) k n = { begun s c m with flt := f } := by
  have hfold : ∀ (l : List (Nat × Option JRec)) (z : State) (r : Ring), l.foldl
      (fun s p => countEcc s 6 (p.1 % journalRecs * 64) 64) { z with ring := r } =
      { l.foldl (fun s p => countEcc s 6 (p.1 % journalRecs * 64) 64) z with ring := r } := by
    intro l
    induction l with
    | nil => exact fun z r => rfl
    | cons p l ih => exact fun z r => ih (countEcc z 6 (p.1 % journalRecs * 64) 64) r
  have hr : countRead (begun s c m) k n = { countRead s k n with ring := (begun s c m).ring } := by
    unfold countRead
    by_cases hw : s.fl.weak.isEmpty = true
    · have hw' : (begun s c m).fl.weak.isEmpty = true := hw
      rw [if_pos hw, if_pos hw']
      rfl
    · have hw' : ¬ (begun s c m).fl.weak.isEmpty = true := hw
      rw [if_neg hw, if_neg hw']
      exact hfold _ s (begun s c m).ring
  rw [hr, h]
  rfl

theorem exec_journalRead_mode {s : State} {sq : Fin 16} {m : HostMem} {c : Cmd} {inp : List Byte} (h : Begins s sq 0x48 m c inp)
    (hm : fld c.desc.dw8 0 2 ≠ 2) : exec (.journalRead sq m) s =
      .next (journalRun (begun s c m) (runningCmd c m) (padTo (descLenIn c.desc) inp)) := by
  rw [exec_journalRead, runCmd_begins h (journalJudge_go hm)]

/-- Settles O10, by the one completion of each report. -/
theorem reportsComplete : Obligations.ReportsComplete := by
  unfold Obligations.ReportsComplete
  intro s sq m c inp hq ho
  refine ⟨fun i h hk hi => ?_, fun h hm => ?_, fun h hm => ?_⟩
  · rw [exec_keyInfo, runCmd_begins h (infoJudge_go hk hi), infoRun_begun hi]
    exact ⟨_, rfl, finish_begun h hq .ok _ _ (.inl ho)⟩
  · dsimp only
    rw [exec_journalRead_mode h (by rw [hm]; decide), journalRun_records _ (runningCmd c m) _ hm]
    obtain ⟨f, hf, hres, hweak⟩ := countRead_flt s (c.desc.dw9.toNat + fld c.desc.dw10 0 16 * 2 ^ 32) c.desc.dw11.toNat
    have hf' := countRead_begun s c m _ _ hf
    refine ⟨_, rfl, ?_⟩
    simp only [runningCmd_desc]
    rw [hf, hf']
    have hrecs : readRecs (begun s c m) (c.desc.dw9.toNat + fld c.desc.dw10 0 16 * 2 ^ 32) c.desc.dw11.toNat =
      readRecs s (c.desc.dw9.toNat + fld c.desc.dw10 0 16 * 2 ^ 32) c.desc.dw11.toNat := rfl
    rw [hrecs]
    have hsq : (runningCmd c m).sq = sq.val := h.sq_lt
    obtain ⟨hp, he⟩ := finishNow_posted { begun s c m with flt := f } (runningCmd c m) .ok
      (readRecs s (c.desc.dw9.toNat + fld c.desc.dw10 0 16 * 2 ^ 32) c.desc.dw11.toNat).2
      (readRecs s (c.desc.dw9.toNat + fld c.desc.dw10 0 16 * 2 ^ 32) c.desc.dw11.toNat).1 (hsq ▸ sq.isLt) (.inl ho)
      (hsq ▸ hq.of_ring rfl hres rfl rfl)
    refine ⟨⟨hp.of_ring rfl rfl rfl rfl rfl rfl rfl, he⟩, ?_, fun hw => ?_⟩
    · rw [he]
      rfl
    · rw [he]
      exact hweak hw
  · dsimp only
    rw [exec_journalRead_mode h (by rw [hm]; decide), journalRun_checkpoints _ (runningCmd c m) _ hm]
    exact ⟨_, rfl, finish_begun h hq .ok _ _ (.inl ho)⟩

/-! ### RNG_GET (R313, R320) -/

theorem findCmd_putCmd_mem {s : State} {d : Cmd} (h : ∃ x ∈ s.ring.cmds, x.uid = d.uid) : findCmd (putCmd s d) d.uid = some d := by
  unfold findCmd putCmd
  obtain ⟨x, hx, hu⟩ := h
  have hp : ((fun x : Cmd => x.uid == d.uid) ∘ fun x => if (x.uid == d.uid) = true then d else x) = fun x : Cmd => x.uid == d.uid := by
    funext x
    by_cases hx : x.uid = d.uid <;> simp [hx]
  simp only [List.find?_map, hp]
  cases hf : s.ring.cmds.find? (fun x => x.uid == d.uid) with
  | none => exact absurd (List.find?_eq_none.1 hf x hx) (by simp [hu])
  | some y =>
    have hy := List.find?_some hf
    simp only [Option.map_some, hy, if_true]

theorem exec_rngGet (s : State) (sq : Fin 16) (m : HostMem) : exec (.rngGet sq m) s = .next (runCmd s sq.val 0x60 m always rngRun) := rfl

/-- The generator after a request for `n` bytes (R313). -/
def generated (e : Entropy) (n : Nat) : Entropy :=
  let g := drbgGenerate (nBe e.key.toNat 32) e.v.toNat n
  { e with key := BitVec.ofNat 256 (beN g.2.1), v := BitVec.ofNat 128 g.2.2, reqs := e.reqs + 1 }

/-- A generator that is READY and within its limits serves a request. -/
theorem drbgDraw_ready {s : State} (n : Nat) (hr : s.ent.st = .ready) (hs : softDue s = false) (hh : hardDue s = false) :
    drbgDraw s n = some ((drbgGenerate (nBe s.ent.key.toNat 32) s.ent.v.toNat n).1, { s with ent := generated s.ent n }) := by
  have hl : drbgLimits s = s := by simp [drbgLimits, hr, hs, hh]
  simp [drbgDraw, hl, hr, generated]

theorem serveGo_idle {k : Nat} {s : State} (h : s.ent.waiting = []) : serveGo k s = s := by
  cases k with
  | zero => rfl
  | succ k => simp [serveGo, nextWait, h]

/-- One request of RNG_GET that waits alone is served, and its command completes (R320). -/
theorem serveGo_rng {k u n : Nat} {w : WaitReq} {s : State} {c : Cmd} (hw : s.ent.waiting = [w]) (hcls : w.cls = 3) (hwho : w.who = .cmd u)
    (hbits : w.bits = 8 * n) (hk : keeperUp s = true) (hr : s.ent.st = .ready) (hs : softDue s = false) (hh : hardDue s = false)
    (hc : findCmd s u = some c) (hop : descOpcode c.desc = 0x60) (hl : c.left = 1) :
    let g := drbgGenerate (nBe s.ent.key.toNat 32) s.ent.v.toNat n
    let c1 := { c with bytes := c.bytes ++ ofN g.1, left := 0 }
    serveGo (k + 1) s = finishBytes { s with ent := { generated s.ent n with waiting := [] } } c1 c1.bytes := by
  have hnext : nextWait s = some w := by simp [nextWait, hw, hcls]
  have hbytes : waitBytes w = n := by
    rw [waitBytes, hbits]
    omega
  have hrem : removeWait { s with ent := generated s.ent n } w = { s with ent := { generated s.ent n with waiting := [] } } := by
    simp [removeWait, generated, hw]
  have hfind : findCmd { s with ent := { generated s.ent n with waiting := [] } } u = some c := hc
  have hdel : ∀ g, deliver { s with ent := { generated s.ent n with waiting := [] } } w g = finishBytes
      { s with ent := { generated s.ent n with waiting := [] } } { c with bytes := c.bytes ++ ofN g, left := 0 } (c.bytes ++ ofN g) := by
    intro g
    simp only [deliver, hwho, hfind, hop, hl, if_true, Nat.sub_self]
  dsimp only
  simp only [serveGo, hnext, hcls, hk, hbytes, drbgDraw_ready n hr hs hh, hrem, hdel, Bool.not_true, Bool.false_eq_true, and_false, if_false]
  refine serveGo_idle ?_
  rw [finishBytes, (finishNow_ringOnly _ _ _ _ _).logOnly.ent]

theorem keeperUp_begun (s : State) (c : Cmd) (m : HostMem) : keeperUp (begun s c m) = keeperUp s := rfl

/-- RNG_GET of one request, with nobody waiting, from its beginning. -/
theorem rngRun_one {s : State} {c : Cmd} (inp : List Byte) (h1 : 1 ≤ descLenOut c.desc) (h2 : descLenOut c.desc ≤ 4096) (hk : keeperUp s = true)
    (hr : s.ent.st = .ready) (hs : softDue s = false) (hh : hardDue s = false) (hw : s.ent.waiting = [])
    (hmem : ∃ x ∈ s.ring.cmds, x.uid = c.uid) (hop : descOpcode c.desc = 0x60) :
    ∃ z c1, rngRun s c inp = finishBytes z c1 c1.bytes ∧ z = { putCmd s { c with left := 1 } with ent := generated s.ent (descLenOut c.desc) } ∧
      c1 = { c with bytes := c.bytes ++ ofN (drbgGenerate (nBe s.ent.key.toNat 32) s.ent.v.toNat (descLenOut c.desc)).1, left := 0 } := by
  have hk1 : (descLenOut c.desc + 4095) / 4096 = 1 := by omega
  have hmin : min 4096 (descLenOut c.desc - 4096 * 0) = descLenOut c.desc := by omega
  refine ⟨_, _, ?_, rfl, rfl⟩
  have hrun : rngRun s c inp = serveWaiting (addWait (putCmd s { c with left := 1 }) 3 (.cmd c.uid) (8 * descLenOut c.desc)) := by
    unfold rngRun
    simp only [hk1, List.range_one, List.foldl_cons, List.foldl_nil, hmin]
    rw [if_neg (by omega : ¬ descLenOut c.desc = 0)]
    exact if_pos hr
  have hwait : (addWait (putCmd s { c with left := 1 }) 3 (.cmd c.uid) (8 * descLenOut c.desc)).ent.waiting =
      [⟨3, .cmd c.uid, 8 * descLenOut c.desc, s.clk.nowUs⟩] := by
    simp [addWait, hw]
  rw [hrun, serveWaiting, hwait]
  refine (serveGo_rng (k := 65) hwait rfl rfl rfl hk hr hs hh (findCmd_putCmd_mem (d := { c with left := 1 }) hmem) hop rfl).trans ?_
  have hent : ({ generated (addWait (putCmd s { c with left := 1 }) 3 (.cmd c.uid) (8 * descLenOut c.desc)).ent (descLenOut c.desc) with
      waiting := [] } : Entropy) = generated s.ent (descLenOut c.desc) := by
    simp [generated, addWait, hw]
  rw [hent]
  rfl

theorem begun_mem {s : State} {sq : Fin 16} {op : Nat} {m : HostMem} {c : Cmd} {inp : List Byte} (h : Begins s sq op m c inp) :
    ∃ x ∈ (begun s c m).ring.cmds, x.uid = (runningCmd c m).uid := by
  have hc := (oldestCmd_sq h.oldest).2.2.2.2
  exact ⟨runningCmd c m, List.mem_map.2 ⟨c, hc, by simp⟩, rfl⟩

/-- Settles O13, by the one request that waits. -/
theorem rngGetCompletes : Obligations.RngGetCompletes := by
  unfold Obligations.RngGetCompletes
  intro s sq m c h hq ho hb h1 h2 hr hs hh hw
  obtain ⟨z, c1, hrun, hz, hc1⟩ := rngRun_one (s := begun s c m) (c := runningCmd c m) (padTo (descLenIn c.desc) []) h1 h2 h.keeper hr hs hh hw
    (begun_mem h) (oldestCmd_sq h.oldest).2.2.1
  have hbytes : c1.bytes = ofN (drbgGenerate (nBe s.ent.key.toNat 32) s.ent.v.toNat (descLenOut c.desc)).1 := by
    rw [hc1]
    exact congrArg (· ++ _) hb
  have hsq : c1.sq = sq.val := by rw [hc1]; exact h.sq_lt
  rw [exec_rngGet, runCmd_begins h rfl, hrun, finishBytes, hbytes]
  obtain ⟨hp, he⟩ := finishNow_posted z c1 .ok
    (ofN (drbgGenerate (nBe s.ent.key.toNat 32) s.ent.v.toNat (descLenOut c.desc)).1).length
    (ofN (drbgGenerate (nBe s.ent.key.toNat 32) s.ent.v.toNat (descLenOut c.desc)).1) (hsq ▸ sq.isLt)
    (.inl (by rw [hc1]; exact ho)) (by rw [hsq, hz]; exact hq.of_ring rfl rfl rfl rfl)
  refine ⟨_, rfl, ?_, ?_⟩
  · exact hp.of_ring (by rw [hz]; rfl) (by rw [hz]; rfl) (by rw [hz]; rfl) (by rw [hz]; rfl) (by rw [hc1]; rfl) (by rw [hc1]; rfl)
      (by rw [hc1]; rfl)
  · rw [he, hz]
    rfl

end Sys2Proof.Machine
end

section
/-! ## LF and radio commands queue their work; LEDGER_TOPUP and POLDER_CTL leave theirs to the boundary (R37, R55 to R58, R76, R142,
R151, R152, R157, R163, R175, R179, R186 to R188, R221, R227, R228, R273) -/

namespace Sys2Proof.Machine
open Sys2Proof

/-! ### Work queued on channels that work -/

/-- The channel's first job is in flight. -/
def Busy (s : State) (n : Nat) : Prop := ∃ j, headOf s n = some j ∧ jobInFlight j = true

theorem Busy.pushJob {s : State} {n ch : Nat} {x : Job} (h : Busy s n) : Busy (pushJob s ch x) n := by
  obtain ⟨j, hj, hf⟩ := h
  refine ⟨j, ?_, hf⟩
  by_cases hn : n = ch
  · subst hn
    exact headOf_pushJob hj
  · unfold headOf
    rw [getChan_pushJob_ne hn]
    exact hj

theorem Busy.enqueue {s : State} {n : Nat} (h : Busy s n) (x : Job) : enqueue s n x = Machine.pushJob s n x := by
  obtain ⟨j, hj, hf⟩ := h
  exact enqueue_busy hj hf

theorem Busy.arm {s : State} {n : Nat} (h : Busy s n) : arm s n = s := by
  obtain ⟨j, hj, hf⟩ := h
  exact arm_busy hj hf

/-- Two ways to work through a list that agree as long as a fact holds, which both keep. -/
theorem foldl_eq_of_inv {α β : Type} {P : β → Prop} {f g : β → α → β} {l : List α}
    (h : ∀ z, ∀ a ∈ l, P z → f z a = g z a ∧ P (g z a)) {z : β} (hz : P z) : l.foldl f z = l.foldl g z := by
  induction l generalizing z with
  | nil => rfl
  | cons a l ih =>
    obtain ⟨h1, h2⟩ := h z a List.mem_cons_self hz
    rw [List.foldl_cons, List.foldl_cons, h1]
    exact ih (fun z b hb => h z b (List.mem_cons_of_mem a hb)) h2

theorem launch_busy {s : State} {c : Cmd} {ch : Nat} {pol : Option Nat} {kind : JobKind} {rg : Nat}
    (hs : skipReason s ch pol (decide (kind = .sweep)) = none) (hb : Busy s ch) :
    launch s c ch pol kind rg = pushJob s ch (newJob c.uid kind (descPrio c.desc) pol rg) := by
  unfold launch
  rw [hs]
  exact hb.enqueue _

theorem begun_left (s : State) (c : Cmd) (m : HostMem) (n : Nat) :
    putCmd (begun s c m) { runningCmd c m with left := n } = putCmd s { runningCmd c m with left := n } :=
  putCmd_putCmd s (runningCmd c m) { runningCmd c m with left := n } rfl

theorem exec_sweep (s : State) (sq : Fin 16) (m : HostMem) : exec (.sweep sq m) s = .next (runCmd s sq.val 0x10 m sweepJudge sweepRun) := rfl
theorem exec_authToken (s : State) (sq : Fin 16) (m : HostMem) :
    exec (.authToken sq m) s = .next (runCmd s sq.val 0x11 m authJudge authRun) := rfl
theorem exec_rekeyToken (s : State) (sq : Fin 16) (m : HostMem) :
    exec (.rekeyToken sq m) s = .next (runCmd s sq.val 0x14 m rekeyJudge rekeyRun) := rfl
theorem exec_enrol (s : State) (sq : Fin 16) (m : HostMem) : exec (.enrol sq m) s = .next (runCmd s sq.val 0x13 m enrolJudge enrolRun) := rfl
theorem exec_debugUnlock (s : State) (sq : Fin 16) (m : HostMem) : exec (.debugUnlock sq m) s = .next (unlockRow s sq.val m) := rfl
theorem exec_calChannel (s : State) (sq : Fin 16) (m : HostMem) :
    exec (.calChannel sq m) s = .next (runCmd s sq.val 0x18 m calJudge calRun) := rfl
theorem exec_locate (s : State) (sq : Fin 16) (m : HostMem) : exec (.locate sq m) s = .next (runCmd s sq.val 0x12 m locateJudge locateRun) := rfl

theorem sweepRun_busy {s : State} {c : Cmd} {m : HostMem} {inp : List Byte}
    (h : ∀ n ∈ maskChans c.desc, Busy s n ∧ skipReason s n (some (polField c.desc)) true = none) :
    sweepRun (begun s c m) (runningCmd c m) inp = (maskChans c.desc).foldl
      (fun z n => pushJob z n (newJob c.uid .sweep (descPrio c.desc) (some (polField c.desc)) 4096))
      (putCmd s { runningCmd c m with left := (maskChans c.desc).length }) := by
  rw [← begun_left]
  exact sweep_fold (runningCmd c m) (namedPol c.desc) .sweep 4096 (maskChans c.desc) (nodup_bits _ _) _ h

theorem authRun_slot {s : State} {c : Cmd} {m : HostMem} {inp : List Byte} (hb : Busy s (chanField c.desc))
    (hr : roleOf s (chanField c.desc) = 0) (hs : skipReason s (chanField c.desc) (some (polField c.desc)) true = none) :
    authRun (begun s c m) (runningCmd c m) inp = pushJob (putCmd s { runningCmd c m with left := 1 }) (chanField c.desc)
      (newJob c.uid .sweep (descPrio c.desc) (some (polField c.desc)) 4096) := by
  rw [← begun_left]
  exact (if_pos hr).trans (launch_busy (c := runningCmd c m) (kind := .sweep) hs hb)

theorem authRun_addressed {s : State} {c : Cmd} {m : HostMem} {inp : List Byte} {i : Nat} (hb : Busy s (chanField c.desc))
    (hr : roleOf s (chanField c.desc) ≠ 0) (hs : skipReason s (chanField c.desc) (some (polField c.desc)) false = none)
    (ha : bitOf c.desc.dw8 3 = true) (hi : addressedEntry s c.desc = some i) :
    authRun (begun s c m) (runningCmd c m) inp = pushJob (putCmd s { runningCmd c m with left := 1 }) (chanField c.desc)
      (newJob c.uid .addressed (descPrio c.desc) (some (polField c.desc)) i) := by
  have hi' : addressedEntry (begun s c m) (runningCmd c m).desc = some i := hi
  have hl : launch (putCmd (begun s c m) { runningCmd c m with left := 1 }) (runningCmd c m) (chanField c.desc) (namedPol c.desc)
      .addressed i = pushJob (putCmd (begun s c m) { runningCmd c m with left := 1 }) (chanField c.desc)
        (newJob c.uid .addressed (descPrio c.desc) (some (polField c.desc)) i) :=
    launch_busy (c := runningCmd c m) (kind := .addressed) hs hb
  rw [← begun_left, ← hl]
  refine (if_neg hr).trans ((if_pos ha).trans ?_)
  rw [hi']
  rfl

theorem authRun_discover {s : State} {c : Cmd} {m : HostMem} {inp : List Byte} (hb : Busy s (chanField c.desc))
    (hr : roleOf s (chanField c.desc) ≠ 0) (hs : skipReason s (chanField c.desc) (some (polField c.desc)) false = none)
    (ha : bitOf c.desc.dw8 3 = false) :
    authRun (begun s c m) (runningCmd c m) inp = pushJob (putCmd s { runningCmd c m with left := 1 }) (chanField c.desc)
      (newJob c.uid .discover (descPrio c.desc) (some (polField c.desc)) 4096) := by
  rw [← begun_left]
  exact ((if_neg hr).trans (if_neg (ha ▸ Bool.false_ne_true))).trans (launch_busy (c := runningCmd c m) (kind := .discover) hs hb)

theorem rekeyRun_busy {s : State} {c : Cmd} {m : HostMem} {inp : List Byte} {i : Nat} (hb : Busy s (chanField c.desc))
    (hs : skipReason s (chanField c.desc) (some (polField c.desc)) false = none) (hi : rekeyEntry s c.desc = some i)
    (hg : (getReg s i).gen ≠ 0xFFFF#16) :
    rekeyRun (begun s c m) (runningCmd c m) inp = pushJob (putCmd s { runningCmd c m with left := 1 }) (chanField c.desc)
      (newJob c.uid .rekey (descPrio c.desc) (some (polField c.desc)) i) := by
  have hi' : rekeyEntry (begun s c m) (runningCmd c m).desc = some i := hi
  have hl : launch (putCmd (begun s c m) { runningCmd c m with left := 1 }) (runningCmd c m) (chanField c.desc) (namedPol c.desc)
      .rekey i = pushJob (putCmd (begun s c m) { runningCmd c m with left := 1 }) (chanField c.desc)
        (newJob c.uid .rekey (descPrio c.desc) (some (polField c.desc)) i) :=
    launch_busy (c := runningCmd c m) (kind := .rekey) hs hb
  rw [← begun_left, ← hl]
  unfold rekeyRun
  rw [hi']
  exact if_neg hg

theorem enrolRun_air {s : State} {c : Cmd} {m : HostMem} {inp : List Byte} (hb : Busy s (chanField c.desc)) (hm : enrolMode c.desc ≤ 1)
    (hp : s.cfg.enrolProg.active = false) :
    enrolRun (begun s c m) (runningCmd c m) inp = pushJob { begun s c m with cfg := { s.cfg with enrolProg := ⟨0, 0, true⟩ } }
      (chanField c.desc) (newJob c.uid (if enrolMode c.desc = 0 then .enrolSlot else .enrolKey) (descPrio c.desc)
        (some (polField c.desc)) 4096) := by
  have hbegin : enrolBegin (begun s c m) = { begun s c m with cfg := { s.cfg with enrolProg := ⟨0, 0, true⟩ } } :=
    if_neg (show ¬ s.cfg.enrolProg.active = true by rw [hp]; decide)
  have hb' : Busy { begun s c m with cfg := { s.cfg with enrolProg := ⟨0, 0, true⟩ } } (chanField c.desc) := hb
  rw [← hb'.enqueue, ← hbegin]
  unfold enrolRun
  simp only [runningCmd_desc]
  by_cases h0 : enrolMode c.desc = 0
  · simp only [h0, if_true]
    rfl
  · have h1 : enrolMode c.desc = 1 := by omega
    simp only [h1, Nat.one_ne_zero, if_false, if_true]
    rfl

theorem unlockRow_busy {s : State} {sq : Fin 16} {m : HostMem} {c : Cmd} {i : Nat} (h : Begins s sq 0x79 m c [])
    (ha : unlockAction c.desc ≠ 0) (hj : unlockJudge s c = .go) (hd : unlockDenied s c.desc = 0) (hb : Busy s (chanField c.desc))
    (hi : findId s (tokenField c.desc) = some i) :
    unlockRow s sq.val m = pushJob (begun s c m) (chanField c.desc) (newJob c.uid .unlock (descPrio c.desc) (some (polField c.desc)) i) := by
  have hrow : unlockRow s sq.val m = runCmd s sq.val 0x79 m unlockJudge unlockRun := by
    simp [unlockRow, h.keeper, h.oldest, ha, hd]
  have hi' : findId (begun s c m) (tokenField c.desc) = some i := hi
  have hb' : Busy (begun s c m) (chanField c.desc) := hb
  rw [hrow, runCmd_begins h hj, ← hb'.enqueue]
  simp only [unlockRun, runningCmd_desc, hi']
  rfl

/-- What queueing a job leaves of a channel's retirement and of the reasons to pass over a calibration. -/
theorem calSkip_push (s : State) (n ch : Nat) (j : Job) : chanRetired (pushJob s ch j) n = chanRetired s n ∧
    ∀ re, calSkip (pushJob s ch j) n re = calSkip s n re := by
  have e : ∀ k, (getChan (pushJob s ch j) k).retired = (getChan s k).retired ∧ (getChan (pushJob s ch j) k).place = (getChan s k).place := by
    intro k
    by_cases h : k = ch
    · subst h; simp [pushJob, modChan]
    · rw [getChan_pushJob_ne h]; exact ⟨rfl, rfl⟩
  have h1 : chanRetired (pushJob s ch j) n = chanRetired s n := by
    simp only [chanRetired, e]; rfl
  have h2 : chanPol (pushJob s ch j) n = chanPol s n := by simp only [chanPol, e]
  refine ⟨h1, fun re => ?_⟩
  simp only [calSkip, h1, h2]
  rfl

theorem calRun_busy {s : State} {c : Cmd} {m : HostMem} {inp : List Byte}
    (h : ∀ n ∈ calChans s c.desc, Busy s n ∧ calSkip s n (bitOf c.desc.dw8 3 && chanRetired s n) = none) :
    calRun (begun s c m) (runningCmd c m) inp = (calChans s c.desc).foldl (fun z n => pushJob z n (newJob c.uid
        (.cal (fld c.desc.dw8 0 2) (bitOf c.desc.dw8 2) (bitOf c.desc.dw8 3 && chanRetired s n)) (descPrio c.desc) none 4096))
      (putCmd s { runningCmd c m with left := (calChans s c.desc).length }) := by
  rw [← begun_left]
  refine foldl_eq_of_inv (P := fun z => ∀ n ∈ calChans s c.desc, Busy z n ∧ chanRetired z n = chanRetired s n ∧
    calSkip z n (bitOf c.desc.dw8 3 && chanRetired s n) = none) (fun z n hn hz => ⟨?_, fun k hk => ?_⟩) fun n hn => ?_
  · obtain ⟨hb, hret, hskip⟩ := hz n hn
    unfold calOne
    simp only [runningCmd_desc, hret, hskip]
    exact hb.enqueue _
  · obtain ⟨hb, hret, hskip⟩ := hz k hk
    obtain ⟨h1, h2⟩ := calSkip_push z k n (newJob c.uid (.cal (fld c.desc.dw8 0 2) (bitOf c.desc.dw8 2)
      (bitOf c.desc.dw8 3 && chanRetired s n)) (descPrio c.desc) none 4096)
    exact ⟨hb.pushJob, h1.trans hret, (h2 _).trans hskip⟩
  · obtain ⟨hb, hskip⟩ := h n hn
    exact ⟨hb, rfl, hskip⟩

theorem locateRun_busy {s : State} {c : Cmd} {m : HostMem} {inp : List Byte} (h : ∀ n ∈ maskChans c.desc, Busy s n) :
    locateRun (begun s c m) (runningCmd c m) inp = ((maskChans c.desc).filter fun n => !chanRetired s n).foldl (fun z n => pushJob z n
        (newJob c.uid (.loc (decide (n = ((maskChans c.desc).filter fun n => !chanRetired s n).headD 0))) (descPrio c.desc)
          (some (polField c.desc)) 4096)) (begun s c m) := by
  have hpush : ∀ (l : List Nat) (f : Nat → Job) (z : State), (∀ n ∈ maskChans c.desc, Busy z n) →
      ∀ n ∈ maskChans c.desc, Busy (l.foldl (fun z n => pushJob z n (f n)) z) n := by
    intro l f
    induction l with
    | nil => exact fun z hz => hz
    | cons a l ih => exact fun z hz => ih _ fun n hn => (hz n hn).pushJob
  have harm : ∀ (l : List Nat) (z : State), (∀ n ∈ l, Busy z n) → l.foldl arm z = z := by
    intro l
    induction l with
    | nil => exact fun z _ => rfl
    | cons a l ih =>
      intro z hz
      rw [List.foldl_cons, (hz a List.mem_cons_self).arm]
      exact ih z fun n hn => hz n (List.mem_cons_of_mem a hn)
  exact harm _ _ fun n hn => hpush _ _ (begun s c m) h n (List.mem_of_mem_filter hn)

/-- Settles O14, by a channel that works: a job queued on it starts nothing. -/
theorem lfCommandsQueue : Obligations.LfCommandsQueue := by
  unfold Obligations.LfCommandsQueue
  intro s sq m c
  refine ⟨fun h hj hb => ?_, fun h hj hb hr hs => ?_, fun i h hj hb hr hs ha hi => ?_, fun h hj hb hr hs ha => ?_,
    fun i h hj hb hs hi hg => ?_, fun h hj hb hm hp => ?_, fun i h ha hj hd hb hi => ?_, fun h hj hb => ?_, fun h hj hb => ?_⟩
  · rw [exec_sweep, runCmd_begins h hj, sweepRun_busy hb]
  · rw [exec_authToken, runCmd_begins h hj, authRun_slot hb hr hs]
  · rw [exec_authToken, runCmd_begins h hj, authRun_addressed hb hr hs ha hi]
  · rw [exec_authToken, runCmd_begins h hj, authRun_discover hb hr hs ha]
  · rw [exec_rekeyToken, runCmd_begins h hj, rekeyRun_busy hb hs hi hg]
  · rw [exec_enrol, runCmd_begins h hj, enrolRun_air hb hm hp]
  · rw [exec_debugUnlock, unlockRow_busy h ha hj hd hb hi]
  · rw [exec_calChannel, runCmd_begins h hj, calRun_busy hb]
  · rw [exec_locate, runCmd_begins h hj, locateRun_busy hb]

/-! ### Activities of the radio -/

theorem exec_radioTx (s : State) (sq : Fin 16) (m : HostMem) : exec (.radioTx sq m) s = .next (runCmd s sq.val 0x20 m radioJudge txRun) := rfl
theorem exec_radioRxWindow (s : State) (sq : Fin 16) (m : HostMem) :
    exec (.radioRxWindow sq m) s = .next (runCmd s sq.val 0x21 m windowJudge windowRun) := rfl
theorem exec_range (s : State) (sq : Fin 16) (m : HostMem) : exec (.range sq m) s = .next (rangeRow s sq.val m) := rfl

/-- An activity that needs no random bits joins the queue. -/
theorem pushAct_ready (s : State) (a : RadAct) (h : a.seedBits = 0) :
    pushAct s a = { s with rad := { s.rad with waiting := s.rad.waiting ++ [{ a with seedReady := true }] } } := if_pos h

theorem pushAct_drawn {s : State} (a : RadAct) {n : Nat} (h : a.seedBits ≠ 0) (hn : a.seedBits / 8 = n) (hw : ∀ w ∈ s.ent.waiting, w.cls ≠ 0) (hr : s.ent.st = .ready)
    (hs : softDue s = false) (hh : hardDue s = false) :
    pushAct s a = { s with
      ent := generated s.ent n, rad := { s.rad with waiting := s.rad.waiting ++
        [{ a with seed := beN (drbgGenerate (nBe s.ent.key.toNat 32) s.ent.v.toNat n).1, seedReady := true }] } } := by
  have hnone : s.ent.waiting.any (fun w => w.cls == 0) = false := by
    rw [List.any_eq_false]
    exact fun w hm => by simpa using hw w hm
  unfold pushAct
  rw [if_neg h, hnone, hn]
  simp only [Bool.false_eq_true, if_false, drbgDraw_ready _ hr hs hh]

theorem rangeAct_seedBits (s : State) (u prio rg nt p : Nat) (a b : Bool) (i : Nat) : (rangeAct s u prio rg nt p a b i).seedBits = 48 := rfl

theorem rangeAct_begun (s : State) (c : Cmd) (m : HostMem) (u prio rg nt p : Nat) (a b : Bool) (i : Nat) :
    rangeAct (begun s c m) u prio rg nt p a b i = rangeAct s u prio rg nt p a b i := rfl

theorem rangeRow_go {s : State} {sq : Fin 16} {m : HostMem} {c : Cmd} {inp : List Byte} (h : Begins s sq 0x22 m c inp)
    (hj : rangeJudge s c = .go) : rangeRow s sq.val m = rangeRun (begun s c m) (runningCmd c m) (padTo (descLenIn c.desc) inp) := by
  have hr : rangeRefused s sq.val = s := by simp [rangeRefused, h.keeper, h.oldest, hj]
  rw [rangeRow, hr, runCmd_begins h hj]

/-- Settles O15, by the activity that joins the queue. -/
theorem radioCommandsQueue : Obligations.RadioCommandsQueue := by
  unfold Obligations.RadioCommandsQueue
  intro s sq m c inp
  refine ⟨fun h ho hk => ?_, fun h ho hw => ?_, fun i h hj hi hr hs hh hw => ?_⟩
  · rw [exec_radioTx, runCmd_begins h (by simp [radioJudge, ho])]
    unfold txRun
    dsimp only
    rw [if_neg (Nat.not_lt.2 hk), pushAct_ready _ _ rfl]
    unfold begun
    rw [putCmd_putCmd s (runningCmd c m) { runningCmd c m with bytes := padTo (descLenIn c.desc) inp } rfl]
    rfl
  · rw [exec_radioRxWindow, runCmd_begins h (by simp [windowJudge, ho, hw])]
    unfold windowRun
    dsimp only
    rw [pushAct_ready _ _ rfl]
    rfl
  · have hi' : (addressedEntry (begun s c m) (runningCmd c m).desc).getD 4096 = i := by
      rw [show addressedEntry (begun s c m) (runningCmd c m).desc = some i from hi]
      rfl
    rw [exec_range, rangeRow_go h hj]
    unfold rangeRun
    dsimp only
    rw [hi', pushAct_drawn (s := begun s c m) _ (by rw [rangeAct_seedBits]; decide) (by rw [rangeAct_seedBits]) hw hr hs hh, rangeAct_begun]
    rfl

/-! ### LEDGER_TOPUP -/

theorem exec_ledgerTopup (s : State) (sq : Fin 16) (m : HostMem) :
    exec (.ledgerTopup sq m) s = .next (runCmd s sq.val 0x40 m keysJudge topupRun) := rfl

/-- A voucher is judged on the voucher key; its use counts, and no more changes (R227, R228). -/
theorem judgeVoucher_keyUse (s : State) (w : Nat × BitVec 1024) (b : List Byte) : KeyUse s (judgeVoucher s w b).1 ∧
    (s.ldg.st ≠ .active → (judgeVoucher s w b).2.refused = some .lifecycleDenied) := by
  unfold judgeVoucher
  dsimp only
  split_ifs with h1 h2 h3 h4 h5
  · exact ⟨.refl s, fun _ => rfl⟩
  · exact ⟨.refl s, fun h => absurd h h1⟩
  · exact ⟨.refl s, fun h => absurd h h1⟩
  all_goals exact ⟨countUse_keyUse s 5, fun h => absurd h h1⟩

theorem judgeAll_keyUse (bs : List (List Byte)) : ∀ (s : State) (w : Nat × BitVec 1024),
    KeyUse s (judgeAll s w bs).1 ∧ (judgeAll s w bs).2.length = bs.length ∧
      (s.ldg.st ≠ .active → ∀ v ∈ (judgeAll s w bs).2, v.refused = some .lifecycleDenied) := by
  induction bs with
  | nil => exact fun s w => ⟨.refl s, rfl, fun _ v hv => absurd hv List.not_mem_nil⟩
  | cons b bs ih =>
    intro s w
    obtain ⟨hb, hbr⟩ := judgeVoucher_keyUse s w b
    obtain ⟨h1, h2, h3⟩ := ih (judgeVoucher s w b).1
      (if (judgeVoucher s w b).2.refused.isNone then windowPut w.1 w.2 (judgeVoucher s w b).2.serial else w)
    refine ⟨hb.trans h1, congrArg (· + 1) h2, fun hst v hv => ?_⟩
    rcases List.mem_cons.1 hv with rfl | hv
    · exact hbr hst
    · exact h3 (by rw [hb.ldg]; exact hst) v hv

/-- Settles O17, by the judgement of the vouchers in their order. -/
theorem ledgerTopupQueues : Obligations.LedgerTopupQueues := by
  unfold Obligations.LedgerTopupQueues
  intro s sq m c inp h hk he
  have he' : engineFailed (begun s c m) = false := he
  rw [exec_ledgerTopup, runCmd_begins h (keysJudge_go hk)]
  unfold topupRun
  rw [he']
  simp only [Bool.false_eq_true, if_false]
  generalize hvs : (List.range (descLenIn (runningCmd c m).desc / 64)).map _ = vs
  generalize pendingWindow (begun s c m) = w
  obtain ⟨⟨j, p, k, ci, ks, h1⟩, h2, h3⟩ := judgeAll_keyUse vs (begun s c m) w
  refine ⟨_, (judgeAll (begun s c m) w vs).2, rfl, ?_, ?_, fun v hv hst => h3 hst v hv, ?_, ?_⟩
  · rw [h2, ← hvs, List.length_map, List.length_range]
    rfl
  · rw [h1]
    rfl
  · rw [h1]
  · rw [h1]
    rfl

/-! ### POLDER_CTL -/

theorem exec_polderCtl (s : State) (sq : Fin 16) (m : HostMem) : exec (.polderCtl sq m) s = .next (runCmd s sq.val 0x72 m ctlJudge ctlRun) := rfl

theorem exec_polderCtl_go {s : State} {sq : Fin 16} {m : HostMem} {c : Cmd} (h : Begins s sq 0x72 m c []) (hj : ctlJudge s c = .go) :
    exec (.polderCtl sq m) s = .next (ctlRun (begun s c m) (runningCmd c m) (padTo (descLenIn c.desc) [])) := by
  rw [exec_polderCtl, runCmd_begins h hj]

/-- Settles O19, action by action. -/
theorem polderCtlTakesEffect : Obligations.PolderCtlTakesEffect := by
  unfold Obligations.PolderCtlTakesEffect
  intro s sq m c h hj
  dsimp only
  rw [exec_polderCtl_go h hj]
  unfold ctlRun
  simp only [runningCmd_desc]
  refine ⟨fun ha => ?_, fun ha => ?_, fun ha hx => ?_, fun ha hx => ?_, fun ha => ?_⟩
  · have h01 : ctlAction c.desc = 0 ∨ ctlAction c.desc = 1 := by omega
    rcases h01 with h0 | h0 <;> rw [h0] <;> rfl
  · rw [ha]
    rfl
  · rw [ha]
    exact congrArg _ (if_neg hx)
  · rw [ha]
    exact congrArg _ (if_pos hx)
  · rw [ha]
    rfl

end Sys2Proof.Machine
end

section
/-! ## Doorbells, fetches, queues, control writes and interrupts (R13, R15, R324 to R333, R338, R341, R350, R354 to R357, R362, R363, R369,
R390, R429) -/

namespace Sys2Proof.Machine
open Sys2Proof

/-! ### Flags of Q_ERR -/

/-- A vector that is sent is written, waits or stands pending: nothing else of the rings changes (R354, R356). -/
theorem sendVector_leaves (s : State) (v : Nat) : ∃ p o h, sendVector s v = { s with ring := { s.ring with pba := p, out := o, heldOut := h } } := by
  unfold sendVector emit
  split_ifs
  · exact ⟨s.ring.pba, s.ring.out, s.ring.heldOut, rfl⟩
  · exact ⟨_, s.ring.out, s.ring.heldOut, rfl⟩
  · exact ⟨s.ring.pba, _, s.ring.heldOut, rfl⟩
  · exact ⟨s.ring.pba, s.ring.out, _, rfl⟩

theorem errVector_leaves (s : State) (b : Bool) : ∃ p o h, errVector s b = { s with ring := { s.ring with pba := p, out := o, heldOut := h } } := by
  unfold errVector
  split_ifs
  · exact sendVector_leaves s _
  · exact ⟨s.ring.pba, s.ring.out, s.ring.heldOut, rfl⟩

/-! ### Doorbells (R327) -/

theorem hostReach_dozeLeave (s : State) : hostReach (dozeLeave s) = hostReach s := by
  unfold dozeLeave
  split <;> rfl

theorem bell_rings {s : State} (off : Nat) (v : Word) (hr : hostReach s = true) (hk : s.flt.restarting = false) :
    bell s off v = ringDoorbell (dozeLeave s) off v := by
  have hr' := (hostReach_dozeLeave s).trans hr
  have hk' : (dozeLeave s).flt.restarting = false := by rw [dozeLeave_flt, hk]
  simp [bell, doorbell, hr, hr', hk']

theorem exec_sqTailDoorbell {s : State} (n : Fin 16) (v : Word) (hr : hostReach s = true) (hk : s.flt.restarting = false) :
    exec (.sqTailDoorbell n v) s = .next (ringSqTail (dozeLeave s) n.val v) := by
  have h : bell s (8 * n.val) v = ringSqTail (dozeLeave s) n.val v := by
    have hmod : 8 * n.val % 8 = 0 := by omega
    have hdiv : 8 * n.val / 8 = n.val := by omega
    rw [bell_rings _ v hr hk, ringDoorbell, if_neg (by omega), if_pos hmod, hdiv]
  rw [← h]
  rfl

theorem exec_cqHeadDoorbell {s : State} (n : Fin 16) (v : Word) (hr : hostReach s = true) (hk : s.flt.restarting = false) :
    exec (.cqHeadDoorbell n v) s = .next (ringCqHead (dozeLeave s) n.val v) := by
  have h : bell s (8 * n.val + 4) v = ringCqHead (dozeLeave s) n.val v := by
    have hdiv : (8 * n.val + 4) / 8 = n.val := by omega
    rw [bell_rings _ v hr hk, ringDoorbell, if_neg (by omega), if_neg (by omega), hdiv]
  rw [← h]
  rfl

theorem exec_eqHeadDoorbell {s : State} (v : Word) (hr : hostReach s = true) (hk : s.flt.restarting = false) :
    exec (.eqHeadDoorbell v) s = .next (ringEqHead (dozeLeave s) v) := by
  have h : bell s 0x100 v = ringEqHead (dozeLeave s) v := by rw [bell_rings _ v hr hk, ringDoorbell, if_pos rfl]
  rw [← h]
  rfl

theorem getSq_dozeLeave (s : State) : getSq (dozeLeave s) = getSq s := funext fun n => by simp only [getSq, dozeLeave_ring]
theorem getCq_dozeLeave (s : State) : getCq (dozeLeave s) = getCq s := funext fun n => by simp only [getCq, dozeLeave_ring]

theorem ringSqTail_lands {z : State} {n : Nat} {v : Word} (ha : (getSq z n).st = .active) (hv : v.toNat < ringSize (getSq z n).size) :
    ringSqTail z n v = setSq z n { getSq z n with tail := v.toNat } := by
  simp [ringSqTail, ha, hv]

theorem ringCqHead_lands {z : State} {n : Nat} {v : Word} (ha : (getCq z n).active = true) (hh : (getCq z n).held = [])
    (hv : releases v.toNat (getCq z n).size (getCq z n).head (getCq z n).tail = true) :
    ringCqHead z n v = setCq (setCq z n { getCq z n with head := v.toNat }) n
      { getCq z n with head := v.toNat, timer := decide (0 < (getCq z n).counted) } := by
  have hd : drainHeld 64 (setCq z n { getCq z n with head := v.toNat }) n = setCq z n { getCq z n with head := v.toNat } := by
    simp [drainHeld, hh]
  have h1 : ringCqHead z n v = setCq (drainHeld 64 (setCq z n { getCq z n with head := v.toNat }) n) n
      { getCq (drainHeld 64 (setCq z n { getCq z n with head := v.toNat }) n) n with
        timer := decide (0 < (getCq (drainHeld 64 (setCq z n { getCq z n with head := v.toNat }) n) n).counted) } := by
    simp [ringCqHead, ha, hv]
  rw [h1, hd, getCq_setCq]

theorem ringEqHead_lands {z : State} {v : Word} (ha : z.ring.eq.active = true)
    (hv : releases v.toNat z.ring.eq.size z.ring.eq.head z.ring.eq.tail = true) :
    ringEqHead z v = { z with ring := { z.ring with eq := { z.ring.eq with head := v.toNat, timer := decide (0 < z.ring.eq.counted) } } } := by
  simp [ringEqHead, ha, hv]

/-- What a flag of Q_ERR about an SQ leaves. -/
theorem sqErr_leaves (z : State) (n : Nat) (old : Bool) (f : Ring → Ring) : ∃ p o h, sqErr z n old f =
    { z with ring := { f z.ring with errSq := n, errEq := false, pba := p, out := o, heldOut := h } } := by
  obtain ⟨p, o, h, he⟩ := errVector_leaves { z with ring := { f z.ring with errSq := n, errEq := false } } (!old)
  exact ⟨p, o, h, he⟩

theorem cqErr_leaves (z : State) (n : Nat) (old : Bool) (f : Ring → Ring) : ∃ p o h, cqErr z n old f =
    { z with ring := { f z.ring with errCq := n, errEq := false, pba := p, out := o, heldOut := h } } := by
  obtain ⟨p, o, h, he⟩ := errVector_leaves { z with ring := { f z.ring with errCq := n, errEq := false } } (!old)
  exact ⟨p, o, h, he⟩

/-- Settles O20, ring by ring. -/
theorem doorbellsActAtOnce : Obligations.DoorbellsActAtOnce := by
  unfold Obligations.DoorbellsActAtOnce
  intro s n v hr hk
  dsimp only
  rw [exec_sqTailDoorbell n v hr hk, exec_cqHeadDoorbell n v hr hk, exec_eqHeadDoorbell v hr hk]
  rw [← getSq_dozeLeave s, ← getCq_dozeLeave s, ← dozeLeave_ring s]
  generalize dozeLeave s = z
  refine ⟨fun ha hv => by rw [ringSqTail_lands ha hv], fun ha hh hv => ?_, fun ha hv => by rw [ringEqHead_lands ha hv], fun ha => ?_,
    fun ha hv => ?_, fun ha hv => ?_⟩
  · rw [ringCqHead_lands ha hh hv]
    refine ⟨_, rfl, fun i => ?_, rfl⟩
    by_cases hi : i = n.val
    · rw [if_pos hi, hi, getCq_setCq]
    · rw [if_neg hi, getCq_setCq_ne _ hi, getCq_setCq_ne _ hi]
  · obtain ⟨p, o, h, he⟩ := sqErr_leaves z n.val z.ring.dbDisabled setDisabled
    have ht : ringSqTail z n.val v = sqErr z n.val z.ring.dbDisabled setDisabled := if_pos ha
    rw [ht, he]
    exact ⟨_, rfl, rfl, rfl, rfl, rfl, rfl⟩
  · obtain ⟨p, o, h, he⟩ := sqErr_leaves z n.val z.ring.dbRange setRange
    have ht : ringSqTail z n.val v = sqErr z n.val z.ring.dbRange setRange :=
      (if_neg (not_not.2 ha)).trans (if_neg (Nat.not_lt.2 hv))
    rw [ht, he]
    exact ⟨_, rfl, rfl, rfl, rfl, rfl, rfl⟩
  · obtain ⟨p, o, h, he⟩ := cqErr_leaves z n.val z.ring.dbRange setRange
    have ht : ringCqHead z n.val v = cqErr z n.val z.ring.dbRange setRange := by simp [ringCqHead, ha, hv]
    rw [ht, he]
    exact ⟨_, rfl, rfl, rfl, rfl, rfl, rfl⟩

/-! ### One fetched descriptor (R331, R338, R341) -/

theorem exec_descriptorFetch (s : State) (ds : List (Option Desc)) : exec (.descriptorFetch ds) s = .next (fetchTurn s ds) := rfl

theorem fetchTurn_one {s : State} {n : Nat} (d : Option Desc) (hf : fetchRuns s = true) (hn : nextSq s = some n) :
    fetchTurn s [d] = (fetchOne { s with ring := { s.ring with turn := n } } n d).1 := by
  have hr : sqReady { s with ring := { s.ring with turn := n } } n = true := by
    have := List.find?_some hn
    exact this
  have hgo : fetchTurn s [d] = fetchGo { s with ring := { s.ring with turn := n } } n ((getSq s n).burst + 1) [d] := by
    simp [fetchTurn, hf, hn]
  rw [hgo, fetchGo, if_pos hr]
  dsimp only
  split
  · rw [fetchGo.eq_1]
  · rfl

/-- A descriptor that waits for the journal to drain (R25; log entry 14). -/
theorem fetchOne_waits {s : State} {n : Nat} {d : Desc} (h1 : stagingOps.contains (descOpcode d) = true) (h2 : 1024 < s.jrn.staged.length) :
    (fetchOne s n (some d)).1 = s := by
  simp only [fetchOne, h1, h2, decide_true, Bool.and_self, if_true]

/-- The command that a fetched descriptor becomes (R331). -/
def fetchedCmd (s : State) (n : Nat) (d : Desc) : Cmd :=
  { uid := s.ring.nextUid, sq := n, desc := d, st := .waiting, fetchBeat := s.clk.beat, fetchUs := s.clk.nowUs, outOk := true, recs := [],
    left := 0, count := 0, flag := false, bytes := [], voted := false }

/-- The SQ has given up one entry, and its command waits. -/
def fetchTaken (s : State) (n : Nat) (d : Desc) : State :=
  let s1 := setSq s n { getSq s n with head := ((getSq s n).head + 1) % ringSize (getSq s n).size }
  { s1 with ring := { s1.ring with
      nextUid := s.ring.nextUid + 1, fetched := sat 32 (s.ring.fetched + 1), cmds := s.ring.cmds ++ [fetchedCmd s n d] } }

theorem fetchOne_takes {s : State} {n : Nat} {d : Desc} (h : stagingOps.contains (descOpcode d) = false ∨ s.jrn.staged.length ≤ 1024) :
    (fetchOne s n (some d)).1 = match checkDesc s d with
      | some st => failCmd (fetchTaken s n d) (fetchedCmd s n d) st
      | none => fetchTaken s n d := by
  have hno : (stagingOps.contains (descOpcode d) && decide (1024 < s.jrn.staged.length)) = false := by
    rcases h with h | h
    · rw [h, Bool.false_and]
    · rw [decide_eq_false (Nat.not_lt.2 h), Bool.and_false]
  unfold fetchOne
  simp only [hno, Bool.false_eq_true, if_false]
  cases checkDesc s d <;> rfl

theorem CqTakes.fetchTaken {s : State} {n : Nat} (d : Desc) (h : CqTakes s n) : CqTakes (fetchTaken s n d) n := by
  have hq : getSq (Machine.fetchTaken s n d) n = { getSq s n with head := ((getSq s n).head + 1) % ringSize (getSq s n).size } :=
    getSq_setSq s n _
  have hcq : (getSq (Machine.fetchTaken s n d) n).cq = (getSq s n).cq := by rw [hq]
  obtain ⟨h1, h2, h3, h4, h5⟩ := h
  exact ⟨h1, h2, by rw [hcq]; exact h3, by rw [hcq]; exact h4, by rw [hcq]; exact h5⟩

/-- Settles O21, by the turn's one descriptor. -/
theorem descriptorFetchTakesOne : Obligations.DescriptorFetchTakesOne := by
  unfold Obligations.DescriptorFetchTakesOne
  intro s n d hf hn
  dsimp only
  simp only [exec_descriptorFetch, fetchTurn_one _ hf hn]
  refine ⟨fun hst hc => ?_, fun st hst hc hq => ?_, fun h1 h2 => ?_, ?_⟩
  · rw [fetchOne_takes (s := { s with ring := { s.ring with turn := n } }) hst,
      show checkDesc { s with ring := { s.ring with turn := n } } d = none from hc]
    rfl
  · have hlt : n < 16 := by
      obtain ⟨i, -, hi⟩ := List.mem_map.1 (List.mem_of_find?_eq_some hn)
      omega
    have hq' : CqTakes { s with ring := { s.ring with turn := n } } n := hq.of_ring rfl rfl rfl rfl
    rw [fetchOne_takes (s := { s with ring := { s.ring with turn := n } }) hst,
      show checkDesc { s with ring := { s.ring with turn := n } } d = some st from hc]
    exact ⟨_, rfl, finishNow_posted _ (fetchedCmd { s with ring := { s.ring with turn := n } } n d) st 0 [] hlt (.inl rfl)
      (hq'.fetchTaken d)⟩
  · rw [fetchOne_waits (s := { s with ring := { s.ring with turn := n } }) h1 h2]
  · obtain ⟨p, o, h, he⟩ := sqErr_leaves (setSq { s with ring := { s.ring with turn := n } } n { getSq s n with st := .error }) n
      s.ring.fetchErr (fun r => { r with fetchErr := true })
    have ht : (fetchOne { s with ring := { s.ring with turn := n } } n none).1 = sqErr (setSq { s with ring := { s.ring with turn := n } } n
      { getSq s n with st := .error }) n s.ring.fetchErr (fun r => { r with fetchErr := true }) := rfl
    rw [ht, he]
    refine ⟨_, rfl, ?_, rfl, rfl, rfl⟩
    exact getSq_setSq { s with ring := { s.ring with turn := n } } n { getSq s n with st := .error }

/-! ### Register writes of the host -/

theorem exec_sqEnable (s : State) (n : Fin 16) (v : Word) : exec (.sqEnable n v) s = .next (hostWrite s (0x808 + 16 * n.val) (v ||| 1#32)) := rfl
theorem exec_cqEnable (s : State) (n : Fin 16) (v : Word) : exec (.cqEnable n v) s = .next (hostWrite s (0x908 + 16 * n.val) (v ||| 1#32)) := rfl
theorem exec_eqEnable (s : State) (v : Word) : exec (.eqEnable v) s = .next (hostWrite s 0xA08 (v ||| 1#32)) := rfl
theorem exec_sqDisable (s : State) (n : Fin 16) (v : Word) :
    exec (.sqDisable n v) s = .next (hostWrite s (0x808 + 16 * n.val) (v &&& ~~~1#32)) := rfl
theorem exec_cqDisable (s : State) (n : Fin 16) (v : Word) :
    exec (.cqDisable n v) s = .next (hostWrite s (0x908 + 16 * n.val) (v &&& ~~~1#32)) := rfl
theorem exec_eqDisable (s : State) (v : Word) : exec (.eqDisable v) s = .next (hostWrite s 0xA08 (v &&& ~~~1#32)) := rfl

/-- A write to the ring registers that lands. -/
theorem hostWrite_ring {s : State} {off : Nat} (v : Word) (h : Lands s off) (hq : span off 0x800 0xA10 = true) :
    hostWrite s off v = writeQ (dozeLeave s) off v := by
  have hlo : 0x800 ≤ off ∧ off < 0xA10 := by simpa [span] using hq
  have hm : span off 0xF000 0xF200 = false := by simp [span]; omega
  have hh : homeOf off ≠ none := by
    have h1 : ¬ off < 0x400 := by omega
    have h2 : ¬ off < 0x800 := by omega
    have h3 : off < 0x1000 := by omega
    have h4 : off < 0xA10 := hlo.2
    simp [homeOf, h1, h2, h3, h4]
  have hreg : regOf off = none := by
    have h0 : off ≠ 0x400 := by omega
    have h1 : off < 0x1800 := by omega
    have h2 : inst off 0x1004 0x100 5 = none := by
      unfold inst
      simp only [ite_eq_right_iff, reduceCtorEq, imp_false]
      omega
    simp [regOf, h0, h1, h2]
  have hspan : span off 0x800 0x1000 = true := by simp [span]; omega
  rw [hostWrite_lands v h hm hh, writeNow, hreg, hspan]
  rfl

theorem writeQ_sqCfg (z : State) (n : Fin 16) (v : Word) : writeQ z (0x808 + 16 * n.val) v = sqCfg z n.val v := by
  have h1 : span (0x808 + 16 * n.val) 0x800 0x900 = true := by simp [span]; omega
  have h2 : (0x808 + 16 * n.val - 0x800) / 16 = n.val := by omega
  have h3 : (0x808 + 16 * n.val) % 16 = 8 := by omega
  simp only [writeQ, h1, h2, h3, if_true]

theorem writeQ_cqCfg (z : State) (n : Fin 16) (v : Word) : writeQ z (0x908 + 16 * n.val) v = cqCfg z n.val v := by
  have h0 : span (0x908 + 16 * n.val) 0x800 0x900 = false := by simp [span]; omega
  have h1 : span (0x908 + 16 * n.val) 0x900 0xA00 = true := by simp [span]; omega
  have h2 : (0x908 + 16 * n.val - 0x900) / 16 = n.val := by omega
  have h3 : (0x908 + 16 * n.val) % 16 = 8 := by omega
  simp [writeQ, h0, h1, h2, h3]

theorem writeQ_eqCfg (z : State) (v : Word) : writeQ z 0xA08 v = eqCfg z v := rfl

theorem hostWrite_sqCfg {s : State} (n : Fin 16) (v : Word) (h : Lands s (0x808 + 16 * n.val)) :
    hostWrite s (0x808 + 16 * n.val) v = sqCfg (dozeLeave s) n.val v := by
  rw [hostWrite_ring v h (by simp [span]; omega), writeQ_sqCfg]

theorem hostWrite_cqCfg {s : State} (n : Fin 16) (v : Word) (h : Lands s (0x908 + 16 * n.val)) :
    hostWrite s (0x908 + 16 * n.val) v = cqCfg (dozeLeave s) n.val v := by
  rw [hostWrite_ring v h (by simp [span]; omega), writeQ_cqCfg]

theorem hostWrite_eqCfg {s : State} (v : Word) (h : Lands s 0xA08) : hostWrite s 0xA08 v = eqCfg (dozeLeave s) v := by
  rw [hostWrite_ring v h (by decide), writeQ_eqCfg]

/-- In spillway mode the recovery path is queue pair 0 alone (R402). -/
theorem spillway_sq0 {s : State} {n : Fin 16} (h : Lands s (0x808 + 16 * n.val)) : ¬ (inSpillway (dozeLeave s) = true ∧ n.val ≠ 0) := by
  rintro ⟨hsp, hn⟩
  have hrec : recovery (0x808 + 16 * n.val) true = false := by
    have hall : ∀ k : Fin 16, k.val ≠ 0 → recovery (0x808 + 16 * k.val) true = false := by decide
    exact hall n hn
  rw [inSpillway_dozeLeave] at hsp
  have := h.recovery
  rw [hsp, hrec] at this
  cases this

theorem spillway_cq0 {s : State} {n : Fin 16} (h : Lands s (0x908 + 16 * n.val)) : ¬ (inSpillway (dozeLeave s) = true ∧ n.val ≠ 0) := by
  rintro ⟨hsp, hn⟩
  have hrec : recovery (0x908 + 16 * n.val) true = false := by
    have hall : ∀ k : Fin 16, k.val ≠ 0 → recovery (0x908 + 16 * k.val) true = false := by decide
    exact hall n hn
  rw [inSpillway_dozeLeave] at hsp
  have := h.recovery
  rw [hsp, hrec] at this
  cases this

theorem bitOf_or_one (v : Word) : bitOf (v ||| 1#32) 0 = true := by simp [bitOf]
theorem bitOf_clear_one (v : Word) : bitOf (v &&& ~~~1#32) 0 = false := by simp [bitOf]

theorem keptSize_same {w : Word} {old : Nat} (h : cfgSize w = old) : keptSize w old = old := by simp [keptSize, h]

theorem ringOverlaps_dozeLeave (s : State) (but base len : Nat) : ringOverlaps (dozeLeave s) but base len = ringOverlaps s but base len := by
  unfold dozeLeave
  split <;> rfl

/-! ### Queues enabled and disabled (R329, R330, R333) -/

theorem sqCfg_enables {z : State} {n : Nat} {w : Word} (hst : (getSq z n).st = .disabled) (hb : bitOf w 0 = true)
    (hsp : ¬ (inSpillway z = true ∧ n ≠ 0)) (hsz : cfgSize w ≤ 8) (hcq : (getCq z (fld w 8 4)).active = true)
    (ho : ringOverlaps z n (getSq z n).base.toNat (64 * ringSize (cfgSize w)) = false) :
    sqCfg z n w = setSq z n { getSq z n with size := cfgSize w, cq := fld w 8 4, burst := fld w 16 3, head := 0, tail := 0, st := .active } := by
  simp [sqCfg, hst, hb, hsp, Nat.not_lt.2 hsz, hcq, ho]

theorem sqCfg_bad {z : State} {n : Nat} {w : Word} (hst : (getSq z n).st = .disabled) (hb : bitOf w 0 = true)
    (hsp : ¬ (inSpillway z = true ∧ n ≠ 0)) (hbad : 8 < cfgSize w ∨ (getCq z (fld w 8 4)).active = false ∨
      ringOverlaps z n (getSq z n).base.toNat (64 * ringSize (cfgSize w)) = true) :
    sqCfg z n w = sqErr z n z.ring.cfgBad setBad := by
  have hbad' : 8 < cfgSize w ∨ (!(getCq z (fld w 8 4)).active) = true ∨
      ringOverlaps z n (getSq z n).base.toNat (64 * ringSize (cfgSize w)) = true :=
    hbad.imp_right fun h => h.imp_left fun h => by rw [h]; rfl
  unfold sqCfg
  dsimp only
  rw [if_pos hst, if_pos hb, if_neg hsp, if_pos hbad']

theorem cqCfg_enables {z : State} {n : Nat} {w : Word} (hst : (getCq z n).active = false) (hb : bitOf w 0 = true)
    (hsp : ¬ (inSpillway z = true ∧ n ≠ 0)) (hsz : cfgSize w ≤ 8)
    (ho : ringOverlaps z (16 + n) (getCq z n).base.toNat (16 * ringSize (cfgSize w)) = false) :
    cqCfg z n w = setCq z n { getCq z n with
      size := cfgSize w, vector := fld w 8 5, ien := bitOf w 13, head := 0, tail := 0, phase := true, active := true, held := [],
      counted := 0, timer := false } := by
  simp [cqCfg, hst, hb, hsp, Nat.not_lt.2 hsz, ho]

theorem eqCfg_enables {z : State} {w : Word} (hst : z.ring.eq.active = false) (hb : bitOf w 0 = true) (hsz : cfgSize w ≤ 8)
    (ho : ringOverlaps z 32 z.ring.eq.base.toNat (16 * ringSize (cfgSize w)) = false) (hw : z.ring.heldWake = false) :
    eqCfg z w = { z with ring := { z.ring with eq := { z.ring.eq with
      size := cfgSize w, vector := fld w 8 5, ien := bitOf w 13, head := 0, tail := 0, phase := true, active := true, counted := 0,
      timer := false } } } := by
  simp [eqCfg, hst, hb, Nat.not_lt.2 hsz, ho, postHeldWake, hw]

/-- A queue without fetched commands is DISABLED at once (R330). -/
theorem drainSq_idle {z : State} {n : Nat} (h : ∀ c ∈ z.ring.cmds, c.sq ≠ n) :
    drainSq z n = setSq (setSq z n { getSq z n with st := .draining }) n { getSq z n with st := .disabled } := by
  have hnone : ∀ p : Cmd → Bool, z.ring.cmds.filter (fun c => c.sq == n && p c) = [] := fun p =>
    List.filter_eq_nil_iff.2 fun c hc => by simp [h c hc]
  have hany : (z.ring.cmds.any fun c => c.sq == n) = false := List.any_eq_false.2 fun c hc => by simpa using h c hc
  have hdrain : drainSq z n = settleSq (setSq z n { getSq z n with st := .draining }) n := by
    unfold drainSq
    simp only [setSq, hnone, List.foldl_nil]
  rw [hdrain]
  unfold settleSq
  rw [getSq_setSq]
  dsimp only
  rw [if_pos (by simp only [setSq, hany]; rfl)]

theorem sqCfg_disables {z : State} {n : Nat} {w : Word} (hst : (getSq z n).st ≠ .disabled) (hb : bitOf w 0 = false)
    (hsz : cfgSize w = (getSq z n).size) (hcq : fld w 8 4 = (getSq z n).cq) (h : ∀ c ∈ z.ring.cmds, c.sq ≠ n) :
    sqCfg z n w = setSq (setSq (setSq z n { getSq z n with burst := fld w 16 3 }) n
      { getSq z n with burst := fld w 16 3, st := .draining }) n { getSq z n with burst := fld w 16 3, st := .disabled } := by
  have hkeep : ¬ (keptSize w (getSq z n).size ≠ (getSq z n).size ∨ fld w 8 4 ≠ (getSq z n).cq) := by
    rw [keptSize_same hsz, hcq]
    simp
  have hdrain := drainSq_idle (z := setSq z n { getSq z n with burst := fld w 16 3 }) h
  rw [getSq_setSq] at hdrain
  rw [← hdrain]
  unfold sqCfg
  dsimp only
  rw [if_neg hst, if_neg hkeep, hb]
  rfl

theorem cqCfg_disables {z : State} {n : Nat} {w : Word} (hst : (getCq z n).active = true) (hb : bitOf w 0 = false)
    (hsz : cfgSize w = (getCq z n).size) (h : ∀ i, i < 16 → (getSq z i).cq = n → (getSq z i).st = .disabled) :
    cqCfg z n w = setCq z n { getCq z n with
      vector := fld w 8 5, ien := bitOf w 13, active := false, held := [], counted := 0, timer := false } := by
  have hnone : ((List.range 16).any fun i => (getSq z i).cq == n && decide ((getSq z i).st ≠ .disabled)) = false := by
    refine List.any_eq_false.2 fun i hi => ?_
    have := h i (List.mem_range.1 hi)
    simpa using this
  simp only [cqCfg, hst, keptSize_same hsz, hnone, hb]
  simp

theorem cqCfg_bound {z : State} {n i : Nat} {w : Word} (hst : (getCq z n).active = true) (hb : bitOf w 0 = false) (hi : i < 16)
    (hcq : (getSq z i).cq = n) (hd : (getSq z i).st ≠ .disabled) : cqCfg z n w = cqErr z n z.ring.cfgBusy setBusy := by
  have hany : ((List.range 16).any fun i => (getSq z i).cq == n && decide ((getSq z i).st ≠ .disabled)) = true :=
    List.any_eq_true.2 ⟨i, List.mem_range.2 hi, by simp [hcq, hd]⟩
  simp only [cqCfg, hst, hany, hb]
  simp

theorem eqCfg_disables {z : State} {w : Word} (hst : z.ring.eq.active = true) (hb : bitOf w 0 = false) (hsz : cfgSize w = z.ring.eq.size) :
    eqCfg z w = { z with ring := { z.ring with eq := { z.ring.eq with
      vector := fld w 8 5, ien := bitOf w 13, active := false, counted := 0, timer := false } } } := by
  simp [eqCfg, hst, keptSize_same hsz, hb]

/-- Settles O22, queue by queue. -/
theorem queuesEnableAndDisable : Obligations.QueuesEnableAndDisable := by
  unfold Obligations.QueuesEnableAndDisable
  refine ⟨fun s n v => ?_, fun s n v => ?_⟩
  · dsimp only
    rw [exec_sqEnable, exec_cqEnable, exec_eqEnable]
    generalize hw : v ||| 1#32 = w
    have hb : bitOf w 0 = true := by rw [← hw, bitOf_or_one]
    have hov := ringOverlaps_dozeLeave s
    rw [← getSq_dozeLeave s, ← getCq_dozeLeave s, ← dozeLeave_ring s]
    refine ⟨fun h hst hsz hcq ho => ?_, fun h hst hsz ho => ?_, fun h hst hsz ho hwk => ?_, fun h hst hbad => ?_⟩
    · rw [hostWrite_sqCfg n w h, sqCfg_enables hst hb (spillway_sq0 h) hsz hcq ((hov _ _ _).trans ho)]
    · rw [hostWrite_cqCfg n w h, cqCfg_enables hst hb (spillway_cq0 h) hsz ((hov _ _ _).trans ho)]
    · rw [hostWrite_eqCfg w h, eqCfg_enables hst hb hsz ((hov _ _ _).trans ho) hwk]
    · rw [hostWrite_sqCfg n w h, sqCfg_bad hst hb (spillway_sq0 h) (hbad.imp_right fun k => k.imp_right fun k => (hov _ _ _).trans k)]
      obtain ⟨p, o, x, he⟩ := sqErr_leaves (dozeLeave s) n.val (dozeLeave s).ring.cfgBad setBad
      rw [he]
      exact ⟨_, rfl, rfl, rfl, rfl, rfl⟩
  · dsimp only
    rw [exec_sqDisable, exec_cqDisable, exec_eqDisable]
    generalize hw : v &&& ~~~1#32 = w
    have hb : bitOf w 0 = false := by rw [← hw, bitOf_clear_one]
    rw [← getSq_dozeLeave s, ← getCq_dozeLeave s, ← dozeLeave_ring s]
    refine ⟨fun h hst hsz hcq hc => ?_, fun h hst hsz hq => ?_, fun h hst hsz => ?_, fun i h hst hi hcq hd => ?_⟩
    · rw [hostWrite_sqCfg n w h, sqCfg_disables hst hb hsz hcq hc]
      refine ⟨_, rfl, fun i => ?_, rfl⟩
      by_cases hin : i = n.val
      · rw [if_pos hin, hin, getSq_setSq]
      · rw [if_neg hin, getSq_setSq_ne _ hin, getSq_setSq_ne _ hin, getSq_setSq_ne _ hin]
    · rw [hostWrite_cqCfg n w h, cqCfg_disables hst hb hsz hq]
    · rw [hostWrite_eqCfg w h, eqCfg_disables hst hb hsz]
    · rw [hostWrite_cqCfg n w h, cqCfg_bound hst hb hi hcq hd]
      obtain ⟨p, o, x, he⟩ := cqErr_leaves (dozeLeave s) n.val (dozeLeave s).ring.cfgBusy setBusy
      rw [he]
      exact ⟨_, rfl, rfl, rfl, rfl, rfl⟩

end Sys2Proof.Machine
end

section
/-! ## Control writes, staged writes and interrupts (R13, R15, R324, R326, R350, R354, R356, R357, R362, R363, R369, R390, R429) -/

namespace Sys2Proof.Machine
open Sys2Proof

/-! ### Control writes -/

theorem exec_qHoldWrite (s : State) (v : Word) : exec (.qHoldWrite v) s = .next (hostWrite s 0xB04 v) := rfl
theorem exec_cfgHold (s : State) (on : Bool) : exec (.cfgHold on) s = .next (hostWrite s 0x7800 (packW [(0, 1, b2n on)])) := rfl
theorem exec_cfgDiscard (s : State) : exec .cfgDiscard s = .next (hostWrite s 0x7800 (packW [(0, 1, b2n s.cfg.hold), (1, 1, 1)])) := rfl
theorem exec_cfgSealRefWrite (s : State) (v : Word) : exec (.cfgSealRefWrite v) s = .next (hostWrite s 0x7808 v) := rfl
theorem exec_sleepRequest (s : State) : exec .sleepRequest s = .next (hostWrite s 0x7004 2#32) := rfl
theorem exec_hibernateRequest (s : State) : exec .hibernateRequest s = .next (hostWrite s 0x7004 3#32) := rfl
theorem exec_ptmCapture (s : State) :
    exec .ptmCapture s = .next (hostWrite s 0x410 (packW [(0, 1, b2n s.ring.ptmAuto), (1, 1, 1)])) := rfl

/-- A write to a control register that is neither staged nor of the rings. -/
theorem hostWrite_flags {s : State} {off : Nat} (v : Word) (h : Lands s off) (hm : span off 0xF000 0xF200 = false)
    (hh : homeOf off ≠ none) (hr : regOf off = none) (hq : span off 0x800 0x1000 = false) :
    hostWrite s off v = writeFlags (dozeLeave s) off v := by
  rw [hostWrite_lands v h hm hh, writeNow, hr, hq]
  rfl

theorem hostWrite_hold {s : State} (v : Word) (h : Lands s 0xB04) : hostWrite s 0xB04 v = holdWrite (dozeLeave s) v := by
  rw [hostWrite_lands v h (by decide) (by decide)]
  rfl

theorem hostWrite_cfgCtl {s : State} (v : Word) (h : Lands s 0x7800) : hostWrite s 0x7800 v = cfgCtl (dozeLeave s) v := by
  rw [hostWrite_flags v h (by decide) (by decide) (by decide) (by decide)]
  rfl

theorem hostWrite_sealRef {s : State} (v : Word) (h : Lands s 0x7808) : hostWrite s 0x7808 v = sealRefWrite (dozeLeave s) v := by
  rw [hostWrite_flags v h (by decide) (by decide) (by decide) (by decide)]
  rfl

theorem hostWrite_pwrCtl {s : State} (v : Word) (h : Lands s 0x7004) : hostWrite s 0x7004 v = requestSleep (dozeLeave s) (fld v 0 2) := by
  rw [hostWrite_flags v h (by decide) (by decide) (by decide) (by decide)]
  rfl

theorem hostWrite_ptmCtl {s : State} (v : Word) (h : Lands s 0x410) : hostWrite s 0x410 v = ptmCtl (dozeLeave s) v := by
  rw [hostWrite_flags v h (by decide) (by decide) (by decide) (by decide)]
  rfl

theorem packed_low (b : Bool) : bitOf (packW [(0, 1, b2n b)]) 0 = b ∧ bitOf (packW [(0, 1, b2n b)]) 1 = false := by
  cases b <;> decide

theorem packed_both (b : Bool) : bitOf (packW [(0, 1, b2n b), (1, 1, 1)]) 0 = b ∧ bitOf (packW [(0, 1, b2n b), (1, 1, 1)]) 1 = true := by
  cases b <;> decide

theorem cfgCtl_hold (z : State) (on : Bool) : cfgCtl z (packW [(0, 1, b2n on)]) = { z with cfg := { z.cfg with hold := on } } := by
  obtain ⟨h0, h1⟩ := packed_low on
  simp only [cfgCtl, h0, h1, Bool.false_eq_true, if_false]

theorem cfgCtl_discard (z : State) {b : Bool} (hb : z.cfg.hold = b) : cfgCtl z (packW [(0, 1, b2n b), (1, 1, 1)]) =
    { z with cfg := { z.cfg with staged := [], imageSet := [], stageLost := true } } := by
  obtain ⟨h0, h1⟩ := packed_both b
  unfold cfgCtl
  simp only [h0, h1, if_true]
  rw [← hb]

theorem ptmCtl_capture (z : State) {b : Bool} (hb : z.ring.ptmAuto = b) : ptmCtl z (packW [(0, 1, b2n b), (1, 1, 1)]) =
    { z with ring := { z.ring with ptmCapture := true } } := by
  obtain ⟨h0, h1⟩ := packed_both b
  unfold ptmCtl
  simp only [h0, h1, Bool.or_true]
  rw [← hb]

/-! ### Writes to a staged register -/

theorem exec_registerWrite {s : State} {off : BitVec 16} (v : Word) (be : BitVec 4) (h : off.toNat % 4 = 0) :
    exec (.registerWrite .host off v be) s = .next (writeReg s .host off.toNat v be) := by
  have he : off.toNat / 4 * 4 = off.toNat := by omega
  rw [← he]
  rfl

/-- A write that reaches the registers and finds its home powered. -/
theorem writeReg_home {s : State} {off : Nat} (v : Word) (be : BitVec 4) (h : Lands s off) (hm : span off 0xF000 0xF200 = false) :
    writeReg s .host off v be = if be ≠ 15#4 ∨ homeOf off = none then dozeLeave s else writeNow (dozeLeave s) off v := by
  have hp : pathOpen s .host = true := h.reach
  simp only [writeReg, hp, hm, Bool.not_true, Bool.false_eq_true, if_false, inSpillway_dozeLeave, h.recovery, poweredOff_dozeLeave, h.home,
    dozeLeave_flt, h.keeper, false_and]

theorem inst_some {off base step cnt n : Nat} (h : inst off base step cnt = some n) :
    base ≤ off ∧ off < base + step * cnt ∧ (off - base) % step = 0 := by
  unfold inst at h
  split at h
  · assumption
  · cases h

theorem instMap_some {off base step cnt : Nat} {f : Nat → RReg} {r : RReg} (h : (inst off base step cnt).map f = some r) :
    base ≤ off ∧ off < base + step * cnt ∧ (off - base) % step = 0 := by
  obtain ⟨n, hn, -⟩ := Option.map_eq_some_iff.1 h
  exact inst_some hn

/-- The offset has a home and lies outside the MSI-X table. -/
def HasHome (off : Nat) : Prop := homeOf off ≠ none ∧ span off 0xF000 0xF200 = false

theorem hasHome_polder {off : Nat} (h1 : 0x1000 ≤ off) (h2 : off < 0x1500) (h3 : off % 0x100 < 0x10) : HasHome off := by
  refine ⟨?_, by simp [span]; omega⟩
  simp only [homeOf, show ¬ off < 0x400 by omega, show ¬ off < 0x800 by omega, show ¬ off < 0x1000 by omega, show off < 0x1800 by omega,
    h2, h3, if_false, if_true, and_self]
  decide

theorem hasHome_assign {off : Nat} (h1 : 0x1840 ≤ off) (h2 : off < 0x1870) : HasHome off := by
  refine ⟨?_, by simp [span]; omega⟩
  have hs : span off 0x1840 0x1870 = true := by simp [span]; omega
  simp only [homeOf, show ¬ off < 0x400 by omega, show ¬ off < 0x800 by omega, show ¬ off < 0x1000 by omega, show ¬ off < 0x1800 by omega,
    show off < 0x2000 by omega, hs, if_false, if_true, true_or, or_true]
  decide

theorem hasHome_channel {off : Nat} (h1 : 0x2000 ≤ off) (h2 : off < 0x3800) : HasHome off := by
  refine ⟨?_, by simp [span]; omega⟩
  simp only [homeOf, show ¬ off < 0x400 by omega, show ¬ off < 0x800 by omega, show ¬ off < 0x1000 by omega, show ¬ off < 0x1800 by omega,
    show ¬ off < 0x2000 by omega, h2, if_false, if_true]
  split <;> simp

theorem hasHome_air {off : Nat} (h : (0x3810 ≤ off ∧ off < 0x3824) ∨ (0x3900 ≤ off ∧ off < 0x3A80)) : HasHome off := by
  refine ⟨?_, by simp [span]; omega⟩
  have hs : off = 0x3800 ∨ span off 0x3810 0x3824 = true ∨ span off 0x3900 0x3F24 = true := by
    rcases h with h | h
    · exact .inr (.inl (by simp [span]; omega))
    · exact .inr (.inr (by simp [span]; omega))
  simp only [homeOf, show ¬ off < 0x400 by omega, show ¬ off < 0x800 by omega, show ¬ off < 0x1000 by omega, show ¬ off < 0x1800 by omega,
    show ¬ off < 0x2000 by omega, show ¬ off < 0x3800 by omega, show off < 0x4000 by omega, hs, if_false, if_true]
  decide

theorem hasHome_sluice {off : Nat} (h1 : 0x4800 ≤ off) (h2 : off < 0x4844) : HasHome off := by
  refine ⟨?_, by simp [span]; omega⟩
  simp only [homeOf, show ¬ off < 0x400 by omega, show ¬ off < 0x800 by omega, show ¬ off < 0x1000 by omega, show ¬ off < 0x1800 by omega,
    show ¬ off < 0x2000 by omega, show ¬ off < 0x3800 by omega, show ¬ off < 0x4000 by omega, show ¬ off < 0x4800 by omega,
    show off < 0x5000 by omega, show off < 0x486C by omega, if_false, if_true, true_or]
  decide

theorem hasHome_user {off : Nat} (h1 : 0x7900 ≤ off) (h2 : off < 0x7B00) : HasHome off := by
  refine ⟨?_, by simp [span]; omega⟩
  have hs : span off 0x7900 0x7B00 = true := by simp [span]; omega
  simp only [homeOf, show ¬ off < 0x400 by omega, show ¬ off < 0x800 by omega, show ¬ off < 0x1000 by omega, show ¬ off < 0x1800 by omega,
    show ¬ off < 0x2000 by omega, show ¬ off < 0x3800 by omega, show ¬ off < 0x4000 by omega, show ¬ off < 0x4800 by omega,
    show ¬ off < 0x5000 by omega, show ¬ off < 0x5800 by omega, show ¬ off < 0x6000 by omega, show ¬ off < 0x6400 by omega,
    show ¬ off < 0x6800 by omega, show ¬ off < 0x7000 by omega, show ¬ off < 0x7800 by omega, show off < 0x8000 by omega, hs, if_false,
    if_true, or_true]
  decide

/-- Every register that a staged write names has a home (R429). -/
theorem regOf_home {off : Nat} {r : RReg} (h : regOf off = some r) : HasHome off := by
  have hconst : ∀ k : Nat, off = k → homeOf k ≠ none ∧ span k 0xF000 0xF200 = false → HasHome off := fun k hk hh => hk ▸ hh
  unfold regOf at h
  split at h
  · next h0 => exact hconst _ h0 (by decide)
  split at h
  · obtain ⟨h1, h2, h3⟩ := instMap_some h
    exact hasHome_polder (by omega) (by omega) (by omega)
  split at h
  · split at h
    · next h0 => exact hconst _ h0 (by decide)
    split at h
    · next h0 => exact hconst _ h0 (by decide)
    split at h
    · next h0 => exact hconst _ h0 (by decide)
    obtain ⟨h1, h2, -⟩ := instMap_some h
    exact hasHome_assign h1 (by omega)
  split at h
  · exact hasHome_channel (by omega) (by assumption)
  split at h
  · split at h
    · next h0 => exact hconst _ h0 (by decide)
    split at h
    · next h0 => exact hconst _ h0 (by decide)
    split at h
    · obtain ⟨h1, h2, -⟩ := instMap_some h
      exact hasHome_air (.inl ⟨h1, by omega⟩)
    · obtain ⟨h1, h2, -⟩ := instMap_some h
      exact hasHome_air (.inr ⟨h1, by omega⟩)
  split at h
  · split at h
    iterate 7 · exact ⟨by decide, by decide⟩
    · cases h
  split at h
  · split at h
    iterate 9 · exact ⟨by decide, by decide⟩
    · split at h
      · next n hn =>
        obtain ⟨h1, h2, -⟩ := inst_some hn
        exact hasHome_sluice h1 (by omega)
      · obtain ⟨h1, h2, -⟩ := instMap_some h
        exact hasHome_sluice (by omega) (by omega)
  · split at h
    iterate 19 · exact ⟨by decide, by decide⟩
    · obtain ⟨h1, h2, -⟩ := instMap_some h
      exact hasHome_user h1 (by omega)

theorem dozeLeave_st (s : State) : (dozeLeave s).pwr.st ≠ .doze := by
  unfold dozeLeave
  split
  · simp [setPwr]
  · assumption

/-- A second access finds the device awake (R389). -/
theorem dozeLeave_awake {s : State} (h : s.pwr.st ≠ .doze) : dozeLeave s = s := if_neg h

theorem meterLocked_dozeLeave (s : State) : meterLocked (dozeLeave s) = meterLocked s := by
  unfold dozeLeave
  split <;> rfl

/-- A host write to a staged register takes its pending slot (R13, R362). -/
theorem writeReg_stages {s : State} {off : Nat} {r : RReg} (v : Word) (h : Lands s off) (hr : regOf off = some r)
    (he : s.cfg.eccShadow.contains off = false) (hm : (meterLocked s && inMeterSet off) = false) :
    writeReg s .host off v 15#4 = { dozeLeave s with cfg := { s.cfg with staged := smIns s.cfg.staged off v } } := by
  obtain ⟨hh, hsp⟩ := regOf_home hr
  have hstage : stageWrite (dozeLeave s) off v = { dozeLeave s with cfg := { s.cfg with staged := smIns s.cfg.staged off v } } := by
    have he' : ¬ (dozeLeave s).cfg.eccShadow.contains off = true := by rw [dozeLeave_cfg, he]; decide
    have hm' : ¬ (meterLocked (dozeLeave s) && inMeterSet off) = true := by rw [meterLocked_dozeLeave, hm]; decide
    rw [stageWrite, if_neg he', if_neg hm', dozeLeave_cfg]
  rw [writeReg_home v _ h hsp, if_neg (by simp [hh]), writeNow, hr, ← hstage]
  rfl

theorem Lands.of_staged {s : State} {off : Nat} (h : Lands s off) (c : CfgState) : Lands { dozeLeave s with cfg := c } off :=
  ⟨(hostReach_dozeLeave s).trans h.reach, (congrArg (· && !Machine.recovery off true) (inSpillway_dozeLeave s)).trans h.recovery,
    (poweredOff_dozeLeave s off).trans h.home, (congrArg Faults.restarting (dozeLeave_flt s)).trans h.keeper⟩

/-- Settles O23, register by register. -/
theorem registerWritesAct : Obligations.RegisterWritesAct := by
  unfold Obligations.RegisterWritesAct
  refine ⟨fun s v on => ?_, fun s off v w be hal h => ?_⟩
  · have hh : ∀ b, s.cfg.hold = b → (dozeLeave s).cfg.hold = b := fun b hb => by rw [dozeLeave_cfg, hb]
    have hp : ∀ b, s.ring.ptmAuto = b → (dozeLeave s).ring.ptmAuto = b := fun b hb => by rw [dozeLeave_ring, hb]
    refine ⟨fun h => ?_, fun h => ?_, fun h => ?_, fun h => ?_, fun h => ?_, fun h => ?_, fun h => ?_⟩
    · rw [exec_qHoldWrite, hostWrite_hold v h, holdWrite]
    · rw [exec_cfgHold, hostWrite_cfgCtl _ h, cfgCtl_hold]
    · rw [exec_cfgDiscard, hostWrite_cfgCtl _ h, cfgCtl_discard _ (hh _ rfl)]
    · rw [exec_cfgSealRefWrite, hostWrite_sealRef v h, sealRefWrite]
    · rw [exec_sleepRequest, hostWrite_pwrCtl _ h]
      rfl
    · rw [exec_hibernateRequest, hostWrite_pwrCtl _ h]
      rfl
    · rw [exec_ptmCapture, hostWrite_ptmCtl _ h, ptmCtl_capture _ (hp _ rfl)]
  · refine ⟨fun r hr he hm => ?_, fun hbe hsp => ?_, fun hn => ?_⟩
    · have h2 : Lands { dozeLeave s with cfg := { s.cfg with staged := smIns s.cfg.staged off.toNat v } } off.toNat := h.of_staged _
      have hm2 : (meterLocked { dozeLeave s with cfg := { s.cfg with staged := smIns s.cfg.staged off.toNat v } } &&
          inMeterSet off.toNat) = false := (congrArg (· && inMeterSet off.toNat) (meterLocked_dozeLeave s)).trans hm
      have hmap : (smGet (smIns (smIns s.cfg.staged off.toNat v) off.toNat w) off.toNat 0) = w := smGet_smIns_self _ _ _ _
      refine ⟨_, _, by rw [exec_registerWrite v _ hal, writeReg_stages v h hr he hm], smGet_smIns_self _ _ _ _,
        fun o ho => smGet_smIns_ne _ ho _ _, rfl, by rw [exec_registerWrite w _ hal, writeReg_stages w h2 hr he hm2], hmap⟩
    · rw [exec_registerWrite v be hal, writeReg_home v be h hsp, if_pos (.inl hbe)]
    · have hsp : span off.toNat 0xF000 0xF200 = false := by
        by_contra hs
        have hs' : span off.toNat 0xF000 0xF200 = true := by simpa using hs
        have hlo : 0xF000 ≤ off.toNat ∧ off.toNat < 0xF200 := by simpa [span] using hs'
        simp [homeOf, show ¬ off.toNat < 0x400 by omega, show ¬ off.toNat < 0x800 by omega, show ¬ off.toNat < 0x1000 by omega,
          show ¬ off.toNat < 0x1800 by omega, show ¬ off.toNat < 0x2000 by omega, show ¬ off.toNat < 0x3800 by omega,
          show ¬ off.toNat < 0x4000 by omega, show ¬ off.toNat < 0x4800 by omega, show ¬ off.toNat < 0x5000 by omega,
          show ¬ off.toNat < 0x5800 by omega, show ¬ off.toNat < 0x6000 by omega, show ¬ off.toNat < 0x6400 by omega,
          show ¬ off.toNat < 0x6800 by omega, show ¬ off.toNat < 0x7000 by omega, show ¬ off.toNat < 0x7800 by omega,
          show ¬ off.toNat < 0x8000 by omega, show ¬ off.toNat < 0x9000 by omega, hs'] at hn
      rw [exec_registerWrite v be hal, writeReg_home v be h hsp, if_pos (.inr hn)]

/-! ### Interrupts, Bus Master Enable and the function reset -/

theorem exec_interruptTimerExpiry (s : State) (q : Fin 17) : exec (.interruptTimerExpiry q) s = .next (timerExpiry s q.val) := rfl
theorem exec_functionReset (s : State) : exec .functionReset s = .next (functionReset s) := rfl

theorem exec_msixTableWrite {s : State} (vec : Fin 32) (dw : Fin 4) (v : Word) (h : hostReach s = true) :
    exec (.msixTableWrite vec dw v) s = .next (msixWrite (dozeLeave s) vec.val dw.val v) := by
  have hp : pathOpen s .host = true := h
  rw [← if_pos (c := pathOpen s .host = true) (e := s) hp (t := msixWrite (dozeLeave s) vec.val dw.val v)]
  rfl

/-- A vector that is enabled, not masked and free to write is sent (R354, R356). -/
theorem sendVector_out {s : State} {v : Nat} (hc : s.ring.msixCtl = 1#2) (hm : s.ring.msixMask.getLsbD v = false) (hb : s.ring.bme = true) :
    sendVector s v = { s with ring := { s.ring with
      out := s.ring.out ++ [.msix v (smGet s.ring.msixAddr v 0) (smGet s.ring.msixData v 0)] } } := by
  simp [sendVector, hc, hm, emit, hb]

theorem timerExpiry_sends {s : State} {n : Nat} (hn : n < 16) (ht : (getCq s n).timer = true) (hi : (getCq s n).ien = true)
    (hc : 0 < (getCq s n).counted) : timerExpiry s n = sendVector (setCq s n { getCq s n with counted := 0, timer := false }) (getCq s n).vector := by
  simp [timerExpiry, hn, ht, hi, hc]

theorem functionReset_idle {s : State} (h : ∀ c ∈ s.ring.cmds, cmdWaits s c = false) : functionReset s = { s with ring := { Ring.reset with
    cmds := s.ring.cmds.map (fun c => { c with sq := 16 }), nextUid := s.ring.nextUid, out := s.ring.out, linkUp := s.ring.linkUp,
    gen3 := s.ring.gen3, heldWake := s.ring.heldWake, ptmCtxValid := s.ring.ptmCtxValid,
    deferred := s.ring.deferred.filter fun d => decide (0x10000 ≤ d.1) } } := by
  have hnone : s.ring.cmds.filter (cmdWaits s) = [] := List.filter_eq_nil_iff.2 fun c hc => by rw [h c hc]; decide
  simp only [functionReset, hnone, List.foldl_nil]

/-- Settles O25, event by event. -/
theorem ringEventsTakeEffect : Obligations.RingEventsTakeEffect := by
  unfold Obligations.RingEventsTakeEffect
  intro s n vec v
  refine ⟨fun ht hi hc hb hctl hm => ?_, rfl, rfl, fun h => ?_, fun h => ?_, fun h => ?_⟩
  · rw [exec_interruptTimerExpiry, timerExpiry_sends n.isLt ht hi hc,
      sendVector_out (s := setCq s n.val { getCq s n.val with counted := 0, timer := false }) hctl hm hb]
    exact ⟨_, rfl, rfl, getCq_setCq s n.val _, rfl⟩
  · rw [exec_functionReset, functionReset_idle h]
    exact ⟨_, rfl, fun i => ⟨rfl, rfl⟩, rfl, rfl, rfl, rfl, rfl, rfl, rfl⟩
  · have hr : ¬ (!hostReach (dozeLeave s)) = true := by rw [hostReach_dozeLeave, h]; decide
    rw [exec_msixTableWrite vec 2 v h, ← dozeLeave_ring s]
    exact congrArg _ (if_neg hr)
  · have hr : ¬ (!hostReach (dozeLeave s)) = true := by rw [hostReach_dozeLeave, h]; decide
    have hw : msixWrite (dozeLeave s) vec.val 1 v = { dozeLeave s with ring := { (dozeLeave s).ring with
        msixAddr := smPut (dozeLeave s).ring.msixAddr vec.val (BitVec.ofNat 64 ((smGet (dozeLeave s).ring.msixAddr vec.val 0).toNat %
          2 ^ 32 + v.toNat * 2 ^ 32)) 0 } } := if_neg hr
    have hx : exec (.msixTableWrite vec 1 v) s = .next (msixWrite (dozeLeave s) vec.val 1 v) := exec_msixTableWrite vec 1 v h
    rw [hx, hw, dozeLeave_ring]
    exact ⟨_, rfl, smGet_smPut_self _ _ _ _, rfl⟩

end Sys2Proof.Machine
end

section
/-! ## The link, the port and the AON clock; banks; calibrations; sluice inputs and outputs; meter rows (R76, R77, R79, R92, R93, R197,
R206, R208, R212, R229, R235, R323, R324, R381, R389, R394, R417, R431, R460, R462) -/

namespace Sys2Proof.Machine
open Sys2Proof

/-! ### Link, JTAG port, AON clock -/

theorem exec_linkSpeedChange (s : State) (on : Bool) :
    exec (.linkSpeedChange on) s = .next (if domReady s dLINK then { s with ring := { s.ring with gen3 := on } } else s) := rfl

theorem exec_ptmDialogue (s : State) (v : Bool) : exec (.ptmDialogue v) s = .next (if domReady s dLINK then
    { s with ring := { s.ring with ptmCtxValid := v,
                                   out := if s.ring.ptmAuto ∧ s.ring.ptmCtxValid then s.ring.out ++ [.ptmRequest] else s.ring.out } }
    else s) := rfl

theorem exec_pcieConfigAccess (s : State) (r : Fin 1024) (w : Option Word) :
    exec (.pcieConfigAccess r w) s = .next (configAccess s r.val w) := rfl

theorem exec_jtagTapAccess (s : State) (op : TapOp) : exec (.jtagTapAccess op) s = .next (tapAccess s op) := rfl

theorem exec_aonClockSwitch (s : State) : exec .aonClockSwitch s = .next
    (if s.pwr.entering ≠ 0 ∨ s.pwr.phase = .aonInit then s else setPwr s fun p => { p with aonXtal := true }) := rfl

theorem exec_linkL0Reached (s : State) : exec .linkL0Reached s = .next
    (if domReady s dLINK ∧ !s.pwr.perst then setPwr { s with ring := { s.ring with linkUp := true } } fun p => { p with wakeSignal := false }
    else s) := rfl

theorem configAccess_read {s : State} (r : Nat) (hd : domReady s dLINK = true) (hp : s.pwr.perst = false) (hc : configReady s = true) :
    configAccess s r none = putRdata s (configWord s r) := by
  simp [configAccess, hd, hp, hc]

theorem configAccess_early {s : State} (r : Nat) (w : Option Word) (h1 : s.pwr.phase ≠ .started) (h2 : s.pwr.phase ≠ .spillway) :
    configAccess s r w = s := by
  have hc : configReady s = false := by simp [configReady, inSpillway, h1, h2]
  simp [configAccess, hc]

theorem tapAccess_flashLocked {s : State} (a : Fin 7) (addr : Nat) (h : s.lcy.dbg = .locked) : tapAccess s (.flashRead a addr) = s := by
  simp [tapAccess, h]

theorem tapAccess_halt {s : State} (h : s.lcy.dbg = .opn) :
    tapAccess s .keeperHalt = { s with lcy := { s.lcy with keeperHalted := true } } := by
  simp [tapAccess, h]

/-- Settles O26, row by row. -/
theorem linkPortAndClock : Obligations.LinkPortAndClock := by
  unfold Obligations.LinkPortAndClock
  refine ⟨fun s on r w a addr => ⟨fun h => ?_, fun h => ?_, fun hd hp hc => ?_, fun h1 h2 => ?_, rfl, fun h => ?_, fun h => ?_⟩,
    fun s => ⟨fun h1 h2 => ?_, fun h => ?_, rfl, rfl, fun hd hp => ?_, fun h => ?_⟩⟩
  · rw [exec_linkSpeedChange, if_pos h]
  · rw [exec_ptmDialogue, if_pos h]
  · rw [exec_pcieConfigAccess, configAccess_read r.val hd hp hc]
  · rw [exec_pcieConfigAccess, configAccess_early r.val w h1 h2]
  · rw [exec_jtagTapAccess, tapAccess_flashLocked a addr h]
  · rw [exec_jtagTapAccess, tapAccess_halt h]
  · rw [exec_aonClockSwitch, if_neg (by simp [h1, h2]), setPwr]
  · rw [exec_aonClockSwitch, if_pos h]
  · rw [exec_linkL0Reached, if_pos ⟨hd, by rw [hp]; rfl⟩]
    rfl
  · rw [exec_linkL0Reached, if_neg]
    rintro ⟨h1, h2⟩
    rcases h with h | h
    · rw [h] at h1
      cases h1
    · rw [h] at h2
      cases h2

/-! ### Banks -/

theorem bankOf_masterOf (s : State) (c : Nat) : bankOf (masterOf s c) = bankOf c := by
  unfold masterOf
  split
  · next h =>
    have hodd : c % 2 = 1 := by
      simp only [gangSlave, Bool.and_eq_true, decide_eq_true_eq] at h
      exact h.1
    unfold bankOf
    omega
  · rfl

/-- A bank on which nothing runs is not touched by its fault. -/
theorem bankFault_idle {s : State} {b : Nat} (f : ChFault) (h : ∀ c, bankOf c = b → (getChan s c).jobs = []) : bankFault s b f = s := by
  have hstep : ∀ c, bankOf c = b → chanFault s c f = s := by
    intro c hc
    have hj : headOf s (masterOf s c) = none := by
      simp [headOf, h (masterOf s c) ((bankOf_masterOf s c).trans hc)]
    simp [chanFault, hj]
  have hfold : ∀ l : List Nat, (∀ c ∈ l, bankOf c = b) → l.foldl (fun s c => chanFault s c f) s = s := by
    intro l
    induction l with
    | nil => exact fun _ => rfl
    | cons a l ih =>
      intro hl
      rw [List.foldl_cons, hstep a (hl a List.mem_cons_self)]
      exact ih fun c hc => hl c (List.mem_cons_of_mem a hc)
  refine hfold _ fun c hc => ?_
  obtain ⟨i, hi, rfl⟩ := List.mem_map.1 hc
  have := List.mem_range.1 hi
  unfold bankOf
  omega

/-- The bank's monitor as a reading of its supply leaves it (R93). -/
def bankRead (k : Bank) (v : Nat) : Bank :=
  { k with vdrv := v, uv := decide (v < 750) || (k.uv && decide (v ≤ 780)), ov := decide (4000 < v) || (k.ov && decide (3900 ≤ v)) }

/-- The supply status as a reading of the bank's supply leaves it (R381). -/
def supplyRead (ok : BitVec 10) (b v : Nat) : BitVec 10 :=
  if v < 750 then ok &&& ~~~BitVec.ofNat 10 (2 ^ (5 + b)) else if 780 < v then ok ||| BitVec.ofNat 10 (2 ^ (5 + b)) else ok

/-- The state as a reading of the bank's supply leaves it. -/
def supplySeen (s : State) (b v : Nat) : State :=
  setBank { s with pwr := { s.pwr with supplyOk := supplyRead s.pwr.supplyOk b v } } b (bankRead (getBank s b) v)

theorem supplyBit_self (b : Fin 4) : (BitVec.ofNat 10 (2 ^ (5 + b.val))).getLsbD (5 + b.val) = true := by
  rw [BitVec.getLsbD_ofNat, Nat.testBit_two_pow_self, decide_eq_true (by omega : 5 + b.val < 10)]
  rfl

theorem supplyRead_low (ok : BitVec 10) (b : Fin 4) {v : Nat} (h : v < 750) : (supplyRead ok b.val v).getLsbD (5 + b.val) = false := by
  rw [supplyRead, if_pos h, BitVec.getLsbD_and, BitVec.getLsbD_not, supplyBit_self, Bool.not_true, Bool.and_false, Bool.and_false]

theorem supplyRead_high (ok : BitVec 10) (b : Fin 4) {v : Nat} (h : 780 < v) : (supplyRead ok b.val v).getLsbD (5 + b.val) = true := by
  rw [supplyRead, if_neg (by omega : ¬ v < 750), if_pos h, BitVec.getLsbD_or, supplyBit_self, Bool.or_true]

theorem bankSupply_eq (s : State) (b v : Nat) : bankSupply s b v =
    if ((bankRead (getBank s b) v).uv = true ∧ (getBank s b).uv = false) ∨ ((bankRead (getBank s b) v).ov = true ∧ (getBank s b).ov = false)
    then bankFault (supplySeen s b v) b .supply else supplySeen s b v := by
  have huv : (if v < 750 then true else if 780 < v then false else (getBank s b).uv) = (bankRead (getBank s b) v).uv := by
    simp only [bankRead]
    split_ifs with h1 h2
    · simp [h1]
    · simp [h1, Nat.not_le.2 h2]
    · simp [h1, Nat.not_lt.1 h2]
  have hov : (if 4000 < v then true else if v < 3900 then false else (getBank s b).ov) = (bankRead (getBank s b) v).ov := by
    simp only [bankRead]
    split_ifs with h1 h2
    · simp [h1]
    · simp [h1, Nat.not_le.2 h2]
    · simp [h1, Nat.not_lt.1 h2]
  unfold bankSupply
  simp only [huv, hov]
  have hm : setBank { s with pwr := { s.pwr with supplyOk := if v < 750 then s.pwr.supplyOk &&& ~~~BitVec.ofNat 10 (2 ^ (5 + b))
      else if 780 < v then s.pwr.supplyOk ||| BitVec.ofNat 10 (2 ^ (5 + b)) else s.pwr.supplyOk } } b
      { getBank s b with vdrv := v, uv := (bankRead (getBank s b) v).uv, ov := (bankRead (getBank s b) v).ov } = supplySeen s b v := rfl
  rw [hm]
  simp

theorem getBank_supplySeen (s : State) (b v : Nat) : getBank (supplySeen s b v) b = bankRead (getBank s b) v := getBank_setBank _ _ _
theorem getBank_supplySeen_ne (s : State) {b j : Nat} (v : Nat) (h : j ≠ b) : getBank (supplySeen s b v) j = getBank s j :=
  getBank_setBank_ne _ h _

theorem bankTemp_eq (s : State) (b : Nat) (temp : Int) :
    let k := getBank s b
    let crit := decide (150 < temp) || (k.otOff && decide (125 ≤ temp))
    let m := setBank s b { k with temp := temp, otDefer := decide (135 < temp) || (k.otDefer && decide (125 ≤ temp)), otOff := crit }
    bankTemp s b temp = if crit = true ∧ k.otOff = false then bankFault m b .supply else m := by
  have hod : (if 135 < temp then true else if temp < 125 then false else (getBank s b).otDefer) =
      (decide (135 < temp) || ((getBank s b).otDefer && decide (125 ≤ temp))) := by
    split_ifs with h1 h2
    · simp [h1]
    · simp [h1, Int.not_le.2 h2]
    · simp [h1, Int.not_lt.1 h2]
  have hoo : (if 150 < temp then true else if temp < 125 then false else (getBank s b).otOff) =
      (decide (150 < temp) || ((getBank s b).otOff && decide (125 ≤ temp))) := by
    split_ifs with h1 h2
    · simp [h1]
    · simp [h1, Int.not_le.2 h2]
    · simp [h1, Int.not_lt.1 h2]
  dsimp only
  unfold bankTemp
  simp only [hod, hoo, Bool.and_eq_true, Bool.not_eq_true']

theorem exec_bankSupplyFault (s : State) (b : Fin 4) (v : Nat) : exec (.bankSupplyFault b v) s = .next (bankSupply s b.val v) := rfl
theorem exec_bankTemperatureChange (s : State) (b : Fin 4) (t : Int) : exec (.bankTemperatureChange b t) s = .next (bankTemp s b.val t) := rfl
theorem exec_bankReady (s : State) (b : Fin 4) : exec (.bankReady b) s = .next (bankReadyNow s b.val) := rfl
theorem exec_bankLinkFrameError (s : State) (b r : Fin 4) (lost : Bool) :
    exec (.bankLinkFrameError b r lost) s = .next (linkFrame s b.val r.val lost) := rfl
theorem exec_vdrvUnder (s : State) (b : Fin 4) :
    exec (.supplyUndervoltage (.vdrv b)) s = .next (bankUnder (setSupply s (.vdrv b) false) b.val) := rfl
theorem exec_vdrvBack (s : State) (b : Fin 4) :
    exec (.supplyRecovery (.vdrv b)) s = .next (bankBack (setSupply s (.vdrv b) true) b.val) := rfl

/-- A reading of an idle bank's supply, whatever it was, is taken and no more. -/
theorem bankSupply_idle {s : State} {b v : Nat} (h : ∀ c, bankOf c = b → (getChan s c).jobs = []) : bankSupply s b v = supplySeen s b v := by
  rw [bankSupply_eq, bankFault_idle (s := supplySeen s b v) .supply h, ite_self]

/-- An idle bank's supply falls: some low reading is taken (R93; log entry 61). -/
theorem bankUnder_idle {s : State} {b : Nat} (h : ∀ c, bankOf c = b → (getChan s c).jobs = []) :
    ∃ v fr, v < 750 ∧ bankUnder s b = supplySeen { s with clk := { s.clk with fresh := fr } } b v := by
  unfold bankUnder
  split
  · next hv => exact ⟨(getBank s b).vdrv, s.clk.fresh, hv, bankSupply_idle h⟩
  · exact ⟨(drawFree s).1.toNat % 750, (drawFree s).2.clk.fresh, Nat.mod_lt _ (by decide), bankSupply_idle h⟩

theorem bankBack_idle {s : State} {b : Nat} (h : ∀ c, bankOf c = b → (getChan s c).jobs = []) (hv : (getBank s b).vdrv ≤ 4000) :
    ∃ v fr, 780 < v ∧ v ≤ 4000 ∧ bankBack s b = supplySeen { s with clk := { s.clk with fresh := fr } } b v := by
  unfold bankBack
  split
  · next hk => exact ⟨(getBank s b).vdrv, s.clk.fresh, hk, hv, bankSupply_idle h⟩
  · have := Nat.mod_lt (drawFree s).1.toNat (by decide : 0 < 3119)
    exact ⟨781 + (drawFree s).1.toNat % 3119, (drawFree s).2.clk.fresh, by omega, by omega, bankSupply_idle h⟩

/-- Settles O27, reading by reading. -/
theorem banksAct : Obligations.BanksAct := by
  unfold Obligations.BanksAct
  refine ⟨fun s b v temp => ?_, fun s b r lost => ?_, fun s b h => ?_⟩
  · refine ⟨⟨supplySeen s b.val v, getBank_supplySeen s b.val v, fun j hj => getBank_supplySeen_ne s v hj, fun h => ?_, fun h => ?_, rfl, ?_⟩,
      ?_, fun f h => bankFault_idle f h, fun hon hok => ?_⟩
    · exact supplyRead_low s.pwr.supplyOk b h
    · exact supplyRead_high s.pwr.supplyOk b h
    · rw [exec_bankSupplyFault, bankSupply_eq]
      rfl
    · exact (exec_bankTemperatureChange s b temp).trans (congrArg _ (bankTemp_eq s b.val temp))
    · rw [exec_bankReady]
      simp only [bankReadyNow, hon, hok, Bool.and_self, if_true]
  · dsimp only
    rw [exec_bankLinkFrameError]
    refine ⟨fun hr hl he => ?_, fun hr hl => ?_, fun hr => ?_⟩
    · subst hl
      simp [linkFrame, hr, he]
    · have hno : (lost && !(getBank s b.val).errNow) = false := by
        rcases hl with h | h
        · rw [h, Bool.false_and]
        · rw [h, Bool.not_true, Bool.and_false]
      simp only [linkFrame, hr, hno, Bool.false_eq_true, if_false]
    · simp [linkFrame, hr]
  · have hs : ∀ g, ∀ c, bankOf c = b.val → (getChan (setSupply s (.vdrv b) g) c).jobs = [] := fun g c hc => h c hc
    have hlow : (setSupply s (.vdrv b) false).pwr = { s.pwr with supplyOk := (setSupply s (.vdrv b) false).pwr.supplyOk } := rfl
    refine ⟨?_, fun hov hv => ?_⟩
    · obtain ⟨v, fr, hv, ht⟩ := bankUnder_idle (hs false)
      rw [exec_vdrvUnder, ht]
      refine ⟨_, rfl, ?_, ?_, supplyRead_low _ b hv, fun j hj => getBank_supplySeen_ne _ v hj, rfl⟩
      · rw [getBank_supplySeen, bankRead, decide_eq_true hv, Bool.true_or]
      · rw [getBank_supplySeen]
        exact hv
    · obtain ⟨v, fr, h1, h2, ht⟩ := bankBack_idle (hs true) hv
      rw [exec_vdrvBack, ht]
      refine ⟨_, rfl, ?_, ?_, supplyRead_high _ b h1, fun j hj => getBank_supplySeen_ne _ v hj, rfl⟩
      · rw [getBank_supplySeen, bankRead]
        simp [Nat.not_lt.2 (by omega : 750 ≤ v), Nat.not_le.2 h1]
      · rw [getBank_supplySeen]
        exact h1

/-! ### Calibrations (R76, R77, R79) -/

theorem exec_calibrationDone (s : State) (ch : Fin 96) (r : CalResult) : exec (.calibrationDone ch r) s = .next (calibrationDone s ch.val r) := rfl
theorem exec_calibrationCommit (s : State) (ch : Fin 96) : exec (.calibrationCommit ch) s = .next (calCommit s ch.val) := rfl

theorem calCmdStep_chans (s : State) (u : Nat) : (calCmdStep s u).lf.chans = s.lf.chans := by
  unfold calCmdStep
  split
  · rfl
  · dsimp only
    split
    · refine (congrArg Lf.chans (finishNow_ringOnly _ _ _ _ _).logOnly.lf).trans ?_
      split_ifs
      · exact (congrArg Lf.chans (postProgress_ringOnly _ _ _ _ _ _).logOnly.lf :)
      · rfl
      · rfl
    · rfl

theorem calCmdStep_getChan (s : State) (u i : Nat) : getChan (calCmdStep s u) i = getChan s i := by
  simp only [getChan, calCmdStep_chans]

theorem addRec_getChan (s : State) (u : Nat) (r : Rec) (i : Nat) : getChan (addRec s u r) i = getChan s i := by
  obtain ⟨rg, h⟩ := addRec_ringOnly s u r
  rw [h]
  rfl

/-- The channel with what a calibration measured (R76). -/
def calMeasured (r : CalResult) (due : Bool) (l : Nat) (c : Chan) : Chan :=
  { c with ipk := r.ipk, theta := r.theta, zre := r.zre, zim := r.zim, calDue := if due then some (calOf c.cal r l) else c.calDue }

/-- The last step of a calibration on a channel in service ends its transaction. -/
theorem calibrationDone_ends {s : State} {ch : Nat} {r : CalResult} {j : Job} {l : Nat} {commit : Bool} (hj : headOf s ch = some j)
    (hk : j.kind = .cal l commit false) (hu : j.uid ≠ 0) (ha : j.phase = .onAir) (he : jobEndUs s j < nextBoundUs s)
    (hr : r.resonance = true ∨ 2 ≤ l) : ∃ rec, calibrationDone s ch r = arm (calCmdStep (addRec (popHead (modChan
      (closeTx s ch { j with meas := some ⟨r.zre, r.zim, r.ipk, r.theta, none⟩ } .ok true) ch (calMeasured r (commit && decide (l ≤ 1)) l)) ch)
      j.uid rec) j.uid) ch := by
  have hl : jobLevel j = l := by simp [jobLevel, hk]
  have hno : ¬ (l ≤ 1 ∧ (!r.resonance) = true) := by
    rintro ⟨h1, h2⟩
    rcases hr with h | h
    · rw [h] at h2
      cases h2
    · omega
  unfold calibrationDone
  simp only [hj, hk, hl, ha, he, hu, ne_eq, not_false_eq_true, and_self, if_true, if_neg hno, Bool.false_eq_true, if_false, Bool.false_and]
  exact ⟨_, rfl⟩

theorem calCommit_takes {s : State} {ch : Nat} {k : Cal} (h : (getChan s ch).calDue = some k) : calCommit s ch =
    { setChan s ch { getChan s ch with
        cal := k, calDue := none, ftrack := clipTrack s ch k.fRes,
        detuneWarn := decide ((k.fRes : Int) < winLo s ch) || decide (winHi s ch < (k.fRes : Int)) } with
      fl := { s.fl with cals := smPut s.fl.cals ch k Cal.none } } := by
  unfold calCommit
  simp only [h]
  rfl

/-- Settles O34, by the end of the transaction and the result that is due. -/
theorem calibrationsComplete : Obligations.CalibrationsComplete := by
  unfold Obligations.CalibrationsComplete
  intro s ch r j l commit k
  refine ⟨fun hj hk hu ha he hr => ?_, fun h => ?_, fun h => ?_⟩
  · obtain ⟨rec, ht⟩ := calibrationDone_ends (headOf_jobs hj) hk hu ha he hr
    obtain ⟨-, hoth, hjobs, hout, -, hcal, hdue⟩ :=
      closeTx_closed s ch.val { j with meas := some ⟨r.zre, r.zim, r.ipk, r.theta, none⟩ } .ok true
    rw [exec_calibrationDone, ht]
    generalize closeTx s ch.val { j with meas := some ⟨r.zre, r.zim, r.ipk, r.theta, none⟩ } .ok true = z at hoth hjobs hout hcal hdue ⊢
    have hchan : getChan (popHead (modChan z ch.val (calMeasured r (commit && decide (l ≤ 1)) l)) ch.val) ch.val =
        { calMeasured r (commit && decide (l ≤ 1)) l (getChan z ch.val) with jobs := [] } := by
      have h1 : getChan (modChan z ch.val (calMeasured r (commit && decide (l ≤ 1)) l)) ch.val =
        calMeasured r (commit && decide (l ≤ 1)) l (getChan z ch.val) := getChan_setChan z ch.val _
      have h2 : getChan (popHead (modChan z ch.val (calMeasured r (commit && decide (l ≤ 1)) l)) ch.val) ch.val =
          { getChan (modChan z ch.val (calMeasured r (commit && decide (l ≤ 1)) l)) ch.val with
            jobs := (getChan (modChan z ch.val (calMeasured r (commit && decide (l ≤ 1)) l)) ch.val).jobs.drop 1 } := getChan_setChan _ _ _
      have h3 : (calMeasured r (commit && decide (l ≤ 1)) l (getChan z ch.val)).jobs.drop 1 = [] := by
        change (getChan z ch.val).jobs.drop 1 = []
        rw [hjobs, hj]
        rfl
      rw [h2, h1, h3]
    have hend : ∀ i, getChan (calCmdStep (addRec (popHead (modChan z ch.val (calMeasured r (commit && decide (l ≤ 1)) l)) ch.val) j.uid rec)
        j.uid) i = getChan (popHead (modChan z ch.val (calMeasured r (commit && decide (l ≤ 1)) l)) ch.val) i :=
      fun i => (calCmdStep_getChan _ _ i).trans (addRec_getChan _ _ _ i)
    rw [arm_empty (by rw [hend, hchan])]
    refine ⟨_, rfl, ?_, fun i hi => ?_⟩
    · rw [hend, hchan]
      refine ⟨rfl, rfl, rfl, rfl, rfl, hout, hcal, ?_⟩
      simp only [calMeasured, hcal, hdue, Bool.and_eq_true, decide_eq_true_eq]
    · rw [hend, getChan_popHead_ne _ hi]
      exact (getChan_setChan_ne z hi _).trans (hoth i hi)
  · rw [exec_calibrationCommit, calCommit_takes h]
    exact ⟨_, rfl, getChan_setChan s ch.val _, smGet_smPut_self _ _ _ _, fun i hi => getChan_setChan_ne s hi _, rfl⟩
  · rw [exec_calibrationCommit]
    simp [calCommit, h]

end Sys2Proof.Machine
end

section
/-! ## Sluice inputs and outputs, meter rows (R197, R206, R208, R212, R229, R235, R389) -/

namespace Sys2Proof.Machine
open Sys2Proof

/-! ### Output stages (R206) -/

theorem exec_sluiceStageTrip (s : State) (n : Fin 4) (hot : Bool) : exec (.sluiceStageTrip n hot) s = .next (stageTrip s n.val hot) := rfl
theorem exec_sluiceOutputFaulted (s : State) (n : Fin 4) : exec (.sluiceOutputFaulted n) s = .next (outputFaulted s n.val) := rfl

theorem stageTrip_opens {s : State} {n : Fin 4} (hot : Bool)
    (hr : (laneSl s.slu.a n.val).released = true ∨ (laneSl s.slu.b n.val).released = true) (ht : (getOut s n.val).tripped = false)
    (hf : (getOut s n.val).faulted = false) : stageTrip s n.val hot = countStop (setOut s n.val { getOut s n.val with
      tripped := true, overcurrent := (getOut s n.val).overcurrent || !hot, overtemp := (getOut s n.val).overtemp || hot }) := by
  have hb : ((laneSl s.slu.a n.val).released || (laneSl s.slu.b n.val).released) = true := by simpa using hr
  have hany : anyReleased s = true := List.any_eq_true.2 ⟨n.val, List.mem_range.2 n.isLt, hb⟩
  simp [stageTrip, hany, hb, ht, hf]

theorem stageTrip_open {s : State} {n : Nat} (hot : Bool) (ha : (laneSl s.slu.a n).released = false) (hb : (laneSl s.slu.b n).released = false) :
    stageTrip s n hot = s := by
  simp [stageTrip, ha, hb]

/-- What the reports of a sluice's change leave: outputs but for the beat of the change, and the rings. -/
structure OutFrame (s t : State) : Prop where
  eq : t = { s with slu := { s.slu with outs := t.slu.outs }, jrn := t.jrn, ring := t.ring }
  outs : ∀ i, ∃ b, getOut t i = { getOut s i with changeBeat := b }

theorem OutFrame.refl (s : State) : OutFrame s s := ⟨rfl, fun i => ⟨(getOut s i).changeBeat, rfl⟩⟩

theorem OutFrame.trans {s t u : State} (h : OutFrame s t) (k : OutFrame t u) : OutFrame s u := by
  refine ⟨?_, fun i => ?_⟩
  · rw [k.eq, h.eq]
  · obtain ⟨b, hb⟩ := h.outs i
    obtain ⟨c, hc⟩ := k.outs i
    exact ⟨c, by rw [hc, hb]⟩

theorem OutFrame.foldl {α : Type} {f : State → α → State} (hf : ∀ s a, OutFrame s (f s a)) (l : List α) (s : State) : OutFrame s (l.foldl f s) := by
  induction l generalizing s with
  | nil => exact .refl s
  | cons a l ih => exact (hf s a).trans (ih (f s a))

theorem OutFrame.of_ringOnly {s t : State} (h : RingOnly s t) : OutFrame s t := by
  obtain ⟨r, rfl⟩ := h
  exact ⟨rfl, fun i => ⟨(getOut s i).changeBeat, rfl⟩⟩

theorem stageRec_jrn (s : State) (type source : Nat) (beat : BitVec 64) (pl : List Byte) (uid : Nat) :
    ∃ j, stageRec s type source beat pl uid = { s with jrn := j } := by
  unfold stageRec
  dsimp only
  split
  · exact ⟨s.jrn, rfl⟩
  · exact ⟨_, rfl⟩

theorem stageLane_outFrame (s : State) (event n : Nat) : OutFrame s (stageLane s event n) := by
  unfold stageLane stage
  obtain ⟨j, h⟩ := stageRec_jrn s 0x10 (laneSrc s) s.clk.beat (payload [(20, leBytes event 1), (21, leBytes n 1),
    (22, leBytes (sluState s (viewLane s) n) 1), (23, leBytes (laneSl (getLane s (viewLane s)) n).cause 1),
    (24, leBytes ((laneSl (getLane s (viewLane s)) n).leftUs / 1000) 4)]) 0
  dsimp only
  rw [h]
  exact ⟨rfl, fun i => ⟨(getOut s i).changeBeat, rfl⟩⟩

theorem changeBeat_outFrame (s : State) (n : Nat) (b : BitVec 64) : OutFrame s (setOut s n { getOut s n with changeBeat := b }) := by
  refine ⟨rfl, fun i => ?_⟩
  by_cases h : i = n
  · subst h
    rw [getOut_setOut]
    exact ⟨b, rfl⟩
  · rw [getOut_setOut_ne s h]
    exact ⟨(getOut s i).changeBeat, rfl⟩

theorem postSluChanges_outFrame (s : State) (old : List Nat) : OutFrame s (postSluChanges s old) := by
  unfold postSluChanges
  refine OutFrame.foldl (fun z p => ?_) _ s
  dsimp only
  split
  · exact .refl z
  · exact (changeBeat_outFrame z _ _).trans (.of_ringOnly (postEvent_ringOnly _ _ _ _))

theorem outputFaulted_takes {s : State} {n : Nat} (ht : (getOut s n).tripped = true) (hr : 3 ≤ (getOut s n).failedRetries)
    (hd : s.slu.dhold = false) (hf : (getOut s n).faulted = false) :
    OutFrame (setOut s n { getOut s n with faulted := true }) (outputFaulted s n) := by
  have he : outputFaulted s n = postSluChanges (stageLane (setOut s n { getOut s n with faulted := true }) 6 n) (sluStates s) := by
    simp [outputFaulted, ht, hr, hd, hf]
  rw [he]
  exact (stageLane_outFrame _ _ _).trans (postSluChanges_outFrame _ _)

/-! ### DRIVE_HOLD and the tamper inputs (R197, R208, R389) -/

theorem exec_driveHoldChange (s : State) (v : Bool) : exec (.driveHoldChange v) s = .next (if v = s.slu.dhold then s
    else if v then wakeSource (dozeLeave { s with slu := { s.slu with dhold := v } }) .driveHold
    else dozeLeave { s with slu := { s.slu with dhold := v } }) := rfl

/-- The tamper inputs with the new level of one. -/
def pinTaken (p : BitVec 4) (i : Fin 4) (v : Bool) : BitVec 4 :=
  if v then p ||| BitVec.ofNat 4 (2 ^ i.val) else p &&& ~~~BitVec.ofNat 4 (2 ^ i.val)

theorem exec_tamperChange (s : State) (i : Fin 4) (v : Bool) : exec (.tamperChange i v) s = .next (if v = s.slu.tampPin.getLsbD i.val then s
    else wakeSource (dozeLeave { s with slu := { s.slu with tampPin := pinTaken s.slu.tampPin i v } }) (.tamp i)) := rfl

theorem dozeLeave_awakeNow {s : State} (ha : asleep s = false) : asleep (dozeLeave s) = false := by
  unfold dozeLeave
  split
  · rfl
  · exact ha

theorem dozeLeave_entering (s : State) : (dozeLeave s).pwr.entering = s.pwr.entering := by
  unfold dozeLeave
  split <;> rfl

/-- Awake, with no power entry under way, an input wakes nothing. -/
theorem wakeSource_awake {s : State} (src : WakeSrc) (ha : asleep s = false) (he : s.pwr.entering = 0) : wakeSource s src = s := by
  unfold wakeSource
  rw [if_neg (by rw [ha]; exact Bool.false_ne_true), if_neg fun h => h.1 he]

theorem wakeSource_dozeLeave {s : State} (src : WakeSrc) (ha : asleep s = false) (he : s.pwr.entering = 0) :
    wakeSource (dozeLeave s) src = dozeLeave s :=
  wakeSource_awake src (dozeLeave_awakeNow ha) ((dozeLeave_entering s).trans he)

theorem pinBit (i : Fin 4) {j : Nat} (hj : j < 4) : (BitVec.ofNat 4 (2 ^ i.val)).getLsbD j = decide (j = i.val) := by
  rw [BitVec.getLsbD_ofNat, Nat.testBit_two_pow, decide_eq_true hj, Bool.true_and]
  exact decide_eq_decide.2 eq_comm

theorem getLsbD_pinTaken (p : BitVec 4) (i : Fin 4) (v : Bool) (j : Nat) :
    (pinTaken p i v).getLsbD j = if j = i.val then v else p.getLsbD j := by
  by_cases hj : j < 4
  · unfold pinTaken
    cases v
    · rw [if_neg Bool.false_ne_true, BitVec.getLsbD_and, BitVec.getLsbD_not, pinBit i hj, decide_eq_true hj]
      by_cases h : j = i.val <;> simp [h]
    · rw [if_pos rfl, BitVec.getLsbD_or, pinBit i hj]
      by_cases h : j = i.val <;> simp [h]
  · rw [if_neg (by omega), BitVec.getLsbD_of_ge _ _ (Nat.not_lt.1 hj), BitVec.getLsbD_of_ge _ _ (Nat.not_lt.1 hj)]

/-- Settles O41, input by input. -/
theorem sluiceInputsAndOutputs : Obligations.SluiceInputsAndOutputs := by
  unfold Obligations.SluiceInputsAndOutputs
  refine ⟨fun s n hot => ⟨fun hr ht hf => ?_, fun ha hb => ?_, fun ht hr hd hf => ?_, fun hd => ?_, rfl⟩,
    fun s i v => ⟨fun ha he hv => ?_, fun hv => ?_, fun ha he hv => ?_, fun hv => ?_⟩⟩
  · rw [exec_sluiceStageTrip, stageTrip_opens hot hr ht hf]
  · rw [exec_sluiceStageTrip, stageTrip_open hot ha hb]
  · obtain ⟨heq, houts⟩ := outputFaulted_takes ht hr hd hf
    refine ⟨_, exec_sluiceOutputFaulted s n, ?_, by rw [heq]; rfl, by rw [heq]; rfl, fun i hi => ?_, heq.trans rfl⟩
    · obtain ⟨b, hb⟩ := houts n.val
      rw [hb, getOut_setOut]
    · obtain ⟨b, hb⟩ := houts i
      rw [hb, getOut_setOut_ne s hi]
      exact ⟨rfl, rfl⟩
  · rw [exec_sluiceOutputFaulted]
    simp [outputFaulted, hd]
  · rw [exec_driveHoldChange, if_neg hv]
    cases v
    · rfl
    · rw [if_pos rfl, wakeSource_dozeLeave (s := { s with slu := { s.slu with dhold := true } }) _ ha he]
  · rw [exec_driveHoldChange, if_pos hv]
  · rw [exec_tamperChange, if_neg hv]
    have hbits := getLsbD_pinTaken s.slu.tampPin i v
    generalize pinTaken s.slu.tampPin i v = p at hbits
    have hslu : (dozeLeave { s with slu := { s.slu with tampPin := p } }).slu.tampPin = p := by
      unfold dozeLeave
      split <;> rfl
    rw [wakeSource_dozeLeave (s := { s with slu := { s.slu with tampPin := p } }) _ ha he]
    refine ⟨_, rfl, ?_, fun j hj => ?_, ?_⟩
    · rw [hslu, hbits, if_pos rfl]
    · rw [hslu, hbits, if_neg hj]
    · rw [hslu]
  · rw [exec_tamperChange, if_pos hv]

/-! ### Meter rows (R212, R228, R229, R235) -/

theorem exec_meterInputFault (s : State) (v on : Bool) : exec (.meterInputFault v on) s = .next (inputFault s v on) := rfl
theorem exec_counterRecordPeriodic (s : State) : exec .counterRecordPeriodic s = .next (periodicCounter s) := rfl
theorem exec_meterSummaryPeriod (s : State) : exec .meterSummaryPeriod s = .next (meterSummary s) := rfl
theorem exec_voucherApply (s : State) : exec .voucherApply s = .next (voucherStep s) := rfl

/-- A record staged on an open chain with room (R234). -/
theorem stageRec_room {s : State} (type source : Nat) (beat : BitVec 64) (pl : List Byte) (uid : Nat) (ho : s.jrn.isOpen = true)
    (hl : s.jrn.staged.length < stagingCap) :
    ∃ r : JRec, stageRec s type source beat pl uid = { s with jrn := { s.jrn with staged := s.jrn.staged ++ [r], nextSeq := s.jrn.nextSeq + 1 } } ∧
      r.type = type ∧ r.source = source ∧ r.seq = s.jrn.nextSeq ∧ r.beat = beat := by
  have hno : ¬ ((!s.jrn.isOpen) = true ∨ stagingCap ≤ s.jrn.staged.length) := by
    rw [ho]
    simp [Nat.not_le.2 hl]
  unfold stageRec
  rw [if_neg hno]
  exact ⟨_, rfl, rfl, rfl, rfl, rfl⟩

/-- Settles O43, row by row. -/
theorem meterRowsRecord : Obligations.MeterRowsRecord := by
  unfold Obligations.MeterRowsRecord
  intro s on
  refine ⟨rfl, rfl, fun h => ?_, fun h => ?_, fun h ho hl => ?_, fun h => ?_, fun h => ?_⟩
  · rw [exec_counterRecordPeriodic, periodicCounter, if_pos h]
    exact ⟨_, rfl, rfl⟩
  · rw [exec_counterRecordPeriodic]
    simp [periodicCounter, h]
  · rw [exec_meterSummaryPeriod, meterSummary, if_pos h]
    unfold stage
    generalize payload _ = pl
    obtain ⟨r, hr, h1, h2, h3, h4⟩ := stageRec_room 0x01 0 s.clk.beat pl 0 ho hl
    rw [hr]
    exact ⟨_, r, rfl, rfl, h1, h2, h3, h4, rfl, rfl, rfl⟩
  · rw [exec_meterSummaryPeriod]
    simp [meterSummary, h]
  · have hids : dueUids s.ldg.due = [] := by simp [dueUids, h]
    have hs : ({ s with ldg := { s.ldg with due := [] } } : State) = s := by rw [← h]
    rw [exec_voucherApply]
    simp only [voucherStep, hids, hs, List.foldl_nil]

end Sys2Proof.Machine
end

section
/-! ## The engine checks itself; device and cipher commands (R24, R254, R268, R269, R285 to R288, R301 to R304, R346, R347, R376, R377,
R413, R418) -/

namespace Sys2Proof.Machine
open Sys2Proof

/-! ### The engine (R285 to R288, R418) -/

theorem exec_cipherMismatch (s : State) (x : Bool) : exec (.cipherMismatch x) s = .next (cipMismatch s x) := rfl
theorem exec_cipherKatDone (s : State) (x y z : Bool) : exec (.cipherKatDone x y z) s = .next (katDone s x y z) := rfl
theorem exec_maskReseed (s : State) : exec .maskReseed s = .next (maskReseed s) := rfl

/-- A retirement that waits is listed once, and nothing else changes. -/
theorem retireLater_due (s : State) (cls idx : Nat) (cause : Byte) : ∃ l, retireLater s cls idx cause = { s with flt := { s.flt with retireDue := l } } ∧
    l.any (fun r => r.1 == cls && r.2.1 == idx) = true := by
  unfold retireLater
  by_cases h : s.flt.retireDue.any (fun r => r.1 == cls && r.2.1 == idx) = true
  · rw [if_pos h]
    exact ⟨s.flt.retireDue, rfl, h⟩
  · rw [if_neg h]
    exact ⟨_, rfl, by simp⟩

/-- The engine is FAILED, its retirement waits, and nothing else changes. -/
theorem engineFails_leaves (s : State) : (engineFails s).cip = { s.cip with mode := .failed } ∧
    (engineFails s).flt.retireDue.any (fun r => r.1 == clsEngine && r.2.1 == 0) = true ∧
    engineFails s = { s with cip := (engineFails s).cip, flt := { s.flt with retireDue := (engineFails s).flt.retireDue } } := by
  obtain ⟨l, h, hl⟩ := retireLater_due (setCip s fun c => { c with mode := .failed }) clsEngine 0 0
  unfold engineFails
  rw [h]
  exact ⟨rfl, hl, rfl⟩

theorem pipeFails_single (s : State) (i : Nat) : (setCip (pipeFails s i) fun c => { c with mode := .single }).cip =
      (if i = 0 then { s.cip with mode := .single, retA := true } else { s.cip with mode := .single, retB := true }) ∧
    (setCip (pipeFails s i) fun c => { c with mode := .single }).flt.retireDue.any (fun r => r.1 == clsPipe && r.2.1 == i) = true := by
  obtain ⟨l, h, hl⟩ := retireLater_due (setCip s fun c => if i = 0 then { c with retA := true } else { c with retB := true }) clsPipe i 0
  unfold pipeFails
  rw [h]
  refine ⟨?_, hl⟩
  unfold setCip
  split <;> rfl

theorem katDone_runs {s : State} {x y z : Bool} (h : s.cip.mode = .kat) : katDone s x y z = releaseHeld (katVerdict s x y z) :=
  if_neg (by rw [h]; decide)

theorem katVerdict_pipes {s : State} (h : s.cip.startKat = false) (z : Bool) : katVerdict s true true z =
      (if z then cmpTransient (setCip s fun c => { c with mode := .dual }) else engineFails s) ∧
    katVerdict s false false z = engineFails s ∧
    katVerdict s true false z = (setCip (pipeFails s 1) fun c => { c with mode := .single }) ∧
    katVerdict s false true z = (setCip (pipeFails s 0) fun c => { c with mode := .single }) := by
  simp [katVerdict, h]

theorem releaseHeld_none {s : State} (h : s.cip.held = []) : releaseHeld s = s := by
  unfold releaseHeld
  split
  · rfl
  · rw [h, List.foldl_nil, ← h]

theorem cipMismatch_off {s : State} (x : Bool) (h : domReady s dCIPHER = false) : cipMismatch s x = s := by simp [cipMismatch, h]

theorem maskReseed_ready {s : State} (hd : domReady s dCIPHER = true) (hr : s.ent.st = .ready) (hs : softDue s = false) (hh : hardDue s = false) :
    maskReseed s = { s with cip := { s.cip with maskSeeded := true }, ent := generated s.ent 32 } := by
  simp only [maskReseed, hd, Bool.not_true, Bool.false_eq_true, if_false, drbgDraw_ready 32 hr hs hh]
  rfl

theorem maskReseed_warmup {s : State} (hd : domReady s dCIPHER = true) (hr : s.ent.st = .warmup) : maskReseed s = s := by
  have hl : drbgLimits s = s := by simp [drbgLimits, hr]
  simp [maskReseed, hd, drbgDraw, drbgRefuse, hl, hr]

/-- Settles O55, by the verdict of each test. -/
theorem engineChecksItself : Obligations.EngineChecksItself := by
  unfold Obligations.EngineChecksItself
  intro s x y z
  dsimp only
  simp only [exec_cipherMismatch, exec_cipherKatDone, exec_maskReseed]
  refine ⟨fun hd => ⟨fun hm => ?_, fun hm => ?_, fun hm => ?_⟩, fun hd => by rw [cipMismatch_off x hd], fun hm hk => ?_,
    releaseHeld_none, fun hm => ?_, fun hd hr hs hh => ?_, fun hd hr => by rw [maskReseed_warmup hd hr]⟩
  · rcases hm with hm | hm <;> simp [cipMismatch, hd, hm, cmpTransient, setCip]
  · simp [cipMismatch, hd, hm, setCip]
  · have ht : cipMismatch s false = engineFails s := by simp [cipMismatch, hd, hm]
    rw [ht]
    exact ⟨_, rfl, engineFails_leaves s⟩
  · obtain ⟨hgood, -, -, -⟩ := katVerdict_pipes hk true
    obtain ⟨hdiff, -, -, -⟩ := katVerdict_pipes hk false
    obtain ⟨-, hbad, hb, ha⟩ := katVerdict_pipes hk x
    rw [katDone_runs hm, katDone_runs hm, katDone_runs hm, katDone_runs hm, katDone_runs hm, hgood, hdiff, hbad, hb, ha, if_pos rfl,
      if_neg Bool.false_ne_true]
    exact ⟨rfl, ⟨_, rfl, engineFails_leaves s⟩, ⟨_, rfl, engineFails_leaves s⟩, ⟨_, rfl, pipeFails_single s 1⟩, ⟨_, rfl, pipeFails_single s 0⟩⟩
  · rw [katDone, if_pos hm]
  · rw [maskReseed_ready hd hr hs hh]
    exact ⟨_, rfl, rfl, rfl, rfl⟩

/-! ### Device commands (R24, R268, R269, R346, R347, R376, R377, R413) -/

theorem exec_configStageImage (s : State) (sq : Fin 16) (m : HostMem) :
    exec (.configStageImage sq m) s = .next (runCmd s sq.val 0x70 m imageJudge imageRun) := rfl
theorem exec_imageLoad (s : State) (sq : Fin 16) (m : HostMem) : exec (.imageLoad sq m) s = .next (runCmd s sq.val 0x73 m loadJudge loadRun) := rfl
theorem exec_lifecycleAdvance (s : State) (sq : Fin 16) (m : HostMem) :
    exec (.lifecycleAdvance sq m) s = .next (runCmd s sq.val 0x78 m always advanceRun) := rfl
theorem exec_restart (s : State) (sq : Fin 16) (m : HostMem) : exec (.restart sq m) s = .next (runCmd s sq.val 0x74 m always restartRun) := rfl

theorem imageRun_good {s : State} {c : Cmd} {b : List Byte} (hh : s.cfg.hold = false)
    (hcrc : crc32c (toN (b.take (descLenIn c.desc - 4))) = leAt b (descLenIn c.desc - 4) 4) (hm : leAt b 0 2 = 0x4301)
    (hl : descLenIn c.desc = 16 + 8 * leAt b 2 2) (hb : firstBad none 0 (imageEntries b) = none) : imageRun s c b = { s with cfg := { s.cfg with
      staged := ((imageEntries b).filter fun e => !s.cfg.eccShadow.contains e.1).foldl (fun z e => smIns z e.1 e.2) s.cfg.staged,
      imageSet := ((imageEntries b).filter fun e => !s.cfg.eccShadow.contains e.1).map (·.1), imageUid := some c.uid } } := by
  have h2 : ¬ (leAt b 0 2 ≠ 0x4301 ∨ descLenIn c.desc ≠ 16 + 8 * leAt b 2 2) := by
    rw [not_or, not_not, not_not]
    exact ⟨hm, hl⟩
  unfold imageRun
  dsimp only
  rw [hh, if_neg Bool.false_ne_true, if_neg (not_not.2 hcrc), if_neg h2, hb]

theorem loadRun_good {s : State} {c : Cmd} {b : List Byte} (hs : keeperShape s b (descLenIn c.desc) = true)
    (ht : keeperTagOk s b (descLenIn c.desc) = true) : ∃ r, loadRun s c b = { s with
      ring := r, cfg := { s.cfg with imgProg := ⟨900, (descLenIn c.desc + 1023) / 1024, true⟩ },
      fl := { s.fl with imageJob := some (c.uid, ⟨leAt b 4 4, leAt b 8 4, true⟩, bitOf c.desc.dw8 0) } } := by
  obtain ⟨r, hr⟩ := postProgress_ringOnly { s with cfg := { s.cfg with imgProg := ⟨900, (descLenIn c.desc + 1023) / 1024, true⟩ } } 5 srcKeeper 0
    900 ((descLenIn c.desc + 1023) / 1024)
  unfold loadRun
  simp only [hs, ht, Bool.and_self, if_true]
  rw [hr]
  exact ⟨r, rfl⟩

theorem advanceRun_good {s : State} {c : Cmd} {b : List Byte} (he : engineFailed s = false) (hc : advanceCheck s b = 0)
    (hd : s.lcy.dbg = .locked) : ∃ r j p, advanceRun s c b = { s with
      ring := r, jrn := j, pwr := { s.pwr with startRecs := p }, fl := { s.fl with newTicket := some (parseTicket b) },
      lcy := { s.lcy with adv := some ⟨c.uid, parseTicket b, 1, decide (s.ldg.st = .active), false⟩, prog := ⟨0, 0, true⟩ } } := by
  have hclose : (if (parseTicket b).dest = 5 then debugClose s 4 else s) = s := by
    split
    · simp [debugClose, hd]
    · rfl
  have hrun : advanceRun s c b = advanceBegin s c.uid (parseTicket b) := by
    simp [advanceRun, he, hc]
  rw [hrun, advanceBegin]
  dsimp only
  rw [hclose]
  obtain ⟨r, j, p, h⟩ := stageLife_logOnly { s with
    fl := { s.fl with newTicket := some (parseTicket b) },
    lcy := { s.lcy with adv := some ⟨c.uid, parseTicket b, 1, decide (s.ldg.st = .active), false⟩, prog := ⟨0, 0, true⟩ } } 0
      (parseTicket b).frm (parseTicket b).dest 1 [BitVec.ofNat 8 (parseTicket b).disposition, BitVec.ofNat 8 (b2n (parseTicket b).keepRegistry)]
  unfold stageAdvance
  rw [h]
  exact ⟨r, j, p, rfl⟩

/-- Settles O18, by the checks that each command passes. -/
theorem deviceCommandsBegin : Obligations.DeviceCommandsBegin := by
  unfold Obligations.DeviceCommandsBegin
  intro s sq m c inp
  dsimp only
  refine ⟨fun h hu hh hcrc hm hl hb => ?_, fun h hj hs ht => ?_, fun h he hc hd => ?_, fun h hk => ?_, fun h hk hsp ho => ?_⟩
  · have hgo : imageJudge s c = .go := by simp [imageJudge, hu, optB]
    rw [exec_configStageImage, runCmd_begins h hgo, imageRun_good (s := begun s c m) (c := runningCmd c m) hh hcrc hm hl hb]
    rfl
  · have hgo : loadJudge s c = .go := by simp [loadJudge, hj, optB]
    obtain ⟨r, hr⟩ := loadRun_good (s := begun s c m) (c := runningCmd c m) hs ht
    rw [exec_imageLoad, runCmd_begins h hgo, hr]
    exact ⟨_, rfl, rfl⟩
  · obtain ⟨r, j, p, hr⟩ := advanceRun_good (s := begun s c m) (c := runningCmd c m) he hc hd
    rw [exec_lifecycleAdvance, runCmd_begins h rfl, hr]
    exact ⟨_, rfl, rfl⟩
  · have hrun : restartRun (begun s c m) (runningCmd c m) (padTo (descLenIn c.desc) inp) = keeperRestart (begun s c m) [c.uid] := if_pos hk
    rw [exec_restart, runCmd_begins h rfl, hrun]
    rfl
  · have hk0 : ¬ fld (runningCmd c m).desc.dw8 0 2 = 0 := by
      change ¬ fld c.desc.dw8 0 2 = 0
      omega
    have hsp' : ¬ inSpillway (begun s c m) = true := by
      change ¬ inSpillway s = true
      rw [hsp]
      exact Bool.false_ne_true
    have hrun : restartRun (begun s c m) (runningCmd c m) (padTo (descLenIn c.desc) inp) = keeperSwitch (begun s c m) (inactiveB s) c.uid := by
      unfold restartRun
      dsimp only
      rw [if_neg hk0, if_pos (show fld (runningCmd c m).desc.dw8 0 2 = 1 from hk), if_neg hsp',
        if_pos (show otherImageOk (begun s c m) = true from ho)]
      rfl
    rw [exec_restart, runCmd_begins h rfl, hrun]
    exact ⟨_, rfl, rfl, rfl, rfl, rfl, rfl, rfl⟩

/-! ### One use of a node below its limit (R254) -/

/-- A use of node `i` counts, and no other node changes, nor anything outside the armature and the engine. -/
structure UsedOnce (i : Nat) (s t : State) : Prop where
  eq : t = { s with key := t.key, cip := t.cip }
  node : getNode t i = { getNode s i with uses := (getNode s i).uses + 1 }
  others : ∀ j, j ≠ i → getNode t j = getNode s j
  iseq : t.key.iseq = s.key.iseq

theorem UsedOnce.addBlocks {i : Nat} {s t : State} (h : UsedOnce i s t) (n : Nat) : UsedOnce i s (addBlocks t n) :=
  ⟨by
    rw [h.eq]
    rfl, h.node, h.others, h.iseq⟩

theorem raiseUses_nodes (s : State) (i : Nat) : ∃ k, raiseUses s i = { s with key := k } ∧ k.nodes = s.key.nodes ∧
    k.iseq = s.key.iseq := by
  unfold raiseUses
  dsimp only
  split
  · exact ⟨_, rfl, rfl, rfl⟩
  · exact ⟨s.key, rfl, rfl, rfl⟩

theorem UsedOnce.raiseUses {i : Nat} {s z : State} (h : UsedOnce i s z) (j : Nat) : UsedOnce i s (raiseUses z j) := by
  obtain ⟨k, hk, hn, hi⟩ := raiseUses_nodes z j
  have hnode : ∀ n, getNode { z with key := k } n = getNode z n := fun n => by simp only [getNode, hn]
  rw [hk]
  refine ⟨?_, (hnode i).trans h.node, fun n hni => (hnode n).trans (h.others n hni), hi.trans h.iseq⟩
  rw [h.eq]

theorem countUse_below {s : State} {i : Nat} (h : (getNode s i).uses + 1 < (getNode s i).limit) : UsedOnce i s (countUse s i) := by
  have hno : ¬ ((getNode (addBlocks s (useBlocks i)) i).limit ≤ (getNode (addBlocks s (useBlocks i)) i).uses + 1 ∧
      (getNode (addBlocks s (useBlocks i)) i).st = .active) := fun hc => Nat.not_le.2 h hc.1
  have hbase : UsedOnce i s (setNode (addBlocks s (useBlocks i)) i { getNode s i with uses := (getNode s i).uses + 1 }) :=
    ⟨rfl, getNode_setNode _ _ _, fun j hj => getNode_setNode_ne _ hj _, rfl⟩
  unfold countUse
  dsimp only
  rw [if_neg hno]
  split
  · exact hbase
  · exact hbase.raiseUses i

/-! ### Cipher commands (R254, R301 to R304) -/

theorem exec_cipherCmac (s : State) (sq : Fin 16) (m : HostMem) : exec (.cipherCmac sq m) s = .next (runCipher s sq.val 0x50 m cmacRun) := rfl
theorem exec_cipherCtr (s : State) (sq : Fin 16) (m : HostMem) : exec (.cipherCtr sq m) s = .next (runCipher s sq.val 0x51 m ctrRun) := rfl
theorem exec_ccmSeal (s : State) (sq : Fin 16) (m : HostMem) : exec (.ccmSeal sq m) s = .next (runCipher s sq.val 0x52 m ccmSealRun) := rfl
theorem exec_ccmOpen (s : State) (sq : Fin 16) (m : HostMem) : exec (.ccmOpen sq m) s = .next (runCipher s sq.val 0x53 m ccmOpenRun) := rfl

/-- A cipher command that begins is no violation of a dike. -/
theorem runCipher_begins {s : State} {sq : Fin 16} {op : Nat} {m : HostMem} {c : Cmd} {inp : List Byte}
    {body : State → Cmd → List Byte → State} (h : Begins s sq op m c inp) (hj : cipherJudge s c = .go) :
    runCipher s sq.val op m body = body (begun s c m) (runningCmd c m) (padTo (descLenIn c.desc) inp) := by
  unfold runCipher
  rw [runCmd_begins h hj, h.oldest]
  simp [hj]

theorem endMessage_out {z : State} {c : Cmd} (st : Status) (r : Nat) (out : List Byte) (h : c.outOk = true) :
    endMessage z c st r out = finishNow z c st r out := by simp [endMessage, h]

/-- What a cipher command leaves: one use more of its node, no other node changed, and nothing outside rings, armature and engine. -/
def CipherLeaves (i : Nat) (s t : State) : Prop :=
  (getNode t i).uses = (getNode s i).uses + 1 ∧ (∀ j, j ≠ i → getNode t j = getNode s j) ∧
    t = { s with ring := t.ring, key := t.key, cip := t.cip }

/-- A command that completes behind one use of a node. -/
theorem finish_used {s z : State} {sq : Fin 16} {op i : Nat} {m : HostMem} {c : Cmd} {inp : List Byte} (h : Begins s sq op m c inp)
    (hq : CqTakes s sq.val) (st : Status) (r : Nat) (out : List Byte) (ho : m.outOk = true ∨ out = []) (hz : UsedOnce i (begun s c m) z) :
    CipherLeaves i s (finishNow z (runningCmd c m) st r out) ∧ Posted s (finishNow z (runningCmd c m) st r out) c st r out := by
  have hsq : (runningCmd c m).sq = sq.val := h.sq_lt
  have hring : z.ring = (begun s c m).ring := by rw [hz.eq]
  have hclk : z.clk = s.clk := by
    rw [hz.eq]
    rfl
  have hflt : z.flt = s.flt := by
    rw [hz.eq]
    rfl
  obtain ⟨hp, he⟩ := finishNow_posted z (runningCmd c m) st r out (hsq ▸ sq.isLt) ho
    (hsq ▸ hq.of_ring (by rw [hring]; rfl) (by rw [hflt]) (by rw [hring]; rfl) (by rw [hring]; rfl))
  have hkey : ∀ j, getNode (finishNow z (runningCmd c m) st r out) j = getNode z j := fun j => by
    rw [he]
    rfl
  refine ⟨⟨?_, fun j hj => (hkey j).trans (hz.others j hj), ?_⟩, hp.of_ring (by rw [hring]; rfl) (by rw [hring]; rfl) (by rw [hring]; rfl)
    (by rw [hclk]) rfl rfl rfl⟩
  · rw [hkey, hz.node]
    rfl
  · rw [he, hz.eq]
    rfl

section
variable {s : State} {m : HostMem} {c : Cmd} {i : Nat} (hi : nodeOfHandle s c.desc.dw8.toNat = some i)
include hi

theorem cipherNode_begun : cipherNode (begun s c m) (runningCmd c m) = i := by
  have h : nodeOfHandle (begun s c m) (runningCmd c m).desc.dw8.toNat = some i := hi
  rw [cipherNode, h]
  rfl

theorem cmacRun_gives (b : List Byte) (ho : m.outOk = true) (hb : bitOf c.desc.dw9 8 = false) :
    cmacRun (begun s c m) (runningCmd c m) b = finishNow (addBlocks (countUse (begun s c m) i) (max 1 (blocksOf b.length))) (runningCmd c m) .ok 0
      (ofN ((cmac (nodeKey (getNode s i)) (toN b)).take (fld c.desc.dw9 0 5))) := by
  have hb' : ¬ bitOf (runningCmd c m).desc.dw9 8 = true := by
    change ¬ bitOf c.desc.dw9 8 = true
    rw [hb]
    exact Bool.false_ne_true
  unfold cmacRun
  dsimp only
  rw [cipherNode_begun hi, if_neg hb', endMessage_out _ _ _ (show (runningCmd c m).outOk = true from ho)]
  rfl

theorem cmacRun_verifies (b : List Byte) (hb : bitOf c.desc.dw9 8 = true) :
    cmacRun (begun s c m) (runningCmd c m) b = finishNow (addBlocks (countUse (begun s c m) i) (max 1 (blocksOf b.length))) (runningCmd c m)
      (if (cmac (nodeKey (getNode s i)) (toN b)).take (fld c.desc.dw9 0 5) = (descBytes16 c.desc).take (fld c.desc.dw9 0 5) then .ok
        else .tagMismatch) 0 [] := by
  have hb' : bitOf (runningCmd c m).desc.dw9 8 = true := hb
  unfold cmacRun
  dsimp only
  rw [cipherNode_begun hi, if_pos hb']
  rfl

theorem ctrRun_gives {b : List Byte} (ho : m.outOk = true) (hb : b ≠ []) :
    ctrRun (begun s c m) (runningCmd c m) b = finishNow (addBlocks (countUse (begun s c m) i) (blocksOf b.length)) (runningCmd c m) .ok
      (blocksOf b.length) (ofN (ctr (nodeKey (getNode s i)) (descBytes16 c.desc) (toN b))) := by
  have hb' : ¬ b.isEmpty = true := fun h => hb (List.isEmpty_iff.1 h)
  unfold ctrRun
  dsimp only
  rw [if_neg hb', cipherNode_begun hi, endMessage_out _ _ _ (show (runningCmd c m).outOk = true from ho)]
  rfl

theorem ccmSealRun_gives (b : List Byte) (ho : m.outOk = true) : ∃ k, ccmSealRun (begun s c m) (runningCmd c m) b =
    finishNow (addBlocks (countUse (begun s c m) i) k) (runningCmd c m) .ok (((getNode s i).uses + 1) % 2 ^ 32)
      (let nonce := sealNonce (fld c.desc.dw9 16 16) c.desc.dw8.toNat ((getNode s i).uses + 1)
       let r := ccmSealBytes (nodeKey (getNode s i)) nonce (toN (b.take (fld c.desc.dw10 0 24))) (toN (b.drop (fld c.desc.dw10 0 24)))
         (fld c.desc.dw9 0 5)
       ofN (nonce ++ List.replicate 4 0 ++ r.1 ++ r.2)) := by
  unfold ccmSealRun
  dsimp only
  rw [cipherNode_begun hi, endMessage_out _ _ _ (show (runningCmd c m).outOk = true from ho)]
  exact ⟨_, rfl⟩

theorem ccmOpenRun_opens {b : List Byte} {pt : List Nat} (ho : m.outOk = true)
    (hp : (let alen := fld c.desc.dw10 0 24
      let plen := b.length - alen - fld c.desc.dw9 0 5
      ccmOpenBytes (nodeKey (getNode s i)) ((descBytes16 c.desc).take (fld c.desc.dw9 8 4)) (toN (b.take alen)) (toN (slice b alen plen))
        (toN (b.drop (alen + plen)))) = some pt) : ∃ k, ccmOpenRun (begun s c m) (runningCmd c m) b =
      finishNow (addBlocks (countUse (begun s c m) i) k) (runningCmd c m) .ok 0 (ofN pt) := by
  have hp' : ccmOpenBytes (nodeKey (getNode (begun s c m) i)) ((descBytes16 (runningCmd c m).desc).take (fld (runningCmd c m).desc.dw9 8 4))
      (toN (b.take (fld (runningCmd c m).desc.dw10 0 24)))
      (toN (slice b (fld (runningCmd c m).desc.dw10 0 24) (b.length - fld (runningCmd c m).desc.dw10 0 24 - fld (runningCmd c m).desc.dw9 0 5)))
      (toN (b.drop (fld (runningCmd c m).desc.dw10 0 24 + (b.length - fld (runningCmd c m).desc.dw10 0 24 -
        fld (runningCmd c m).desc.dw9 0 5)))) = some pt := hp
  unfold ccmOpenRun
  dsimp only
  rw [cipherNode_begun hi, hp']
  dsimp only
  rw [endMessage_out _ _ _ (show (runningCmd c m).outOk = true from ho)]
  exact ⟨_, rfl⟩

end

/-- Settles O11, by the one use that each command counts. -/
theorem cipherCommandsComplete : Obligations.CipherCommandsComplete := by
  unfold Obligations.CipherCommandsComplete
  intro s sq m c inp i hq ho hj hi hlim
  have hused : ∀ k, UsedOnce i (begun s c m) (addBlocks (countUse (begun s c m) i) k) := fun k => (countUse_below (s := begun s c m) hlim).addBlocks k
  dsimp only
  refine ⟨fun h hb => ?_, fun h hb => ?_, fun h hb => ?_, fun h => ?_, fun pt h hp => ?_⟩
  · rw [exec_cipherCmac, runCipher_begins h hj, cmacRun_gives hi _ ho hb]
    exact ⟨_, rfl, finish_used h hq .ok 0 _ (.inl ho) (hused _)⟩
  · rw [exec_cipherCmac, runCipher_begins h hj, cmacRun_verifies hi _ hb]
    exact ⟨_, rfl, finish_used h hq _ 0 [] (.inr rfl) (hused _)⟩
  · rw [exec_cipherCtr, runCipher_begins h hj, ctrRun_gives hi ho hb]
    exact ⟨_, rfl, finish_used h hq .ok _ _ (.inl ho) (hused _)⟩
  · obtain ⟨k, hk⟩ := ccmSealRun_gives hi (padTo (descLenIn c.desc) inp) ho
    rw [exec_ccmSeal, runCipher_begins h hj, hk]
    exact ⟨_, rfl, finish_used h hq .ok _ _ (.inl ho) (hused k)⟩
  · obtain ⟨k, hk⟩ := ccmOpenRun_opens hi ho hp
    rw [exec_ccmOpen, runCipher_begins h hj, hk]
    exact ⟨_, rfl, finish_used h hq .ok 0 _ (.inl ho) (hused k)⟩

end Sys2Proof.Machine
end

section
/-! ## Key commands (R226, R248, R254, R257, R259, R260, R263) -/

namespace Sys2Proof.Machine
open Sys2Proof

theorem smFind_smDel_self {α : Type} (m : SMap α) (k : Nat) : smFind (smDel m k) k = none := by
  induction m with
  | nil => rfl
  | cons p m ih =>
    unfold smDel
    split
    · exact ih
    · next h => rw [smFind, if_neg h, ih]

theorem smFind_smDel_none {α : Type} {m : SMap α} {j : Nat} (k : Nat) (h : smFind m j = none) : smFind (smDel m k) j = none := by
  induction m with
  | nil => rfl
  | cons p m ih =>
    rw [smFind] at h
    split at h
    · cases h
    · next hj =>
      unfold smDel
      split
      · exact ih h
      · rw [smFind, if_neg hj, ih h]

theorem smFind_smIns_self {α : Type} (m : SMap α) (k : Nat) (v : α) : smFind (smIns m k v) k = some v := by
  induction m with
  | nil => simp [smIns, smFind]
  | cons p m ih =>
    unfold smIns
    split
    · simp [smFind]
    · next hne =>
      split
      · simp [smFind]
      · rw [smFind, if_neg hne, ih]

/-! ### A node leaves the tree (R257, R260) -/

/-- What an operation that uses a node is stays as it was while only the armature is worked on. -/
theorem nodeBusy_keyUse {s t : State} {j : Nat} (h : KeyUse s t) (hn : getNode t j = getNode s j) : nodeBusy t j = nodeBusy s j := by
  unfold nodeBusy
  rw [hn]
  obtain ⟨jr, p, k, c, ks, rfl⟩ := h
  rfl

/-- What a node that leaves the tree becomes: free, or INVALID where an operation uses it. -/
def leftNode (s : State) (j : Nat) : Node :=
  if nodeBusy s j then { getNode s j with st := .invalid, loaded := false, key := 0 } else Node.free

/-- The node is in the tree: ACTIVE or RETIRED. -/
def InTree (s : State) (j : Nat) : Prop := (getNode s j).st ≠ .free ∧ (getNode s j).st ≠ .invalid

theorem inTree_of_st {s : State} {j : Nat} (h : (getNode s j).st = .active ∨ (getNode s j).st = .retired) : InTree s j := by
  unfold InTree
  rcases h with h | h <;> rw [h] <;> decide

theorem not_inTree_leftNode {s t : State} {j : Nat} (h : getNode t j = leftNode s j) : ¬ InTree t j := by
  rintro ⟨h1, h2⟩
  rw [h] at h1 h2
  unfold leftNode at h1 h2
  by_cases hb : nodeBusy s j
  · exact h2 (by rw [if_pos hb])
  · exact h1 (by rw [if_neg hb]; rfl)

theorem invalidateOne_out {s : State} {i : Nat} (b : Bool) (h : ¬ InTree s i) : invalidateOne s i b = s := by
  have hc : (getNode s i).st = .free ∨ (getNode s i).st = .invalid := by
    by_contra hc
    exact h ⟨fun k => hc (.inl k), fun k => hc (.inr k)⟩
  exact if_pos hc

/-- A node in the tree that is invalidated. -/
structure Invalidated (s t : State) (i : Nat) : Prop where
  use : KeyUse s t
  cip : t.cip = s.cip
  node : getNode t i = leftNode s i
  others : ∀ j, j ≠ i → getNode t j = getNode s j
  store : t.fl.keyStore = smDel s.fl.keyStore i

/-- The record of an invalidated node, where one is staged. -/
theorem leaveRecord_keyUse (s : State) (journal : Bool) (frm cause arg : Nat) (l : List Byte) :
    LogOnly s (if journal then stageLife s 11 frm cause arg l else s) ∧ KeyUse s (if journal then stageLife s 11 frm cause arg l else s) := by
  split
  · refine ⟨stageLife_logOnly _ _ _ _ _ _, .of_logOnly (stageLife_logOnly _ _ _ _ _ _) ?_⟩
    unfold stageLife
    rw [if_neg (by decide : ¬ 11 ≤ 9)]
    exact stageSoon_ring _ _ _ _
  · exact ⟨(RingOnly.refl s).logOnly, .refl s⟩

theorem invalidateOne_in {s : State} {i : Nat} (journal : Bool) (h : InTree s i) : Invalidated s (invalidateOne s i journal) i := by
  have hno : ¬ ((getNode s i).st = .free ∨ (getNode s i).st = .invalid) := fun k => k.elim h.1 h.2
  obtain ⟨hlog, huse⟩ := leaveRecord_keyUse s journal (nodeStCode (getNode s i).st) 3 (getNode s i).type
    (leBytes (handleOf s i) 4 ++ leBytes (getNode s i).gen.toNat 2)
  unfold invalidateOne
  dsimp only
  rw [if_neg hno]
  generalize (if journal then stageLife s 11 (nodeStCode (getNode s i).st) 3 (getNode s i).type
    (leBytes (handleOf s i) 4 ++ leBytes (getNode s i).gen.toNat 2) else s) = z at hlog huse ⊢
  refine ⟨huse.trans ⟨_, _, _, _, _, rfl⟩, hlog.cip, ?_, fun j hj => ?_, ?_⟩
  · exact (getNode_setNode z i _).trans rfl
  · refine (getNode_setNode_ne z hj _).trans ?_
    simp only [getNode, hlog.key]
  · rw [← hlog.fl]
    rfl

/-- The nodes of a list leave the tree: what each of them becomes, and what stays. -/
structure Removed (s t : State) (l : List Nat) : Prop where
  use : KeyUse s t
  cip : t.cip = s.cip
  others : ∀ j, j ∉ l → getNode t j = getNode s j
  out : ∀ j, ¬ InTree s j → getNode t j = getNode s j
  gone : ∀ j ∈ l, InTree s j → getNode t j = leftNode s j ∧ smFind t.fl.keyStore j = none
  store : ∀ j, smFind s.fl.keyStore j = none → smFind t.fl.keyStore j = none

theorem Removed.refl (s : State) : Removed s s [] :=
  ⟨.refl s, rfl, fun _ _ => rfl, fun _ _ => rfl, fun _ hj => absurd hj List.not_mem_nil, fun _ h => h⟩

theorem leftNode_congr {s t : State} {j : Nat} (h : KeyUse s t) (hn : getNode t j = getNode s j) : leftNode t j = leftNode s j := by
  unfold leftNode
  rw [nodeBusy_keyUse h hn, hn]

theorem invalidateAll_removed {journal : Bool} (l : List Nat) : ∀ s, Removed s (invalidateAll s l journal) l := by
  induction l with
  | nil => exact Removed.refl
  | cons a l ih =>
    intro s
    have hcons : invalidateAll s (a :: l) journal = invalidateAll (invalidateOne s a journal) l journal := rfl
    rw [hcons]
    obtain ⟨ruse, rcip, rothers, rout, rgone, rstore⟩ := ih (invalidateOne s a journal)
    by_cases ha : InTree s a
    · obtain ⟨iuse, icip, inode, iothers, istore⟩ := invalidateOne_in journal ha
      have haout : getNode (invalidateAll (invalidateOne s a journal) l journal) a = leftNode s a :=
        (rout a (not_inTree_leftNode inode)).trans inode
      have htree : ∀ j, j ≠ a → (InTree (invalidateOne s a journal) j ↔ InTree s j) := fun j hj => by
        unfold InTree
        rw [iothers j hj]
      refine ⟨iuse.trans ruse, rcip.trans icip, fun j hj => ?_, fun j hj => ?_, fun j hj ht => ?_, fun j hj => ?_⟩
      · have h1 := List.ne_of_not_mem_cons hj
        have h2 := List.not_mem_of_not_mem_cons hj
        rw [rothers j h2, iothers j h1]
      · have hja : j ≠ a := fun h => hj (h ▸ ha)
        rw [rout j (fun h => hj ((htree j hja).1 h)), iothers j hja]
      · by_cases hja : j = a
        · subst hja
          exact ⟨haout, rstore j (by rw [istore]; exact smFind_smDel_self _ _)⟩
        · obtain ⟨h1, h2⟩ := rgone j ((List.mem_cons.1 hj).resolve_left hja) ((htree j hja).2 ht)
          exact ⟨h1.trans (leftNode_congr iuse (iothers j hja)), h2⟩
      · exact rstore j (by rw [istore]; exact smFind_smDel_none a hj)
    · have hid := invalidateOne_out journal ha
      rw [hid] at ruse rcip rothers rout rgone rstore ⊢
      refine ⟨ruse, rcip, fun j hj => rothers j (List.not_mem_of_not_mem_cons hj), rout, fun j hj ht => ?_, rstore⟩
      rcases List.mem_cons.1 hj with rfl | hj
      · exact absurd ht ha
      · exact rgone j hj ht

/-! ### The commands -/

/-- A command that completes behind work on the armature is posted, and what the work left stays but for the rings. -/
theorem finishNow_behind {s z : State} {sq : Fin 16} {op : Nat} {m : HostMem} {c : Cmd} {inp : List Byte} (h : Begins s sq op m c inp)
    (hq : CqTakes s sq.val) (r : Nat) (hring : z.ring = (begun s c m).ring) (hclk : z.clk = s.clk) (hflt : z.flt = s.flt) :
    Posted s (finishNow z (runningCmd c m) .ok r []) c .ok r [] ∧ RingOnly z (finishNow z (runningCmd c m) .ok r []) := by
  have hsq : (runningCmd c m).sq = sq.val := h.sq_lt
  obtain ⟨hp, he⟩ := finishNow_posted z (runningCmd c m) .ok r [] (hsq ▸ sq.isLt) (.inr rfl)
    (hsq ▸ hq.of_ring (by rw [hring]; rfl) (by rw [hflt]) (by rw [hring]; rfl) (by rw [hring]; rfl))
  exact ⟨hp.of_ring (by rw [hring]; rfl) (by rw [hring]; rfl) (by rw [hring]; rfl) (by rw [hclk]) rfl rfl rfl, _, he⟩

/-- A command of the dike that begins is no violation. -/
theorem runDike_begins {s : State} {sq : Fin 16} {op : Nat} {m : HostMem} {c : Cmd} {inp : List Byte} {own : State → Cmd → Judge}
    {body : State → Cmd → List Byte → State} (h : Begins s sq op m c inp) (hj : own s c = .go) :
    runDike s sq.val op m own body = body (begun s c m) (runningCmd c m) (padTo (descLenIn c.desc) inp) := by
  unfold runDike
  rw [runCmd_begins h hj, h.oldest]
  simp [hj]

theorem exec_keyDerive (sq : Fin 16) (m : HostMem) (s : State) :
    exec (.keyDerive sq m) s = .next (runDike s sq.val 0x58 m deriveJudge deriveRun) := rfl

theorem exec_keyInvalidate (sq : Fin 16) (m : HostMem) (s : State) :
    exec (.keyInvalidate sq m) s = .next (runDike s sq.val 0x59 m invalidateJudge invalidateRun) := rfl

theorem exec_keyImport (sq : Fin 16) (m : HostMem) (s : State) :
    exec (.keyImport sq m) s = .next (runCmd s sq.val 0x5B m importJudge importRun) := rfl

theorem nodeOfHandle_used {s : State} {h i : Nat} (hi : nodeOfHandle s h = some i) : (getNode s i).st ≠ .free := by
  unfold nodeOfHandle at hi
  dsimp only at hi
  split at hi
  · next hc =>
    cases hi
    exact hc.2.1
  · cases hi

theorem freeHostIndex_free {s : State} {i : Nat} (hi : freeHostIndex s = some i) : (getNode s i).st = .free :=
  of_decide_eq_true (List.find?_some (p := fun i => decide ((getNode s i).st = .free)) hi)

theorem UsedOnce.behindBlocks {i n : Nat} {s t : State} (h : UsedOnce i (Machine.addBlocks s n) t) : UsedOnce i s t :=
  ⟨by
    rw [h.eq]
    rfl, h.node, h.others, h.iseq⟩

/-- A child derived under a parent below its limit (R248, R254, R259). -/
theorem deriveNode_enters {z : State} {p i g : Nat} (label : BitVec 128) (big : Bool) (limit : Nat) (hip : i ≠ p)
    (hlim : (getNode z p).uses + 1 < (getNode z p).limit) :
    let t := deriveNode z p label big limit g i
    (getNode t i).st = .active ∧ (getNode t i).type = 5 ∧ (getNode t i).loaded = true ∧ (getNode t i).owner = 0x20#8 ∧
      (getNode t i).uses = 0 ∧ (getNode t i).level = (getNode z p).level + 1 ∧
      (getNode t i).parent = BitVec.ofNat 32 (handleOf z p) ∧ (getNode t i).label = label ∧ (getNode t i).beat = z.clk.beat ∧
      (getNode t i).gen = BitVec.ofNat 16 g ∧
      (getNode t i).key = BitVec.ofNat 256 (beN (kdf (nodeKey (getNode z p)) (toN (leBytes label.toNat 16))
        (nBe Config.deviceUid.toNat 8 ++ nBe g 2) big)) ∧
      (getNode t p).uses = (getNode z p).uses + 1 ∧ (∀ j, j ≠ i → j ≠ p → getNode t j = getNode z j) ∧
      t = { z with key := t.key, cip := t.cip } := by
  have hu : UsedOnce p z (countUse (addBlocks z (if big then 4 else 2)) p) :=
    .behindBlocks (countUse_below (s := addBlocks z (if big then 4 else 2)) hlim)
  intro t
  have ht : t = deriveNode z p label big limit g i := rfl
  unfold deriveNode at ht
  dsimp only at ht
  generalize countUse (addBlocks z (if big then 4 else 2)) p = u at hu ht
  have hnode : ∀ j, j ≠ i → getNode t j = getNode u j := fun j hj => by
    rw [ht, getNode_setNode_ne _ hj]
    rfl
  have hself := (congrArg (fun x => getNode x i) ht).trans (getNode_setNode _ _ _)
  rw [hself, hnode p (Ne.symm hip), hu.node]
  refine ⟨rfl, rfl, rfl, rfl, rfl, rfl, rfl, rfl, rfl, rfl, rfl, rfl, fun j hji hjp => (hnode j hji).trans (hu.others j hjp), ?_⟩
  rw [ht, hu.eq]
  rfl

/-! ### Wrapped key import (R226, R254, R263) -/

/-- The old node and what hangs on it leave the tree before the blob's node is entered. -/
def clearedFor (s : State) (b : List Byte) (i : Nat) : State :=
  if leAt b 2 1 = 1 then invalidateAll s (subtree s i) true
  else if leAt b 2 1 = 2 then invalidateAll s (if (getNode s i).st = .free then [] else [16, 5]) true
  else s

/-- The node of a blob. -/
def blobNode (s : State) (b : List Byte) (i : Nat) (key : List Nat) (inst root : Nat) : Node :=
  { inst := inst, parent := BitVec.ofNat 32 root, level := 1, type := leAt b 2 1 + 1, st := .active, big := decide (leAt b 13 1 = 1),
    loaded := true, persistent := true,
    owner := if leAt b 2 1 = 1 then 0x1F else if leAt b 2 1 = 2 then 0x40 else 0x20,
    fslot := if leAt b 2 1 = 1 then some (i - 8) else none,
    gen := BitVec.ofNat 16 (leAt b 14 2), label := BitVec.ofNat 128 (leAt b 16 16), uses := 0,
    limit := limitOf (leAt b 32 6), beat := s.clk.beat,
    key := BitVec.ofNat 256 (beN (if decide (leAt b 13 1 = 1) then key else key.take 16)),
    secretMask := decide (s.ent.st ≠ .ready) }

/-- A node stands in the tree and in the flash key store, and the import sequence number is the blob's. -/
def enteredNode (z : State) (i : Nat) (n : Node) (q : BitVec 32) : State :=
  { setNode z i n with
    key := { (setNode z i n).key with iseq := q, usesMark := smDel (setNode z i n).key.usesMark i },
    fl := { (setNode z i n).fl with keyStore := smIns (setNode z i n).fl.keyStore i n } }

/-- The node of a blob enters under its new INST. -/
def enterBlob (s : State) (b : List Byte) (i : Nat) (key : List Nat) (x : Nat × State) : State :=
  stageNode (enteredNode x.2 i (blobNode s b i key x.1 (handleOf x.2 0)) (BitVec.ofNat 32 (leAt b 40 4))) 10 i
    (if leAt b 2 1 = 3 then .free else (getNode s i).st)

/-- The end of an import: a ledger node goes on to K_v. -/
def importEnd (b : List Byte) (u : State) : State := if leAt b 2 1 = 2 then ledgerImported u else u

theorem importNode_eq (s : State) (b : List Byte) (i : Nat) (key : List Nat) : importNode s b i key =
    importEnd b (enterBlob s b i key (nextInst (countUse (countUse (clearedFor s b i) 1) 2) i)) := by
  have h : ∀ x, nextInst (countUse (countUse (clearedFor s b i) 1) 2) i = x →
      importNode s b i key = importEnd b (enterBlob s b i key x) := by
    intro x hx
    unfold importNode
    dsimp only
    unfold clearedFor at hx
    rw [hx]
    rfl
  exact h _ rfl

theorem clearedFor_keyUse (s : State) (b : List Byte) (i : Nat) : KeyUse s (clearedFor s b i) :=
  .ite (invalidateAll_removed _ s).use (.ite (invalidateAll_removed _ s).use (.refl s))

/-- What a node that was imported leaves: its entry in the tree and in flash, and the sequence number. -/
structure Entered (s t : State) (i : Nat) (n : Node) (q : BitVec 32) (uses : Nat) : Prop where
  node : getNode t i = { n with uses := uses }
  store : smFind t.fl.keyStore i = some n
  iseq : t.key.iseq = q
  frame : ∃ l, KeyUse { s with ldg := l } t

theorem enteredNode_enters {s z : State} {i : Nat} {n : Node} (q : BitVec 32) (h : KeyUse s z) (o : NodeState) :
    Entered s (stageNode (enteredNode z i n q) 10 i o) i n q n.uses := by
  have hlog : LogOnly (enteredNode z i n q) (stageNode (enteredNode z i n q) 10 i o) := by
    unfold stageNode
    exact stageLife_logOnly _ _ _ _ _ _
  have hkey := hlog.key
  have hfl := hlog.fl
  refine ⟨?_, ?_, ?_, s.ldg, (h.trans ⟨_, _, _, _, _, rfl⟩).trans (stageNode_keyUse _ _ _ (by decide))⟩
  · have hn : getNode (enteredNode z i n q) i = n := getNode_setNode z i n
    unfold getNode at hn ⊢
    rw [hkey, hn]
  · rw [hfl]
    exact smFind_smIns_self _ _ _
  · rw [hkey]
    rfl

/-- A node that the device derives for itself changes only its own entry of the tree. -/
theorem sysNode_changes (s : State) (i parent level gen limit : Nat) (big : Bool) (owner : BitVec 8) (label : String) (key : List Nat) :
    ∃ k, sysNode s i parent level gen limit big owner label key = { s with key := k } ∧ k.iseq = s.key.iseq ∧
      (∀ j, j ≠ i → getNode { s with key := k } j = getNode s j) ∧ (getNode { s with key := k } i).gen = BitVec.ofNat 16 gen := by
  unfold sysNode
  dsimp only
  generalize labelOf label = lab
  refine ⟨_, rfl, rfl, fun j hj => ?_, ?_⟩
  · exact getNode_setNode_ne _ hj _
  · exact congrArg Node.gen (getNode_setNode _ _ _)

/-- The import of a ledger node derives K_v from it: one use of the node (R226, R254). -/
theorem ledgerImported_uses {s u : State} {n : Node} {q : BitVec 32} (h : Entered s u 16 n q 0) (hst : n.st = .active)
    (hl : 1 < n.limit) : Entered s (ledgerImported u) 16 n q 1 := by
  obtain ⟨hnode, hstore, hiseq, l, hframe⟩ := h
  have hu : UsedOnce 16 u (childUse u 16) := .behindBlocks (countUse_below (s := addBlocks u 2) (i := 16) (by
    change (getNode u 16).uses + 1 < (getNode u 16).limit
    rw [hnode]
    exact hl))
  have hled : hasLedgerNode u = true := by simp [hasLedgerNode, hnode, hst]
  unfold ledgerImported installKv
  rw [if_pos hled]
  have hk : KeyUse u (childUse u 16) := (addBlocks_keyUse u 2).trans (countUse_keyUse _ 16)
  have hfl : (childUse u 16).fl = u.fl := by rw [hu.eq]
  have hn : getNode (childUse u 16) 16 = { n with uses := 1 } := by
    rw [hu.node, hnode]
  obtain ⟨k, hsys, hki, hkn, -⟩ := sysNode_changes (childUse u 16) 5 (handleOf u 16) 2 (ledgerGen u) (2 ^ 48 - 1) false 0x40
    "KZ VOUCHER KEY 1" (kvDerive u (ledgerGen u))
  rw [hsys]
  dsimp only
  have hui : (childUse u 16).key.iseq = q := hu.iseq.trans hiseq
  generalize childUse u 16 = w at hk hfl hn hki hkn hui
  generalize (getNode _ 16).gen = g
  refine ⟨(hkn 16 (by decide)).trans hn, (congrArg (smFind ·.keyStore 16) hfl).trans hstore, hki.trans hui,
    { w.ldg with h := 0, map := 0, lgen := g }, ?_⟩
  obtain ⟨jr, p, k0, ci, ks, rfl⟩ := hframe.trans hk
  exact ⟨_, _, _, _, _, rfl⟩

theorem blobIndex_ledger {s : State} {b : List Byte} {i : Nat} (h : blobIndex s b = some i) (ht : leAt b 2 1 = 2) : i = 16 := by
  unfold blobIndex at h
  rw [ht] at h
  exact (Option.some.inj h).symm

theorem enterBlob_enters {s : State} {b : List Byte} {i : Nat} {key : List Nat} {x : Nat × State} (h : KeyUse s x.2) :
    Entered s (enterBlob s b i key x) i (blobNode s b i key x.1 (handleOf x.2 0)) (BitVec.ofNat 32 (leAt b 40 4)) 0 :=
  enteredNode_enters (BitVec.ofNat 32 (leAt b 40 4)) h (if leAt b 2 1 = 3 then .free else (getNode s i).st)

theorem nextInst_keyUse (s : State) (i : Nat) : KeyUse s (nextInst s i).2 := ⟨_, _, _, _, _, rfl⟩

/-- A blob that passed its checks enters its node. -/
theorem importNode_enters {s : State} {b : List Byte} {i : Nat} (key : List Nat) (hi : blobIndex s b = some i)
    (hl : leAt b 2 1 = 2 → 1 < limitOf (leAt b 32 6)) :
    ∃ inst root, Entered s (importNode s b i key) i (blobNode s b i key inst root) (BitVec.ofNat 32 (leAt b 40 4))
      (if leAt b 2 1 = 2 then 1 else 0) := by
  have huse : KeyUse s (countUse (countUse (clearedFor s b i) 1) 2) :=
    ((clearedFor_keyUse s b i).trans (countUse_keyUse _ 1)).trans (countUse_keyUse _ 2)
  generalize hz : countUse (countUse (clearedFor s b i) 1) 2 = z at huse
  have hx : KeyUse s (nextInst z i).2 := huse.trans (nextInst_keyUse z i)
  have heq := importNode_eq s b i key
  rw [hz] at heq
  generalize nextInst z i = x at hx heq
  have hin := enterBlob_enters (b := b) (i := i) (key := key) hx
  refine ⟨x.1, handleOf x.2 0, ?_⟩
  generalize enterBlob s b i key x = u at hin heq
  rw [heq]
  unfold importEnd
  by_cases ht : leAt b 2 1 = 2
  · obtain rfl := blobIndex_ledger hi ht
    rw [if_pos ht, if_pos ht]
    exact ledgerImported_uses hin rfl (hl ht)
  · rw [if_neg ht, if_neg ht]
    exact hin

theorem importRun_enters {s : State} {b : List Byte} {i : Nat} {key : List Nat} (c : Cmd) (h1 : blobShape b = true)
    (h2 : BitVec.ofNat 64 (leAt b 4 8) = Config.deviceUid) (h3 : leAt b 12 1 = lcState s) (h4 : engineFailed s = false)
    (h5 : nodeLive s 1 = true) (h6 : blobKey s b = some key) (h7 : blobFresh s b = true) (h8 : blobIndex s b = some i) :
    importRun s c b = finishNow (importNode s b i key) c .ok (handleOf (importNode s b i key) i) [] := by
  simp [importRun, h1, h2, h3, h4, h5, h6, h7, h8]

/-- Settles O12: a derived node by `deriveNode_enters`, an invalidated tree by `invalidateAll_removed`, an imported node by
`importNode_enters`. -/
theorem keyCommandsComplete : Obligations.KeyCommandsComplete := by
  unfold Obligations.KeyCommandsComplete
  refine ⟨fun s sq m c inp hq => ⟨fun p i h hj hp hi hlim => ?_, fun i h hr hi hty => ?_⟩,
    fun s sq m c inp key i h hj hq => ?_⟩
  · have hip : i ≠ p := fun k => nodeOfHandle_used hp (k ▸ freeHostIndex_free hi)
    have hd := deriveNode_enters (z := begun s c m) (p := p) (i := i) (g := nextGen s p (descLabel c.desc)) (descLabel c.desc)
      (bitOf c.desc.dw9 0) (c.desc.dw10.toNat + fld c.desc.dw11 0 16 * 2 ^ 32) hip hlim
    have hrun : deriveRun (begun s c m) (runningCmd c m) (padTo (descLenIn c.desc) inp) =
        (let s1 := deriveNode (begun s c m) p (descLabel c.desc) (bitOf c.desc.dw9 0)
          (c.desc.dw10.toNat + fld c.desc.dw11 0 16 * 2 ^ 32) (nextGen s p (descLabel c.desc)) i
         finishNow s1 (runningCmd c m) .ok (handleOf s1 i) []) := by
      have hp' : nodeOfHandle (begun s c m) (runningCmd c m).desc.dw8.toNat = some p := hp
      have hi' : freeHostIndex (begun s c m) = some i := hi
      unfold deriveRun
      dsimp only
      rw [hp', hi']
      rfl
    rw [exec_keyDerive, runDike_begins h hj, hrun]
    dsimp only
    dsimp only at hd
    generalize deriveNode (begun s c m) p (descLabel c.desc) (bitOf c.desc.dw9 0)
      (c.desc.dw10.toNat + fld c.desc.dw11 0 16 * 2 ^ 32) (nextGen s p (descLabel c.desc)) i = z at hd
    obtain ⟨d1, d2, d3, d4, d5, d6, d7, d8, d9, d10, d11, d12, d13, d14⟩ := hd
    obtain ⟨hpost, r, ht⟩ := finishNow_behind (z := z) h hq (handleOf z i) (by rw [d14]) (by rw [d14]; rfl) (by rw [d14]; rfl)
    refine ⟨_, rfl, ?_⟩
    rw [ht] at hpost ⊢
    refine ⟨hpost, ⟨d1, d2, d3, d4, d5, d6, d7, d8, d9, d10, d11⟩, d12, d13, ?_⟩
    rw [d14]
    rfl
  · have hrun : invalidateRun (begun s c m) (runningCmd c m) (padTo (descLenIn c.desc) inp) =
        finishNow (invalidateAll (begun s c m) (subtree s i) true) (runningCmd c m) .ok (subtree s i).length [] := by
      have hi' : nodeOfHandle (begun s c m) (runningCmd c m).desc.dw8.toNat = some i := hi
      unfold invalidateRun
      rw [hi']
      rfl
    have hgo : invalidateJudge s c = .go := by
      simp [invalidateJudge, hr, hi, hty]
    have hrem := invalidateAll_removed (journal := true) (subtree s i) (begun s c m)
    rw [exec_keyInvalidate, runDike_begins h hgo, hrun]
    generalize invalidateAll (begun s c m) (subtree s i) true = z at hrem
    obtain ⟨⟨jr, p, k, ci, ks, hz⟩, hcip, hothers, -, hgone, -⟩ := hrem
    obtain ⟨hpost, r, ht⟩ := finishNow_behind (z := z) h hq (subtree s i).length (by rw [hz]) (by rw [hz]; rfl) (by rw [hz]; rfl)
    refine ⟨_, rfl, ?_⟩
    rw [ht] at hpost ⊢
    refine ⟨hpost, fun j hj hst => ?_, hothers, ?_⟩
    · obtain ⟨hnode, hstore⟩ := hgone j hj (inTree_of_st hst)
      refine ⟨hstore, fun hb => ?_, fun hb => ?_⟩
      · exact hnode.trans (if_neg (Bool.eq_false_iff.1 hb))
      · exact hnode.trans (if_pos hb)
    · have hci : ci = s.cip := (congrArg State.cip hz).symm.trans hcip
      rw [hz, hci]
      rfl
  · intro b ty hs hu hl he hn hk hf hi _ hlim _
    have hrun : importRun (begun s c m) (runningCmd c m) b = finishNow (importNode (begun s c m) b i key) (runningCmd c m) .ok
        (handleOf (importNode (begun s c m) b i key) i) [] := importRun_enters _ hs hu hl he hn hk hf hi
    obtain ⟨inst, root, hin⟩ := importNode_enters (s := begun s c m) (b := b) (i := i) key hi hlim
    rw [exec_keyImport, runCmd_begins h hj, hrun]
    generalize importNode (begun s c m) b i key = z at hin
    obtain ⟨hnode, hstore, hiseq, l, jr, p, k, ci, ks, hz⟩ := hin
    obtain ⟨hpost, r, ht⟩ := finishNow_behind (z := z) h hq (handleOf z i) (by rw [hz]) (by rw [hz]; rfl) (by rw [hz]; rfl)
    refine ⟨_, rfl, ?_⟩
    rw [ht] at hpost ⊢
    have hnode' : getNode { z with ring := r } i = { blobNode (begun s c m) b i key inst root with uses := if leAt b 2 1 = 2 then 1 else 0 } := hnode
    refine ⟨hpost, ?_, hiseq, by rw [hz]; rfl, by rw [hz]; rfl, by rw [hz]; rfl, by rw [hz]; rfl, by rw [hz]; rfl⟩
    rw [hnode']
    exact ⟨rfl, rfl, rfl, rfl, rfl, rfl, rfl, rfl, rfl, by simp [blobNode], hstore⟩

end Sys2Proof.Machine
end
section
/-! ## Leases and ages (R191, R192, R195, R423) -/

namespace Sys2Proof.Machine
open Sys2Proof

/-! ### What a boundary's decision leaves of the two lanes -/

/-- The two lanes are as they were. -/
structure SameLanes (s t : State) : Prop where
  a : t.slu.a = s.slu.a
  b : t.slu.b = s.slu.b

theorem SameLanes.refl (s : State) : SameLanes s s := ⟨rfl, rfl⟩

theorem SameLanes.trans {s t u : State} (h : SameLanes s t) (k : SameLanes t u) : SameLanes s u := ⟨k.a.trans h.a, k.b.trans h.b⟩

theorem SameLanes.ite {s t u : State} {c : Prop} [Decidable c] (ht : SameLanes s t) (hu : SameLanes s u) :
    SameLanes s (if c then t else u) := by
  split
  · exact ht
  · exact hu

theorem SameLanes.of_outFrame {s t : State} (h : OutFrame s t) : SameLanes s t := by
  constructor <;> rw [h.eq]

theorem stageLane_sameLanes (s : State) (event n : Nat) : SameLanes s (stageLane s event n) := .of_outFrame (stageLane_outFrame s event n)

/-- The lanes after the decisions of a sluice, before its outputs follow. -/
def sluiceDecided (s : State) (n : Nat) : State :=
  let da := decideSl s s.slu.a n
  let db := decideSl s s.slu.b n
  let go := da.wants && db.wants && bothActive s
  let drop := (decide (s.slu.a.st = .active) && da.drops) || (decide (s.slu.b.st = .active) && db.drops) ||
    (!laneDead s .a && !!laneDead s .b && da.drops) || (!laneDead s .b && !!laneDead s .a && db.drops)
  let out := fun (d : Decision) =>
    if go then { d.sl with released := true, leftUs := leaseUs s n, ended := false, cause := 0 }
    else if drop then closeSl d.sl else d.sl
  let s1 := if !laneDead s .a then setLane s .a (setLaneSl s.slu.a n (out da)) else s
  let s2a := if !laneDead s .b then setLane s1 .b (setLaneSl s1.slu.b n (out db)) else s1
  if drop then closeBoth s2a n else s2a

theorem evalSluice_sameLanes (s : State) (n : Nat) : SameLanes (sluiceDecided s n) (evalSluice s n) := by
  unfold evalSluice
  extract_lets aLive bLive da db differ go drop out was held s1 s2a s2 conf o s3 _ s4
  have h3 : SameLanes (sluiceDecided s n) s3 := .ite ⟨rfl, rfl⟩ (.ite ⟨rfl, rfl⟩ (.refl _))
  have h4 : SameLanes (sluiceDecided s n) s4 := by
    refine h3.trans (.ite (SameLanes.trans ?_ (stageLane_sameLanes _ _ _)) (.refl _))
    exact ⟨rfl, rfl⟩
  have hc : ∀ e, SameLanes s4 (countChange (stageLane s4 e n)) := fun e => (stageLane_sameLanes s4 e n).trans ⟨rfl, rfl⟩
  exact h4.trans (.ite (hc 0) (.ite (hc 1) (.ite (stageLane_sameLanes _ _ _) (.refl _))))

theorem laneSl_setLaneSl (l : Lane) (n : Nat) (x : LaneSl) : laneSl (setLaneSl l n x) n = x := smGet_smPut_self _ _ _ _

theorem laneSl_setLaneSl_ne (l : Lane) {i n : Nat} (h : i ≠ n) (x : LaneSl) : laneSl (setLaneSl l n x) i = laneSl l i :=
  smGet_smPut_ne _ h _ _

/-! ### A lease that runs out (R195) -/

section
variable {s : State} {n : Nat} (hd : s.slu.withdrawDue.getLsbD n = false)
include hd

theorem decideSl_released {l : Lane} (hr : (laneSl l n).released = true) :
    (decideSl s l n).wants = false ∧ (decideSl s l n).sl.released = true ∧
      (decideSl s l n).drops = (decide ((decideSl s l n).sl.leftUs = 0) && !s.slu.dhold) := by
  unfold decideSl
  extract_lets x h f q started policy cause y z
  rw [if_neg (by rw [hd]; decide), if_pos hr]
  refine ⟨rfl, ?_, rfl⟩
  have hz : z.released = x.released := by
    simp only [z]
    split
    · rfl
    · split
      · rfl
      · split <;> rfl
  exact hz.trans hr

theorem decideSl_drops {l : Lane} (h : (decideSl s l n).drops = true) : s.slu.dhold = false := by
  by_cases hr : (laneSl l n).released = true
  · rw [(decideSl_released hd hr).2.2] at h
    simpa using (Bool.and_eq_true_iff.1 h).2
  · have hno : (decideSl s l n).drops = false := by
      unfold decideSl
      extract_lets x h f q started policy cause y z
      rw [if_neg (by rw [hd]; decide), if_neg hr]
    rw [hno] at h
    cases h

end

theorem sluiceDecided_ne (s : State) {i n : Nat} (hi : i ≠ n) :
    laneSl (sluiceDecided s n).slu.a i = laneSl s.slu.a i ∧ laneSl (sluiceDecided s n).slu.b i = laneSl s.slu.b i := by
  have h1 : ∀ (z : State) (x y : LaneSl), laneSl (setLaneSl z.slu.a n x) i = laneSl z.slu.a i ∧ laneSl (setLaneSl z.slu.b n y) i = laneSl z.slu.b i :=
    fun z x y => ⟨laneSl_setLaneSl_ne _ hi x, laneSl_setLaneSl_ne _ hi y⟩
  unfold sluiceDecided
  extract_lets da db go drop out s1 s2a
  have hs1 : laneSl s1.slu.a i = laneSl s.slu.a i ∧ laneSl s1.slu.b i = laneSl s.slu.b i := by
    simp only [s1]
    split
    · exact ⟨laneSl_setLaneSl_ne _ hi _, rfl⟩
    · exact ⟨rfl, rfl⟩
  have hs2 : laneSl s2a.slu.a i = laneSl s.slu.a i ∧ laneSl s2a.slu.b i = laneSl s.slu.b i := by
    simp only [s2a]
    split
    · exact ⟨hs1.1, (laneSl_setLaneSl_ne _ hi _).trans hs1.2⟩
    · exact hs1
  split
  · exact ⟨(laneSl_setLaneSl_ne _ hi _).trans hs2.1, (laneSl_setLaneSl_ne _ hi _).trans hs2.2⟩
  · exact hs2

/-- A lease of lane A that has nothing left: the sluice closes, or stays released while DRIVE_HOLD is asserted. -/
theorem sluiceDecided_runOut {s : State} {n : Nat} (ha : s.slu.a.st = .active) (hd : s.slu.withdrawDue.getLsbD n = false)
    (hr : (laneSl s.slu.a n).released = true) (hl : (decideSl s s.slu.a n).sl.leftUs = 0) :
    (laneSl (sluiceDecided s n).slu.a n).leftUs = 0 ∧ (laneSl (sluiceDecided s n).slu.a n).released = s.slu.dhold := by
  obtain ⟨hwants, hrel, hdrops⟩ := decideSl_released hd hr
  have hdead : laneDead s .a = false := by simp [laneDead, getLane, ha]
  unfold sluiceDecided
  extract_lets da db go drop out s1 s2a
  have hgo : go = false := by simp [go, da, hwants]
  cases hh : s.slu.dhold with
  | false =>
    have hdrop : drop = true := by simp [drop, da, hdrops, hl, ha, hh]
    rw [if_pos hdrop]
    refine ⟨congrArg LaneSl.leftUs (laneSl_setLaneSl s2a.slu.a n _), congrArg LaneSl.released (laneSl_setLaneSl s2a.slu.a n _)⟩
  | true =>
    have hdrop : ¬ drop = true := by
      have hb : ∀ l : Lane, (decideSl s l n).drops = false := fun l => by
        by_contra hc
        have := decideSl_drops hd (Bool.eq_true_of_not_eq_false hc)
        rw [hh] at this
        cases this
      simp [drop, da, db, hb]
    have hs2 : s2a.slu.a = setLaneSl s.slu.a n da.sl := by
      have hs1 : s1.slu.a = setLaneSl s.slu.a n da.sl := by
        simp only [s1, out]
        rw [if_pos (by rw [hdead]; rfl), if_neg (by rw [hgo]; decide), if_neg hdrop]
        rfl
      simp only [s2a]
      split
      · exact hs1
      · exact hs1
    rw [if_neg hdrop, hs2, laneSl_setLaneSl]
    exact ⟨hl, hrel⟩

/-! ### The lanes take their terms anew (R191, R192) -/

/-- The state with the sluice tables of the two lanes replaced. -/
def relaned (s : State) (x y : SMap LaneSl) : State :=
  { s with slu := { s.slu with a := { s.slu.a with sl := x }, b := { s.slu.b with sl := y } } }

/-- A lane's entry with the terms of a decision, its release and its lease as they were. -/
def reviewedSl (x d : LaneSl) : LaneSl :=
  { x with policy := d.policy, hard := d.hard, cause := d.cause, counted := d.counted, tolerated := d.tolerated }

/-- A lane's decision rests on its own entry of the sluice alone. -/
theorem decideSl_relaned {s : State} {x y : SMap LaneSl} {l : LaneId} {n : Nat}
    (h : laneSl (getLane (relaned s x y) l) n = laneSl (getLane s l) n) :
    decideSl (relaned s x y) (getLane (relaned s x y) l) n = decideSl s (getLane s l) n := by
  have hq : quorum (relaned s x y) (getLane (relaned s x y) l) = quorum s (getLane s l) := by cases l <;> rfl
  have hf : softTerm (relaned s x y) (getLane (relaned s x y) l) n = softTerm s (getLane s l) n := by cases l <;> rfl
  have hs : startTerm (relaned s x y) (getLane (relaned s x y) l) n = startTerm s (getLane s l) n := by cases l <;> rfl
  have hh : hardTerm (relaned s x y) n = hardTerm s n := rfl
  unfold decideSl
  rw [h, hq, hf, hs, hh]
  rfl

/-- The entries of `done` are reviewed, the others stand. -/
structure Reviewed (s t : State) (done : List (LaneId × Nat)) : Prop where
  frame : ∃ x y, t = relaned s x y
  reviewed : ∀ l n, (l, n) ∈ done → laneDead s l = false →
    laneSl (getLane t l) n = reviewedSl (laneSl (getLane s l) n) (decideSl s (getLane s l) n).sl
  rest : ∀ l n, (l, n) ∉ done → laneSl (getLane t l) n = laneSl (getLane s l) n

theorem Reviewed.refl (s : State) : Reviewed s s [] := ⟨⟨s.slu.a.sl, s.slu.b.sl, rfl⟩, fun _ _ h => absurd h List.not_mem_nil, fun _ _ _ => rfl⟩

theorem getLane_setLane (s : State) (l : LaneId) (x : Lane) : getLane (setLane s l x) l = x := by cases l <;> rfl

theorem getLane_setLane_ne (s : State) {k l : LaneId} (h : k ≠ l) (x : Lane) : getLane (setLane s l x) k = getLane s k := by
  cases k <;> cases l
  · exact absurd rfl h
  · rfl
  · rfl
  · exact absurd rfl h

theorem laneSl_setLane_ne (s : State) {k l : LaneId} {m n : Nat} (h : (k, m) ≠ (l, n)) (v : LaneSl) :
    laneSl (getLane (setLane s l (setLaneSl (getLane s l) n v)) k) m = laneSl (getLane s k) m := by
  by_cases hk : k = l
  · subst hk
    rw [getLane_setLane]
    exact laneSl_setLaneSl_ne _ (fun hm => h (by rw [hm])) v
  · rw [getLane_setLane_ne s hk]

theorem laneDead_relaned (s : State) (x y : SMap LaneSl) (l : LaneId) : laneDead (relaned s x y) l = laneDead s l := by
  cases l <;> rfl

theorem Reviewed.step {s t : State} {done : List (LaneId × Nat)} (h : Reviewed s t done) (l : LaneId) (n : Nat) (hn : (l, n) ∉ done) :
    Reviewed s (reviewLane t l n) ((l, n) :: done) := by
  obtain ⟨⟨x, y, rfl⟩, hrev, hrest⟩ := h
  have hsame := hrest l n hn
  have hdec := decideSl_relaned hsame
  unfold reviewLane
  rw [laneDead_relaned]
  cases hd : laneDead s l with
  | true =>
    rw [if_pos rfl]
    refine ⟨⟨x, y, rfl⟩, fun k m hm hl => ?_, fun k m hm => hrest k m (List.not_mem_of_not_mem_cons hm)⟩
    rcases List.mem_cons.1 hm with h | h
    · cases h
      rw [hd] at hl
      cases hl
    · exact hrev k m h hl
  | false =>
    rw [if_neg (by decide)]
    dsimp only
    rw [hdec, hsame]
    refine ⟨?_, fun k m hm hl => ?_, fun k m hm => ?_⟩
    · cases l
      · exact ⟨_, y, rfl⟩
      · exact ⟨x, _, rfl⟩
    · by_cases hkm : (k, m) = (l, n)
      · cases hkm
        rw [getLane_setLane, laneSl_setLaneSl]
        rfl
      · rw [laneSl_setLane_ne _ hkm]
        exact hrev k m ((List.mem_cons.1 hm).resolve_left hkm) hl
    · rw [laneSl_setLane_ne _ (fun h => hm (h ▸ List.mem_cons_self))]
      exact hrest k m (List.not_mem_of_not_mem_cons hm)

/-- A fold over the four sluices takes a step for each of them. -/
theorem sluFold {P : State → List Nat → Prop} {f : State → Nat → State} (hstep : ∀ t done n, n ∉ done → P t done → P (f t n) (n :: done))
    {s : State} (h : P s []) : P (sluList.foldl f s) [3, 2, 1, 0] :=
  hstep _ _ 3 (by decide) (hstep _ _ 2 (by decide) (hstep _ _ 1 (by decide) (hstep _ _ 0 (by decide) h)))

theorem mem_sluFold {n : Nat} (h : n < 4) : n ∈ [3, 2, 1, 0] := by
  simp only [List.mem_cons]
  omega

/-- Both lanes' entries of the sluices `ns`. -/
def bothOf (ns : List Nat) : List (LaneId × Nat) := ns.flatMap fun n => [(.b, n), (.a, n)]

theorem mem_bothOf {l : LaneId} {n : Nat} {ns : List Nat} : (l, n) ∈ bothOf ns ↔ n ∈ ns := by
  cases l <;> simp [bothOf]

theorem reviewLanes_reviewed (s : State) : Reviewed s (reviewLanes s) (bothOf [3, 2, 1, 0]) := by
  refine sluFold (P := fun t done => Reviewed s t (bothOf done)) (fun t done n hn h => ?_) (Reviewed.refl s)
  have ha : (LaneId.a, n) ∉ bothOf done := fun hc => hn (mem_bothOf.1 hc)
  have hb : (LaneId.b, n) ∉ (LaneId.a, n) :: bothOf done := by
    simpa using fun hc => hn (mem_bothOf.1 hc)
  exact (h.step .a n ha).step .b n hb

/-! ### The rows -/

theorem exec_leaseExpiry (s : State) (n : Fin 4) : exec (.leaseExpiry n) s = .next (leaseExpire s n.val) := rfl
theorem exec_verificationAgeOut (s : State) (ch : Fin 96) : exec (.verificationAgeOut ch) s = .next (slotAged s ch.val) := rfl
theorem exec_tokenAgeOut (s : State) (rg : Fin 4096) : exec (.tokenAgeOut rg) s = .next (tokenAged s rg.val) := rfl
theorem exec_toleranceExpiry (s : State) (ch : Fin 96) : exec (.toleranceExpiry ch) s = .next (tolExpire s ch.val) := rfl

/-- A lease of lane A that runs out: its decision closes the sluice or leaves it HELD, whatever is reported after it. -/
theorem leaseExpire_runsOut {s : State} {n : Nat} (ha : s.slu.a.st = .active) (hr : (laneSl s.slu.a n).released = true)
    (hd : s.slu.withdrawDue.getLsbD n = false) (hl : (laneSl s.slu.a n).leftUs ≠ 0) (hz : (decideSl s s.slu.a n).sl.leftUs = 0) :
    SameLanes (sluiceDecided s n) (leaseExpire s n) := by
  have hv : getLane s (viewLane s) = s.slu.a := by simp [viewLane, laneDead, getLane, ha]
  have hc : ((laneSl s.slu.a n).released && !s.slu.withdrawDue.getLsbD n && decide ((laneSl s.slu.a n).leftUs ≠ 0) &&
      decide ((decideSl s s.slu.a n).sl.leftUs = 0)) = true := by
    simp [hr, hl, hz, hd]
  unfold leaseExpire
  rw [hv]
  dsimp only
  rw [if_pos hc]
  exact (evalSluice_sameLanes s n).trans (.of_outFrame (postSluChanges_outFrame _ _))

theorem leaseExpire_closed {s : State} {n : Nat} (ha : s.slu.a.st = .active) (hr : (laneSl s.slu.a n).released = false) :
    leaseExpire s n = s := by
  have hv : getLane s (viewLane s) = s.slu.a := by simp [viewLane, laneDead, getLane, ha]
  unfold leaseExpire
  rw [hv]
  exact if_neg (by simp [hr])

/-- Settles O39: the lanes after a lease that ran out are those of `sluiceDecided`; a review takes every term anew by
`Reviewed.step`. -/
theorem leasesAndAges : Obligations.LeasesAndAges := by
  unfold Obligations.LeasesAndAges
  refine ⟨fun s n ha => ?_, fun s ch rg => ?_⟩
  · refine ⟨fun hr hd hl hz => ?_, fun hr => ?_⟩
    · have hsame := leaseExpire_runsOut ha hr hd hl hz
      obtain ⟨hleft, hrel⟩ := sluiceDecided_runOut ha hd hr hz
      refine ⟨_, exec_leaseExpiry s n, ?_, ?_, fun i hi => ?_⟩
      · rw [hsame.a, hleft]
      · rw [hsame.a, hrel]
      · rw [hsame.a, hsame.b]
        exact sluiceDecided_ne s hi
    · rw [exec_leaseExpiry, leaseExpire_closed ha hr]
  · intro reviewed e old
    have hrev : reviewed (reviewLanes s) := by
      obtain ⟨⟨x, y, hxy⟩, hdone, -⟩ := reviewLanes_reviewed s
      refine ⟨fun l n hn hl => hdone l n (mem_bothOf.2 (mem_sluFold hn)) hl, ?_⟩
      rw [hxy]
      rfl
    have hold : (getLane s (viewLane s)).toks.any (fun t => decide (t.reg = rg.val) &&
        decide (1000000 * regF s .tokenWin 0 10 < slotAge s t.us)) = old := by
      simp only [old, beq_eq_decide]
    refine ⟨fun hv hage => ⟨_, exec_verificationAgeOut s ch, ?_⟩, fun hage => ?_, fun ho => ⟨_, exec_tokenAgeOut s rg, ?_⟩,
      fun ho => ?_, fun v hv hage => ?_, fun v hv hage => ?_⟩
    · unfold slotAged
      dsimp only
      rw [if_pos ⟨hv, hage⟩]
      exact hrev
    · rw [exec_verificationAgeOut]
      unfold slotAged
      dsimp only
      rw [if_neg (fun hc => Nat.not_le.2 hc.2 hage)]
    · unfold tokenAged
      rw [hold, if_pos ho]
      exact hrev
    · rw [exec_tokenAgeOut]
      unfold tokenAged
      rw [hold, if_neg (by rw [ho]; decide)]
    · rw [exec_toleranceExpiry]
      unfold tolExpire stopTolerance
      rw [hv]
      exact congrArg _ (if_pos hage)
    · rw [exec_toleranceExpiry]
      unfold tolExpire
      rw [hv]
      exact congrArg _ (if_neg (Nat.not_le.2 hage))

end Sys2Proof.Machine
end
section
/-! ## Death and return of a lane (R198, R201, R202, R424) -/

namespace Sys2Proof.Machine
open Sys2Proof

/-- The takeover flag of lane `l` on sluice `n`. -/
def takes (s : State) (l : LaneId) (n : Nat) : Bool :=
  match l with
  | .a => (getOut s n).takeA
  | .b => (getOut s n).takeB

theorem other_ne (l : LaneId) : other l ≠ l := by cases l <;> decide

theorem stageLane_jrn (s : State) (event n : Nat) : ∃ j, stageLane s event n = { s with jrn := j } := stageRec_jrn _ _ _ _ _ _

/-- An output but for its two takeover flags and the beat of its last change. -/
structure SameOut (o p : SluOut) : Prop where
  stuck : p.swStuck = o.swStuck
  latched : p.latched = o.latched
  armed : p.armed = o.armed

theorem SameOut.refl (o : SluOut) : SameOut o o := ⟨rfl, rfl, rfl⟩

theorem SameOut.trans {o p q : SluOut} (h : SameOut o p) (k : SameOut p q) : SameOut o q :=
  ⟨k.stuck.trans h.stuck, k.latched.trans h.latched, k.armed.trans h.armed⟩

/-- What a takeover flag's write leaves: the output of its sluice, and of that the other lane's flag. -/
structure TakeSet (s t : State) (l : LaneId) (n : Nat) (v : Bool) : Prop where
  frame : ∃ o, t = { s with slu := { s.slu with outs := o } }
  self : takes t l n = v
  other : takes t (other l) n = takes s (other l) n
  out : SameOut (getOut s n) (getOut t n)
  rest : ∀ i, i ≠ n → getOut t i = getOut s i

theorem setTake_set (s : State) (l : LaneId) (n : Nat) (v : Bool) : TakeSet s (setTake s l n v) l n v := by
  cases l <;>
    exact ⟨⟨_, rfl⟩, by simp [takes, setTake], by simp [takes, setTake, other], ⟨by simp [setTake], by simp [setTake], by simp [setTake]⟩,
      fun i hi => getOut_setOut_ne s hi _⟩

/-! ### The partner takes over (R201) -/

/-- What a death with an ACTIVE partner does at one sluice. -/
def takeOver (l : LaneId) (s : State) (n : Nat) : State :=
  let s3 := setTake s l n false
  if (laneSl (getLane s3 (other l)) n).released then stageLane (setTake s3 (other l) n true) 3 n else s3

/-- The sluices `done` are taken over. -/
structure TookOver (l : LaneId) (s t : State) (done : List Nat) : Prop where
  frame : ∃ o j, t = { s with slu := { s.slu with outs := o }, jrn := j }
  taken : ∀ n ∈ done, takes t l n = false ∧ takes t (other l) n = (takes s (other l) n || (laneSl (getLane s (other l)) n).released)
  rest : ∀ n, n ∉ done → getOut t n = getOut s n
  marks : ∀ n, SameOut (getOut s n) (getOut t n)

theorem TookOver.refl (l : LaneId) (s : State) : TookOver l s s [] :=
  ⟨⟨s.slu.outs, s.jrn, rfl⟩, fun _ h => absurd h List.not_mem_nil, fun _ _ => rfl, fun _ => .refl _⟩

theorem takes_congr {s t : State} {n : Nat} (h : getOut t n = getOut s n) (l : LaneId) : takes t l n = takes s l n := by
  unfold takes
  rw [h]

theorem takeOver_spec (l : LaneId) (s : State) (n : Nat) : TookOver l s (takeOver l s n) [n] := by
  obtain ⟨⟨o, hs3⟩, hself, hother, hout, hrest⟩ := setTake_set s l n false
  unfold takeOver
  dsimp only
  generalize setTake s l n false = s3 at hs3 hself hother hout hrest
  have hp : getLane s3 (other l) = getLane s (other l) := by
    rw [hs3]
    cases l <;> rfl
  have hone : ∀ {i : Nat}, i ∉ [n] → i ≠ n := fun hi h => hi (h ▸ List.mem_singleton_self _)
  rw [hp]
  split
  · next hr =>
    obtain ⟨⟨o', hs4⟩, hself', hother', hout', hrest'⟩ := setTake_set s3 (other l) n true
    generalize setTake s3 (other l) n true = s4 at hs4 hself' hother' hout' hrest'
    have hoo : other (other l) = l := by cases l <;> rfl
    rw [hoo] at hother'
    obtain ⟨j, hj⟩ := stageLane_jrn s4 3 n
    rw [hj]
    refine ⟨⟨o', j, by rw [hs4, hs3]⟩, fun i hi => ?_, fun i hi => (hrest' i (hone hi)).trans (hrest i (hone hi)), fun i => ?_⟩
    · rw [List.mem_singleton.1 hi, hr, Bool.or_true]
      exact ⟨hother'.trans hself, hself'⟩
    · by_cases hi : i = n
      · subst hi
        exact hout.trans hout'
      · have : getOut s4 i = getOut s i := (hrest' i hi).trans (hrest i hi)
        change SameOut (getOut s i) (getOut s4 i)
        rw [this]
        exact .refl _
  · next hr =>
    refine ⟨⟨o, s.jrn, hs3⟩, fun i hi => ?_, fun i hi => hrest i (hone hi), fun i => ?_⟩
    · rw [List.mem_singleton.1 hi, Bool.eq_false_iff.2 hr, Bool.or_false]
      exact ⟨hself, hother⟩
    · by_cases hi : i = n
      · subst hi
        exact hout
      · rw [hrest i hi]
        exact .refl _

theorem TookOver.step {l : LaneId} {s t : State} {done : List Nat} {n : Nat} (hn : n ∉ done) (h : TookOver l s t done) :
    TookOver l s (takeOver l t n) (n :: done) := by
  obtain ⟨⟨o, j, ht⟩, htaken, hrest, hmarks⟩ := h
  obtain ⟨⟨o', j', hu⟩, htaken', hrest', hmarks'⟩ := takeOver_spec l t n
  have hp : getLane t (other l) = getLane s (other l) := by
    rw [ht]
    cases l <;> rfl
  rw [hp] at htaken'
  refine ⟨⟨o', j', by rw [hu, ht]⟩, fun i hi => ?_, fun i hi => ?_,
    fun i => (hmarks i).trans (hmarks' i)⟩
  · by_cases hin : i = n
    · subst hin
      have hself := htaken' i (List.mem_singleton_self i)
      rw [takes_congr (hrest i hn) (other l)] at hself
      exact hself
    · have hsame := hrest' i (fun h => hin (List.mem_singleton.1 h))
      rw [takes_congr hsame, takes_congr hsame]
      exact htaken i ((List.mem_cons.1 hi).resolve_left hin)
  · rw [hrest' i (fun h => hi (List.mem_singleton.1 h ▸ List.mem_cons_self)), hrest i (List.not_mem_of_not_mem_cons hi)]

/-- The lane that stops. -/
def laneStopped (s : State) (l : LaneId) (st : LaneState) : State :=
  setLane s l { getLane s l with st := st, downSinceUs := s.clk.nowUs, down1s := false, fresh := false }

theorem laneDown_takenOver {s : State} {l : LaneId} (st : LaneState) (hp : (getLane s (other l)).st = .active) :
    TookOver l (laneStopped s l st) (laneDown s l st) [3, 2, 1, 0] := by
  have hp' : (getLane (laneStopped s l st) (other l)).st = .active := by
    rw [laneStopped, getLane_setLane_ne s (other_ne l)]
    exact hp
  have he : laneDown s l st = sluList.foldl (takeOver l) (laneStopped s l st) := by
    unfold laneDown
    exact if_neg (not_not.2 hp')
  rw [he]
  exact sluFold (fun _ _ _ hn h => h.step hn) (TookOver.refl l _)

/-! ### Nobody takes over (R198, R202) -/

/-- What the sluice `n` of a lane that leaves nobody behind becomes: no takeover, and a release only where the latch holds it. -/
structure Left (v : LaneId) (s t : State) (n : Nat) : Prop where
  takes : (getOut t n).takeA = false ∧ (getOut t n).takeB = false
  marks : SameOut (getOut s n) (getOut t n)
  lanes : if (getOut s n).latched = true ∧ (laneSl (getLane s v) n).released = true then
      laneSl t.slu.a n = laneSl (getLane s v) n ∧ laneSl t.slu.b n = laneSl (getLane s v) n
    else (laneSl t.slu.a n).released = false ∧ (laneSl t.slu.b n).released = false

/-- The sluices `done` are left, the others stand. -/
structure LeftAll (v : LaneId) (s t : State) (done : List Nat) : Prop where
  frame : ∃ x y o c j f, t = { s with
    slu := { s.slu with a := { s.slu.a with sl := x }, b := { s.slu.b with sl := y }, outs := o, changes := c }
    jrn := j
    flt := f }
  left : ∀ n ∈ done, Left v s t n
  rest : ∀ n, n ∉ done → getOut t n = getOut s n ∧ ∀ l, laneSl (getLane t l) n = laneSl (getLane s l) n

theorem LeftAll.refl (v : LaneId) (s : State) : LeftAll v s s [] :=
  ⟨⟨_, _, _, _, s.jrn, s.flt, rfl⟩, fun _ h => absurd h List.not_mem_nil, fun _ _ => ⟨rfl, fun _ => rfl⟩⟩

theorem withdrawn_spec (s : State) (n : Nat) :
    ∃ x y c j, countChange (stageLane (closeBoth s n) 1 n) = { s with
        slu := { s.slu with a := { s.slu.a with sl := x }, b := { s.slu.b with sl := y }, changes := c }
        jrn := j } ∧
      (smGet x n LaneSl.reset).released = false ∧ (smGet y n LaneSl.reset).released = false ∧
      ∀ i, i ≠ n → smGet x i LaneSl.reset = laneSl s.slu.a i ∧ smGet y i LaneSl.reset = laneSl s.slu.b i := by
  obtain ⟨j, hj⟩ := stageLane_jrn (closeBoth s n) 1 n
  rw [hj]
  refine ⟨_, _, _, j, rfl, ?_, ?_, fun i hi => ⟨?_, ?_⟩⟩
  · exact congrArg LaneSl.released (smGet_smPut_self _ _ _ _)
  · exact congrArg LaneSl.released (smGet_smPut_self _ _ _ _)
  · exact smGet_smPut_ne _ hi _ _
  · exact smGet_smPut_ne _ hi _ _

theorem laneLeaves_left (v : LaneId) (s : State) (n : Nat) : LeftAll v s (laneLeaves v s n) [n] := by
  obtain ⟨⟨oa, ha⟩, haself, -, haout, harest⟩ := setTake_set s .a n false
  obtain ⟨⟨ob, hb⟩, hbself, hbother, hbout, hbrest⟩ := setTake_set (setTake s .a n false) .b n false
  unfold laneLeaves
  dsimp only
  generalize setTake (setTake s .a n false) .b n false = z at hb hbself hbother hbout hbrest
  generalize setTake s .a n false = y at ha haself haout harest hb hbother hbout hbrest
  have hz : z = { s with slu := { s.slu with outs := ob } } := by rw [hb, ha]
  have htakes : (getOut z n).takeA = false ∧ (getOut z n).takeB = false := ⟨hbother.trans haself, hbself⟩
  have hmarks : SameOut (getOut s n) (getOut z n) := haout.trans hbout
  have hrest : ∀ i, i ∉ [n] → getOut z i = getOut s i := fun i hi => by
    have hin : i ≠ n := fun h => hi (h ▸ List.mem_singleton_self _)
    rw [hbrest i hin, harest i hin]
  clear hb hbself hbother hbout hbrest ha haself haout harest
  subst hz
  have hone : ∀ {t : State}, Left v s t n → ∀ i ∈ [n], Left v s t i := fun h i hi => List.mem_singleton.1 hi ▸ h
  have hne : ∀ {i : Nat}, i ∉ [n] → i ≠ n := fun hi h => hi (h ▸ List.mem_singleton_self _)
  split
  · next hc =>
    have hrel : (laneSl s.slu.a n).released = false ∧ (laneSl s.slu.b n).released = false := by simpa using hc
    refine ⟨⟨_, _, _, _, _, _, rfl⟩, hone ⟨htakes, hmarks, ?_⟩, fun i hi => ⟨hrest i hi, fun l => by cases l <;> rfl⟩⟩
    rw [if_neg]
    · exact hrel
    · rintro ⟨-, h⟩
      cases v
      · exact Bool.noConfusion (hrel.1.symm.trans h)
      · exact Bool.noConfusion (hrel.2.symm.trans h)
  · split
    · next hl =>
      refine ⟨⟨_, _, _, _, _, _, rfl⟩, hone ⟨htakes, hmarks, ?_⟩, fun i hi => ⟨hrest i hi, fun l => ?_⟩⟩
      · rw [if_pos hl]
        exact ⟨laneSl_setLaneSl _ _ _, laneSl_setLaneSl _ _ _⟩
      · cases l
        · exact laneSl_setLaneSl_ne _ (hne hi) _
        · exact laneSl_setLaneSl_ne _ (hne hi) _
    · next hl =>
      obtain ⟨x, y, c, j, hw, hx, hy, hxy⟩ := withdrawn_spec { s with slu := { s.slu with outs := ob } } n
      rw [hw]
      refine ⟨⟨_, _, _, _, _, _, rfl⟩, hone ⟨htakes, hmarks, ?_⟩, fun i hi => ⟨hrest i hi, fun l => ?_⟩⟩
      · rw [if_neg hl]
        exact ⟨hx, hy⟩
      · cases l
        · exact (hxy i (hne hi)).1
        · exact (hxy i (hne hi)).2

theorem Left.congr {v : LaneId} {s t s' t' : State} {n : Nat} (h : Left v s t n) (hs : getOut s' n = getOut s n)
    (hsl : laneSl (getLane s' v) n = laneSl (getLane s v) n) (ht : ∃ b, getOut t' n = { getOut t n with changeBeat := b })
    (ha : laneSl t'.slu.a n = laneSl t.slu.a n) (hb : laneSl t'.slu.b n = laneSl t.slu.b n) : Left v s' t' n := by
  obtain ⟨htakes, hmarks, hlanes⟩ := h
  obtain ⟨b, hb'⟩ := ht
  refine ⟨?_, ?_, ?_⟩
  · rw [hb']
    exact htakes
  · rw [hb', hs]
    exact ⟨hmarks.stuck, hmarks.latched, hmarks.armed⟩
  · rw [hs, hsl, ha, hb]
    exact hlanes

theorem LeftAll.step {v : LaneId} {s t : State} {done : List Nat} {n : Nat} (hn : n ∉ done) (h : LeftAll v s t done) :
    LeftAll v s (laneLeaves v t n) (n :: done) := by
  obtain ⟨⟨x, y, o, c, j, f, ht⟩, hleft, hrest⟩ := h
  obtain ⟨⟨x', y', o', c', j', f', hu⟩, hleft', hrest'⟩ := laneLeaves_left v t n
  refine ⟨⟨x', y', o', c', j', f', by rw [hu, ht]⟩, fun i hi => ?_, fun i hi => ?_⟩
  · by_cases hin : i = n
    · subst hin
      obtain ⟨hout, hsl⟩ := hrest i hn
      exact (hleft' i (List.mem_singleton_self i)).congr hout.symm (hsl v).symm ⟨_, rfl⟩ rfl rfl
    · obtain ⟨hout, hsl⟩ := hrest' i (fun h => hin (List.mem_singleton.1 h))
      exact (hleft i ((List.mem_cons.1 hi).resolve_left hin)).congr rfl rfl ⟨_, hout⟩ (hsl .a) (hsl .b)
  · obtain ⟨hout, hsl⟩ := hrest i (List.not_mem_of_not_mem_cons hi)
    obtain ⟨hout', hsl'⟩ := hrest' i (fun h => hi (List.mem_singleton.1 h ▸ List.mem_cons_self))
    exact ⟨hout'.trans hout, fun l => (hsl' l).trans (hsl l)⟩

/-- A partner in SHADOW has nothing to adopt from any more. -/
def partnerFresh (s : State) (p : LaneId) : State :=
  if (getLane s p).st = .shadow then setLane s p { getLane s p with fresh := true } else s

theorem laneDown_alone {s : State} {l : LaneId} (st : LaneState) (hp : (getLane s (other l)).st ≠ .active) :
    laneDown s l st = postSluChanges (partnerFresh (sluList.foldl (laneLeaves (viewLane s)) (laneStopped s l st)) (other l)) (sluStates s) := by
  have hp' : (getLane (laneStopped s l st) (other l)).st ≠ .active := by
    rw [laneStopped, getLane_setLane_ne s (other_ne l)]
    exact hp
  unfold laneDown
  exact if_pos hp'

/-- What a lane leaves that stops with no ACTIVE partner. -/
structure Alone (s t : State) (l : LaneId) (st : LaneState) : Prop where
  st : (getLane t l).st = st
  shadow : (getLane s (other l)).st = .shadow → (getLane t (other l)).st = .shadow ∧ (getLane t (other l)).fresh = true
  left : ∀ n < 4, Left (viewLane s) s t n
  frame : t = { s with slu := t.slu, jrn := t.jrn, flt := t.flt, ring := t.ring }

/-- The partner's mark leaves what each sluice became. -/
theorem partnerFresh_lanes (s : State) (p : LaneId) : (partnerFresh s p).slu.a.sl = s.slu.a.sl ∧ (partnerFresh s p).slu.b.sl = s.slu.b.sl ∧
    (partnerFresh s p).slu.outs = s.slu.outs ∧ partnerFresh s p = { s with slu := (partnerFresh s p).slu } ∧
    (∀ l, l ≠ p → getLane (partnerFresh s p) l = getLane s l) ∧
    ((getLane s p).st = .shadow → (getLane (partnerFresh s p) p).st = .shadow ∧ (getLane (partnerFresh s p) p).fresh = true) := by
  unfold partnerFresh
  split
  · next h =>
    refine ⟨?_, ?_, ?_, ?_, fun l hl => getLane_setLane_ne s hl _, fun _ => ?_⟩
    · cases p <;> rfl
    · cases p <;> rfl
    · cases p <;> rfl
    · cases p <;> rfl
    · rw [getLane_setLane]
      exact ⟨h, rfl⟩
  · next h => exact ⟨rfl, rfl, rfl, rfl, fun _ _ => rfl, fun hc => absurd hc h⟩

theorem laneDown_leaves {s : State} {l : LaneId} (st : LaneState) (hp : (getLane s (other l)).st ≠ .active) : Alone s (laneDown s l st) l st := by
  have hall : LeftAll (viewLane s) (laneStopped s l st) (sluList.foldl (laneLeaves (viewLane s)) (laneStopped s l st)) [3, 2, 1, 0] :=
    sluFold (fun _ _ _ hn h => h.step hn) (LeftAll.refl _ _)
  rw [laneDown_alone st hp]
  generalize sluList.foldl (laneLeaves (viewLane s)) (laneStopped s l st) = z at hall
  obtain ⟨⟨x, y, o, c, j, f, hz⟩, hleft, -⟩ := hall
  obtain ⟨ha, hb, ho, hf, hothers, hshadow⟩ := partnerFresh_lanes z (other l)
  generalize partnerFresh z (other l) = w at ha hb ho hf hothers hshadow
  obtain ⟨heq, houts⟩ := postSluChanges_outFrame w (sluStates s)
  generalize postSluChanges w (sluStates s) = t at heq houts
  have hlane : ∀ k, getLane t k = getLane w k := fun k => by
    rw [heq]
    cases k <;> rfl
  have hst : (getLane z l).st = st := by
    rw [hz]
    cases l <;> rfl
  have hpz : (getLane z (other l)).st = (getLane s (other l)).st := by
    rw [hz]
    cases l <;> rfl
  have hsl : ∀ n, laneSl (getLane s (viewLane s)) n = laneSl (getLane (laneStopped s l st) (viewLane s)) n := fun n => by
    generalize viewLane s = v
    cases l <;> cases v <;> rfl
  refine ⟨?_, fun h => ?_, fun n hn => ?_, ?_⟩
  · rw [hlane, hothers l (other_ne l).symm, hst]
  · rw [hlane]
    exact hshadow (hpz.trans h)
  · refine (hleft n (mem_sluFold hn)).congr ?_ (hsl n) ?_ ?_ ?_
    · cases l <;> rfl
    · obtain ⟨b, hb'⟩ := houts n
      refine ⟨b, hb'.trans ?_⟩
      unfold getOut
      rw [ho]
    · rw [heq]
      unfold laneSl
      rw [← ha]
    · rw [heq]
      unfold laneSl
      rw [← hb]
  · rw [heq, hf, hz]
    cases l <;> rfl

/-! ### Return and rejoin (R201, R202) -/

/-- Takeover flags of lane `p` that are given back. -/
structure GivenBack (p : LaneId) (s t : State) (ns : List Nat) : Prop where
  frame : ∃ o, t = { s with slu := { s.slu with outs := o } }
  back : ∀ n, n ∈ ns ∨ takes s p n = false → takes t p n = false

theorem giveBack (p : LaneId) (ns : List Nat) : ∀ s, GivenBack p s (ns.foldl (fun s n => setTake s p n false) s) ns := by
  induction ns with
  | nil => exact fun s => ⟨⟨s.slu.outs, rfl⟩, fun n h => h.resolve_left List.not_mem_nil⟩
  | cons a ns ih =>
    intro s
    obtain ⟨⟨o, hs⟩, hself, -, -, hrest⟩ := setTake_set s p a false
    obtain ⟨⟨o', ht⟩, hback⟩ := ih (setTake s p a false)
    refine ⟨⟨o', by rw [List.foldl_cons, ht, hs]⟩, fun n hn => hback n ?_⟩
    by_cases hna : n = a
    · exact .inr (hna ▸ hself)
    · exact hn.imp (fun h => (List.mem_cons.1 h).resolve_left hna) fun h => (takes_congr (hrest n hna) p).trans h

theorem stageLane_foldl_jrn (event : Nat) (ns : List Nat) : ∀ s : State, ∃ j, ns.foldl (fun s n => stageLane s event n) s = { s with jrn := j } := by
  induction ns with
  | nil => exact fun s => ⟨s.jrn, rfl⟩
  | cons a ns ih =>
    intro s
    obtain ⟨j, hj⟩ := stageLane_jrn s event a
    obtain ⟨j', hj'⟩ := ih { s with jrn := j }
    exact ⟨j', by rw [List.foldl_cons, hj, hj']⟩

/-- The sluices that lane `p` has taken over. -/
def tookOver (s : State) (p : LaneId) : List Nat := sluList.filter fun n => takes s p n

theorem laneActive_eq (s : State) (l : LaneId) : laneActive s l =
    (if (tookOver s (other l)).isEmpty then [0] else tookOver s (other l)).foldl (fun s n => stageLane s 4 n)
      ((tookOver s (other l)).foldl (fun s n => setTake s (other l) n false)
        (setLane s l { getLane s l with st := .active, fresh := false })) := by
  cases l <;> rfl

/-- The rejoined lane is ACTIVE and drives every switch of its own again. -/
theorem laneActive_rejoins (s : State) (l : LaneId) :
    getLane (laneActive s l) l = { getLane s l with st := .active, fresh := false } ∧
      getLane (laneActive s l) (other l) = getLane s (other l) ∧ (∀ n < 4, takes (laneActive s l) (other l) n = false) ∧
      laneActive s l = { s with slu := (laneActive s l).slu, jrn := (laneActive s l).jrn } := by
  obtain ⟨⟨o, hz⟩, hback⟩ := giveBack (other l) (tookOver s (other l)) (setLane s l { getLane s l with st := .active, fresh := false })
  rw [laneActive_eq]
  generalize (tookOver s (other l)).foldl (fun s n => setTake s (other l) n false)
    (setLane s l { getLane s l with st := .active, fresh := false }) = z at hz hback
  obtain ⟨j, hj⟩ := stageLane_foldl_jrn 4 (if (tookOver s (other l)).isEmpty then [0] else tookOver s (other l)) z
  rw [hj]
  refine ⟨?_, ?_, fun n hn => ?_, ?_⟩
  · rw [hz]
    cases l <;> rfl
  · rw [hz]
    cases l <;> rfl
  · have hflag : takes (setLane s l { getLane s l with st := .active, fresh := false }) (other l) n = takes s (other l) n := by
      cases l <;> rfl
    have : takes z (other l) n = false := hback n (by
      rw [hflag]
      cases h : takes s (other l) n with
      | false => exact .inr rfl
      | true => exact .inl (List.mem_filter.2 ⟨List.mem_range.2 hn, h⟩))
    exact this
  · rw [hz]
    cases l <;> rfl

/-! ### The rows -/

theorem exec_laneDeath (l : LaneId) (c : LaneCause) (s : State) : exec (.laneDeath l c) s = .next (laneDies s l c) := rfl
theorem exec_laneReturn (l : LaneId) (s : State) : exec (.laneReturn l) s = .next (laneReturns s l) := rfl
theorem exec_laneRejoin (l : LaneId) (s : State) : exec (.laneRejoin l) s = .next (laneRejoins s l) := rfl
theorem exec_laneDownTimeout (l : LaneId) (s : State) : exec (.laneDownTimeout l) s = .next (laneTimeout s l) := rfl

theorem laneDies_alive {s : State} {l : LaneId} (h : laneDead s l = false) : laneDies s l .noEdge = laneDown s l .dead := by
  unfold laneDies
  rw [if_neg (by rw [h]; decide)]

theorem laneDies_stuck {s : State} {l : LaneId} (h : laneDead s l = false) (n : Fin 4) :
    (getLane (laneDies s l (.stuck n)) l).st = .dead ∧ (getOut (laneDies s l (.stuck n)) n.val).swStuck = true := by
  have he : laneDies s l (.stuck n) = laneDown (setOut s n.val { getOut s n.val with swStuck := true }) l .dead := by
    unfold laneDies
    rw [if_neg (by rw [h]; decide)]
  have hmark : (getOut (setOut s n.val { getOut s n.val with swStuck := true }) n.val).swStuck = true := by
    rw [getOut_setOut]
  rw [he]
  generalize setOut s n.val { getOut s n.val with swStuck := true } = z at hmark
  by_cases hp : (getLane z (other l)).st = .active
  · obtain ⟨⟨o, j, ht⟩, -, -, hmarks⟩ := laneDown_takenOver .dead hp
    refine ⟨?_, ?_⟩
    · rw [ht]
      cases l <;> rfl
    · rw [(hmarks n.val).stuck, ← hmark]
      cases l <;> rfl
  · have hall := laneDown_leaves .dead hp
    exact ⟨hall.st, ((hall.left n.val n.isLt).marks.stuck).trans hmark⟩

theorem laneReturns_up {s : State} {l : LaneId} (hd : laneDead s l = true) (hup : l = .b → domReady s dSLUICE = true) :
    ∃ y : Lane, laneReturns s l = setLane s l y ∧ y.st = .shadow ∧
      ((getLane s (other l)).st = .active → y.sl = (getLane s (other l)).sl ∧ y.fresh = false) ∧
      ((getLane s (other l)).st ≠ .active → y.sl = latchedSl s ∧ y.fresh = true) ∧
      (l = .b → y.slots = s.slu.a.slots ∧ y.toks = s.slu.a.toks) := by
  unfold laneReturns
  cases l with
  | a =>
    dsimp only
    rw [if_neg (by rw [hd]; decide)]
    exact ⟨_, rfl, rfl, fun h => by simp [h], fun h => by simp [h], fun h => by cases h⟩
  | b =>
    dsimp only
    rw [if_neg (by rw [hd, hup rfl]; decide)]
    exact ⟨_, rfl, rfl, fun h => by simp [h], fun h => by simp [h], fun _ => ⟨rfl, rfl⟩⟩

theorem laneReturns_alive {s : State} {l : LaneId} (hd : laneDead s l = false) : laneReturns s l = s := by
  unfold laneReturns
  exact if_pos (by rw [hd]; rfl)

section
variable {s : State} {l : LaneId}

theorem laneRejoins_fresh (hst : (getLane s l).st = .shadow) (hf : (getLane s l).fresh = true) :
    laneRejoins s l = stageLane (setLane s l { getLane s l with st := .active, fresh := false }) 4 0 := by
  unfold laneRejoins
  dsimp only
  rw [if_neg (not_not.2 hst), if_pos hf]

theorem laneRejoins_agrees (hst : (getLane s l).st = .shadow) (hf : (getLane s l).fresh = false) (hp : (getLane s (other l)).st = .active)
    (hsl : ∀ n, n < 4 → laneSl (getLane s l) n = laneSl (getLane s (other l)) n) (hslots : slotsAgree s = true) :
    laneRejoins s l = laneActive s l := by
  have hall : (sluList.all fun n => laneSl (getLane s l) n == laneSl (getLane s (other l)) n) = true :=
    List.all_eq_true.2 fun n hn => beq_iff_eq.2 (hsl n (List.mem_range.1 hn))
  unfold laneRejoins
  dsimp only
  rw [if_neg (not_not.2 hst), if_neg (by rw [hf]; decide), if_pos]
  rw [hall, hslots, hp]
  rfl

theorem laneRejoins_other (hst : (getLane s l).st ≠ .shadow) : laneRejoins s l = s := if_pos hst

end

/-- Settles O40: a lane that dies beside an ACTIVE partner is taken over (`laneDown_takenOver`), one that dies alone leaves what
its latch holds (`laneDown_leaves`); `laneReturns_up` and `laneActive_rejoins` bring it back. -/
theorem lanesDieAndReturn : Obligations.LanesDieAndReturn := by
  unfold Obligations.LanesDieAndReturn
  refine ⟨fun s l => ?_, fun s l => ?_⟩
  · intro p take
    have htake : ∀ t x n, take t x n = takes t x n := fun t x n => by cases x <;> rfl
    refine ⟨fun hd hp => ⟨_, exec_laneDeath l _ s, ?_⟩, fun hd hp => ⟨_, exec_laneDeath l _ s, ?_⟩,
      fun n hd => ⟨_, exec_laneDeath l _ s, laneDies_stuck hd n⟩, fun c hd => ?_⟩
    · rw [laneDies_alive hd]
      obtain ⟨⟨o, j, ht⟩, htaken, -, -⟩ := laneDown_takenOver .dead hp
      refine ⟨?_, ?_, fun n hn => ?_, ?_⟩
      · rw [ht]
        cases l <;> rfl
      · rw [ht]
        cases l <;> rfl
      · obtain ⟨h1, h2⟩ := htaken n (mem_sluFold hn)
        rw [htake, htake, htake, h1, h2]
        cases l <;> exact ⟨rfl, rfl⟩
      · rw [ht]
        cases l <;> rfl
    · rw [laneDies_alive hd]
      obtain ⟨hst, hshadow, hleft, hframe⟩ := laneDown_leaves .dead hp
      refine ⟨hst, hshadow, fun n hn => ?_, hframe⟩
      obtain ⟨htakes, -, hlanes⟩ := hleft n hn
      exact ⟨htakes.1, htakes.2, hlanes⟩
    · rw [exec_laneDeath]
      unfold laneDies
      rw [if_pos hd]
  · intro x p
    refine ⟨fun hd hup => ⟨_, exec_laneReturn l s, ?_⟩, fun hd => ?_, fun hst hf => ?_, fun hst hf hp hsl hslots => ⟨_, exec_laneRejoin l s, ?_⟩,
      fun hst => ?_, fun hst hdown => ?_, fun hst => ?_⟩
    · obtain ⟨y, hy, hst, hact, hno, hb⟩ := laneReturns_up hd hup
      rw [hy, getLane_setLane]
      exact ⟨hst, hact, hno, hb, rfl⟩
    · rw [exec_laneReturn, laneReturns_alive hd]
    · rw [exec_laneRejoin, laneRejoins_fresh hst hf]
    · rw [laneRejoins_agrees hst hf hp hsl hslots]
      obtain ⟨hself, hother, htakes, hframe⟩ := laneActive_rejoins s l
      refine ⟨hself.trans ?_, hother, fun n hn => ?_, hframe⟩
      · rw [← hf]
      · have := htakes n hn
        cases l <;> exact this
    · rw [exec_laneRejoin, laneRejoins_other hst]
    · rw [exec_laneDownTimeout]
      exact congrArg _ (if_pos ⟨hst, hdown⟩)
    · rw [exec_laneDownTimeout]
      exact congrArg _ (if_neg (fun h => hst h.1))

end Sys2Proof.Machine
end
section
/-! ## Vouchers at their boundary (R219, R226 to R228) -/

namespace Sys2Proof.Machine
open Sys2Proof

/-- What a voucher of type 1 to 5 moves. -/
def voucherMove (v : Voucher) : Buckets → Buckets :=
  match v.type with
  | 1 => bktTopup v.amount
  | 2 => bktReserve v.amount
  | 3 => bktUnreserve v.amount
  | 4 => bktSettle v.amount
  | _ => bktForfeit v.amount

/-- Check 6 of R227: the bucket that a voucher of type 1 to 5 takes from allows it. -/
def voucherFits (b : Buckets) (v : Voucher) : Bool :=
  match v.type with
  | 1 => decide (b.accepted + v.amount ≤ 2 ^ 62)
  | 2 => decide ((v.amount : Int) ≤ b.balance)
  | 4 => decide ((v.amount : Int) ≤ b.consumed)
  | _ => decide ((v.amount : Int) ≤ b.reserved)

/-- The types are five: one case for each. -/
theorem voucherType_cases {v : Voucher} (h1 : 1 ≤ v.type) (h5 : v.type ≤ 5) :
    v.type = 1 ∨ v.type = 2 ∨ v.type = 3 ∨ v.type = 4 ∨ v.type = 5 := by omega

theorem moveVoucher_fits {s : State} {v : Voucher} (h1 : 1 ≤ v.type) (h5 : v.type ≤ 5) (hf : voucherFits s.ldg.cA v = true) :
    moveVoucher s v = (moveBkt s (voucherMove v), .ok) := by
  unfold voucherFits at hf
  unfold moveVoucher voucherMove
  rcases voucherType_cases h1 h5 with h | h | h | h | h <;> rw [h] at hf ⊢ <;> exact if_pos (of_decide_eq_true hf)

theorem moveVoucher_tooMuch {s : State} {v : Voucher} (h1 : 1 ≤ v.type) (h5 : v.type ≤ 5) (hf : voucherFits s.ldg.cA v = false) :
    ∃ st, moveVoucher s v = (s, st) ∧ st.isOk = false := by
  unfold voucherFits at hf
  unfold moveVoucher
  rcases voucherType_cases h1 h5 with h | h | h | h | h <;> rw [h] at hf ⊢ <;>
    exact ⟨_, if_neg (of_decide_eq_false hf), rfl⟩

theorem stageVoucher_jrn (s : State) (v : Voucher) (st : Status) : ∃ j, stageVoucher s v st = { s with jrn := j } :=
  stageRec_jrn _ _ _ _ _ _

section
variable {s : State} {v : Voucher} (hr : v.refused = none) (h1 : 1 ≤ v.type) (h5 : v.type ≤ 5)
include hr h1 h5

/-- A voucher that fits: its movement in both copies, its serial in the window, its count. -/
theorem applyVoucher_fits (hl : v.lgen = s.ldg.lgen) (hf : voucherFits s.ldg.cA v = true) :
    ∃ j, applyVoucher s v = ({ s with
      ldg := { s.ldg with
        cA := voucherMove v s.ldg.cA
        cB := voucherMove v s.ldg.cB
        h := (windowPut s.ldg.h s.ldg.map v.serial).1
        map := (windowPut s.ldg.h s.ldg.map v.serial).2
        vAccepted := sat 16 (s.ldg.vAccepted + 1)
        periodVouchers := s.ldg.periodVouchers + 1
        lastVoucherBeat := s.clk.beat }
      jrn := j }, .ok) := by
  unfold applyVoucher
  rw [hr]
  dsimp only
  rw [moveVoucher_fits h1 h5 hf]
  dsimp only
  rw [if_pos (show Status.ok.isOk = true from rfl), if_pos (show v.lgen = (moveBkt s (voucherMove v)).ldg.lgen from hl)]
  obtain ⟨j, hj⟩ := stageVoucher_jrn _ v .ok
  exact ⟨j, by rw [hj]; rfl⟩

/-- A voucher that does not fit moves nothing and is counted as refused. -/
theorem applyVoucher_tooMuch (hf : voucherFits s.ldg.cA v = false) :
    ∃ j st, applyVoucher s v = ({ s with
      ldg := { s.ldg with vRefused := sat 16 (s.ldg.vRefused + 1) }
      jrn := j }, st) := by
  obtain ⟨st, hm, hst⟩ := moveVoucher_tooMuch h1 h5 hf
  unfold applyVoucher
  rw [hr]
  dsimp only
  rw [hm]
  dsimp only
  rw [if_neg (by rw [hst]; decide)]
  obtain ⟨j, hj⟩ := stageVoucher_jrn _ v st
  exact ⟨j, st, by rw [hj]⟩

end

/-- What the counter record, the records of the command and its balances leave of a voucher's work. -/
structure Recorded (w t : State) : Prop where
  frame : t = { w with ldg := { w.ldg with rseq := w.ldg.rseq + 1 }, ring := t.ring, fl := t.fl }
  counter : t.fl.counter = some (counterNow w 1)

theorem fillBalance_ring (s : State) (u : Nat) : RingOnly s (fillBalance s u) := by
  unfold fillBalance
  split
  · exact ⟨_, rfl⟩
  · exact ⟨s.ring, rfl⟩

theorem applyTopup_recorded {z : State} (u : Nat) {v : Voucher} (h5 : v.type ≤ 5) : Recorded (applyVoucher z v).1 (applyTopup z u [v]) := by
  unfold applyTopup
  extract_lets x set_ s1 s2
  have hset : set_ = false := by
    have h6 : (v.type == 6) = false := beq_eq_false_iff_ne.2 (by omega)
    simp [set_, x, applyVouchers, h6]
  have hs1 : s1 = writeCounter (applyVoucher z v).1 1 := by
    simp only [s1, hset]
    rfl
  obtain ⟨r, hr⟩ : RingOnly s1 s2 := by
    simp only [s2]
    split
    · exact ⟨_, rfl⟩
    · exact ⟨s1.ring, rfl⟩
  change Recorded _ { s2 with fl := { s2.fl with topupUids := s2.fl.topupUids ++ [(u, s2.clk.beat)] } }
  rw [hr, hs1]
  exact ⟨rfl, rfl⟩

theorem voucherStep_one {s : State} {u : Nat} {v : Voucher} (h5 : v.type ≤ 5) (hdue : s.ldg.due = [(u, v)]) :
    Recorded (applyVoucher { s with ldg := { s.ldg with due := [] } } v).1 (voucherStep s) := by
  have he : voucherStep s = fillBalance (applyTopup { s with ldg := { s.ldg with due := [] } } u [v]) u := by
    unfold voucherStep
    dsimp only
    rw [hdue]
    simp [dueUids, List.eraseDups_cons]
  obtain ⟨r, hr⟩ := fillBalance_ring (applyTopup { s with ldg := { s.ldg with due := [] } } u [v]) u
  obtain ⟨hframe, hcounter⟩ := applyTopup_recorded (z := { s with ldg := { s.ldg with due := [] } }) u h5
  rw [he, hr]
  exact ⟨by rw [hframe], hcounter⟩

/-- Settles O42: a voucher that fits moves both copies (`applyVoucher_fits`), one that does not moves none
(`applyVoucher_tooMuch`), and the counter record is written behind either. -/
theorem vouchersMoveCredit : Obligations.VouchersMoveCredit := by
  unfold Obligations.VouchersMoveCredit
  intro s u v hdue hr hl h1 h5 b move fits recorded
  obtain ⟨hframe, hcounter⟩ := voucherStep_one h5 hdue
  have hfits : voucherFits s.ldg.cA v = fits := rfl
  have hmove : voucherMove v = move := rfl
  refine ⟨fun hf => ⟨_, exec_voucherApply s, ?_⟩, fun hf => ⟨_, exec_voucherApply s, ?_⟩⟩
  · obtain ⟨j, hj⟩ := applyVoucher_fits (s := { s with ldg := { s.ldg with due := [] } }) hr h1 h5 hl (hfits.trans hf)
    rw [hj] at hframe hcounter
    generalize voucherStep s = t at hframe hcounter
    have hldg := congrArg State.ldg hframe
    refine ⟨by rw [hldg]; rfl, by rw [hldg]; rfl, by rw [hldg], by rw [hldg], by rw [hldg], by rw [hldg], ⟨_, hcounter, rfl, rfl, ?_, ?_, ?_, rfl⟩, ?_⟩
    · rw [hldg]
      rfl
    · rw [hldg]
      rfl
    · rw [hldg]
      rfl
    · generalize (windowPut s.ldg.h s.ldg.map v.serial) = w at hframe hldg
      rw [hldg]
      rw [hframe]
  · obtain ⟨j, st, hj⟩ := applyVoucher_tooMuch (s := { s with ldg := { s.ldg with due := [] } }) hr h1 h5 (hfits.trans hf)
    rw [hj] at hframe hcounter
    generalize voucherStep s = t at hframe hcounter
    have hldg := congrArg State.ldg hframe
    refine ⟨by rw [hldg], by rw [hldg], by rw [hldg], by rw [hldg], by rw [hldg], by rw [hldg], by rw [hldg], ⟨_, hcounter, rfl, rfl, ?_, ?_, ?_, rfl⟩, ?_⟩
    · rw [hldg]
      rfl
    · rw [hldg]
      rfl
    · rw [hldg]
      rfl
    · rw [hframe]

end Sys2Proof.Machine
end
section
/-! ## Limits of the key tree (R250, R254, R255, R257, R264) -/

namespace Sys2Proof.Machine
open Sys2Proof

/-! ### What a journal record leaves of the journal -/

/-- The journal is as it was but for what waits to be sealed. -/
def Staged (s t : State) : Prop := ∃ st n, t.jrn = { s.jrn with staged := st, nextSeq := n }

theorem Staged.refl (s : State) : Staged s s := ⟨s.jrn.staged, s.jrn.nextSeq, rfl⟩

theorem Staged.trans {s t u : State} (h : Staged s t) (k : Staged t u) : Staged s u := by
  obtain ⟨st, n, h⟩ := h
  obtain ⟨st', n', k⟩ := k
  exact ⟨st', n', by rw [k, h]⟩

theorem Staged.of_eq {s t : State} (h : t.jrn = s.jrn) : Staged s t := ⟨s.jrn.staged, s.jrn.nextSeq, h⟩

theorem stageRec_staged (s : State) (type source : Nat) (beat : BitVec 64) (pl : List Byte) (uid : Nat) :
    Staged s (stageRec s type source beat pl uid) := by
  unfold stageRec
  dsimp only
  split
  · exact .refl s
  · exact ⟨_, _, rfl⟩

theorem stageSoon_staged (s : State) (type source : Nat) (fs : List (Nat × List Byte)) : Staged s (stageSoon s type source fs) := by
  unfold stageSoon
  split_ifs
  · exact stageRec_staged _ _ _ _ _ _
  · exact .refl s
  · exact .of_eq rfl

theorem stageNode_staged (s : State) {event : Nat} (i : Nat) (old : NodeState) (h : 9 < event) : Staged s (stageNode s event i old) := by
  unfold stageNode stageLife
  rw [if_neg (Nat.not_le.2 h)]
  exact stageSoon_staged _ _ _ _

/-! ### A node retires (R254) -/

/-- A use of a node that its limit does not bind. -/
structure Noted (i : Nat) (s t : State) : Prop where
  eq : ∃ k, t = { s with key := k }
  retired : t.key.retired = s.key.retired
  node : getNode t i = { getNode s i with uses := (getNode s i).uses + 1 }
  others : ∀ j, j ≠ i → getNode t j = getNode s j

theorem raiseUses_mark (s : State) (i : Nat) : ∃ m, raiseUses s i = { s with key := { s.key with usesMark := m } } := by
  unfold raiseUses
  dsimp only
  split
  · exact ⟨_, rfl⟩
  · exact ⟨s.key.usesMark, rfl⟩

theorem nextInst_marks (s : State) (i : Nat) : ∃ m n, (nextInst s i).2 = { s with key := { s.key with inst := m, instMark := n } } :=
  ⟨_, _, rfl⟩

theorem noteUse_notes (s : State) (i : Nat) : Noted i s (noteUse s i) := by
  have hbase : Noted i s (setNode s i { getNode s i with uses := (getNode s i).uses + 1 }) :=
    ⟨⟨_, rfl⟩, rfl, getNode_setNode _ _ _, fun j hj => getNode_setNode_ne _ hj _⟩
  unfold noteUse
  dsimp only
  split
  · exact hbase
  · obtain ⟨⟨k, hk⟩, hret, hnode, hothers⟩ := hbase
    generalize setNode s i { getNode s i with uses := (getNode s i).uses + 1 } = z at hk hret hnode hothers
    obtain ⟨m, hm⟩ := raiseUses_mark z i
    rw [hm]
    subst hk
    exact ⟨⟨_, rfl⟩, hret, hnode, hothers⟩

/-- The node that retires, its count and its record. -/
def markRetired (s0 : State) (i : Nat) : State :=
  let s := { s0 with fl := { s0.fl with keyStore := s0.fl.keyStore.map fun p => if p.1 = i then (p.1, { p.2 with st := .retired }) else p } }
  let s1 := setNode s i { getNode s i with st := .retired }
  stageNode { s1 with key := { s1.key with retired := sat 16 (s1.key.retired + 1) } } 12 i .active

/-- K_tr of the next generation takes the place of the one that retired (R251). -/
def nextTr (s2 : State) (n : Node) : State :=
  let s3 := noteUse s2 0
  let x := nextInst { s3 with key := { s3.key with usesMark := smDel s3.key.usesMark 1 } } 1
  let n1 : Node := { n with
    inst := x.1
    gen := BitVec.ofNat 16 (n.gen.toNat + 1)
    uses := 0
    st := .active
    beat := s2.clk.beat
    key := BitVec.ofNat 256 (beN (trKey s2 (n.gen.toNat + 1))) }
  let s4 := setNode x.2 1 n1
  { s4 with fl := { s4.fl with keyStore := smIns s4.fl.keyStore 1 n1 } }

theorem retireNode_eq (s : State) (i : Nat) : retireNode s i =
    if i = 3 then { markRetired s i with jrn := { (markRetired s i).jrn with rollDue := match (markRetired s i).jrn.rollDue with
                                                                                        | some r => some r
                                                                                        | none => some 0 } }
    else if i = 1 then nextTr (markRetired s i) (getNode s i) else markRetired s i := rfl

/-- What a retirement leaves. -/
structure NodeRetired (i : Nat) (s t : State) : Prop where
  use : KeyUse s t
  count : t.key.retired = sat 16 (s.key.retired + 1)
  others : ∀ j, j ≠ i → (i = 1 → j ≠ 0) → getNode t j = getNode s j
  plinth : i = 1 → getNode t 0 = { getNode s 0 with uses := (getNode s 0).uses + 1 }
  own : i ≠ 1 → getNode t i = { getNode s i with st := .retired }
  next : i = 1 → (getNode t 1).st = .active ∧ (getNode t 1).uses = 0 ∧ (getNode t 1).gen = BitVec.ofNat 16 ((getNode s 1).gen.toNat + 1)
  journal : ∃ st n, t.jrn = { s.jrn with
    staged := st
    nextSeq := n
    rollDue := if i = 3 then some (s.jrn.rollDue.getD 0) else s.jrn.rollDue }

/-- The mark alone. -/
structure RetiredMark (i : Nat) (s t : State) : Prop where
  use : KeyUse s t
  count : t.key.retired = sat 16 (s.key.retired + 1)
  others : ∀ j, j ≠ i → getNode t j = getNode s j
  own : getNode t i = { getNode s i with st := .retired }
  journal : Staged s t

theorem RetiredMark.stageNode {i : Nat} {s t : State} (h : RetiredMark i s t) : RetiredMark i s (stageNode t 12 i .active) := by
  obtain ⟨huse, hcount, hothers, hown, hjrn⟩ := h
  have hlog : LogOnly t (Machine.stageNode t 12 i .active) := by
    unfold Machine.stageNode
    exact stageLife_logOnly _ _ _ _ _ _
  have hnode : ∀ j, getNode (Machine.stageNode t 12 i .active) j = getNode t j := fun j => by
    unfold getNode
    rw [hlog.key]
  exact ⟨huse.trans (stageNode_keyUse _ _ _ (by decide)), by rw [hlog.key, hcount], fun j hj => (hnode j).trans (hothers j hj),
    (hnode i).trans hown, hjrn.trans (stageNode_staged _ _ _ (by decide))⟩

theorem markRetired_mark (s : State) (i : Nat) : RetiredMark i s (markRetired s i) := by
  unfold markRetired
  refine RetiredMark.stageNode ⟨⟨_, _, _, _, _, rfl⟩, rfl, fun j hj => ?_, ?_, .of_eq rfl⟩
  · exact getNode_setNode_ne _ hj _
  · exact getNode_setNode _ _ _

/-- K_tr's successor is one generation further, unused, and a use of the plinth. -/
theorem nextTr_spec (s : State) (n : Node) : KeyUse s (nextTr s n) ∧ (nextTr s n).key.retired = s.key.retired ∧ (nextTr s n).jrn = s.jrn ∧
    (∀ j, j ≠ 1 → j ≠ 0 → getNode (nextTr s n) j = getNode s j) ∧
    getNode (nextTr s n) 0 = { getNode s 0 with uses := (getNode s 0).uses + 1 } ∧
    (getNode (nextTr s n) 1).st = .active ∧ (getNode (nextTr s n) 1).uses = 0 ∧
    (getNode (nextTr s n) 1).gen = BitVec.ofNat 16 (n.gen.toNat + 1) := by
  obtain ⟨⟨k, hk⟩, hret, hnode, hothers⟩ := noteUse_notes s 0
  unfold nextTr
  dsimp only
  generalize noteUse s 0 = z at hk hret hnode hothers
  obtain ⟨m, i, hx⟩ := nextInst_marks { z with key := { z.key with usesMark := smDel z.key.usesMark 1 } } 1
  generalize nextInst { z with key := { z.key with usesMark := smDel z.key.usesMark 1 } } 1 = x at hx
  obtain ⟨x1, y⟩ := x
  dsimp only at hx ⊢
  subst hx
  subst hk
  refine ⟨⟨_, _, _, _, _, rfl⟩, hret, rfl, fun j h1 h0 => (getNode_setNode_ne _ h1 _).trans (hothers j h0),
    (getNode_setNode_ne _ (by decide) _).trans hnode, ?_, ?_, ?_⟩
  · exact congrArg Node.st (getNode_setNode _ _ _)
  · exact congrArg Node.uses (getNode_setNode _ _ _)
  · exact congrArg Node.gen (getNode_setNode _ _ _)

theorem retireNode_retires (s : State) (i : Nat) : NodeRetired i s (retireNode s i) := by
  obtain ⟨huse, hcount, hothers, hown, st, n, hjrn⟩ := markRetired_mark s i
  rw [retireNode_eq]
  generalize markRetired s i = z at huse hcount hothers hown hjrn
  split
  · next h3 =>
    subst h3
    refine ⟨huse.trans (setJrn_keyUse _ _), hcount, fun j hj _ => hothers j hj, fun h => absurd h (by decide), fun _ => hown,
      fun h => absurd h (by decide), st, n, ?_⟩
    rw [hjrn]
    cases s.jrn.rollDue <;> rfl
  · next h3 =>
    have hjrn' : z.jrn = { s.jrn with staged := st, nextSeq := n, rollDue := if i = 3 then some (s.jrn.rollDue.getD 0) else s.jrn.rollDue } := by
      rw [hjrn, if_neg h3]
    split
    · next h1 =>
      subst h1
      obtain ⟨tuse, tret, tjrn, tothers, tplinth, tst, tuses, tgen⟩ := nextTr_spec z (getNode s 1)
      refine ⟨huse.trans tuse, tret.trans hcount, fun j hj h0 => (tothers j hj (h0 rfl)).trans (hothers j hj), fun _ => ?_,
        fun h => absurd rfl h, fun _ => ⟨tst, tuses, tgen⟩, st, n, tjrn.trans hjrn'⟩
      rw [tplinth, hothers 0 (by decide)]
    · next h1 =>
      exact ⟨huse, hcount, fun j hj _ => hothers j hj, fun h => absurd h h1, fun _ => hown, fun h => absurd h h1, st, n, hjrn'⟩

/-! ### An error in key RAM (R257) -/

theorem mem_withChildren {s : State} {l : List Nat} {j : Nat} (h : j ∈ l) : j ∈ withChildren s l := List.mem_append_left _ h

theorem mem_subtree_self (s : State) (i : Nat) : i ∈ subtree s i :=
  mem_withChildren (mem_withChildren (mem_withChildren (mem_withChildren (mem_withChildren (mem_withChildren List.mem_cons_self)))))

/-- A node that is not free has an entry. -/
theorem smGet_entry {α : Type} {m : SMap α} {k : Nat} {d : α} (h : smGet m k d ≠ d) : (k, smGet m k d) ∈ m := by
  induction m with
  | nil => exact absurd rfl h
  | cons p m ih =>
    unfold smGet at h ⊢
    split
    · next hk =>
      rw [← hk]
      exact List.mem_cons_self
    · next hk =>
      rw [if_neg hk] at h
      exact List.mem_cons_of_mem _ (ih h)

theorem mem_subtree_child {s : State} {i k : Nat} (h0 : k ≠ 0) (hst : (getNode s k).st ≠ .free)
    (hp : (getNode s k).parent.toNat = handleOf s i) : k ∈ subtree s i := by
  have hent : (k, getNode s k) ∈ s.key.nodes := smGet_entry fun h => hst (by rw [getNode, h]; rfl)
  have hone : k ∈ withChildren s [i] := by
    by_cases hk : k ∈ [i]
    · exact mem_withChildren hk
    · refine List.mem_append_right _ (List.mem_filterMap.2 ⟨(k, getNode s k), hent, ?_⟩)
      have hc : (List.map (handleOf s) [i]).contains (getNode s k).parent.toNat = true := by simp [hp]
      have hn : [i].contains k = false := by simpa using hk
      exact if_pos ⟨hc, by rw [hn]; rfl, h0⟩
  exact mem_withChildren (mem_withChildren (mem_withChildren (mem_withChildren (mem_withChildren hone))))

/-- What is kept of a persistent node over the error: its entry, its flash copy and its USES mark. -/
abbrev KeptNode := Nat × Node × Option Node × Nat

/-- A persistent node comes back under a new INST. -/
def reloadNode (s : State) (e : KeptNode) : State :=
  let x := nextInst s e.1
  let ph := e.2.1.parent.toNat
  let par := if ph = 0 then 0 else handleOf x.2 (ph % 256)
  let s2 := setNode { x.2 with key := { x.2.key with usesMark := smPut x.2.key.usesMark e.1 e.2.2.2 4096 } } e.1
    { e.2.1 with inst := x.1, parent := BitVec.ofNat 32 par }
  match e.2.2.1 with
  | some n => { s2 with fl := { s2.fl with keyStore := smIns s2.fl.keyStore e.1 n } }
  | none => s2

theorem reloadNode_spec (s : State) (e : KeptNode) : KeyUse s (reloadNode s e) ∧
    (∀ j, j ≠ e.1 → getNode (reloadNode s e) j = getNode s j) ∧
    ∃ inst par, getNode (reloadNode s e) e.1 = { e.2.1 with inst := inst, parent := par } := by
  unfold reloadNode
  dsimp only
  obtain ⟨m, i, hx⟩ := nextInst_marks s e.1
  generalize nextInst s e.1 = x at hx
  obtain ⟨x1, y⟩ := x
  dsimp only at hx ⊢
  subst hx
  generalize smPut _ e.1 e.2.2.2 4096 = u
  split
  · exact ⟨⟨_, _, _, _, _, rfl⟩, fun j hj => getNode_setNode_ne _ hj _, _, _, getNode_setNode _ _ _⟩
  · exact ⟨⟨_, _, _, _, _, rfl⟩, fun j hj => getNode_setNode_ne _ hj _, _, _, getNode_setNode _ _ _⟩

/-- Nodes that come back from a list. -/
structure Reloaded (s t : State) (l : List KeptNode) : Prop where
  use : KeyUse s t
  others : ∀ j, (∀ e ∈ l, e.1 ≠ j) → getNode t j = getNode s j
  back : ∀ e ∈ l, ∃ e' ∈ l, e'.1 = e.1 ∧ ∃ inst par, getNode t e.1 = { e'.2.1 with inst := inst, parent := par }

theorem reloadAll (l : List KeptNode) : ∀ s, Reloaded s (l.foldl reloadNode s) l := by
  induction l with
  | nil => exact fun s => ⟨.refl s, fun _ _ => rfl, fun _ h => absurd h List.not_mem_nil⟩
  | cons a l ih =>
    intro s
    obtain ⟨huse, hothers, hself⟩ := reloadNode_spec s a
    obtain ⟨luse, lothers, lback⟩ := ih (reloadNode s a)
    rw [List.foldl_cons]
    refine ⟨huse.trans luse, fun j hj => ?_, fun e he => ?_⟩
    · rw [lothers j fun e he => hj e (List.mem_cons_of_mem _ he), hothers j (hj a List.mem_cons_self).symm]
    · by_cases hin : ∃ e' ∈ l, e'.1 = e.1
      · obtain ⟨e', he', heq⟩ := hin
        obtain ⟨e'', he'', heq', h⟩ := lback e' he'
        exact ⟨e'', List.mem_cons_of_mem _ he'', heq'.trans heq, heq ▸ h⟩
      · have hea : e = a := (List.mem_cons.1 he).resolve_right fun h => hin ⟨e, h, rfl⟩
        subst hea
        rw [lothers e.1 fun e' he' heq => hin ⟨e', he', heq⟩]
        exact ⟨e, List.mem_cons_self, rfl, hself⟩

/-- The nodes of a list that are kept over an error of key RAM. -/
def keptNodes (s : State) (l : List Nat) : List KeptNode :=
  l.filterMap fun k =>
    let n := getNode s k
    if n.persistent ∧ n.st ≠ .invalid then some (k, n, smFind s.fl.keyStore k, usesMarkOf s k) else none

theorem mem_keptNodes {s : State} {l : List Nat} {e : KeptNode} (h : e ∈ keptNodes s l) :
    e.2.1 = getNode s e.1 ∧ (getNode s e.1).persistent = true := by
  obtain ⟨k, -, hk⟩ := List.mem_filterMap.1 h
  dsimp only at hk
  split at hk
  · next hc =>
    cases hk
    exact ⟨rfl, hc.1⟩
  · cases hk

theorem ramError_eq {s : State} {i : Nat} (hf : (getNode s i).st ≠ .free) (hi : (getNode s i).st ≠ .invalid) :
    ramError s i = (keptNodes s (subtree s i)).foldl reloadNode (invalidateAll s (subtree s i) true) :=
  if_neg fun h => h.elim hf hi

/-- A node of a list that key RAM alone holds is lost. -/
theorem ramError_loses {s : State} {i k : Nat} (hf : (getNode s i).st ≠ .free) (hi : (getNode s i).st ≠ .invalid)
    (hk : k ∈ subtree s i) (hkf : (getNode s k).st ≠ .free) (hki : (getNode s k).st ≠ .invalid) (hp : (getNode s k).persistent = false) :
    (getNode (ramError s i) k).st = if nodeBusy s k then .invalid else .free := by
  rw [ramError_eq hf hi, (reloadAll _ _).others k fun e he heq => by
    have hpe := (mem_keptNodes he).2
    rw [heq, hp] at hpe
    cases hpe]
  rw [((invalidateAll_removed (subtree s i) s).gone k hk ⟨hkf, hki⟩).1]
  unfold leftNode
  split <;> rfl

/-- A persistent node comes back with its key, its USES and its state. -/
theorem ramError_reloads {s : State} {i : Nat} (hf : (getNode s i).st ≠ .free) (hi : (getNode s i).st ≠ .invalid)
    (hp : (getNode s i).persistent = true) :
    (getNode (ramError s i) i).key = (getNode s i).key ∧ (getNode (ramError s i) i).uses = (getNode s i).uses ∧
      (getNode (ramError s i) i).st = (getNode s i).st := by
  have hin : ((i, getNode s i, smFind s.fl.keyStore i, usesMarkOf s i) : KeptNode) ∈ keptNodes s (subtree s i) :=
    List.mem_filterMap.2 ⟨i, mem_subtree_self s i, if_pos ⟨hp, hi⟩⟩
  obtain ⟨e, he, heq, inst, par, hback⟩ := (reloadAll (keptNodes s (subtree s i)) (invalidateAll s (subtree s i) true)).back _ hin
  have hnode := (mem_keptNodes he).1
  rw [heq] at hnode
  rw [ramError_eq hf hi, hback, hnode]
  exact ⟨rfl, rfl, rfl⟩

theorem ramError_keyUse {s : State} {i : Nat} (hf : (getNode s i).st ≠ .free) (hi : (getNode s i).st ≠ .invalid) : KeyUse s (ramError s i) := by
  rw [ramError_eq hf hi]
  exact (invalidateAll_removed _ s).use.trans (reloadAll _ _).use

/-! ### Patina (R264) -/

/-- A node but for the mask that a patina pass renews. -/
def unmasked (n : Node) : Node := { n with secretMask := false }

/-- What the draws of a patina pass leave. -/
structure Redrawn (s t : State) : Prop where
  frame : ∃ r e k, t = { s with ring := r, ent := e, key := k }
  nodes : ∀ j, unmasked (getNode t j) = unmasked (getNode s j)
  late : t.key.patinaLate = s.key.patinaLate

theorem patinaDraws_redrawn (l : List (Nat × Node)) : ∀ s, Redrawn s (patinaDraws l s) := by
  induction l with
  | nil => exact fun s => ⟨⟨_, _, _, rfl⟩, fun _ => rfl, rfl⟩
  | cons p l ih =>
    intro s
    unfold patinaDraws
    split
    · split
      · next d hd =>
        obtain ⟨r, e, heq⟩ := drbgDraw_entropyOnly hd
        obtain ⟨⟨r', e', k', h⟩, hnodes, hlate⟩ := ih (setNode d.2 p.1 { getNode d.2 p.1 with secretMask := false })
        generalize patinaDraws l (setNode d.2 p.1 { getNode d.2 p.1 with secretMask := false }) = t at h hnodes hlate
        refine ⟨⟨r', e', k', by rw [h, heq]; rfl⟩, fun j => ?_, hlate.trans (by rw [heq]; rfl)⟩
        rw [hnodes j]
        have hd2 : ∀ j, getNode d.2 j = getNode s j := fun j => by
          rw [heq]
          rfl
        by_cases hj : j = p.1
        · subst hj
          rw [getNode_setNode, hd2]
          rfl
        · rw [getNode_setNode_ne _ hj, hd2]
      · exact ih s
    · exact ih s

/-! ### The rows -/

theorem exec_nodeUsageLimit (i : Fin 256) (s : State) : exec (.nodeUsageLimit i) s = .next (usageLimit s i.val) := rfl
theorem exec_keyRamError (i : Fin 256) (s : State) : exec (.keyRamError i) s = .next (ramError s i.val) := rfl
theorem exec_usesMarkRaise (i : Fin 256) (s : State) : exec (.usesMarkRaise i) s = .next (if keeperUp s then raiseUses s i.val else s) := rfl
theorem exec_instanceMarkRaise (i : Fin 256) (s : State) : exec (.instanceMarkRaise i) s = .next (raiseInst s i.val) := rfl
theorem exec_patinaPass (onTime : Bool) (s : State) : exec (.patinaPass onTime) s = .next (patinaNow s onTime) := rfl

theorem KeyUse.still {s t : State} (h : KeyUse s t) : t.ldg = s.ldg ∧ t.mtr = s.mtr ∧ t.clk = s.clk ∧ t.cfg = s.cfg ∧ t.slu = s.slu := by
  obtain ⟨j, p, k, c, ks, rfl⟩ := h
  exact ⟨rfl, rfl, rfl, rfl, rfl⟩

theorem raiseUses_due {s : State} {i : Nat} (hp : (getNode s i).persistent = true) (hm : usesMarkOf s i ≤ (getNode s i).uses + 1024) :
    raiseUses s i = { s with key := { s.key with usesMark := smPut s.key.usesMark i (usesMarkOf s i + 4096) 4096 } } :=
  if_pos (by rw [hp, decide_eq_true hm]; rfl)

theorem raiseUses_early {s : State} {i : Nat} (h : (getNode s i).persistent = false ∨ (getNode s i).uses + 1024 < usesMarkOf s i) :
    raiseUses s i = s := by
  refine if_neg fun hc => ?_
  obtain ⟨hp, hm⟩ := Bool.and_eq_true_iff.1 hc
  rcases h with h | h
  · rw [h] at hp
    cases hp
  · exact Nat.not_le.2 h (of_decide_eq_true hm)

/-- Settles O56: a limit retires its node (`retireNode_retires`), an error of key RAM loses what it alone holds (`ramError_loses`,
`ramError_reloads`), and a patina pass redraws masks only (`patinaDraws_redrawn`). -/
theorem keysKeepLimits : Obligations.KeysKeepLimits := by
  unfold Obligations.KeysKeepLimits
  intro s i onTime n still
  refine ⟨fun ha hl => ⟨_, exec_nodeUsageLimit i s, ?_⟩, fun h => ?_, ?_⟩
  · have he : usageLimit s i.val = retireNode s i.val := if_pos ⟨ha, hl⟩
    rw [he]
    obtain ⟨huse, hcount, hothers, hplinth, hown, hnext, st, m, hjrn⟩ := retireNode_retires s i.val
    refine ⟨huse.still, hcount, hothers, hplinth, hown, fun h1 => ?_, fun h3 => ?_⟩
    · obtain ⟨h2, h3, h4⟩ := hnext h1
      refine ⟨h2, h3, h4.trans ?_⟩
      rw [← h1]
    · rw [hjrn, if_pos h3]
      exact Option.some_ne_none _
  · rw [exec_nodeUsageLimit]
    exact congrArg _ (if_neg fun hc => h.elim (fun k => k hc.1) fun k => Nat.not_le.2 k hc.2)
  intro gone
  refine ⟨fun hf hi => ⟨_, exec_keyRamError i s, (ramError_keyUse hf hi).still, fun hp => ?_, fun hp => ramError_reloads hf hi hp,
    fun k hk hkf hki hp hpar => ramError_loses hf hi (mem_subtree_child hk hkf hpar) hkf hki hp⟩, fun h => ?_, ⟨fun hk hp hm => ?_, fun h => ?_⟩,
    ⟨fun hk hm => ?_, fun h => ?_⟩, fun hst hr => ⟨_, exec_patinaPass onTime s, ?_⟩, fun h => ?_⟩
  · exact ramError_loses hf hi (mem_subtree_self s i.val) hf hi hp
  · rw [exec_keyRamError]
    exact congrArg _ (if_pos h)
  · rw [exec_usesMarkRaise, if_pos hk, raiseUses_due hp hm]
  · rw [exec_usesMarkRaise]
    rcases h with h | h
    · rw [if_neg (by rw [h]; decide)]
    · rw [raiseUses_early h, ite_self]
  · rw [exec_instanceMarkRaise]
    exact congrArg _ (if_pos ⟨hk, hm⟩)
  · rw [exec_instanceMarkRaise]
    refine congrArg _ (if_neg fun hc => ?_)
    rcases h with h | h
    · rw [h] at hc
      cases hc.1
    · exact Nat.not_le.2 h hc.2
  · obtain ⟨⟨r, e, k, ht⟩, hnodes, hlate⟩ := patinaDraws_redrawn s.key.nodes s
    have he : patinaNow s onTime = if onTime then patinaDraws s.key.nodes s
        else { patinaDraws s.key.nodes s with key := { (patinaDraws s.key.nodes s).key with
          patinaLate := sat 32 ((patinaDraws s.key.nodes s).key.patinaLate + 1) } } :=
      if_neg fun hc => hc.elim (fun k => k hst) fun k => by
        rw [hr] at k
        cases k
    rw [he]
    generalize patinaDraws s.key.nodes s = z at ht hnodes hlate
    cases onTime with
    | true =>
      rw [if_pos rfl]
      refine ⟨?_, hnodes, hlate⟩
      rw [ht]
      exact ⟨rfl, rfl, rfl, rfl, rfl⟩
    | false =>
      rw [if_neg (by decide)]
      refine ⟨?_, hnodes, ?_⟩
      · rw [ht]
        exact ⟨rfl, rfl, rfl, rfl, rfl⟩
      · exact congrArg (fun n => sat 32 (n + 1)) hlate
  · rw [exec_patinaPass]
    refine congrArg _ (if_pos (h.imp id fun h => ?_))
    rw [h]
    rfl

end Sys2Proof.Machine
end
section
/-! ## Journal: sealing, checkpoints, compaction and rolls (R25, R234, R237 to R240, R467) -/

namespace Sys2Proof.Machine
open Sys2Proof

/-! ### A use of a node, as the journal sees it -/

/-- What a counted use of node `i` leaves, whether or not it retires the node. -/
structure Counted (i : Nat) (s t : State) : Prop where
  use : KeyUse s t
  others : ∀ j, j ≠ i → (i = 1 → j ≠ 0) → getNode t j = getNode s j
  journal : ∃ st n r, t.jrn = { s.jrn with staged := st, nextSeq := n, rollDue := r } ∧ (i ≠ 3 → r = s.jrn.rollDue)

theorem countUse_counted (s : State) (i : Nat) : Counted i s (countUse s i) := by
  have hbase : Counted i s (setNode (addBlocks s (useBlocks i)) i { getNode s i with uses := (getNode s i).uses + 1 }) :=
    ⟨⟨_, _, _, _, _, rfl⟩, fun j hj _ => getNode_setNode_ne _ hj _, _, _, _, rfl, fun _ => rfl⟩
  have hraise : ∀ {z : State}, Counted i s z → Counted i s (if z.flt.restarting then z else raiseUses z i) := by
    intro z hz
    split
    · exact hz
    · obtain ⟨m, hm⟩ := raiseUses_mark z i
      rw [hm]
      exact ⟨hz.use.trans (setKey_keyUse _ _), hz.others, hz.journal⟩
  have hretire : ∀ {z : State}, Counted i s z → Counted i s (retireNode z i) := by
    intro z ⟨zuse, zothers, zst, zn, zr, zjrn, zroll⟩
    obtain ⟨huse, -, hothers, -, -, -, st, n, hjrn⟩ := retireNode_retires z i
    refine ⟨zuse.trans huse, fun j hj h0 => (hothers j hj h0).trans (zothers j hj h0), st, n, _, by rw [hjrn, zjrn], fun h3 => ?_⟩
    rw [if_neg h3]
    exact zroll h3
  unfold countUse
  dsimp only
  split
  · exact hretire (hraise hbase)
  · exact hraise hbase

/-! ### Flash rewrites -/

/-- Bytes of flash are rewritten: what marks their cells goes. -/
def Rewrites (s t : State) : Prop := ∃ d w b, t = { s with fl := { s.fl with dbgBytes := d, weak := w, bad := b } }

theorem flashRenew_rewrites (s : State) (area off n : Nat) : Rewrites s (flashRenew s area off n) := ⟨_, _, _, rfl⟩

theorem programChains_rewrites (l : List JRec) : ∀ (s : State) (k : Nat), Rewrites s (programChains l s k) := by
  induction l with
  | nil => exact fun s _ => ⟨_, _, _, rfl⟩
  | cons r l ih =>
    intro s k
    unfold programChains
    split
    · obtain ⟨d, w, b, h⟩ := ih (flashRenew s 6 (jrecOff s k + 48) 16) (k + 1)
      exact ⟨d, w, b, h.trans rfl⟩
    · exact ih s (k + 1)

/-! ### Sealing leaves checkpoints, credit and meter alone (R234, R467) -/

/-- What sealing changes: journal, key tree, engine and flash, with the checkpoints and the KGEN as they were. -/
structure SealFrame (s t : State) : Prop where
  frame : ∃ j p k c f, t = { s with jrn := j, pwr := { s.pwr with startRecs := p }, key := k, cip := c, fl := f }
  ckpts : t.fl.ckpts = s.fl.ckpts ∧ t.fl.counter = s.fl.counter
  next : t.jrn.ckptNext = s.jrn.ckptNext
  kgen : t.jrn.kgen = s.jrn.kgen

theorem SealFrame.refl (s : State) : SealFrame s s := ⟨⟨_, _, _, _, _, rfl⟩, ⟨rfl, rfl⟩, rfl, rfl⟩

theorem SealFrame.trans {s t u : State} (h : SealFrame s t) (k : SealFrame t u) : SealFrame s u := by
  obtain ⟨⟨j, p, ke, c, f, ht⟩, ⟨h0, h1⟩, h2, h3⟩ := h
  obtain ⟨⟨j', p', k', c', f', hu⟩, ⟨k0, k1⟩, k2, k3⟩ := k
  exact ⟨⟨j', p', k', c', f', by rw [hu, ht]⟩, ⟨k0.trans h0, k1.trans h1⟩, k2.trans h2, k3.trans h3⟩

theorem SealFrame.of_counted {i : Nat} {s t : State} (h : Counted i s t) : SealFrame s t := by
  obtain ⟨⟨j, p, k, c, ks, ht⟩, -, st, n, r, hj, -⟩ := h
  refine ⟨⟨j, p, k, c, _, ht⟩, ⟨?_, ?_⟩, ?_, ?_⟩
  · rw [ht]
  · rw [ht]
  · rw [hj]
  · rw [hj]

theorem SealFrame.of_rewrites {s t : State} (h : Rewrites s t) : SealFrame s t := by
  obtain ⟨d, w, b, rfl⟩ := h
  exact ⟨⟨_, _, _, _, _, rfl⟩, ⟨rfl, rfl⟩, rfl, rfl⟩

theorem sealInto_sealFrame (s : State) (r : JRec) : SealFrame s (sealInto s r).1 := by
  unfold sealInto
  dsimp only
  refine (SealFrame.of_counted (countUse_counted s 3)).trans ?_
  generalize countUse s 3 = z
  exact ⟨⟨_, _, _, _, _, rfl⟩, ⟨rfl, rfl⟩, rfl, rfl⟩

/-- A record without its CHAIN. -/
def bare (r : JRec) : JRec := { r with chain := none }

/-- What sealing a list of records leaves, and the list that is written for it. -/
structure SealedList (s : State) (l : List JRec) (x : State × List JRec) : Prop where
  frame : SealFrame s x.1
  sealed : unsealed x.2 = false
  same : x.2.map bare = l.map bare

theorem sealList_seals (l : List JRec) : ∀ s, SealedList s l (sealList s l) := by
  induction l with
  | nil => exact fun s => ⟨.refl s, rfl, rfl⟩
  | cons r l ih =>
    intro s
    unfold sealList
    split
    · obtain ⟨hframe, hsealed, hsame⟩ := ih (sealInto s r).1
      refine ⟨(sealInto_sealFrame s r).trans hframe, ?_, ?_⟩
      · simpa [unsealed, sealInto] using hsealed
      · simpa [bare, sealInto] using hsame
    · next hr =>
      obtain ⟨hframe, hsealed, hsame⟩ := ih s
      refine ⟨hframe, ?_, ?_⟩
      · have hno : r.chain.isNone = false := Bool.eq_false_iff.2 hr
        unfold unsealed at hsealed ⊢
        rw [List.any_cons, hno, Bool.false_or, hsealed]
      · rw [List.map_cons, List.map_cons, hsame]

/-- The records drained unsealed take their CHAIN fields. -/
theorem chainCatchup_seals {s : State} (hu : unsealed s.fl.journal = true) (hk : kjHeld s = true) (hb : keyBusy s = false)
    (he : engineFailed s = false) (hup : keeperUp s = true) :
    ∃ x, SealedList s s.fl.journal x ∧ Rewrites { x.1 with fl := { x.1.fl with journal := x.2 } } (chainCatchup s) := by
  have hc : (unsealed s.fl.journal && kjHeld s && !keyBusy s && !engineFailed s && keeperUp s) = true := by simp [hu, hk, hb, he, hup]
  refine ⟨sealList s s.fl.journal, sealList_seals _ s, ?_⟩
  have h := programChains_rewrites s.fl.journal { (sealList s s.fl.journal).1 with
    fl := { (sealList s s.fl.journal).1.fl with journal := (sealList s s.fl.journal).2 } } 0
  unfold chainCatchup
  rw [if_pos hc]
  exact h

theorem chainCatchup_idle {s : State} (h : unsealed s.fl.journal = false ∨ kjHeld s = false) : chainCatchup s = s := by
  unfold chainCatchup
  rcases h with h | h
  · rw [h]
    rfl
  · rw [h, Bool.and_false]
    rfl

theorem chainCatchup_sealFrame (s : State) : SealFrame s (chainCatchup s) := by
  unfold chainCatchup
  split
  · have hs := (sealList_seals s.fl.journal s).frame
    generalize sealList s s.fl.journal = x at hs
    refine (hs.trans ?_).trans (.of_rewrites (programChains_rewrites _ _ 0))
    exact ⟨⟨_, _, _, _, _, rfl⟩, ⟨rfl, rfl⟩, rfl, rfl⟩
  · exact .refl s

theorem journalSealOne_sealFrame (s : State) : SealFrame s (journalSealOne s) := by
  unfold journalSealOne
  split
  · exact .refl s
  · next r rest _ =>
    split
    · exact .refl s
    · have h := chainCatchup_sealFrame s
      generalize chainCatchup s = z at h
      have h1 : SealFrame s { z with jrn := { z.jrn with staged := rest } } := h.trans ⟨⟨_, _, _, _, _, rfl⟩, ⟨rfl, rfl⟩, rfl, rfl⟩
      dsimp only
      generalize ({ z with jrn := { z.jrn with staged := rest } } : State) = y at h1
      have hx : SealFrame s (if kjHeld y then sealInto y r else (y, r)).1 := by
        split
        · exact h1.trans (sealInto_sealFrame y r)
        · exact h1
      generalize (if kjHeld y then sealInto y r else (y, r)) = x at hx
      refine hx.trans (SealFrame.trans ?_ (.of_rewrites (flashRenew_rewrites _ _ _ _)))
      exact ⟨⟨_, _, _, _, _, rfl⟩, ⟨rfl, rfl⟩, rfl, rfl⟩

theorem sealAllGo_sealFrame (k : Nat) : ∀ s, SealFrame s (sealAllGo k s) := by
  induction k with
  | zero => exact SealFrame.refl
  | succ k ih => exact fun s => (journalSealOne_sealFrame s).trans (ih _)

theorem sealAll_sealFrame (s : State) : SealFrame s (sealAll s) := (sealAllGo_sealFrame _ s).trans (chainCatchup_sealFrame _)

/-! ### The oldest staged record goes to flash (R25, R234) -/

section
variable {s : State} {r : JRec} {rest : List JRec} (hst : s.jrn.staged = r :: rest) (he : engineFailed s = false)
  (hb : keyBusy s = false) (hup : keeperUp s = true)
include hst he hb hup

/-- With nothing to catch up, the record is all that is sealed. -/
theorem journalSealOne_eq (hc : chainCatchup s = s) : journalSealOne s =
    (let s1 : State := { s with jrn := { s.jrn with staged := rest } }
     let x := if kjHeld s then sealInto s1 r else (s1, r)
     flashRenew { x.1 with fl := { x.1.fl with journal := x.1.fl.journal ++ [x.2] } } 6 (jrecOff x.1 x.1.fl.journal.length) 64) := by
  have hno : (engineFailed s || keyBusy s || !keeperUp s) = false := by simp [he, hb, hup]
  unfold journalSealOne
  rw [hst]
  dsimp only
  rw [if_neg (by rw [hno]; decide), hc]
  rfl

theorem journalSealOne_sealed (hu : unsealed s.fl.journal = false) (hk : kjHeld s = true)
    (hl : (getNode s 3).uses + 1 < (getNode s 3).limit) :
    (journalSealOne s).jrn.staged = rest ∧
      (journalSealOne s).fl.journal = s.fl.journal ++ [{ r with chain := some (chainOf s s.jrn.prevChain r) }] ∧
      (journalSealOne s).jrn.sealedSeq = r.seq ∧ (journalSealOne s).jrn.sealedKgen = r.kgen ∧
      (journalSealOne s).jrn.sealedChain = chainOf s s.jrn.prevChain r ∧ (journalSealOne s).ldg = s.ldg ∧ (journalSealOne s).mtr = s.mtr := by
  obtain ⟨heq, -, -, -⟩ := countUse_below (s := { s with jrn := { s.jrn with staged := rest } }) (i := 3) hl
  have hchain : chainOf { s with jrn := { s.jrn with staged := rest } } s.jrn.prevChain r = chainOf s s.jrn.prevChain r := rfl
  rw [journalSealOne_eq hst he hb hup (chainCatchup_idle (.inl hu)), hk]
  dsimp only
  rw [if_pos rfl]
  unfold sealInto
  dsimp only
  generalize countUse { s with jrn := { s.jrn with staged := rest } } 3 = z at heq
  have hjrn : z.jrn = { s.jrn with staged := rest } := by rw [heq]
  have hfl : z.fl = s.fl := by rw [heq]
  refine ⟨?_, ?_, rfl, rfl, rfl, ?_, ?_⟩
  · change z.jrn.staged = rest
    rw [hjrn]
  · change z.fl.journal ++ [{ r with chain := some (chainOf s s.jrn.prevChain r) }] = _
    rw [hfl]
  · change z.ldg = s.ldg
    rw [heq]
  · change z.mtr = s.mtr
    rw [heq]

theorem journalSealOne_bare (hk : kjHeld s = false) :
    journalSealOne s = flashRenew { s with
      jrn := { s.jrn with staged := rest }
      fl := { s.fl with journal := s.fl.journal ++ [r] } } 6 (jrecOff s s.fl.journal.length) 64 := by
  rw [journalSealOne_eq hst he hb hup (chainCatchup_idle (.inr hk)), hk]
  rfl

end

/-! ### Checkpoints (R237, R238) -/

/-- A checkpoint of a type that was stored: the next number, and credit as it was. -/
structure CkptStored (type : Nat) (s t : State) : Prop where
  ckpts : ∃ c, t.fl.ckpts = s.fl.ckpts ++ [c] ∧ c.type = type ∧ c.number = s.jrn.ckptNext ∧ c.beat = s.clk.beat
  next : t.jrn.ckptNext = s.jrn.ckptNext + 1
  kgen : t.jrn.kgen = s.jrn.kgen
  credit : t.ldg.cA = s.ldg.cA ∧ t.ldg.cB = s.ldg.cB ∧ t.ldg.svcUs = s.ldg.svcUs ∧ t.ldg.nextDailyUs = s.ldg.nextDailyUs
  frame : t = { s with
    ldg := t.ldg
    jrn := t.jrn
    pwr := { s.pwr with startRecs := t.pwr.startRecs }
    key := t.key
    cip := t.cip
    fl := t.fl }

theorem compactCkpts_room {s : State} (h : s.fl.ckpts.length + 64 ≤ 8192) : compactCkpts s = s := if_neg (Nat.not_lt.2 h)

theorem storeCkpt_stores {s : State} (type disp : Nat) (ctr : Option (List Byte)) (h : s.fl.ckpts.length + 64 ≤ 8192) :
    CkptStored type s (storeCkpt s type disp ctr).1 := by
  obtain ⟨⟨j, p, k, ci, f, hz⟩, ⟨hckpts, -⟩, hnext, hkgen⟩ := sealAll_sealFrame s
  unfold storeCkpt
  rw [compactCkpts_room (s := sealAll s) (by rw [hckpts]; exact h)]
  generalize sealAll s = z at hz hckpts hnext hkgen
  obtain ⟨⟨j', p', k', ci', f', hy⟩, ⟨hckpts', -⟩, hnext', hkgen'⟩ := SealFrame.of_counted (countUse_counted z 4)
  dsimp only
  generalize countUse z 4 = y at hy hckpts' hnext' hkgen'
  generalize ckptHead z type z.jrn.ckptNext disp 0 (ctr.getD (ckptCounters z)) = head
  generalize BitVec.ofNat 128 (beN (ckptTag z head)) = tag
  have hldg : y.ldg = s.ldg := by rw [hy, hz]
  have hA := congrArg Ledger.cA hldg
  have hB := congrArg Ledger.cB hldg
  have hU := congrArg Ledger.svcUs hldg
  have hD := congrArg Ledger.nextDailyUs hldg
  refine ⟨⟨_, congrArg (· ++ [_]) (hckpts'.trans hckpts), rfl, hnext, ?_⟩, congrArg (· + 1) hnext, hkgen'.trans hkgen,
    ⟨hA, hB, hU, hD⟩, ?_⟩
  · rw [hz]
  · rw [hy, hz]
    rfl

/-- The journal record and the counter record behind a checkpoint change none of it. -/
theorem storeAndRecord_stores {s : State} (type disp : Nat) (ctr : Option (List Byte)) (h : s.fl.ckpts.length + 64 ≤ 8192) :
    CkptStored type s (storeAndRecord s type disp ctr) := by
  have hx := storeCkpt_stores type disp ctr h
  unfold storeAndRecord
  generalize storeCkpt s type disp ctr = x at hx
  dsimp only
  obtain ⟨⟨c, hc, hc1, hc2, hc3⟩, hnext, hkgen, hcredit, hz⟩ := hx
  obtain ⟨st, n, hj⟩ := stageRec_staged x.1 0x70 9 x.1.clk.beat
    (payload [(20, leBytes type 1), (24, leBytes x.2.1 4), (28, beBytes x.2.2.toNat 16)]) 0
  obtain ⟨jj, hs⟩ : ∃ jj, stageCkpt x.1 type x.2.1 x.2.2 = { x.1 with jrn := jj } := stageRec_jrn _ _ _ _ _ _
  have hjj : jj = { x.1.jrn with staged := st, nextSeq := n } := by
    rw [← hj]
    exact (congrArg State.jrn hs).symm
  rw [hs, hjj]
  refine ⟨⟨c, hc, hc1, hc2, hc3⟩, hnext, hkgen, hcredit, ?_⟩
  rw [hz]
  rfl

/-! ### Compaction (R239) -/

theorem compactStep_compacts (s : State) : (compactStep s).fl.journal = s.fl.journal.drop sectorRecs ∧
    compactStep s = { s with
      fl := { rewritten s.fl (compactStep s).fl with journal := (compactStep s).fl.journal, jrnBase := s.fl.jrnBase + sectorRecs }
      jrn := { s.jrn with compactPlanned := (compactStep s).jrn.compactPlanned, prog := (compactStep s).jrn.prog }
      ring := (compactStep s).ring } := by
  unfold compactStep
  dsimp only
  obtain ⟨d, w, b, h⟩ := flashRenew_rewrites s 6 (jrecOff s 0) (64 * sectorRecs)
  generalize flashRenew s 6 (jrecOff s 0) (64 * sectorRecs) = z at h
  generalize (if s.jrn.prog.active = true then s.jrn.compactPlanned else 4 - freeSectors s) = planned
  generalize (if s.jrn.prog.active = true then s.jrn.prog.position else 0) + 1 = done
  generalize min 1000 (1000 * done / planned) = new
  generalize (⟨new, done, decide (done < planned)⟩ : Progress) = pr
  generalize (if s.jrn.prog.active = true then s.jrn.prog.progress else 0) = old
  obtain ⟨r, hr⟩ := postProgress_ringOnly { z with
    fl := { z.fl with journal := z.fl.journal.drop sectorRecs, jrnBase := z.fl.jrnBase + sectorRecs }
    jrn := { z.jrn with compactPlanned := planned, prog := pr } } 4 srcJournal old new done
  rw [hr, h]
  exact ⟨rfl, rfl⟩

/-! ### Rolls (R240) -/

/-- What stays from the ROLL checkpoint to the end of a roll. -/
structure RollKeeps (s t : State) : Prop where
  ckpts : t.fl.ckpts = s.fl.ckpts
  kgen : t.jrn.kgen = s.jrn.kgen
  roll : t.jrn.rollDue = s.jrn.rollDue
  credit : t.ldg.cA = s.ldg.cA ∧ t.ldg.cB = s.ldg.cB

theorem RollKeeps.refl (s : State) : RollKeeps s s := ⟨rfl, rfl, rfl, rfl, rfl⟩

theorem RollKeeps.trans {s t u : State} (h : RollKeeps s t) (k : RollKeeps t u) : RollKeeps s u :=
  ⟨k.ckpts.trans h.ckpts, k.kgen.trans h.kgen, k.roll.trans h.roll, k.credit.1.trans h.credit.1, k.credit.2.trans h.credit.2⟩

theorem RollKeeps.of_counted {i : Nat} {s t : State} (hi : i ≠ 3) (h : Counted i s t) : RollKeeps s t := by
  obtain ⟨⟨j, p, k, c, ks, ht⟩, -, st, n, r, hj, hr⟩ := h
  refine ⟨?_, ?_, ?_, ?_, ?_⟩
  · rw [ht]
  · rw [hj]
  · rw [hj]
    exact hr hi
  · rw [ht]
  · rw [ht]

theorem RollKeeps.of_logOnly {s t : State} (h : LogOnly s t) (hj : Staged s t) : RollKeeps s t := by
  obtain ⟨st, n, hj⟩ := hj
  refine ⟨by rw [h.fl], by rw [hj], by rw [hj], by rw [h.ldg], by rw [h.ldg]⟩

theorem ledgerIdx_cases (s : State) : ledgerIdx s = 16 ∨ ledgerIdx s = 0 := by
  unfold ledgerIdx
  split
  · exact .inl rfl
  · exact .inr rfl

/-- The ledger node's use for a child leaves K_j alone. -/
theorem childUse_ledger (s : State) : RollKeeps s (childUse s (ledgerIdx s)) ∧ getNode (childUse s (ledgerIdx s)) 3 = getNode s 3 := by
  have hne : ledgerIdx s ≠ 3 ∧ 3 ≠ ledgerIdx s := by
    rcases ledgerIdx_cases s with h | h <;> rw [h] <;> decide
  have hc := countUse_counted (addBlocks s 2) (ledgerIdx s)
  refine ⟨RollKeeps.trans (t := addBlocks s 2) ⟨rfl, rfl, rfl, rfl, rfl⟩ (.of_counted hne.1 hc), ?_⟩
  exact hc.others 3 hne.2 (fun _ => by decide)

/-- K_j of a KGEN is derived. -/
theorem installKj_spec (s : State) (kgen : Nat) : RollKeeps s (installKj s kgen) ∧ (getNode (installKj s kgen) 3).gen = BitVec.ofNat 16 kgen := by
  obtain ⟨hkeeps, -⟩ := childUse_ledger s
  obtain ⟨k, hsys, -, -, hgen⟩ := sysNode_changes (childUse s (ledgerIdx s)) 3 (ledgerParent s).1 (ledgerParent s).2 kgen (2 ^ 32) false
    0x40 "KZ JOURNAL CHAIN" (kjDerive s kgen)
  unfold installKj
  rw [hsys]
  exact ⟨hkeeps.trans ⟨rfl, rfl, rfl, rfl, rfl⟩, hgen⟩

/-- K_c is derived beside it. -/
theorem installKc_spec (s : State) : RollKeeps s (installKc s) ∧ getNode (installKc s) 3 = getNode s 3 := by
  obtain ⟨hkeeps, hnode⟩ := childUse_ledger s
  obtain ⟨k, hsys, -, hothers, -⟩ := sysNode_changes (childUse s (ledgerIdx s)) 4 (ledgerParent s).1 (ledgerParent s).2 (ledgerGen s)
    (2 ^ 48 - 1) false 0x40 "KZ CHECKPOINT K1" (kcDerive s (ledgerGen s))
  unfold installKc
  rw [hsys]
  exact ⟨hkeeps.trans ⟨rfl, rfl, rfl, rfl, rfl⟩, (hothers 3 (by decide)).trans hnode⟩

/-- The records and the event of a roll. -/
theorem rollRecords_keeps (s : State) (reason number : Nat) (old new : BitVec 16) (tag : BitVec 128) :
    RollKeeps s (postRoll (writeCounter (stageCkpt (stageRoll s reason old new) 1 number tag) 4) reason new) ∧
      getNode (postRoll (writeCounter (stageCkpt (stageRoll s reason old new) 1 number tag) 4) reason new) 3 = getNode s 3 := by
  have hlog : LogOnly s (stageCkpt (stageRoll s reason old new) 1 number tag) := by
    unfold stageCkpt stageRoll
    exact (stage_logOnly _ _ _ _).trans (stage_logOnly _ _ _ _)
  have hst : Staged s (stageCkpt (stageRoll s reason old new) 1 number tag) := by
    unfold stageCkpt stageRoll stage
    exact (stageRec_staged _ _ _ _ _ _).trans (stageRec_staged _ _ _ _ _ _)
  have hkeeps := RollKeeps.of_logOnly hlog hst
  have hkey := hlog.key
  generalize stageCkpt (stageRoll s reason old new) 1 number tag = z at hkeeps hkey
  have hc : RollKeeps z (writeCounter z 4) := ⟨rfl, rfl, rfl, rfl, rfl⟩
  have hk : (writeCounter z 4).key = z.key := rfl
  generalize writeCounter z 4 = y at hc hk
  obtain ⟨r, hr⟩ : RingOnly y (postRoll y reason new) := postEvent_ringOnly _ _ _ _
  rw [hr]
  refine ⟨(hkeeps.trans hc).trans ⟨rfl, rfl, rfl, rfl, rfl⟩, ?_⟩
  unfold getNode
  rw [← hkey, ← hk]

/-- From the new KGEN on: K_j, K_c where it is derived anew, and the records. -/
def rollTail (s : State) (reason number : Nat) (old new : BitVec 16) (tag : BitVec 128) : State :=
  let s2 := installKj s new.toNat
  let s3 := if reason = 3 then installKc s2 else s2
  postRoll (writeCounter (stageCkpt (stageRoll s3 reason old new) 1 number tag) 4) reason new

theorem rollTail_keeps (s : State) (reason number : Nat) (old new : BitVec 16) (tag : BitVec 128) :
    RollKeeps s (rollTail s reason number old new tag) ∧ (getNode (rollTail s reason number old new tag) 3).gen = new := by
  obtain ⟨kj, kjgen⟩ := installKj_spec s new.toNat
  have hn : BitVec.ofNat 16 new.toNat = new := by simp
  rw [hn] at kjgen
  unfold rollTail
  dsimp only
  generalize installKj s new.toNat = z at kj kjgen
  have hkc : RollKeeps z (if reason = 3 then installKc z else z) ∧ getNode (if reason = 3 then installKc z else z) 3 = getNode z 3 := by
    split
    · exact installKc_spec z
    · exact ⟨.refl z, rfl⟩
  generalize (if reason = 3 then installKc z else z) = w at hkc
  obtain ⟨hrec, hnode⟩ := rollRecords_keeps w reason number old new tag
  exact ⟨(kj.trans hkc.1).trans hrec, by rw [hnode, hkc.2, kjgen]⟩

/-- The journal goes on under the KGEN `new` from `seq` on. -/
def rolled (s : State) (new : BitVec 16) (seq : Nat) (tag : BitVec 128) : State :=
  { s with jrn := { s.jrn with
      kgen := new
      nextSeq := seq
      firstUncovered := seq
      firstUncoveredKgen := new
      prevChain := tag
      rollDue := none } }

theorem rollNow_eq (s : State) (reason : Nat) : rollNow s reason =
    (let x := storeCkpt s 1 0 none
     rollTail (rolled x.1 (x.1.jrn.kgen + 1) (if reason = 1 then 1 else x.1.jrn.nextSeq) x.2.2) reason x.2.1 x.1.jrn.kgen
       (x.1.jrn.kgen + 1) x.2.2) := rfl

/-- A roll: its checkpoint, the next KGEN with a new K_j, and credit as it was. -/
theorem rollNow_rolls {s : State} (reason : Nat) (h : s.fl.ckpts.length + 64 ≤ 8192) :
    (∃ c, (rollNow s reason).fl.ckpts = s.fl.ckpts ++ [c] ∧ c.type = 1) ∧ (rollNow s reason).jrn.kgen = s.jrn.kgen + 1 ∧
      (rollNow s reason).jrn.rollDue = none ∧ (getNode (rollNow s reason) 3).gen = s.jrn.kgen + 1 ∧
      (rollNow s reason).ldg.cA = s.ldg.cA ∧ (rollNow s reason).ldg.cB = s.ldg.cB := by
  obtain ⟨⟨c, hc, hc1, -, -⟩, -, hkgen, ⟨hcA, hcB, -, -⟩, -⟩ := storeCkpt_stores 1 0 none h
  rw [rollNow_eq]
  generalize storeCkpt s 1 0 none = x at hc hkgen hcA hcB
  dsimp only
  generalize (if reason = 1 then 1 else x.1.jrn.nextSeq) = seq
  obtain ⟨⟨tck, tk, tr, tA, tB⟩, tgen⟩ := rollTail_keeps (rolled x.1 (x.1.jrn.kgen + 1) seq x.2.2) reason x.2.1 x.1.jrn.kgen
    (x.1.jrn.kgen + 1) x.2.2
  generalize rollTail (rolled x.1 (x.1.jrn.kgen + 1) seq x.2.2) reason x.2.1 x.1.jrn.kgen (x.1.jrn.kgen + 1) x.2.2 = t at *
  rw [← hkgen]
  exact ⟨⟨c, tck.trans hc, hc1⟩, tk, tr, tgen, tA.trans hcA, tB.trans hcB⟩

/-! ### The rows -/

theorem exec_journalSeal (s : State) : exec .journalSeal s = .next (journalSealOne s) := rfl
theorem exec_journalChainCatchup (s : State) : exec .journalChainCatchup s = .next (chainCatchup s) := rfl
theorem exec_dailyCheckpoint (s : State) : exec .dailyCheckpoint s = .next (dailyCkpt s) := rfl
theorem exec_journalCompaction (s : State) : exec .journalCompaction s = .next (journalCompact s) := rfl
theorem exec_journalRoll (s : State) : exec .journalRoll s = .next (journalRollNow s) := rfl

/-- The next daily checkpoint is due a day later at most. -/
theorem nextDaily_later (n : Nat) : n < (n / dayUs + 1) * dayUs := by
  have hd : 0 < dayUs := by decide
  have h1 := Nat.div_add_mod n dayUs
  have h2 := Nat.mod_lt n hd
  rw [Nat.add_mul, Nat.one_mul, Nat.mul_comm]
  omega

/-- Settles O44: the oldest record is sealed after its predecessor (`journalSealOne_sealed`) or drained bare, the CHAIN fields follow
(`sealList_seals`); checkpoints by `storeAndRecord_stores`, sectors by `compactStep_compacts`, rolls by `rollNow_rolls`. -/
theorem journalSealsAndHouse : Obligations.JournalSealsAndHouse := by
  unfold Obligations.JournalSealsAndHouse
  refine ⟨fun s r rest hup he hb => ⟨fun hst hu hk hl => ⟨_, exec_journalSeal s, journalSealOne_sealed hst he hb hup hu hk hl⟩,
    fun hst hk => ⟨_, exec_journalSeal s, ?_⟩, fun hst => ?_, fun hu hk => ⟨_, exec_journalChainCatchup s, ?_⟩, fun hu => ?_⟩,
    fun s => ⟨fun hd hroom => ?_, fun hd => ?_, fun hf hup hcov => ⟨_, exec_journalCompaction s, ?_⟩, fun hf => ?_,
      fun k hk hr hkj hadv hroom => ?_, fun hk => ?_⟩⟩
  · rw [journalSealOne_bare hst he hb hup hk]
    rfl
  · rw [exec_journalSeal]
    unfold journalSealOne
    rw [hst]
  · obtain ⟨x, ⟨⟨⟨j, p, ke, c, f, hx⟩, -, -, -⟩, hsealed, hsame⟩, d, w, b, ht⟩ := chainCatchup_seals hu hk hb he hup
    rw [ht]
    refine ⟨hsealed, hsame, ?_, ?_⟩
    · rw [hx]
    · rw [hx]
  · rw [exec_journalChainCatchup, chainCatchup_idle (.inl hu)]
  · have hs := storeAndRecord_stores (s := { s with ldg := { s.ldg with nextDailyUs := (s.ldg.svcUs / dayUs + 1) * dayUs } }) 0 0 none hroom
    obtain ⟨⟨c, hc, hc1, hc2, hc3⟩, hnext, -, ⟨hA, hB, hU, hD⟩, -⟩ := hs
    refine ⟨_, c, (exec_dailyCheckpoint s).trans (congrArg _ (if_pos hd)), hc, hc1, hc2, hc3, hnext, hA, hB, ?_⟩
    rw [hU, hD]
    exact nextDaily_later s.ldg.svcUs
  · rw [exec_dailyCheckpoint]
    exact congrArg _ (if_neg (by rw [hd]; decide))
  · have hno : ¬ ((s.fl.journal.take sectorRecs).any (uncovered s) = true) := fun h => by
      obtain ⟨r, hr, hu⟩ := List.any_eq_true.1 h
      rw [hcov r hr] at hu
      cases hu
    have he : journalCompact s = compactStep s := by
      unfold journalCompact
      rw [if_pos ⟨hf, hup⟩, if_neg hno]
    rw [he]
    exact compactStep_compacts s
  · rw [exec_journalCompaction]
    exact congrArg _ (if_neg fun h => Nat.not_lt.2 hf h.1)
  · obtain ⟨⟨c, hc, hc1⟩, hgen, hdue, hnode, hA, hB⟩ := rollNow_rolls k hroom
    have he : journalRollNow s = rollNow s k := by
      unfold journalRollNow
      rw [hk, hadv]
      dsimp only
      rw [if_pos (by rw [hr, hkj]; rfl)]
    refine ⟨_, c, (exec_journalRoll s).trans (congrArg _ he), hc, hc1, hgen, hdue, hnode, hA, hB⟩
  · rw [exec_journalRoll]
    unfold journalRollNow
    rw [hk]

end Sys2Proof.Machine
end
section
/-! ## LEDGER_TOPUP and the ends of flash writes (R227, R228, R346, R375, R413) -/

namespace Sys2Proof.Machine
open Sys2Proof

/-! ### What an event leaves of the rings -/

/-- The rings but for what goes out, the EQ and what a restarting keeper holds back. -/
def EventRing (s t : State) : Prop := ∃ o h p e r,
  t = { s with ring := { s.ring with out := o, heldOut := h, pba := p, eq := e, restartEv := r } }

theorem eqIrq_eventRing (s : State) : EventRing s (eqIrq s) := by
  unfold eqIrq
  dsimp only
  split
  · obtain ⟨p, o, h, hv⟩ := sendVector_leaves { s with ring := { s.ring with eq := { s.ring.eq with counted := 0, timer := false } } }
      s.ring.eq.vector
    rw [hv]
    exact ⟨_, _, _, _, _, rfl⟩
  · exact ⟨_, _, _, _, _, rfl⟩

theorem emit_eventRing (s : State) (o : BusOut) : EventRing s (emit s o) := by
  unfold emit
  split
  · exact ⟨_, _, _, _, _, rfl⟩
  · exact ⟨_, _, _, _, _, rfl⟩

theorem EventRing.trans {s t u : State} (h : EventRing s t) (k : EventRing t u) : EventRing s u := by
  obtain ⟨o, ho, p, e, r, rfl⟩ := h
  obtain ⟨o', ho', p', e', r', rfl⟩ := k
  exact ⟨o', ho', p', e', r', rfl⟩

theorem EventRing.refl (s : State) : EventRing s s := ⟨_, _, _, _, _, rfl⟩

theorem writeEvent_eventRing (s : State) (e : Event) : EventRing s (writeEvent s e) := by
  unfold writeEvent
  dsimp only
  split
  · have h := emit_eventRing s (.event (s.ring.eq.base + BitVec.ofNat 64 (16 * s.ring.eq.tail)) s.ring.eq.tail s.ring.eq.phase s.ring.eq.lost e)
    generalize emit s _ = z at h
    exact (h.trans ⟨_, _, _, _, _, rfl⟩).trans (eqIrq_eventRing _)
  · exact ⟨_, _, _, _, _, rfl⟩

theorem postEvent_eventRing (s : State) (idx src detail : Nat) : EventRing s (postEvent s idx src detail) := by
  unfold postEvent postEventAt
  dsimp only
  split
  · exact ⟨_, _, _, _, _, rfl⟩
  · exact writeEvent_eventRing _ _

theorem postProgress_eventRing (s : State) (op src old new pos : Nat) : EventRing s (postProgress s op src old new pos) := by
  unfold postProgress
  split
  · exact postEvent_eventRing _ _ _ _
  · exact .refl s

/-! ### A completion is counted once (R339) -/

theorem cqIrq_posted (s : State) (n : Nat) : (cqIrq s n).ring.posted = s.ring.posted := by
  unfold cqIrq
  dsimp only
  split
  · obtain ⟨p, o, h, hv⟩ := sendVector_leaves (setCq s n { getCq s n with counted := 0, timer := false }) (getCq s n).vector
    rw [hv]
    rfl
  · rfl

theorem writeCompletion_posted (s : State) (n : Nat) (c : Completion) : (writeCompletion s n c).ring.posted = sat 32 (s.ring.posted + 1) := by
  have he : ∀ o, (emit s o).ring.posted = s.ring.posted := fun o => by
    unfold emit
    split <;> rfl
  unfold writeCompletion
  dsimp only
  generalize hz : emit s _ = z
  have hp : z.ring.posted = s.ring.posted := by
    rw [← hz]
    exact he _
  generalize hn : sat 32 ((setCq z n _).ring.posted + 1) = k
  have hk : k = sat 32 (s.ring.posted + 1) := by
    rw [← hn, ← hp]
    rfl
  split
  · exact hk
  · exact (cqIrq_posted _ n).trans hk

/-- What completes on a queue that takes it is counted. -/
theorem finishCmd_posted {s : State} {c : Cmd} (hc : c.sq < 16) (hq : CqTakes s c.sq) (st : Status) (w : Word) (beat : BitVec 64) :
    (finishCmd s c st w beat []).ring.posted = sat 32 (s.ring.posted + 1) := by
  obtain ⟨hb, hr, ha, hh, hm⟩ := hq
  have hemit : emitData s c [] = s := by simp [emitData]
  unfold finishCmd
  rw [hemit]
  dsimp only
  rw [if_neg (Nat.not_le.2 hc)]
  generalize (⟨_, _, _, _, _, _⟩ : Completion) = cp
  have hpc : postCompletion (dropCmd s c.uid) (getSq s c.sq).cq cp = writeCompletion (dropCmd s c.uid) (getSq s c.sq).cq cp := by
    have hq' : getCq (dropCmd s c.uid) (getSq s c.sq).cq = getCq s (getSq s c.sq).cq := rfl
    have hr' : (dropCmd s c.uid).flt.restarting = false := hr
    unfold postCompletion
    rw [hq', hr']
    dsimp only
    simp [ha, hh, hm]
  rw [hpc]
  have hset : ∀ z n, (settleSq z n).ring.posted = z.ring.posted := fun z n => by
    unfold settleSq
    dsimp only
    split <;> rfl
  rw [hset, writeCompletion_posted]
  rfl

/-! ### The configuration image (R375) -/

section
variable {s : State} {u : Nat} {beat : BitVec 64} {es : List (Nat × Word)} {c : Cmd} (hcap : s.fl.commitCap = some (u, beat, es))
  (hf : findCmd s u = some c)
include hcap hf

theorem commitDone_failed :
    commitDone s false = finishCmd { s with fl := { s.fl with commitCap := none } } c .abortedStop 0 beat [] := by
  have hf' : findCmd { s with fl := { s.fl with commitCap := none } } u = some c := hf
  unfold commitDone
  rw [hcap]
  dsimp only
  rw [hf']
  rfl

/-- The image of a commit that was written. -/
def committed (s : State) (es : List (Nat × Word)) : ConfigImage := ⟨s.cfg.imgSeq.toNat + 1, crcWords (es.map (·.2)), es⟩

omit hcap hf in
theorem b2n_zero (n : Nat) : b2n (decide (n = 0)) = if n = 0 then 1 else 0 := by
  by_cases h : n = 0 <;> simp [h, b2n]

theorem commitDone_written : ∃ z, commitDone s true = finishCmd z c .ok (crcWords (es.map (·.2))) beat [] ∧ z.fl.commitCap = none ∧
    imageInForce z = some (committed s es) ∧
    z.cfg = { s.cfg with
      imageSel := if s.cfg.imageSel = 0 then 1 else 0
      imgSeq := BitVec.ofNat 32 (s.cfg.imgSeq.toNat + 1)
      noImage := false } ∧
    z.ring = s.ring ∧ z = { s with fl := z.fl, cfg := z.cfg, jrn := z.jrn, pwr := z.pwr, ring := z.ring } := by
  unfold commitDone
  rw [hcap]
  dsimp only
  rw [if_neg (by decide), b2n_zero]
  generalize hy : flashRenew _ 1 _ _ = y
  have hyr : y.ring = s.ring := by
    rw [← hy]
    rfl
  have hcfg : y.cfg = { s.cfg with
      imageSel := if s.cfg.imageSel = 0 then 1 else 0
      imgSeq := BitVec.ofNat 32 (s.cfg.imgSeq.toNat + 1)
      noImage := false } := by
    rw [← hy]
    rfl
  have hcap' : y.fl.commitCap = none := by
    rw [← hy]
    by_cases h : s.cfg.imageSel = 0 <;> simp [h, flashRenew]
  have himg : imageInForce y = some (committed s es) := by
    unfold imageInForce
    rw [hcfg, ← hy]
    by_cases h : s.cfg.imageSel = 0 <;> simp [h, flashRenew, committed]
  have hframe : y = { s with fl := y.fl, cfg := y.cfg } := by
    rw [← hy]
    rfl
  clear hy
  obtain ⟨hr, r, j, p, hz⟩ : (stageConfig y 2 0 y.cfg.sealLive y.cfg.sealRef).ring = y.ring ∧ LogOnly y (stageConfig y 2 0 y.cfg.sealLive y.cfg.sealRef) :=
    ⟨stageSoon_ring _ _ _ _, stageSoon_logOnly _ _ _ _⟩
  generalize stageConfig y 2 0 y.cfg.sealLive y.cfg.sealRef = z at hr hz
  have hfz : findCmd z u = some c := by
    unfold findCmd
    rw [hr, hyr]
    exact hf
  rw [hfz]
  refine ⟨z, rfl, ?_, ?_, ?_, hr.trans hyr, ?_⟩
  · rw [hz, hcap']
  · rw [hz]
    exact himg
  · rw [hz, hcfg]
  · rw [hz, hframe]

end

/-! ### The keeper image (R346, R413) -/

section
variable {s : State} {u : Nat} {k : KeeperImage} {act : Bool} {c : Cmd} (hjob : s.fl.imageJob = some (u, k, act))
  (hf : findCmd s u = some c)
include hjob hf

theorem loadDone_failed : loadDone s false = failCmd { s with
    fl := { s.fl with imageJob := none }
    cfg := { s.cfg with imgProg := ⟨s.cfg.imgProg.progress, s.cfg.imgProg.position, false⟩ } } c .abortedStop := by
  have hf' : findCmd { s with
    fl := { s.fl with imageJob := none }
    cfg := { s.cfg with imgProg := ⟨s.cfg.imgProg.progress, s.cfg.imgProg.position, false⟩ } } u = some c := hf
  unfold loadDone
  rw [hjob]
  dsimp only
  rw [if_neg (by decide), hf']
  rfl

/-- A keeper image is in the slot that does not run, and the load is at 1000. -/
structure ImageStored (s z : State) (k : KeeperImage) : Prop where
  job : z.fl.imageJob = none
  slotA : s.pwr.imageB = true → z.fl.kimgA = k ∧ z.fl.kimgB = s.fl.kimgB
  slotB : s.pwr.imageB = false → z.fl.kimgB = k ∧ z.fl.kimgA = s.fl.kimgA
  version : z.fl.highVersion = s.fl.highVersion
  progress : z.cfg.imgProg.progress = 1000
  frame : ∃ f g, EventRing { s with fl := f, cfg := g } z

/-- What follows an image that is stored. -/
def imageStoredEnd (z : State) (c : Cmd) (toB : Bool) (u : Nat) (act : Bool) : State :=
  if !act then finishNow z c .ok 0 []
  else if inSpillway z then finishNow { z with fl := { z.fl with lastActivatedB := toB } } c .ok 0 []
  else keeperSwitch z toB u

theorem loadDone_stored : ∃ z, ImageStored s z k ∧ loadDone s true = imageStoredEnd z c (!s.pwr.imageB) u act := by
  have hf' : findCmd { s with
    fl := { s.fl with imageJob := none }
    cfg := { s.cfg with imgProg := ⟨1000, s.cfg.imgProg.position, false⟩ } } u = some c := hf
  unfold loadDone
  rw [hjob]
  dsimp only
  rw [if_pos rfl, hf']
  dsimp only
  rw [if_neg (by decide)]
  generalize hy : flashRenew _ 0 _ _ = y
  have hb : inactiveB s = !s.pwr.imageB := rfl
  have hstored : ImageStored s y k := by
    rw [← hy, hb]
    cases h : s.pwr.imageB with
    | true => exact ⟨rfl, fun _ => ⟨rfl, rfl⟩, fun h' => Bool.noConfusion (h.symm.trans h'), rfl, rfl, _, _, .refl _⟩
    | false => exact ⟨rfl, fun h' => Bool.noConfusion (h'.symm.trans h), fun _ => ⟨rfl, rfl⟩, rfl, rfl, _, _, .refl _⟩
  clear hy
  have hev := postProgress_eventRing y 5 srcKeeper s.cfg.imgProg.progress 1000 s.cfg.imgProg.position
  generalize postProgress y 5 srcKeeper s.cfg.imgProg.progress 1000 s.cfg.imgProg.position = z at hev
  refine ⟨z, ?_, rfl⟩
  obtain ⟨o, h, p, e, r, rfl⟩ := hev
  obtain ⟨hjob, hA, hB, hver, hprog, f, g, hframe⟩ := hstored
  exact ⟨hjob, hA, hB, hver, hprog, f, g, hframe.trans ⟨_, _, _, _, _, rfl⟩⟩

end

/-! ### LEDGER_TOPUP (R227, R228) -/

/-- The vouchers of a command that were refused. -/
def refusedRecs (c : Cmd) : List Rec := c.recs.filter fun r => !r.good

/-- The status of a LEDGER_TOPUP: that of its first refused voucher. -/
def topupStatus (c : Cmd) : Status := ((refusedRecs c).head?.map fun r => r.status.getD .ok).getD .ok

theorem finishTopup_failed {s : State} {u : Nat} {c : Cmd} (beat : BitVec 64) (hf : findCmd s u = some c) :
    finishTopup s u beat false = finishCmd s c .abortedStop 0 beat [] := by
  unfold finishTopup
  rw [hf]
  rfl

theorem finishTopup_written {s : State} {u : Nat} {c : Cmd} (beat : BitVec 64) (hf : findCmd s u = some c) :
    finishTopup s u beat true = finishCmd s c (topupStatus c)
      (BitVec.ofNat 32 ((c.recs.filter (·.good)).length + 256 * (refusedRecs c).length)) beat
      (if descLenOut c.desc = 0 then [] else c.recs.flatMap (·.bytes)) := by
  have hhead : (refusedRecs c).head? = c.recs.find? fun r => !r.good := List.head?_filter
  unfold finishTopup topupStatus
  rw [hf, hhead]
  dsimp only
  rw [if_neg (by decide)]
  cases c.recs.find? fun r => !r.good <;> rfl

/-- One voucher that passes checks 1 to 5 of R227. -/
theorem judgeVoucher_passes {s : State} {w : Nat × BitVec 1024} {b : List Byte} (hst : s.ldg.st = .active) (h16 : nodeLive s 16 = true)
    (h5 : nodeLive s 5 = true) (hs : voucherShape s b = true) (ht : voucherTagOk s b = true)
    (hf : serialFresh w.1 w.2 (leAt b 12 6) = true) :
    judgeVoucher s w b = (countUse s 5, ⟨leAt b 2 1, leAt b 12 6, BitVec.ofNat 16 (leAt b 18 2), leAt b 20 8, BitVec.ofNat 32 (leAt b 28 4), none⟩) := by
  unfold judgeVoucher
  dsimp only
  rw [if_neg (not_not.2 hst), if_neg (by rw [h16, h5]; decide), if_neg (by rw [hs]; decide), if_neg (by rw [ht]; decide),
    if_neg (by rw [hf]; decide)]

theorem topupRun_one {s : State} {c : Cmd} {inp : List Byte} (he : engineFailed s = false) (hl : descLenIn c.desc = 64)
    (hst : s.ldg.st = .active) (h16 : nodeLive s 16 = true) (h5 : nodeLive s 5 = true) (hs : voucherShape s (slice inp 0 64) = true)
    (ht : voucherTagOk s (slice inp 0 64) = true)
    (hf : serialFresh (pendingWindow s).1 (pendingWindow s).2 (leAt (slice inp 0 64) 12 6) = true) :
    topupRun s c inp = (let b := slice inp 0 64
      let z := countUse s 5
      { z with ldg := { z.ldg with due := z.ldg.due ++ [(c.uid, ⟨leAt b 2 1, leAt b 12 6, BitVec.ofNat 16 (leAt b 18 2), leAt b 20 8,
        BitVec.ofNat 32 (leAt b 28 4), none⟩)] } }) := by
  have hlist : ((List.range (descLenIn c.desc / 64)).map fun i => slice inp (64 * i) 64) = [slice inp 0 64] := by
    rw [hl]
    rfl
  unfold topupRun
  rw [if_neg (by rw [he]; decide), hlist]
  simp only [judgeAll]
  rw [judgeVoucher_passes hst h16 h5 hs ht hf]
  rfl

/-! ### The rows -/

theorem exec_flashWriteDone (op : FlashOp) (good : Bool) (s : State) : exec (.flashWriteDone op good) s = .next (flashDone s op good) := rfl

section
variable {s : State} (hup : keeperUp s = true)
include hup

theorem flashDone_commit (good : Bool) : flashDone s .configCommit good = commitDone s good := by
  unfold flashDone
  rw [hup]
  rfl

theorem flashDone_load (good : Bool) : flashDone s .imageLoad good = loadDone s good := by
  unfold flashDone
  rw [hup]
  rfl

theorem flashDone_topup {u : Nat} {beat : BitVec 64} {rest : List (Nat × BitVec 64)} (good : Bool) (h : s.fl.topupUids = (u, beat) :: rest) :
    flashDone s .ledgerTopup good = finishTopup { s with fl := { s.fl with topupUids := rest } } u beat good := by
  unfold flashDone
  rw [hup, h]
  rfl

theorem flashDone_noTopup (good : Bool) (h : s.fl.topupUids = []) : flashDone s .ledgerTopup good = s := by
  unfold flashDone
  rw [hup, h]
  rfl

end

/-- Settles O60, by the ends of the three flash writes and `topupRun_one`. -/
theorem topupsAndFlashWritesRun : Obligations.TopupsAndFlashWritesRun := by
  unfold Obligations.TopupsAndFlashWritesRun
  refine ⟨?_, fun s u beat es k act c rest hup hf => ⟨fun hcap => ⟨?_, ?_⟩, fun hjob => ⟨?_, ?_⟩, fun ht => ?_⟩⟩
  · intro s sq m c inp b w v z h hk he hl hst h16 h5 hs htag hfresh
    have hb : slice (padTo (descLenIn c.desc) inp) 0 64 = b := by rw [hl]
    rw [exec_ledgerTopup, runCmd_begins h (keysJudge_go hk)]
    refine congrArg _ ((topupRun_one (s := begun s c m) (c := runningCmd c m) (inp := padTo (descLenIn c.desc) inp) he hl hst h16 h5
      (hb ▸ hs) (hb ▸ htag) (hb ▸ hfresh)).trans ?_)
    rw [hb]
    rfl
  · rw [exec_flashWriteDone, flashDone_commit hup, commitDone_failed hcap hf]
  · obtain ⟨z, hz, hcap', himg, hcfg, -, hframe⟩ := commitDone_written hcap hf
    refine ⟨z, ?_, hcap', himg, hcfg, hframe⟩
    rw [exec_flashWriteDone, flashDone_commit hup, hz]
  · refine ⟨{ s with
      fl := { s.fl with imageJob := none }
      cfg := { s.cfg with imgProg := ⟨s.cfg.imgProg.progress, s.cfg.imgProg.position, false⟩ } }, ?_, rfl, rfl⟩
    rw [exec_flashWriteDone, flashDone_load hup, loadDone_failed hjob hf]
  · obtain ⟨z, ⟨hj, hA, hB, hver, hprog, f, g, hev⟩, hz⟩ := loadDone_stored hjob hf
    rw [exec_flashWriteDone, flashDone_load hup, hz]
    obtain ⟨o, h, p, e, r, hframe⟩ := hev
    have hspill : inSpillway z = inSpillway s := by rw [hframe]; rfl
    refine ⟨z, hj, hA, hB, hprog, by rw [hframe], fun ha => ?_, fun ha hs => ?_, fun ha hs => ⟨_, rfl, ?_⟩⟩
    · unfold imageStoredEnd
      rw [ha]
      rfl
    · unfold imageStoredEnd
      rw [ha, hspill, hs]
      rfl
    · have hend : imageStoredEnd z c (!s.pwr.imageB) u act = keeperSwitch z (!s.pwr.imageB) u := by
        unfold imageStoredEnd
        rw [ha, hspill, hs]
        rfl
      have hv : (if !s.pwr.imageB then z.fl.kimgB.version else z.fl.kimgA.version) = k.version := by
        cases hb : s.pwr.imageB with
        | true => exact congrArg KeeperImage.version (hA hb).1
        | false => exact congrArg KeeperImage.version (hB hb).1
      rw [hend]
      unfold keeperSwitch keeperRestart
      dsimp only
      rw [hv, hver]
      refine ⟨rfl, rfl, ?_, rfl, rfl⟩
      rw [hframe]
  · intro z refused
    have hf' : findCmd z u = some c := hf
    refine ⟨?_, ?_⟩
    · rw [exec_flashWriteDone, flashDone_topup hup false ht, finishTopup_failed beat hf']
    · rw [exec_flashWriteDone, flashDone_topup hup true ht, finishTopup_written beat hf']
      rfl

theorem findCmd_uid {s : State} {u : Nat} {c : Cmd} (h : findCmd s u = some c) : c.uid = u :=
  beq_iff_eq.1 (List.find?_some (p := fun c : Cmd => c.uid == u) h)

/-- A command completes at the beat its values are of: as now. -/
theorem finishCmd_now {s z : State} {c : Cmd} {st : Status} (r : Nat) {w : Word} (hw : w = BitVec.ofNat 32 r) {beat : BitVec 64}
    (hbeat : beat = z.clk.beat) (hc : c.sq < 16) (ho : c.outOk = true) (hq : CqTakes s c.sq)
    (hr : z.ring = s.ring) (hclk : z.clk = s.clk) (hflt : z.flt = s.flt) :
    Posted s (finishCmd z c st w beat []) c st r [] ∧ RingOnly z (finishCmd z c st w beat []) := by
  have he : finishCmd z c st w beat [] = finishNow z c st r [] := by
    unfold finishNow
    rw [hw, hbeat]
  obtain ⟨hp, heq⟩ := finishNow_posted z c st r [] hc (.inl ho) (hq.of_ring (by rw [hr]) (by rw [hflt]) (by rw [hr]) (by rw [hr]))
  rw [he]
  exact ⟨hp.of_ring (by rw [hr]) (by rw [hr]) (by rw [hr]) (by rw [hclk]) rfl rfl rfl, _, heq⟩

/-- What completes with no work behind it is gone from the commands, and counted. -/
theorem finishNow_gone {z : State} {c : Cmd} (st : Status) (hc : c.sq < 16) (ho : c.outOk = true) (hq : CqTakes z c.sq) :
    (∀ x ∈ (finishNow z c st 0 []).ring.cmds, x.uid ≠ c.uid) ∧ (finishNow z c st 0 []).ring.posted = sat 32 (z.ring.posted + 1) ∧
      (finishNow z c st 0 []).fl = z.fl := by
  obtain ⟨⟨-, hgone⟩, heq⟩ := finishNow_posted z c st 0 [] hc (.inl ho) hq
  refine ⟨hgone, finishCmd_posted hc hq _ _ _, ?_⟩
  rw [heq]

/-- Settles O45, by the ends of the three flash writes at the beat of the write. -/
theorem flashWritesComplete : Obligations.FlashWritesComplete := by
  unfold Obligations.FlashWritesComplete
  intro s u beat es k c good hup hf hc ho hq
  refine ⟨fun hcap hbeat => ⟨_, exec_flashWriteDone _ good s, ?_⟩, fun hjob => ⟨_, exec_flashWriteDone _ good s, ?_⟩,
    fun ht hbeat hout hgood => ⟨_, exec_flashWriteDone _ good s, ?_⟩, fun ht => ?_, fun hjob => ?_, fun hcap => ?_⟩
  · rw [flashDone_commit hup]
    cases good with
    | false =>
      rw [commitDone_failed hcap hf]
      obtain ⟨hp, r, hr⟩ := finishCmd_now (s := s) (z := { s with fl := { s.fl with commitCap := none } }) (st := .abortedStop) (w := 0) 0 rfl hbeat hc ho
        hq rfl rfl rfl
      rw [hr] at hp ⊢
      exact ⟨rfl, hp, fun h => (by cases h), fun _ => ⟨rfl, rfl, rfl⟩, rfl⟩
    | true =>
      obtain ⟨z, hz, hcap', himg, hcfg, hring, hframe⟩ := commitDone_written hcap hf
      have hclk : z.clk = s.clk := by rw [hframe]
      obtain ⟨hp, r, hr⟩ := finishCmd_now (z := z) (st := .ok) (w := crcWords (es.map (·.2))) (crcWords (es.map (·.2))).toNat (by simp)
        (hbeat.trans (by rw [hclk])) hc ho hq hring hclk (by rw [hframe])
      rw [hz]
      rw [hr] at hp ⊢
      refine ⟨hcap', hp, fun _ => ⟨himg, ?_⟩, fun h => (by cases h), ?_⟩
      · rw [hcfg]
      · rw [hframe]
  · rw [flashDone_load hup]
    cases good with
    | false =>
      rw [loadDone_failed hjob hf]
      obtain ⟨h1, h2, h3⟩ := finishNow_gone (z := { s with
        fl := { s.fl with imageJob := none }
        cfg := { s.cfg with imgProg := ⟨s.cfg.imgProg.progress, s.cfg.imgProg.position, false⟩ } }) .abortedStop hc ho
        (hq.of_ring rfl rfl rfl rfl)
      unfold failCmd
      refine ⟨by rw [h3], h1, h2, ?_⟩
      rw [if_neg (by decide), h3]
      exact ⟨rfl, rfl⟩
    | true =>
      obtain ⟨z, ⟨hj, hA, hB, -, -, f, g, o, h, p, e, r, hframe⟩, hz⟩ := loadDone_stored hjob hf
      obtain ⟨h1, h2, h3⟩ := finishNow_gone (z := z) .ok hc ho (hq.of_ring (by rw [hframe]) (by rw [hframe]) (by rw [hframe]) (by rw [hframe]))
      have hend : loadDone s true = finishNow z c .ok 0 [] := hz
      have hpost : z.ring.posted = s.ring.posted := by rw [hframe]
      rw [hend]
      refine ⟨by rw [h3, hj], h1, by rw [h2, hpost], ?_⟩
      rw [if_pos rfl, h3]
      cases hb : s.pwr.imageB with
      | true => exact hA hb
      | false => exact hB hb
  · rw [flashDone_topup hup good ht]
    cases good with
    | false =>
      rw [finishTopup_failed beat (s := { s with fl := { s.fl with topupUids := [] } }) hf]
      obtain ⟨hp, r, hr⟩ := finishCmd_now (s := s) (z := { s with fl := { s.fl with topupUids := [] } }) (st := .abortedStop) (w := 0) 0 rfl hbeat hc ho
        hq rfl rfl rfl
      rw [hr] at hp ⊢
      exact ⟨rfl, hp, rfl⟩
    | true =>
      have href : refusedRecs c = [] := List.filter_eq_nil_iff.2 fun r hr => by rw [hgood r hr]; decide
      have hall : c.recs.filter (·.good) = c.recs := List.filter_eq_self.2 hgood
      have hst : topupStatus c = .ok := by
        unfold topupStatus
        rw [href]
        rfl
      rw [finishTopup_written beat (s := { s with fl := { s.fl with topupUids := [] } }) hf, hst, href, hall, if_pos hout]
      obtain ⟨hp, r, hr⟩ := finishCmd_now (s := s) (z := { s with fl := { s.fl with topupUids := [] } }) (st := .ok) c.recs.length
        (w := BitVec.ofNat 32 (c.recs.length + 256 * ([] : List Rec).length)) rfl hbeat hc ho hq rfl rfl rfl
      rw [hr] at hp ⊢
      exact ⟨rfl, hp, rfl⟩
  · rw [exec_flashWriteDone, flashDone_noTopup hup good ht]
  · rw [exec_flashWriteDone, flashDone_load hup]
    unfold loadDone
    rw [hjob]
  · rw [exec_flashWriteDone, flashDone_commit hup]
    unfold commitDone
    rw [hcap]

end Sys2Proof.Machine
end
section
/-! ## Resets (R396 to R398) -/

namespace Sys2Proof.Machine
open Sys2Proof

/-! ### A lane that stops, as the rest of the device sees it -/

/-- What a lane's stop changes outside the lanes and the takeovers: records, stops and events. -/
structure LaneStop (s t : State) : Prop where
  frame : t = { s with slu := t.slu, jrn := t.jrn, flt := t.flt, ring := t.ring }
  outs : ∀ n < 4, SameOut (getOut s n) (getOut t n)

theorem laneDown_stop (s : State) (l : LaneId) (st : LaneState) : LaneStop s (laneDown s l st) := by
  by_cases hp : (getLane s (other l)).st = .active
  · obtain ⟨⟨o, j, ht⟩, -, -, hmarks⟩ := laneDown_takenOver st hp
    refine ⟨?_, fun n _ => ?_⟩
    · rw [ht]
      cases l <;> rfl
    · have h := hmarks n
      have he : getOut (laneStopped s l st) n = getOut s n := by cases l <;> rfl
      rwa [he] at h
  · obtain ⟨-, -, hleft, hframe⟩ := laneDown_leaves st hp
    exact ⟨hframe, fun n hn => (hleft n hn).marks⟩

theorem laneOff_stop (s : State) (l : LaneId) : LaneStop s (if laneDead s l then s else laneDown s l .off) := by
  split
  · exact ⟨rfl, fun _ _ => .refl _⟩
  · exact laneDown_stop s l .off

/-! ### RST_N (R397) -/

/-- What RST_N leaves of an output: armed where it was latched. -/
structure RstOut (o p : SluOut) : Prop where
  armed : p.armed = (o.armed && o.latched)
  latched : p.latched = o.latched

/-- The sluices `done` are reset, the others stand. -/
structure Withdrawn (s t : State) (done : List Nat) : Prop where
  frame : t = { s with slu := t.slu, jrn := t.jrn, flt := t.flt }
  reset : ∀ n ∈ done, RstOut (getOut s n) (getOut t n)
  rest : ∀ n, n ∉ done → getOut t n = getOut s n

theorem resetWithdraw_withdrawn (s : State) (n : Nat) : Withdrawn s (resetWithdraw s n) [n] := by
  have hne : ∀ {i : Nat}, i ∉ [n] → i ≠ n := fun hi h => hi (h ▸ List.mem_singleton_self _)
  have hout : ∀ (z : State) (o : SluOut), z.slu.outs = s.slu.outs → (∀ i, i ∉ [n] → getOut (setOut z n o) i = getOut s i) := fun z o hz i hi => by
    rw [getOut_setOut_ne _ (hne hi)]
    unfold getOut
    rw [hz]
  unfold resetWithdraw
  dsimp only
  split
  · next hl =>
    refine ⟨rfl, fun i hi => ?_, hout _ _ rfl⟩
    rw [List.mem_singleton.1 hi, getOut_setOut]
    exact ⟨by rw [hl, Bool.and_true], hl.symm⟩
  · next hl =>
    have hl' : (getOut s n).latched = false := Bool.eq_false_iff.2 hl
    have hself : RstOut (getOut s n) { SluOut.reset with changeBeat := (getOut s n).changeBeat } := ⟨by rw [hl', Bool.and_false]; rfl, hl'.symm⟩
    split
    · generalize hz : setOut (setLane (setLane s .a _) .b _) n _ = z
      have hzn : getOut z n = { SluOut.reset with changeBeat := (getOut s n).changeBeat } := by
        rw [← hz]
        exact getOut_setOut _ _ _
      have hzr : ∀ i, i ∉ [n] → getOut z i = getOut s i := fun i hi => by
        rw [← hz]
        exact hout _ _ rfl i hi
      have hzf : z = { s with slu := z.slu } := by
        rw [← hz]
        rfl
      obtain ⟨j, hj⟩ := stageLane_jrn z 1 n
      rw [hj]
      refine ⟨?_, fun i hi => ?_, hzr⟩
      · rw [hzf]
        rfl
      · rw [List.mem_singleton.1 hi]
        change RstOut _ (getOut z n)
        rw [hzn]
        exact hself
    · refine ⟨rfl, fun i hi => ?_, hout _ _ rfl⟩
      rw [List.mem_singleton.1 hi, getOut_setOut]
      exact hself

theorem Withdrawn.step {s t : State} {done : List Nat} {n : Nat} (hn : n ∉ done) (h : Withdrawn s t done) :
    Withdrawn s (resetWithdraw t n) (n :: done) := by
  obtain ⟨ht, hreset, hrest⟩ := h
  obtain ⟨hu, hreset', hrest'⟩ := resetWithdraw_withdrawn t n
  refine ⟨by rw [hu, ht], fun i hi => ?_, fun i hi => ?_⟩
  · by_cases hin : i = n
    · have := hreset' n (List.mem_singleton_self n)
      rw [hrest n hn] at this
      exact hin ▸ this
    · rw [hrest' i fun h => hin (List.mem_singleton.1 h)]
      exact hreset i ((List.mem_cons.1 hi).resolve_left hin)
  · rw [hrest' i fun h => hi (List.mem_singleton.1 h ▸ List.mem_cons_self), hrest i (List.not_mem_of_not_mem_cons hi)]

theorem debugClose_frame (s : State) (reason : Nat) : ∃ r j p l k, debugClose s reason = { s with
    ring := r
    jrn := j
    pwr := { s.pwr with startRecs := p }
    lcy := l
    key := k } ∧ l.fuses = s.lcy.fuses := by
  unfold debugClose
  split
  · exact ⟨_, _, s.pwr.startRecs, _, _, rfl, rfl⟩
  · obtain ⟨r, j, p, h⟩ := stageLife_logOnly s 8 (dbgCode s.lcy.dbg) 0 reason (leBytes s.lcy.dbgToken.toNat 8)
    rw [h]
    exact ⟨_, _, _, _, _, rfl, rfl⟩

/-- What is left of the device before RST_N clears it. -/
structure BeforeRst (s t : State) (causes : BitVec 11) : Prop where
  frame : ∃ p, t = { s with ring := t.ring, jrn := t.jrn, slu := t.slu, flt := t.flt, lcy := t.lcy, key := t.key, pwr := p }
  power : t.pwr = { s.pwr with startRecs := t.pwr.startRecs, rstPend := s.pwr.rstPend ||| causes ||| cutShort s }
  fuses : t.lcy.fuses = s.lcy.fuses
  outs : ∀ n < 4, RstOut (getOut s n) (getOut t n)

/-- The state that RST_N clears. -/
def beforeRst (s : State) (causes : BitVec 11) : State :=
  let s1 := setPwr (debugClose s 2) fun p => { p with rstPend := p.rstPend ||| causes ||| cutShort s }
  let s2 := postSluChanges (sluList.foldl resetWithdraw s1) (sluStates s1)
  if laneDead s2 .b then s2 else laneDown s2 .b .off

theorem rstReset_eq (s : State) (causes : BitVec 11) : rstReset s causes = afterRst (beforeRst s causes) := rfl

theorem beforeRst_spec (s : State) (causes : BitVec 11) : BeforeRst s (beforeRst s causes) causes := by
  obtain ⟨r, j, p, l, k, hd, hfuses⟩ := debugClose_frame s 2
  unfold beforeRst
  rw [hd]
  dsimp only
  generalize hs1 : setPwr _ _ = s1
  have h1 : s1 = { s with
      ring := r
      jrn := j
      pwr := { s.pwr with startRecs := p, rstPend := s.pwr.rstPend ||| causes ||| cutShort s }
      lcy := l
      key := k } := by
    rw [← hs1]
    rfl
  obtain ⟨hwf, hreset, -⟩ : Withdrawn s1 (sluList.foldl resetWithdraw s1) [3, 2, 1, 0] :=
    sluFold (fun _ _ _ hn h => h.step hn) ⟨rfl, fun _ h => absurd h List.not_mem_nil, fun _ _ => rfl⟩
  generalize sluList.foldl resetWithdraw s1 = w at hwf hreset
  obtain ⟨hof, houts⟩ := postSluChanges_outFrame w (sluStates s1)
  generalize postSluChanges w (sluStates s1) = y at hof houts
  have hstop := laneOff_stop y .b
  generalize (if laneDead y .b then y else laneDown y .b .off) = t at hstop
  obtain ⟨htf, htouts⟩ := hstop
  have hgo : ∀ n, getOut s1 n = getOut s n := fun n => by rw [h1]; rfl
  refine ⟨⟨t.pwr, ?_⟩, ?_, ?_, fun n hn => ?_⟩
  · rw [htf, hof, hwf, h1]
  · rw [htf, hof, hwf, h1]
  · rw [htf, hof, hwf, h1]
    exact hfuses
  · obtain ⟨ha, hl⟩ := hreset n (mem_sluFold hn)
    obtain ⟨b, hb⟩ := houts n
    obtain ⟨-, hl', ha'⟩ := htouts n hn
    rw [hb] at hl' ha'
    rw [← hgo n]
    exact ⟨ha'.trans ha, hl'.trans hl⟩

theorem afterRst_clk (s : State) : (afterRst s).clk = s.clk := rfl
theorem afterRst_credit (s : State) : (afterRst s).ldg.cA = s.ldg.cA ∧ (afterRst s).ldg.cB = s.ldg.cB ∧ (afterRst s).ldg.h = s.ldg.h ∧
    (afterRst s).ldg.map = s.ldg.map := ⟨rfl, rfl, rfl, rfl⟩
theorem afterRst_journal (s : State) : (afterRst s).fl.journal = s.fl.journal := rfl

/-- RST_N keeps what R397 names. -/
theorem rstReset_rstKeeps (s : State) (causes : BitVec 11) : RstKeeps s (rstReset s causes) := by
  obtain ⟨⟨p, hf⟩, -, hfuses, houts⟩ := beforeRst_spec s causes
  rw [rstReset_eq]
  generalize beforeRst s causes = t at hf hfuses houts
  have hclk : t.clk = s.clk := by rw [hf]
  have hmtr : t.mtr = s.mtr := by rw [hf]
  have hldg : t.ldg = s.ldg := by rw [hf]
  have hfl : t.fl = s.fl := by rw [hf]
  refine ⟨hfuses, ?_, hmtr, ?_, ?_, fun n hn => ⟨(houts n hn).armed, (houts n hn).latched⟩⟩
  · rw [afterRst_clk, hclk]
  · obtain ⟨h1, h2, h3, h4⟩ := afterRst_credit t
    rw [h1, h2, h3, h4, hldg]
    exact ⟨rfl, rfl, rfl, rfl⟩
  · rw [afterRst_journal, hfl]

/-- What RST_N leaves of the power registers, and what it clears. -/
structure RstClears (s t : State) (causes : BitVec 11) : Prop where
  phase : t.pwr.phase = .aonInit
  supplies : t.pwr.supplyOk = s.pwr.supplyOk
  pend : t.pwr.rstPend = s.pwr.rstPend ||| causes ||| cutShort s
  nodes : t.key.nodes = []
  chans : t.lf.chans = []
  reg : t.tok.reg = []

theorem afterRst_clears (s : State) : (afterRst s).pwr.phase = .aonInit ∧ (afterRst s).pwr.supplyOk = s.pwr.supplyOk ∧
    (afterRst s).pwr.rstPend = s.pwr.rstPend ∧ (afterRst s).key.nodes = [] ∧ (afterRst s).lf.chans = [] ∧ (afterRst s).tok.reg = [] :=
  ⟨rfl, rfl, rfl, rfl, rfl, rfl⟩

theorem rstReset_clears (s : State) (causes : BitVec 11) : RstClears s (rstReset s causes) causes := by
  obtain ⟨-, hp, -, -⟩ := beforeRst_spec s causes
  rw [rstReset_eq]
  generalize beforeRst s causes = t at hp
  obtain ⟨h1, h2, h3, h4, h5, h6⟩ := afterRst_clears t
  refine ⟨h1, ?_, ?_, h4, h5, h6⟩
  · rw [h2, hp]
  · rw [h3, hp]

/-! ### A wake by RST_N (R392) -/

/-- The record of a wake leaves what the reset kept and cleared. -/
theorem stageWake_frame (s : State) : ∃ r j p f, stageWake s = { s with
    ring := r
    jrn := j
    pwr := { s.pwr with startRecs := p }
    clk := { s.clk with fresh := f } } := by
  unfold stageWake drawFree
  dsimp only
  generalize Config.freeWord s.clk.fresh = v
  obtain ⟨r, j, p, h⟩ := stageSoon_logOnly { s with clk := { s.clk with fresh := s.clk.fresh + 1 } } 0x50 9
    [(20, leBytes (v.toNat % 256) 1), (21, leBytes s.pwr.wakeFrom 1), (24, leBytes s.pwr.wakeCause.toNat 1)]
  rw [h]
  exact ⟨_, _, _, _, rfl⟩

theorem wakeNow_frame (s : State) (bit tamp : Nat) (causes : BitVec 11) : ∃ r j p c w f o g, wakeNow s bit tamp causes =
    { rstReset s (causes ||| bitAt 11 8) with
      ring := r
      jrn := j
      pwr := { (rstReset s (causes ||| bitAt 11 8)).pwr with wakeCause := c, wakeTamp := w, wakeFrom := f, wakeSignal := o, startRecs := p }
      clk := { (rstReset s (causes ||| bitAt 11 8)).clk with fresh := g } } := by
  unfold wakeNow
  dsimp only
  generalize rstReset s (causes ||| bitAt 11 8) = z
  generalize (if s.pwr.st = .sleep then 1 else 2) = frm
  generalize bitAt 7 bit = c
  generalize BitVec.ofNat 4 tamp = w
  generalize decide (bit ≠ 0) = o
  obtain ⟨r, j, p, f, h⟩ := stageWake_frame { setPwr z (fun p => { p with wakeCause := c, wakeTamp := w, wakeFrom := frm, wakeSignal := o }) with
    ring := { z.ring with heldWake := true } }
  exact ⟨r, j, p, c, w, frm, o, f, h⟩

/-- The pulse that is taken. -/
theorem rstPin_taken {s : State} {us : Nat} {taken : Bool} (h1 : 1 ≤ us) (h : 10 ≤ us ∨ taken = true) :
    RstKeeps s (rstPin s us taken) ∧ (rstPin s us taken).pwr.rstHeld = true ∧ ∃ causes, (causes = 2#11 ∨ causes = 2#11 ||| bitAt 11 8) ∧
      RstClears s (rstPin s us taken) causes := by
  have hno : ¬ (us < 1 ∨ (us < 10 ∧ (!taken) = true)) := by
    rintro (h2 | ⟨h2, h3⟩)
    · omega
    · rcases h with h | h
      · omega
      · rw [h] at h3
        cases h3
  unfold rstPin
  rw [if_neg hno]
  dsimp only
  split
  · obtain ⟨r, j, p, c, w, f, o, g, hw⟩ := wakeNow_frame s 6 0 2#11
    have hk := rstReset_rstKeeps s (2#11 ||| bitAt 11 8)
    have hc := rstReset_clears s (2#11 ||| bitAt 11 8)
    rw [hw]
    generalize rstReset s (2#11 ||| bitAt 11 8) = z at hk hc
    refine ⟨⟨hk.fuses, ?_, hk.meter, hk.credit, hk.journal, hk.sluices⟩, rfl, _, .inr rfl, ⟨hc.phase, hc.supplies, hc.pend, hc.nodes, hc.chans, hc.reg⟩⟩
    change { z.clk with fresh := g } = _
    rw [hk.clock]
    rfl
  · have hk := rstReset_rstKeeps s 2#11
    have hc := rstReset_clears s 2#11
    generalize rstReset s 2#11 = z at hk hc
    exact ⟨⟨hk.fuses, hk.clock, hk.meter, hk.credit, hk.journal, hk.sluices⟩, rfl, _, .inl rfl,
      ⟨hc.phase, hc.supplies, hc.pend, hc.nodes, hc.chans, hc.reg⟩⟩

theorem pend_bit (p c q : BitVec 11) {i : Nat} (h : c.getLsbD i = true) : (p ||| c ||| q).getLsbD i = true := by
  rw [BitVec.getLsbD_or, BitVec.getLsbD_or, h, Bool.or_true, Bool.true_or]

/-! ### The release and POR (R397 to R399) -/

theorem phaseTwo_begins (s : State) : StartBegins s (phaseTwo s) := by
  unfold phaseTwo drawFree
  dsimp only
  generalize bitOf (Config.freeWord s.clk.fresh) 0 = v
  have hlc : lcState s = lcState s := rfl
  by_cases h : lcState s = 5
  · rw [if_pos h]
    exact ⟨rfl, rfl, rfl, rfl, (if_pos h).symm, rfl⟩
  · rw [if_neg h]
    exact ⟨rfl, rfl, rfl, rfl, (if_neg h).symm, rfl⟩

theorem tryStart_begins {s : State} (hp : s.pwr.phase = .aonInit) (hpor : s.pwr.porHeld = false) (hrst : s.pwr.rstHeld = false)
    (hs : suppliesGood s = true) : StartBegins s (tryStart s) := by
  unfold tryStart
  rw [if_pos ⟨hp, by rw [hpor]; rfl, by rw [hrst]; rfl, hs⟩]
  exact phaseTwo_begins s

theorem tryStart_waits {s : State} (h : s.pwr.phase ≠ .aonInit ∨ s.pwr.porHeld = true ∨ s.pwr.rstHeld = true ∨ suppliesGood s = false) :
    tryStart s = s := by
  refine if_neg ?_
  rintro ⟨h1, h2, h3, h4⟩
  rcases h with h | h | h | h
  · exact h h1
  · rw [h] at h2
    cases h2
  · rw [h] at h3
    cases h3
  · rw [h] at h4
    cases h4

theorem tryStart_wakeCause (s : State) : (tryStart s).pwr.wakeCause = s.pwr.wakeCause := by
  unfold tryStart phaseTwo drawFree
  dsimp only
  generalize bitOf (Config.freeWord s.clk.fresh) 0 = v
  split
  · split <;> rfl
  · rfl

/-- What POR leaves before a start: its clears, and what it keeps. -/
def porCleared (s : State) : State := setPwr (porReset s) fun p => { p with rstPend := p.rstPend ||| cutShort s }

theorem porCleared_porKeeps (s : State) : PorKeeps s (porCleared s) :=
  ⟨rfl, ⟨rfl, rfl, rfl⟩, rfl, fun _ _ => ⟨rfl, rfl⟩, rfl⟩

theorem porCleared_power (s : State) : (porCleared s).pwr.phase = .aonInit ∧ (porCleared s).pwr.porHeld = s.pwr.porHeld ∧
    (porCleared s).pwr.rstHeld = s.pwr.rstHeld ∧ suppliesGood (porCleared s) = suppliesGood s ∧
    (porCleared s).pwr.rstPend = s.pwr.rstPend ||| 1#11 ||| cutShort s := ⟨rfl, rfl, rfl, rfl, rfl⟩

/-- A start keeps what POR kept. -/
theorem PorKeeps.start {s t u : State} (h : PorKeeps s t) (hu : StartBegins t u) (hw : u.pwr.wakeCause = t.pwr.wakeCause) : PorKeeps s u := by
  obtain ⟨h1, ⟨h2, h3, h4⟩, h5, h6, h7⟩ := h
  have hr := hu.rest
  refine ⟨?_, ⟨?_, ?_, ?_⟩, ?_, fun n hn => ?_, hw.trans h7⟩
  · rw [hr]
    exact h1
  · rw [hr]
    exact h2
  · rw [hr]
    exact h3
  · rw [hr]
    exact h4
  · rw [hr]
    exact h5
  · rw [hr]
    exact h6 n hn

theorem exec_por (s : State) : exec .por s = .next (tryStart (porCleared s)) := rfl
theorem exec_rstNAssert (us : Nat) (taken : Bool) (s : State) : exec (.rstNAssert us taken) s = .next (rstPin s us taken) := rfl
theorem exec_rstNRelease (s : State) : exec .rstNRelease s = .next (tryStart (setPwr s fun p => { p with rstHeld := false })) := rfl

/-- Settles O47: what POR and RST_N keep and clear stands before the start (`porCleared_porKeeps`, `rstPin_taken`), and
`tryStart_begins` says what the release begins. -/
theorem resetsKeepAndClear : Obligations.ResetsKeepAndClear := by
  unfold Obligations.ResetsKeepAndClear
  intro s us taken
  obtain ⟨hphase, hpor, hrst, hsup, hpend⟩ := porCleared_power s
  have hkeeps := porCleared_porKeeps s
  refine ⟨⟨_, exec_por s, ?_⟩, fun h => ?_, fun h1 h => ⟨_, exec_rstNAssert us taken s, ?_⟩, ?_⟩
  · generalize porCleared s = z at hphase hpor hrst hsup hpend hkeeps
    by_cases hgo : suppliesGood s = true ∧ s.pwr.porHeld = false ∧ s.pwr.rstHeld = false
    · obtain ⟨h1, h2, h3⟩ := hgo
      have hb := tryStart_begins hphase (hpor.trans h2) (hrst.trans h3) (hsup.trans h1)
      refine ⟨hkeeps.start hb (tryStart_wakeCause z), fun _ _ _ => ⟨hb.phase, hb.cause.trans hpend⟩, fun h => ?_⟩
      rcases h with h | h | h
      · rw [h1] at h
        cases h
      · rw [h2] at h
        cases h
      · rw [h3] at h
        cases h
    · have hwait : tryStart z = z := by
        refine tryStart_waits (.inr ?_)
        rw [hpor, hrst, hsup]
        by_contra hc
        simp only [not_or, Bool.not_eq_true, Bool.not_eq_false] at hc
        exact hgo ⟨hc.2.2, hc.1, hc.2.1⟩
      rw [hwait]
      exact ⟨hkeeps, fun h1 h2 h3 => absurd ⟨h1, h2, h3⟩ hgo, fun _ => ⟨hphase, hpend⟩⟩
  · rw [exec_rstNAssert]
    refine congrArg _ (if_pos (h.imp id fun h => ⟨h.1, by rw [h.2]; rfl⟩))
  · obtain ⟨hk, hheld, causes, hc, hcl⟩ := rstPin_taken h1 h
    refine ⟨hk, hheld, hcl.phase, ?_, hcl.nodes, hcl.chans, hcl.reg⟩
    rw [hcl.pend]
    rcases hc with rfl | rfl <;> exact pend_bit _ _ _ (by decide)
  · intro p
    refine ⟨fun h1 h2 h3 => ⟨_, exec_rstNRelease s, tryStart_begins h1 h2 rfl h3⟩, fun h => ?_⟩
    rw [exec_rstNRelease, tryStart_waits (s := setPwr s fun p => { p with rstHeld := false })]
    rcases h with h | h | h
    · exact .inl h
    · exact .inr (.inl h)
    · exact .inr (.inr (.inr h))

end Sys2Proof.Machine
end
section
/-! ## Supplies (R231, R380 to R382, R397) -/

namespace Sys2Proof.Machine
open Sys2Proof

/-! ### Work on the channels and the radio leaves meter, credit and supplies alone -/

/-- Meter, ledger and the supplies are as they were. -/
structure Metered (s t : State) : Prop where
  mtr : t.mtr = s.mtr
  ldg : t.ldg = s.ldg
  supply : t.pwr.supplyOk = s.pwr.supplyOk

namespace Metered

theorem refl (s : State) : Metered s s := ⟨rfl, rfl, rfl⟩

theorem trans {s t u : State} (h : Metered s t) (k : Metered t u) : Metered s u :=
  ⟨k.mtr.trans h.mtr, k.ldg.trans h.ldg, k.supply.trans h.supply⟩

theorem ite {s t u : State} {c : Prop} [Decidable c] (h : Metered s t) (k : Metered s u) : Metered s (if c then t else u) := by
  split
  · exact h
  · exact k

theorem foldl {α : Type} {f : State → α → State} (hf : ∀ s a, Metered s (f s a)) (l : List α) (s : State) : Metered s (l.foldl f s) := by
  induction l generalizing s with
  | nil => exact .refl s
  | cons a l ih => exact (hf s a).trans (ih (f s a))

theorem of_logOnly {s t : State} (h : LogOnly s t) : Metered s t := by
  obtain ⟨r, j, p, rfl⟩ := h
  exact ⟨rfl, rfl, rfl⟩

theorem of_ringOnly {s t : State} (h : RingOnly s t) : Metered s t := .of_logOnly h.logOnly

theorem of_entropyOnly {s t : State} (h : EntropyOnly s t) : Metered s t := by
  obtain ⟨r, e, rfl⟩ := h
  exact ⟨rfl, rfl, rfl⟩

end Metered

theorem modChan_metered (s : State) (n : Nat) (f : Chan → Chan) : Metered s (modChan s n f) := ⟨rfl, rfl, rfl⟩

theorem setHead_metered (s : State) (n : Nat) (j : Job) : Metered s (setHead s n j) := modChan_metered s n _

theorem dropWait_metered (s : State) (w : Waiter) : Metered s (dropWait s w) := ⟨rfl, rfl, rfl⟩

theorem popHead_metered (s : State) (ch : Nat) : Metered s (popHead s ch) := (dropWait_metered s _).trans (modChan_metered _ _ _)

theorem closeTx_metered (s : State) (ch : Nat) (j : Job) (st : Status) (clean : Bool) : Metered s (closeTx s ch j st clean) := by
  have h := (closeTx_closed s ch j st clean).eq
  constructor <;> rw [h]

theorem arm_metered (s : State) (ch : Nat) : Metered s (arm s ch) := by
  have h1 : Metered s (armOnce s ch) := by
    unfold armOnce
    split
    · exact .refl s
    · split
      · exact .refl s
      · refine .ite (.refl s) ?_
        obtain ⟨z, n, r, ha, hz⟩ := askNonce_spec s ch { bindTarget s ch _ with
          phase := if nonceBits (bindTarget s ch _) = 0 then .waitAdmit else .waitNonce }
        rw [ha]
        exact (Metered.of_entropyOnly hz).trans (setHead_metered _ _ _)
  unfold arm
  refine h1.trans ?_
  unfold nonceArrived
  split
  · exact .ite (setHead_metered _ _ _) (.refl _)
  · exact .refl _

theorem dropJobs_metered (s : State) (uid : Nat) : Metered s (dropJobs s uid) := by
  unfold dropJobs
  refine Metered.foldl (fun z ch => ?_) _ s
  dsimp only
  split
  · refine Metered.trans ?_ (arm_metered _ ch)
    refine Metered.trans ?_ (modChan_metered _ _ _)
    split
    · exact .ite (dropWait_metered z _) (.refl z)
    · exact .refl z
  · exact .refl z

theorem failCmd_metered (s : State) (c : Cmd) (st : Status) : Metered s (failCmd s c st) := .of_ringOnly (failCmd_ringOnly s c st)

theorem rad_metered (s : State) (r : Radio) : Metered s { s with rad := r } := ⟨rfl, rfl, rfl⟩

/-- The LOCATE that a transaction belongs to ends with it. -/
theorem failTx_locMetered (s : State) (ch : Nat) {j : Job} (st : Status) (clean : Bool) (f : Facts) (hl : isLoc j = true) :
    Metered s (failTx s ch j st clean f) := by
  unfold isLoc at hl
  split at hl
  next n hk =>
    unfold failTx
    rw [hk]
    dsimp only
    have hg : Metered s ((coils s ch j).foldl (fun s c => match headOf s c with
        | some x => popHead (closeTx s c x st clean) c
        | none => s) s) := by
      refine Metered.foldl (fun z c => ?_) _ s
      split
      · exact (closeTx_metered z c _ st clean).trans (popHead_metered _ c)
      · exact .refl z
    generalize (coils s ch j).foldl _ s = y at hg
    refine hg.trans ?_
    unfold finishJob
    rw [hk]
    dsimp only
    split
    · exact .ite (rad_metered y _) (.refl y)
    · exact (Metered.ite (rad_metered y _) (.refl y)).trans (failCmd_metered _ _ _)
  · cases hl

theorem locateOut_metered (s : State) : Metered s (locateOut s) := by
  unfold locateOut
  refine Metered.foldl (fun z c => ?_) _ s
  dsimp only
  refine .ite (.refl z) ?_
  split
  on_goal 1 => refine Metered.trans (Metered.trans ?_ (dropJobs_metered _ _)) (failCmd_metered _ _ _)
  all_goals
    split
    · next ch hlead =>
      have hp := List.find?_some hlead
      split
      · next j hj =>
        rw [hj] at hp
        simp only [Bool.and_eq_true] at hp
        exact failTx_locMetered z ch .synthNotReady true {} hp.1.1.1
      · exact .refl z
    · exact .refl z

theorem dropReq_metered (s : State) : Metered s (dropReq s) := ⟨rfl, rfl, rfl⟩

theorem countAir_metered (s : State) (a : RadAct) (cut : Bool) : Metered s (countAir s a cut) := by
  unfold countAir
  split
  · exact .refl s
  · exact .ite (u := chargeDuty s _ _) ⟨rfl, rfl, rfl⟩ ⟨rfl, rfl, rfl⟩

theorem endAct_metered (s : State) (cut : Bool) : Metered s (endAct s cut) := by
  unfold endAct
  refine Metered.trans (t := match s.rad.cur with
    | some a => countAir s a cut
    | none => s) ?_ ((rad_metered _ _).trans (dropReq_metered _))
  split
  · exact countAir_metered s _ cut
  · exact .refl s

theorem cutAct_metered (s : State) : Metered s (cutAct s) := endAct_metered s _

theorem dropWaiting_metered (s : State) (uid : Nat) : Metered s (dropWaiting s uid) := (rad_metered s _).trans (dropWait_metered _ _)

theorem locFinish_metered (s : State) (abort : Option Status) : Metered s (locFinish s abort) := by
  unfold locFinish
  split
  · exact .refl s
  · next l _ =>
    dsimp only
    have h1 : Metered s (dropWaiting { s with rad := { s.rad with loc := none } } l.uid) := (rad_metered s _).trans (dropWaiting_metered _ _)
    generalize dropWaiting { s with rad := { s.rad with loc := none } } l.uid = y at h1
    refine h1.trans ?_
    cases y.rad.cur with
    | none =>
      dsimp only
      split
      · exact .refl _
      · exact .of_ringOnly (finishCmd_ringOnly _ _ _ _ _ _)
    | some a =>
      dsimp only
      have h2 : Metered y (if a.inLoc then cutAct y else y) := .ite (cutAct_metered y) (.refl y)
      generalize (if a.inLoc then cutAct y else y) = z at h2 ⊢
      split
      · exact h2
      · exact h2.trans (.of_ringOnly (finishCmd_ringOnly _ _ _ _ _ _))

theorem winFinish_metered (s : State) (w : Win) (st : Status) : Metered s (winFinish s w st) := by
  unfold winFinish
  dsimp only
  have h1 : Metered s (dropWaiting (setWin s none) w.uid) := (rad_metered s _).trans (dropWaiting_metered _ _)
  generalize dropWaiting (setWin s none) w.uid = y at h1
  refine h1.trans ?_
  cases y.rad.cur with
  | none =>
    dsimp only
    split
    · exact dropReq_metered y
    · exact (dropReq_metered y).trans (.of_ringOnly (finishNow_ringOnly _ _ _ _ _))
  | some a =>
    dsimp only
    have h2 : Metered y (if a.inWin ∧ a.uid = w.uid then cutAct y else y) := .ite (cutAct_metered y) (.refl y)
    generalize (if a.inWin ∧ a.uid = w.uid then cutAct y else y) = z at h2 ⊢
    split
    · exact h2
    · exact h2.trans (.of_ringOnly (finishNow_ringOnly _ _ _ _ _))

/-- The radio's loss ends its work and touches neither meter nor credit. -/
theorem radioOut_metered (s : State) : Metered s (radioOut s) := by
  unfold radioOut
  dsimp only
  have h1 := (locateOut_metered s).trans (locFinish_metered (locateOut s) (some .synthNotReady))
  generalize locFinish (locateOut s) (some .synthNotReady) = y at h1
  have h2 := h1.trans ((rad_metered y { y.rad with waiting := [] }).trans (cutAct_metered _))
  generalize cutAct { y with rad := { y.rad with waiting := [] } } = z at h2
  have h3 := h2.trans (Metered.foldl (f := fun s a => match findCmd s a.uid with
      | some c => if a.inWin then s else failCmd s c .synthNotReady
      | none => s) (fun q a => by
    split
    · exact .ite (.refl q) (failCmd_metered q _ _)
    · exact .refl q) ((locateOut s).rad.waiting ++ (locateOut s).rad.cur.toList) z)
  generalize List.foldl _ z _ = w at h3
  split
  · exact h3.trans (winFinish_metered w _ _)
  · exact h3

/-! ### Warnings (R231) -/

/-- What the counters' close leaves: meter and ledger move, the record's number does not. -/
theorem closeAndBill_frame (s : State) (c : MeterCfg) (l : List (Int × Int)) (us : Nat) (faulted : Bool) :
    ∃ m g, closeAndBill s c l us faulted = { s with mtr := m, ldg := g } ∧ g.rseq = s.ldg.rseq := by
  unfold closeAndBill bill moveBkt
  dsimp only
  split
  · exact ⟨_, _, rfl, rfl⟩
  · exact ⟨_, _, rfl, rfl⟩

theorem closePart_frame (s : State) (bits : List (Bool × Bool)) :
    ∃ m g, closePart s bits = { s with mtr := m, ldg := g } ∧ g.rseq = s.ldg.rseq := by
  obtain ⟨m, g, h, hr⟩ := closeAndBill_frame (decimated s (meterCfg s) bits) (meterCfg s) (decimate (meterCfg s) s.mtr bits).2
    (min (bitsUs (meterCfg s) bits.length) ((meterCfg s).lenUs - s.mtr.gaspUs)) (s.mtr.faulted || s.mtr.iFault || s.mtr.vFault)
  unfold closePart
  dsimp only
  rw [h]
  exact ⟨_, _, rfl, hr⟩

/-- What a LAST_GASP record holds, and what it leaves. -/
structure Gasped (s t : State) : Prop where
  counter : ∃ r, t.fl.counter = some r ∧ r.kind = 2 ∧ r.rseq = s.ldg.rseq + 1 ∧ r.bkt = t.ldg.cA ∧ r.eDis = t.mtr.eDis ∧
    r.beat = s.clk.beat ∧ t.fl = { rewritten s.fl t.fl with counter := some r, ring := t.fl.ring }
  rseq : t.ldg.rseq = s.ldg.rseq + 1
  frame : t = { s with mtr := t.mtr, ldg := t.ldg, fl := t.fl }

theorem lastGasp_gasps {s : State} (bits : List (Bool × Bool)) (hm : meterRuns s = true) : Gasped s (lastGasp s bits) := by
  obtain ⟨m, g, h, hr⟩ := closePart_frame s bits
  unfold lastGasp
  rw [hm, if_neg (by decide), h]
  generalize hy : ({ s with mtr := m, ldg := g } : State) = y
  have h1 : y.ldg.rseq = s.ldg.rseq := by rw [← hy]; exact hr
  have h2 : y.clk.beat = s.clk.beat := by rw [← hy]
  have hf : y.fl = s.fl := by rw [← hy]
  refine ⟨⟨counterNow y 2, rfl, rfl, ?_, rfl, rfl, h2, ?_⟩, ?_, ?_⟩
  · rw [← h1]
    rfl
  · rw [← hf]
    rfl
  · rw [← h1]
    rfl
  · rw [← hy]
    rfl

theorem lastGasp_idle {s : State} (bits : List (Bool × Bool)) (hm : meterRuns s = false) : lastGasp s bits = s := by
  unfold lastGasp
  rw [hm]
  rfl

/-- The warning flag that a supply shows. -/
def warnFlag (p : Power) : Supply → Power
  | .vaon => { p with vaonWarn := true }
  | .vfl => { p with vflWarn := true }
  | .vcore => { p with vcoreWarn := true }
  | _ => p

theorem supplyWarn_warns {x : Supply} (s : State) (l : List (Bool × Bool)) (h : x = .vaon ∨ x = .vfl ∨ x = .vcore) :
    supplyWarn s x l = lastGasp { s with pwr := warnFlag s.pwr x } l := by
  rcases h with rfl | rfl | rfl <;> rfl

theorem supplyWarn_silent {x : Supply} (s : State) (l : List (Bool × Bool)) (h : ¬ (x = .vaon ∨ x = .vfl ∨ x = .vcore)) :
    supplyWarn s x l = { s with pwr := warnFlag s.pwr x } := by
  cases x with
  | vaon => exact absurd (.inl rfl) h
  | vfl => exact absurd (.inr (.inl rfl)) h
  | vcore => exact absurd (.inr (.inr rfl)) h
  | vana | vrf | vio | vdrv => rfl

theorem warnFlag_meterRuns (s : State) (x : Supply) : meterRuns { s with pwr := warnFlag s.pwr x } = meterRuns s := by
  cases x <;> rfl

/-! ### Undervoltage and recovery (R381, R382, R397) -/

theorem setSupply_lost (s : State) (x : Supply) : (setSupply s x false).pwr.supplyOk.getLsbD (supplyBit x) = false := by
  change (s.pwr.supplyOk &&& ~~~(bitAt 10 (supplyBit x))).getLsbD (supplyBit x) = false
  have hb : (bitAt 10 (supplyBit x)).getLsbD (supplyBit x) = true := by
    cases x with
    | vdrv b => exact (by decide : ∀ b : Fin 4, (bitAt 10 (5 + b.val)).getLsbD (5 + b.val) = true) b
    | _ => rfl
  have hlt : supplyBit x < 10 := by
    cases x with
    | vdrv b => exact (by decide : ∀ b : Fin 4, 5 + b.val < 10) b
    | _ => exact (by decide)
  simp [hb]

/-- An undervoltage that is an internal RST_N, with its cause. -/
theorem rstReset_supply (s : State) (x : Supply) {i : Nat} (hi : (bitAt 11 i).getLsbD i = true) :
    RstKeeps s (rstReset (setSupply s x false) (bitAt 11 i)) ∧ (rstReset (setSupply s x false) (bitAt 11 i)).pwr.phase = .aonInit ∧
      (rstReset (setSupply s x false) (bitAt 11 i)).pwr.supplyOk.getLsbD (supplyBit x) = false ∧
      (rstReset (setSupply s x false) (bitAt 11 i)).pwr.rstPend.getLsbD i = true := by
  have hk := rstReset_rstKeeps (setSupply s x false) (bitAt 11 i)
  have hc := rstReset_clears (setSupply s x false) (bitAt 11 i)
  have hl := setSupply_lost s x
  generalize rstReset (setSupply s x false) (bitAt 11 i) = t at hk hc
  refine ⟨⟨hk.fuses, hk.clock, hk.meter, hk.credit, hk.journal, hk.sluices⟩, hc.phase, ?_, ?_⟩
  · rw [hc.supplies]
    exact hl
  · rw [hc.pend]
    exact pend_bit _ _ _ hi

/-- RADIO without its state. -/
theorem domainLost_radio (s : State) : (getDom (domainLost s dRADIO) dRADIO).on = false ∧ Metered s (domainLost s dRADIO) := by
  have h : domainLost s dRADIO = { setDom s dRADIO Dom.off with rad := (domainLost s dRADIO).rad } := rfl
  refine ⟨?_, ?_⟩
  · have hg : getDom (setDom s dRADIO Dom.off) dRADIO = Dom.off := getDom_setDom _ _ _
    rw [h]
    change (getDom (setDom s dRADIO Dom.off) dRADIO).on = false
    rw [hg]
    rfl
  · constructor <;> (rw [h]; rfl)

/-- Undervoltage of VRF: RADIO is off, meter and credit stand. -/
theorem supplyUnder_vrf (s : State) : (supplyUnder s .vrf).pwr.supplyOk.getLsbD 1 = false ∧
    (getDom (supplyUnder s .vrf) dRADIO).on = false ∧ (supplyUnder s .vrf).clk.beat = s.clk.beat ∧ Metered (setSupply s .vrf false) (supplyUnder s .vrf) := by
  have heq : supplyUnder s .vrf = if (getDom (radioOut (setSupply s .vrf false)) dRADIO).on then
    domainLost (radioOut (setSupply s .vrf false)) dRADIO else radioOut (setSupply s .vrf false) := rfl
  have hl := setSupply_lost s .vrf
  have hb : (radioOut (setSupply s .vrf false)).clk.beat = s.clk.beat := (radioOut_keeps (Keeps.refl (setSupply s .vrf false))).beat
  have hm := radioOut_metered (setSupply s .vrf false)
  rw [heq]
  generalize radioOut (setSupply s .vrf false) = y at hb hm
  split
  · obtain ⟨hoff, hd⟩ := domainLost_radio y
    have hdb : (domainLost y dRADIO).clk.beat = y.clk.beat := (domainLost_keeps (Keeps.refl y) dRADIO).beat
    refine ⟨?_, hoff, hdb.trans hb, hm.trans hd⟩
    rw [(hm.trans hd).supply]
    exact hl
  · next hon =>
    refine ⟨?_, Bool.eq_false_iff.2 hon, hb, hm⟩
    rw [hm.supply]
    exact hl

theorem supplyBack_tries {x : Supply} (s : State) (hx : ∀ b, x ≠ .vdrv b) :
    supplyBack s x = tryStart (if x = .vaon then setPwr (setSupply s x true) fun p => { p with porHeld := false } else setSupply s x true) := by
  cases x with
  | vdrv b => exact absurd rfl (hx b)
  | vaon | vana | vrf | vfl | vio | vcore => rfl

theorem supplyUnder_vaon (s : State) : PorKeeps s (supplyUnder s .vaon) ∧ (supplyUnder s .vaon).pwr.porHeld = true ∧
    (supplyUnder s .vaon).pwr.phase = .aonInit ∧ (supplyUnder s .vaon).pwr.rstPend.getLsbD 0 = true := by
  refine ⟨⟨rfl, ⟨rfl, rfl, rfl⟩, rfl, fun _ _ => ⟨rfl, rfl⟩, rfl⟩, rfl, rfl, ?_⟩
  exact pend_bit s.pwr.rstPend 1#11 (cutShort s) (by decide)

theorem exec_supplyWarning (x : Supply) (l : List (Bool × Bool)) (s : State) : exec (.supplyWarning x l) s = .next (supplyWarn s x l) := rfl
theorem exec_supplyUndervoltage (x : Supply) (s : State) : exec (.supplyUndervoltage x) s = .next (supplyUnder s x) := rfl
theorem exec_supplyRecovery (x : Supply) (s : State) : exec (.supplyRecovery x) s = .next (supplyBack s x) := rfl

/-- Settles O46: a warning is `lastGasp_gasps`, an undervoltage is `rstReset_supply`, `supplyUnder_vaon` or `supplyUnder_vrf`, and a
recovery is a try to start. -/
theorem suppliesAct : Obligations.SuppliesAct := by
  unfold Obligations.SuppliesAct
  intro s x l
  refine ⟨fun h => ?_, fun hw hm => ?_, fun h => ⟨_, exec_supplyUndervoltage x s, ?_⟩, ⟨_, exec_supplyUndervoltage .vaon s, supplyUnder_vaon s⟩,
    ⟨_, exec_supplyUndervoltage .vrf s, ?_⟩, fun hx => ?_⟩
  · change exec (.supplyWarning x l) s = .next { s with pwr := warnFlag s.pwr x }
    rw [exec_supplyWarning]
    by_cases hw : x = .vaon ∨ x = .vfl ∨ x = .vcore
    · rw [supplyWarn_warns s l hw, lastGasp_idle l ((warnFlag_meterRuns s x).trans (h.resolve_right fun hn => hn hw))]
    · rw [supplyWarn_silent s l hw]
  · have hg := lastGasp_gasps l ((warnFlag_meterRuns s x).trans hm)
    rw [← supplyWarn_warns s l hw] at hg
    obtain ⟨⟨r, hc, hk, hr, hbkt, he, hb, hfl⟩, hrs, hf⟩ := hg
    refine ⟨_, r, exec_supplyWarning x l s, hc, hk, hr, hbkt, he, hb, hrs, ?_⟩
    generalize supplyWarn s x l = t at hf hfl
    rw [← show t.fl = { rewritten s.fl t.fl with counter := some r, ring := t.fl.ring } from hfl]
    exact hf
  · rcases h with rfl | rfl | rfl | rfl
    · exact rstReset_supply s .vana (by decide)
    · exact rstReset_supply s .vfl (by decide)
    · exact rstReset_supply s .vio (by decide)
    · exact rstReset_supply s .vcore (by decide)
  · obtain ⟨hs, hoff, hb, hm⟩ := supplyUnder_vrf s
    exact ⟨hs, hoff, hb, congrArg Ledger.cA hm.ldg, hm.mtr⟩
  · intro m p
    have h : exec (.supplyRecovery x) s = .next (tryStart p) := by
      rw [exec_supplyRecovery, supplyBack_tries s hx]
    rw [h]
    clear_value p
    exact ⟨fun h1 h2 h3 h4 => ⟨_, rfl, tryStart_begins h1 h2 h3 h4⟩, fun h => congrArg _ (tryStart_waits h)⟩

end Sys2Proof.Machine
end
section
/-! ## A start: option bytes, armature and keeper image (R256, R405, R407, R410 to R412) -/

namespace Sys2Proof.Machine
open Sys2Proof

/-! ### Spillway mode (R412) -/

/-- The lanes' leases and the journal alone are another. -/
def SluJrn (s t : State) : Prop := ∃ u j, t = { s with slu := u, jrn := j }

theorem SluJrn.trans {s t u : State} (h : SluJrn s t) (k : SluJrn t u) : SluJrn s u := by
  obtain ⟨_, _, rfl⟩ := h
  obtain ⟨v, j, rfl⟩ := k
  exact ⟨v, j, rfl⟩

theorem spillHold_sluJrn (s : State) (n : Nat) : SluJrn s (spillHold s n) := by
  unfold spillHold
  dsimp only
  split
  · exact ⟨s.slu, s.jrn, rfl⟩
  · generalize hy : setLane (setLane s .a _) .b _ = y
    have h : SluJrn s y := by
      rw [← hy]
      exact ⟨_, _, rfl⟩
    split
    · obtain ⟨j, hj⟩ := stageLane_jrn y 2 n
      rw [hj]
      exact h.trans ⟨_, _, rfl⟩
    · exact h

/-- Spillway mode with its cause; what waits elsewhere stays. -/
theorem enterSpillway_spec (s : State) (cause : Nat) : ∃ u j r, enterSpillway s cause = { s with
    slu := u
    jrn := j
    ring := r
    pwr := { s.pwr with phase := .spillway, spillCause := cause, rom := true, keeperRunning := true, startVotes := 0 } } := by
  unfold enterSpillway
  obtain ⟨u, j, h⟩ : SluJrn s (sluList.foldl spillHold s) :=
    sluFold (P := fun t _ => SluJrn s t) (fun t _ n _ h => h.trans (spillHold_sluJrn t n)) ⟨s.slu, s.jrn, rfl⟩
  generalize sluList.foldl spillHold s = y at h
  have hf := (postSluChanges_outFrame y (sluStates s)).eq
  dsimp only
  generalize postSluChanges y (sluStates s) = z at hf
  rw [hf, h]
  exact ⟨_, _, _, rfl⟩

/-! ### The option load (R405, R407, R411) -/

/-- The options taken, before the start goes on: where their life-cycle code is behind the fuses they are mirrored. -/
def optTaken (s : State) (a b : Bool) (used : Nat) (o : Options) : State :=
  let s1 := setPwr { s with fl := { s.fl with opts := o }, cfg := { s.cfg with optProg := ⟨1000, 256, false⟩ } }
    fun p => { p with optA := a, optB := b, optUsed := used }
  if used < 2 ∧ o.lcCode ≠ lcState s then
    let x := mirrorOptions s1 (lcState s)
    { x with lcy := { x.lcy with optFixed := true } }
  else s1

/-- What the options taken leave. -/
structure OptTaken (s t : State) (a b : Bool) (used : Nat) (o : Options) : Prop where
  power : t.pwr = { s.pwr with optA := a, optB := b, optUsed := used }
  clk : t.clk = s.clk
  code : used < 2 → t.fl.opts.lcCode = lcState s
  same : used = 2 ∨ o.lcCode = lcState s → t.fl.opts = o ∧ t.lcy = s.lcy

theorem optTaken_spec (s : State) (a b : Bool) (used : Nat) (o : Options) : OptTaken s (optTaken s a b used o) a b used o := by
  unfold optTaken
  dsimp only
  by_cases h : used < 2 ∧ o.lcCode ≠ lcState s
  · rw [if_pos h]
    refine ⟨rfl, rfl, fun _ => rfl, fun hs => ?_⟩
    obtain ⟨h1, h2⟩ := h
    rcases hs with hs | hs
    · omega
    · exact absurd hs h2
  · rw [if_neg h]
    exact ⟨rfl, rfl, fun hu => by_contra fun hc => h ⟨hu, hc⟩, fun _ => ⟨rfl, rfl⟩⟩

/-- After the load: spillway, or BOOT with its votes. -/
def optGoOn (s t : State) (o : Options) : State :=
  if lcState s = 5 then enterSpillway t 4
  else if o.fsThresh ≤ s.fl.failedStarts then enterSpillway t 1
  else setPwr t fun p => { p with
    phase := .boot
    startVotes := BitVec.ofNat 17 (domBit dKEEPER + domBit dCIPHER + domBit dENTROPY + (if anyLatched s then domBit dSLUICE else 0)) }

theorem optionLoad_none {s : State} (hp : s.pwr.phase = .optLoad) (hd : domReady s dKEEPER = true) :
    optionLoad s false false = enterSpillway (optTaken s false false 2 .restrictive) 2 := by
  have hn : ¬ (s.pwr.phase ≠ .optLoad ∨ (!domReady s dKEEPER) = true) := by simp [hp, hd]
  unfold optionLoad
  rw [if_neg hn]
  rfl

theorem optionLoad_copy {s : State} {a b : Bool} (hp : s.pwr.phase = .optLoad) (hd : domReady s dKEEPER = true) (hab : a = true ∨ b = true)
    {useA : Bool} (hu : useA = (a && (!b || decide (s.fl.optB.oseq ≤ s.fl.optA.oseq)))) :
    optionLoad s a b = optGoOn s (optTaken s a b (if useA then 0 else 1) (if useA then s.fl.optA else s.fl.optB))
      (if useA then s.fl.optA else s.fl.optB) := by
  have hn : ¬ (s.pwr.phase ≠ .optLoad ∨ (!domReady s dKEEPER) = true) := by simp [hp, hd]
  have hused : (if a = true ∧ ((!b) = true ∨ s.fl.optB.oseq ≤ s.fl.optA.oseq) then 0 else if b = true then 1 else 2) = if useA then 0 else 1 := by
    rw [hu]
    rcases hab with rfl | rfl
    · cases b <;> simp
    · cases a <;> simp
  unfold optionLoad
  rw [if_neg hn]
  dsimp only
  rw [hused]
  cases useA
  · rfl
  · rfl

/-- What every way on from a copy keeps. -/
theorem optGoOn_leaves (s t : State) (o : Options) : (optGoOn s t o).pwr.optUsed = t.pwr.optUsed ∧ (optGoOn s t o).pwr.optA = t.pwr.optA ∧
    (optGoOn s t o).pwr.optB = t.pwr.optB ∧ (optGoOn s t o).clk = t.clk ∧ (optGoOn s t o).fl = t.fl ∧ (optGoOn s t o).lcy = t.lcy := by
  have hs : ∀ c, (enterSpillway t c).pwr.optUsed = t.pwr.optUsed ∧ (enterSpillway t c).pwr.optA = t.pwr.optA ∧
      (enterSpillway t c).pwr.optB = t.pwr.optB ∧ (enterSpillway t c).clk = t.clk ∧ (enterSpillway t c).fl = t.fl ∧
      (enterSpillway t c).lcy = t.lcy := fun c => by
    obtain ⟨u, j, r, h⟩ := enterSpillway_spec t c
    rw [h]
    exact ⟨rfl, rfl, rfl, rfl, rfl, rfl⟩
  unfold optGoOn
  split
  · exact hs 4
  · split
    · exact hs 1
    · exact ⟨rfl, rfl, rfl, rfl, rfl, rfl⟩

theorem enterSpillway_spill (s : State) (c : Nat) : (enterSpillway s c).pwr.phase = .spillway ∧ (enterSpillway s c).pwr.spillCause = c ∧
    (enterSpillway s c).pwr.rom = true := by
  obtain ⟨u, j, r, h⟩ := enterSpillway_spec s c
  rw [h]
  exact ⟨rfl, rfl, rfl⟩

/-! ### The armature load (R249 to R256) -/

/-- The load that ends leaves the tree and reads READY. -/
theorem keyDone_done (s : State) : ∃ r p, keyDone s = { s with ring := r, key := { s.key with ready := true, prog := p } } := by
  unfold keyDone
  dsimp only
  obtain ⟨r, h⟩ := postProgress_ringOnly { s with key := { s.key with ready := true, prog := ⟨1000, nodesInUse s, false⟩ } } 8 srcKey
    s.key.prog.progress 1000 (nodesInUse s)
  rw [h]
  exact ⟨r, _, rfl⟩

/-- Plinth and K_tr are ACTIVE. -/
structure Rooted (s : State) : Prop where
  plinth : (getNode s 0).st = .active
  transport : (getNode s 1).st = .active

/-- A node from the third on moves neither. -/
theorem Rooted.markedNode {s : State} {i : Nat} (n : Node) (h : Rooted s) (h0 : i ≠ 0) (h1 : i ≠ 1) : Rooted (Machine.markedNode s i n) := by
  obtain ⟨hp, ht⟩ := h
  unfold Machine.markedNode
  dsimp only
  generalize hy : setNode _ i _ = y
  have hset : ∀ j, j ≠ i → getNode y j = getNode s j := fun j hj => by
    rw [← hy, getNode_setNode_ne _ hj]
    rfl
  have hy0 := hset 0 h0.symm
  have hy1 := hset 1 h1.symm
  split
  · obtain ⟨-, -, hothers, -, -, -, -⟩ := retireNode_retires y i
    refine ⟨?_, ?_⟩
    · rw [hothers 0 h0.symm fun h => absurd h h1, hy0]
      exact hp
    · rw [hothers 1 h1.symm fun h => absurd h h1, hy1]
      exact ht
  · exact ⟨by rw [hy0]; exact hp, by rw [hy1]; exact ht⟩

/-- The plinth is ACTIVE while its mark is below its limit. -/
theorem markedNode_plinth {s : State} {n : Node} (hn : n.st = .active) (hl : usesMarkOf s 0 < n.limit) :
    (getNode (markedNode s 0 n) 0).st = .active := by
  unfold markedNode
  rw [if_neg fun h => absurd h.2 (by omega), getNode_setNode]
  exact hn

/-- K_tr is ACTIVE at once, or by its next generation. -/
theorem markedNode_transport {s : State} {n : Node} (hn : n.st = .active) (hp : (getNode s 0).st = .active) : Rooted (markedNode s 1 n) := by
  unfold markedNode
  dsimp only
  generalize hy : setNode _ 1 _ = y
  have hy0 : (getNode y 0).st = .active := by
    rw [← hy, getNode_setNode_ne _ (by decide)]
    exact hp
  split
  · obtain ⟨-, -, -, hplinth, -, hnext, -⟩ := retireNode_retires y 1
    refine ⟨?_, (hnext rfl).1⟩
    rw [hplinth rfl]
    exact hy0
  · refine ⟨hy0, ?_⟩
    rw [← hy, getNode_setNode]
    exact hn

/-- The imports of the key store. -/
theorem Rooted.imports {l : List (Nat × Node)} (hl : ∀ e ∈ l, 8 ≤ e.1) (f : Node → Node) : ∀ {s : State}, Rooted s →
    Rooted (l.foldl (fun s e => Machine.markedNode (countUse s 2) e.1 (f e.2)) s) := by
  induction l with
  | nil => exact fun h => h
  | cons e l ih =>
    intro s h
    have he : 8 ≤ e.1 := hl e List.mem_cons_self
    have hc : Rooted (countUse s 2) := by
      have ho := (countUse_counted s 2).others
      refine ⟨?_, ?_⟩
      · rw [ho 0 (by decide) fun h => absurd h (by decide)]
        exact h.plinth
      · rw [ho 1 (by decide) fun h => absurd h (by decide)]
        exact h.transport
    exact ih (fun e he => hl e (List.mem_cons_of_mem _ he)) (hc.markedNode _ (by omega) (by omega))

theorem loadTree_rooted {s : State} (t : Ticket) (h : usesMarkOf s 0 < 2 ^ 48 - 1) : Rooted (loadTree s t) := by
  have key : ∀ N, N = 2 ^ 48 - 1 → ∀ n0 : Node, n0.limit = N → n0.st = .active → (getNode (markedNode s 0 n0) 0).st = .active :=
    fun N hN n0 hl hs => markedNode_plinth hs (by rw [hl, hN]; exact h)
  unfold loadTree
  dsimp only
  have h0 := key _ rfl (plinthNode (plinthKey (lcState s) (nBe t.pseed.toNat 32)) s.clk.beat) rfl rfl
  generalize markedNode s 0 (plinthNode (plinthKey (lcState s) (nBe t.pseed.toNat 32)) s.clk.beat) = s1 at h0
  generalize hn : sysTemplate (handleOf s1 0) 1 (trGen s1) (2 ^ 20) false 128 "KZ TRANSPORT KEY" (trKey s1 (trGen s1)) s.clk.beat = n1
  have h1 : Rooted (markedNode s1 1 n1) := markedNode_transport (by rw [← hn]; rfl) h0
  generalize markedNode s1 1 n1 = s2 at h1
  have h2 := h1.markedNode (sysTemplate (handleOf s1 0) 1 0 (2 ^ 48 - 1) false 128 "KZ STORAGE KEY 1" (stKey s2) s.clk.beat)
    (i := 2) (by decide) (by decide)
  generalize markedNode s2 2 _ = s3 at h2
  have h3 := h2.imports (l := s3.fl.keyStore.filter fun e => decide (8 ≤ e.1)) (fun e he => of_decide_eq_true (List.mem_filter.1 he).2)
    fun n => { n with parent := BitVec.ofNat 32 (handleOf s1 0) }
  generalize List.foldl _ s3 _ = s4 at h3
  have h4 := fun n => (h3.markedNode (i := 3) n (by decide) (by decide))
  generalize hs5 : markedNode s4 3 _ = s5
  have h5 : Rooted s5 := by
    rw [← hs5]
    exact h4 _
  generalize hs6 : markedNode s5 4 _ = s6
  have h6 : Rooted s6 := by
    rw [← hs6]
    exact h5.markedNode _ (by decide) (by decide)
  split
  · exact h6.markedNode _ (by decide) (by decide)
  · exact h6

/-! ### The start of the armature and of the keeper -/

/-- The state from which a start loads its tree. -/
def loadBase (s : State) : State := instToMarks { s with key := { s.key with nodes := [], gens := [] } }

theorem committedTicket_none {s : State} (h : s.fl.newTicket = none) : committedTicket s = false := by
  unfold committedTicket
  rw [h]

theorem loadBase_reads (s : State) : plinthState (loadBase s) = plinthState s ∧ ticketFound (loadBase s) = ticketFound s := ⟨rfl, rfl⟩

section
variable {s : State} {ok : Bool} (hn : s.fl.newTicket = none)
include hn

/-- Without a plinth in this state the tree stays empty. -/
theorem armStart_blank (hp : plinthState s = false) : armStart s ok =
    keyDone { loadBase s with key := { (loadBase s).key with plinth := false } } := by
  have hb : instToMarks { s with key := { s.key with nodes := [], gens := [] } } = loadBase s := rfl
  have hc : committedTicket (loadBase s) = false := committedTicket_none hn
  rw [← (loadBase_reads s).1] at hp
  unfold armStart
  dsimp only
  rw [hb, hc, if_neg Bool.false_ne_true, hp, if_neg Bool.false_ne_true]

/-- A state with a plinth, and no ticket that reads well. -/
theorem armStart_noTicket (hp : plinthState s = true) (ht : ok = false ∨ ticketFound s = none) : armStart s ok =
    keyDone { loadBase s with key := { (loadBase s).key with plinth := false }, lcy := { (loadBase s).lcy with noTicket := true } } := by
  have hb : instToMarks { s with key := { s.key with nodes := [], gens := [] } } = loadBase s := rfl
  have hc : committedTicket (loadBase s) = false := committedTicket_none hn
  obtain ⟨hps, htf⟩ := loadBase_reads s
  rw [← hps] at hp
  rw [← htf] at ht
  unfold armStart
  dsimp only
  rw [hb, hc, if_neg Bool.false_ne_true, hp, if_pos rfl]
  generalize loadBase s = z at ht
  rcases ht with rfl | ht
  · split
    · rfl
    · rfl
  · rw [ht]

/-- A good ticket: the tree is loaded. -/
theorem armStart_loads {t : Ticket} (hp : plinthState s = true) (ht : ticketFound s = some t) : armStart s true =
    keyDone { loadTree (loadBase s) t with key := { (loadTree (loadBase s) t).key with plinth := true } } := by
  have hb : instToMarks { s with key := { s.key with nodes := [], gens := [] } } = loadBase s := rfl
  have hc : committedTicket (loadBase s) = false := committedTicket_none hn
  obtain ⟨hps, htf⟩ := loadBase_reads s
  rw [← hps] at hp
  rw [← htf] at ht
  unfold armStart
  dsimp only
  rw [hb, hc, if_neg Bool.false_ne_true, hp, if_pos rfl, ht]
  exact if_pos rfl

end

theorem plinthState_blank {s : State} (h : lcState s = 0) : plinthState s = false := by
  unfold plinthState
  rw [h]
  rfl

theorem plinthState_life {s : State} (h1 : 1 ≤ lcState s) (h3 : lcState s ≤ 3) : plinthState s = true := by simp [plinthState, h1, h3]

theorem exec_optionLoadDone (a b : Bool) (s : State) : exec (.optionLoadDone a b) s = .next (optionLoad s a b) := rfl
theorem exec_armatureLoadDone (ok : Bool) (s : State) : exec (.armatureLoadDone ok) s = .next (armLoaded s ok) := rfl
theorem exec_keeperBoot (a b : Bool) (s : State) : exec (.keeperBoot a b) s = .next (keeperBootNow s a b) := rfl

theorem armLoaded_starts {s : State} (ok : Bool) (hr : s.key.ready = false) (hp : s.pwr.phase = .boot) (hn : s.key.nodes = []) :
    armLoaded s ok = armStart s ok := by
  have h : ¬ (s.key.ready = true ∨ s.pwr.phase = .aonInit ∨ s.pwr.phase = .optLoad) := by
    rw [hr, hp]
    decide
  unfold armLoaded
  rw [if_neg h, hn]
  rfl

/-- An image that boots: what the start takes from it. -/
theorem keeperBootNow_boots {s : State} {a b imgB fell : Bool} (hp : s.pwr.phase = .boot) (hd : domReady s dCIPHER = true)
    (h : pickImage s a b = some (imgB, fell)) : (keeperBootNow s a b).pwr.phase = .starting ∧ (keeperBootNow s a b).pwr.imageB = imgB ∧
      (keeperBootNow s a b).pwr.keeperRunning = true ∧
      (keeperBootNow s a b).fl.highVersion = max s.fl.highVersion (if imgB then s.fl.kimgB.version else s.fl.kimgA.version) := by
  have hn : ¬ (s.pwr.phase ≠ .boot ∨ (!domReady s dCIPHER) = true) := by simp [hp, hd]
  unfold keeperBootNow
  rw [if_neg hn, h]
  dsimp only
  generalize hy : setPwr (countArea _ 0) _ = y
  have hspec : y.pwr.phase = .starting ∧ y.pwr.imageB = imgB ∧ y.pwr.keeperRunning = true ∧
      y.fl.highVersion = max s.fl.highVersion (if imgB then s.fl.kimgB.version else s.fl.kimgA.version) := by
    rw [← hy]
    exact ⟨rfl, rfl, rfl, rfl⟩
  split
  · have hlog : LogOnly y (stageConfig y 4 (b2n imgB) (BitVec.ofNat 32 (if imgB then s.fl.kimgB.version else s.fl.kimgA.version))
        (if (if imgB then s.fl.kimgA else s.fl.kimgB).valid then BitVec.ofNat 32 (if imgB then s.fl.kimgA else s.fl.kimgB).version else 0)) :=
      stageSoon_logOnly _ _ _ _
    obtain ⟨r, j, p, hl⟩ := hlog
    rw [hl]
    exact hspec
  · exact hspec

theorem keeperBootNow_none {s : State} {a b : Bool} (hp : s.pwr.phase = .boot) (hd : domReady s dCIPHER = true) (h : pickImage s a b = none) :
    keeperBootNow s a b = enterSpillway s 3 := by
  have hn : ¬ (s.pwr.phase ≠ .boot ∨ (!domReady s dCIPHER) = true) := by simp [hp, hd]
  unfold keeperBootNow
  rw [if_neg hn, h]

/-- Settles O48: the option load is `optionLoad_none` or `optionLoad_copy`, the armature load ends in `keyDone`, and the boot ROM
starts what `pickImage` gives. -/
theorem startLoadsAndBoots : Obligations.StartLoadsAndBoots := by
  unfold Obligations.StartLoadsAndBoots
  intro s a b useA o spill
  refine ⟨fun hp hd => ⟨?_, fun hab => ⟨_, exec_optionLoadDone a b s, ?_⟩⟩, fun hp => ?_, fun hr => ?_, fun hr hp hn ht => ?_, fun hp hd =>
    ⟨fun h => ⟨_, exec_keeperBoot a b s, ?_⟩, fun imgB fell h => ⟨_, exec_keeperBoot a b s, keeperBootNow_boots hp hd h⟩⟩, fun hp => ?_⟩
  · rintro rfl rfl
    obtain ⟨hpow, -, -, hsame⟩ := optTaken_spec s false false 2 .restrictive
    refine ⟨_, exec_optionLoadDone false false s, ?_⟩
    rw [optionLoad_none hp hd]
    generalize optTaken s false false 2 .restrictive = y at hpow hsame
    obtain ⟨u, j, r, h⟩ := enterSpillway_spec y 2
    refine ⟨enterSpillway_spill y 2, ?_, ?_⟩
    · rw [h]
      exact (hsame (.inl rfl)).1
    · rw [h]
      change y.pwr.optUsed = 2
      rw [hpow]
  · have heq := optionLoad_copy hp hd hab (useA := useA) rfl
    change optionLoad s a b = optGoOn s (optTaken s a b (if useA then 0 else 1) o) o at heq
    obtain ⟨hpow, hclk, hcode, hsame⟩ := optTaken_spec s a b (if useA then 0 else 1) o
    rw [heq]
    generalize optTaken s a b (if useA then 0 else 1) o = y at hpow hclk hcode hsame
    obtain ⟨h1, h2, h3, h4, h5, h6⟩ := optGoOn_leaves s y o
    rw [h1, h2, h3, h4, h5, h6, hpow]
    refine ⟨rfl, rfl, rfl, hclk, hcode (by split <;> decide), fun h => hsame (.inr h), fun h => ?_, fun h h' => ?_, fun h h' => ?_⟩
    · rw [optGoOn, if_pos h]
      exact enterSpillway_spill y 4
    · rw [optGoOn, if_neg h, if_pos h']
      exact enterSpillway_spill y 1
    · rw [optGoOn, if_neg h, if_neg (Nat.not_le.2 h')]
      rfl
  · rw [exec_optionLoadDone, optionLoad, if_pos (.inl hp)]
  · rw [exec_armatureLoadDone, armLoaded, if_pos (.inl hr)]
  · rw [exec_armatureLoadDone, armLoaded_starts a hr hp hn]
    refine ⟨fun h0 => ⟨_, rfl, ?_⟩, fun h1 h3 hno => ⟨_, rfl, ?_⟩, fun h1 h3 ha htk hm => ⟨_, rfl, ?_⟩⟩
    · obtain ⟨r, p, h⟩ := keyDone_done { loadBase s with key := { (loadBase s).key with plinth := false } }
      rw [armStart_blank ht (plinthState_blank h0), h]
      exact ⟨rfl, rfl, rfl⟩
    · obtain ⟨r, p, h⟩ := keyDone_done { loadBase s with
        key := { (loadBase s).key with plinth := false }
        lcy := { (loadBase s).lcy with noTicket := true } }
      rw [armStart_noTicket ht (plinthState_life h1 h3) hno, h]
      exact ⟨rfl, rfl, rfl, rfl⟩
    · obtain ⟨t, htf⟩ := Option.ne_none_iff_exists'.1 htk
      obtain ⟨h0, h1'⟩ := loadTree_rooted (s := loadBase s) t hm
      rw [ha, armStart_loads ht (plinthState_life h1 h3) htf]
      generalize loadTree (loadBase s) t = y at h0 h1'
      obtain ⟨r, p, h⟩ := keyDone_done { y with key := { y.key with plinth := true } }
      rw [h]
      exact ⟨rfl, rfl, h0, h1'⟩
  · rw [keeperBootNow_none hp hd h]
    exact enterSpillway_spill s 3
  · rw [exec_keeperBoot, keeperBootNow, if_pos (.inl hp)]

end Sys2Proof.Machine
end
section
/-! ## Domains and the keeper's restart (R23, R24, R230, R317, R383, R384) -/

namespace Sys2Proof.Machine
open Sys2Proof

/-! ### A function reset, as the rest of the device sees it -/

/-- Work on the channels, the radio and in the rings is another; nothing else. -/
def WorkOnly (s t : State) : Prop := ∃ l r e a, t = { s with lf := l, ring := r, ent := e, rad := a }

namespace WorkOnly

theorem refl (s : State) : WorkOnly s s := ⟨s.lf, s.ring, s.ent, s.rad, rfl⟩

theorem trans {s t u : State} (h : WorkOnly s t) (k : WorkOnly t u) : WorkOnly s u := by
  obtain ⟨_, _, _, _, rfl⟩ := h
  obtain ⟨l, r, e, a, rfl⟩ := k
  exact ⟨l, r, e, a, rfl⟩

theorem ite {s t u : State} {c : Prop} [Decidable c] (h : WorkOnly s t) (k : WorkOnly s u) : WorkOnly s (if c then t else u) := by
  split
  · exact h
  · exact k

theorem foldl {α : Type} {f : State → α → State} (hf : ∀ s a, WorkOnly s (f s a)) (l : List α) (s : State) : WorkOnly s (l.foldl f s) := by
  induction l generalizing s with
  | nil => exact .refl s
  | cons a l ih => exact (hf s a).trans (ih (f s a))

end WorkOnly

theorem modChan_workOnly (s : State) (n : Nat) (f : Chan → Chan) : WorkOnly s (modChan s n f) := ⟨_, _, _, _, rfl⟩

theorem arm_workOnly (s : State) (ch : Nat) : WorkOnly s (arm s ch) := by
  have h1 : WorkOnly s (armOnce s ch) := by
    unfold armOnce
    split
    · exact .refl s
    · split
      · exact .refl s
      · refine .ite (.refl s) ?_
        obtain ⟨z, n, r, ha, r', e', hz⟩ := askNonce_spec s ch { bindTarget s ch _ with
          phase := if nonceBits (bindTarget s ch _) = 0 then .waitAdmit else .waitNonce }
        rw [ha, hz]
        exact ⟨_, _, _, _, rfl⟩
  unfold arm
  refine h1.trans ?_
  unfold nonceArrived
  split
  · exact .ite (modChan_workOnly _ _ _) (.refl _)
  · exact .refl _

theorem dropJobs_workOnly (s : State) (uid : Nat) : WorkOnly s (dropJobs s uid) := by
  unfold dropJobs
  refine WorkOnly.foldl (fun z ch => ?_) _ s
  dsimp only
  split
  · refine WorkOnly.trans ?_ (arm_workOnly _ ch)
    refine WorkOnly.trans ?_ (modChan_workOnly _ _ _)
    split
    · exact .ite ⟨_, _, _, _, rfl⟩ (.refl z)
    · exact .refl z
  · exact .refl z

theorem withdrawWork_workOnly (s : State) (uid : Nat) : WorkOnly s (withdrawWork s uid) := by
  unfold withdrawWork dropWaiting dropWait
  have h := dropJobs_workOnly s uid
  generalize dropJobs s uid = z at h
  exact h.trans ⟨_, _, _, _, rfl⟩

theorem functionReset_workOnly (s : State) : WorkOnly s (functionReset s) := by
  unfold functionReset
  dsimp only
  have h := WorkOnly.foldl (f := fun s (c : Cmd) => dropCmd (withdrawWork s c.uid) c.uid)
    (fun z c => (withdrawWork_workOnly z c.uid).trans ⟨_, _, _, _, rfl⟩) (s.ring.cmds.filter (cmdWaits s)) s
  generalize List.foldl _ s (s.ring.cmds.filter (cmdWaits s)) = z at h
  exact h.trans ⟨_, _, _, _, rfl⟩

/-! ### A domain without power (R384) -/

/-- What a domain's loss leaves: time, meter, credit, keys, flash, life-cycle and the other domains. -/
def LostFrame (d : Nat) (s t : State) : Prop := ∃ l r e a u j f c, t = { s with
  lf := l
  ring := r
  ent := e
  rad := a
  slu := u
  jrn := j
  flt := f
  cip := c
  pwr := (setDom s d Dom.off).pwr }

theorem LostFrame.of_workOnly {d : Nat} {s t : State} (h : WorkOnly (setDom s d Dom.off) t) : LostFrame d s t := by
  obtain ⟨l, r, e, a, rfl⟩ := h
  exact ⟨_, _, _, _, _, _, _, _, rfl⟩

theorem LostFrame.still {d : Nat} {s t : State} (h : LostFrame d s t) : getDom t d = Dom.off ∧ t.clk = s.clk ∧ t.lcy = s.lcy := by
  obtain ⟨l, r, e, a, u, j, f, c, rfl⟩ := h
  exact ⟨getDom_setDom s d Dom.off, rfl, rfl⟩

theorem domainLost_lostFrame (s : State) (d : Nat) : LostFrame d s (domainLost s d) := by
  unfold domainLost
  dsimp only
  split
  · have hl := laneOff_stop (setDom s d Dom.off) .b
    generalize (if laneDead (setDom s d Dom.off) .b then setDom s d Dom.off else laneDown (setDom s d Dom.off) .b .off) = z at hl
    rw [hl.frame]
    exact ⟨_, _, _, _, _, _, _, _, rfl⟩
  · split
    · have hf := functionReset_workOnly (setDom s d Dom.off)
      generalize functionReset (setDom s d Dom.off) = z at hf
      exact .of_workOnly (hf.trans ⟨_, _, _, _, rfl⟩)
    · split
      · exact ⟨_, _, _, _, _, _, _, _, rfl⟩
      · split
        · exact ⟨_, _, _, _, _, _, _, _, rfl⟩
        · split
          · exact ⟨_, _, _, _, _, _, _, _, rfl⟩
          · split
            · exact ⟨_, _, _, _, _, _, _, _, rfl⟩
            · split
              · exact ⟨_, _, _, _, _, _, _, _, rfl⟩
              · exact ⟨_, _, _, _, _, _, _, _, rfl⟩

theorem domainLost_entropy (s : State) : (domainLost s dENTROPY).ent.st = .off ∧ (domainLost s dENTROPY).ent.key = 0 ∧
    (domainLost s dENTROPY).ent.v = 0 ∧ (domainLost s dENTROPY).ent.pool = [] := ⟨rfl, rfl, rfl, rfl⟩

theorem domainLost_cipher (s : State) : (domainLost s dCIPHER).cip.mode = Cipher.reset.mode ∧ (domainLost s dCIPHER).cip.blocks = s.cip.blocks :=
  ⟨rfl, rfl⟩

theorem domainLost_bank (s : State) {d : Nat} (h : 13 ≤ d) : (getBank (domainLost s d) (d - 13)).ready = false := by
  obtain ⟨b, rfl⟩ := Nat.exists_eq_add_of_le h
  have hne : 13 + b ≠ dSLUICE ∧ 13 + b ≠ dLINK ∧ 13 + b ≠ dCIPHER ∧ 13 + b ≠ dENTROPY ∧ 13 + b ≠ dRADIO ∧ 13 + b ≠ dMETER := by
    unfold dSLUICE dLINK dCIPHER dENTROPY dRADIO dMETER
    omega
  obtain ⟨h1, h2, h3, h4, h5, h6⟩ := hne
  unfold domainLost
  dsimp only
  rw [if_neg h1, if_neg h2, if_neg h3, if_neg h4, if_neg h5, if_neg h6, if_pos h, getBank_setBank]
  rfl

/-! ### A domain with power, and ready (R317, R349, R383) -/

theorem domainOn_on {s : State} {d : Nat} (h0 : d ≠ 0) (hon : (getDom s d).on = false) (hr : domRetired s d = false) (hh : domHeld s d = true)
    (hs : supplyAllows s d = true) (hp : phaseAllows s d = true) : domainOn s d =
      if d = dENTROPY then
        setEnt (setDom s d ⟨true, false, 0⟩) fun e => { e with
          st := .warmup
          aPass := false
          bPass := false
          pool := []
          winOn := 0
          runA := (0, false)
          runB := (0, false)
          key := 0
          v := 0
          reqs := 0
          powerUps := (e.powerUps + 1) % 2 ^ 32
          credited := 0
          prog := ⟨0, 0, true⟩ }
      else if d = dLINK then functionReset (setDom s d ⟨true, false, 0⟩)
      else setDom s d ⟨true, false, 0⟩ := by
  unfold domainOn
  exact if_neg (by simp [h0, hon, hr, hh, hs, hp])

theorem domainOn_stays {s : State} {d : Nat} (h : (getDom s d).on = true ∨ domHeld s d = false) : domainOn s d = s := by
  unfold domainOn
  refine if_pos ?_
  rcases h with h | h
  · exact .inl h
  · exact .inr (.inr (.inr (.inl (by rw [h]; rfl))))

theorem domainReady_now {s : State} {d : Nat} (hon : (getDom s d).on = true) (hr : (getDom s d).ready = false) : domainReady s d =
    if 13 ≤ d then bankReadyNow s (d - 13)
    else if d = dSLUICE then laneReturns (setDom s d { getDom s d with ready := true }) .b
    else if d = dMETER then meterReady (setDom s d { getDom s d with ready := true })
    else if d = dCIPHER then cipherStart (setDom s d { getDom s d with ready := true })
    else setDom s d { getDom s d with ready := true } := by
  unfold domainReady
  exact if_neg (by simp [hon, hr])

theorem domainReady_stays {s : State} {d : Nat} (h : (getDom s d).on = false ∨ (getDom s d).ready = true) : domainReady s d = s := by
  unfold domainReady
  refine if_pos ?_
  rcases h with h | h
  · exact .inl (by rw [h]; rfl)
  · exact .inr h

/-! ### METER becomes ready (R217, R230, R232) -/

/-- Only the loss mark moves in the ledger; of the power registers only what waits for the chain. -/
def LossOnly (s t : State) : Prop := ∃ r j p f g b, t = { s with
  ring := r
  jrn := j
  pwr := { s.pwr with startRecs := p }
  flt := f
  fl := g
  ldg := { s.ldg with loss := b } }

namespace LossOnly

theorem refl (s : State) : LossOnly s s := ⟨s.ring, s.jrn, s.pwr.startRecs, s.flt, s.fl, s.ldg.loss, rfl⟩

theorem trans {s t u : State} (h : LossOnly s t) (k : LossOnly t u) : LossOnly s u := by
  obtain ⟨_, _, _, _, _, _, rfl⟩ := h
  obtain ⟨r, j, p, f, g, b, rfl⟩ := k
  exact ⟨r, j, p, f, g, b, rfl⟩

theorem of_logOnly {s t : State} (h : LogOnly s t) : LossOnly s t := by
  obtain ⟨r, j, p, rfl⟩ := h
  exact ⟨r, j, p, s.flt, s.fl, s.ldg.loss, rfl⟩

theorem foldl {α : Type} {f : State → α → State} (hf : ∀ s a, LossOnly s (f s a)) (l : List α) (s : State) : LossOnly s (l.foldl f s) := by
  induction l generalizing s with
  | nil => exact .refl s
  | cons a l ih => exact (hf s a).trans (ih (f s a))

end LossOnly

theorem stageLoss_lossOnly (s : State) (first count cause : Nat) : LossOnly s (stageLoss s first count cause) := by
  obtain ⟨r, j, p, h⟩ := stage_logOnly { s with ldg := { s.ldg with loss := true } } 0x06 9
    [(20, leBytes first 6), (26, leBytes count 4), (30, leBytes cause 1)]
  unfold stageLoss
  rw [h]
  exact ⟨_, _, _, s.flt, s.fl, _, rfl⟩

theorem stageLost_lossOnly (s : State) : LossOnly s (stageLost s) := by
  unfold stageLost
  dsimp only
  generalize hz : ({ s with fl := _ } : State) = z
  have h : LossOnly s z := by
    rw [← hz]
    exact ⟨s.ring, s.jrn, s.pwr.startRecs, s.flt, _, s.ldg.loss, rfl⟩
  split
  · exact h
  · exact h.trans (LossOnly.foldl (fun z p => stageLoss_lossOnly z _ _ _) _ _)

theorem journalFound_lossOnly (s : State) (j : Journal) : LossOnly s { journalFound s with jrn := j } := by
  unfold journalFound
  split
  · exact ⟨s.ring, j, s.pwr.startRecs, s.flt, s.fl, s.ldg.loss, rfl⟩
  · exact ⟨s.ring, j, s.pwr.startRecs, s.flt, _, s.ldg.loss, rfl⟩

theorem countStop_lossOnly (s : State) : LossOnly s (countStop s) := ⟨s.ring, s.jrn, s.pwr.startRecs, _, s.fl, s.ldg.loss, rfl⟩

theorem journalRecover_lossOnly (s : State) : LossOnly s (journalRecover s) := by
  unfold journalRecover
  dsimp only
  generalize hz : stageLost _ = z
  have h : LossOnly s z := by
    rw [← hz]
    exact (journalFound_lossOnly s _).trans (stageLost_lossOnly _)
  split
  · exact (h.trans (countStop_lossOnly z)).trans (stageLoss_lossOnly _ _ _ _)
  · exact h

theorem flushStartRecs_lossOnly (s : State) : LossOnly s (flushStartRecs s) := by
  unfold flushStartRecs
  exact LossOnly.trans ⟨s.ring, s.jrn, [], s.flt, s.fl, s.ldg.loss, rfl⟩
    (LossOnly.foldl (fun z r => .of_logOnly (stageRec_logOnly z _ _ _ _ _)) _ _)

theorem ringFound_counter (s : State) : ∃ f, ringFound s = { s with fl := f } ∧ f.counter = startCounter s ∧ f.newTicket = s.fl.newTicket := by
  unfold ringFound
  split
  · next h => exact ⟨s.fl, rfl, by rw [startCounter, if_pos h], rfl⟩
  · exact ⟨_, rfl, rfl, rfl⟩

/-- The ledger's load touches ledger, meter and flash alone. -/
theorem ledgerLoad_frame (s : State) : ∃ m g f, ledgerLoad s = { s with mtr := m, ldg := g, fl := f } := by
  obtain ⟨f, h, -, -⟩ := ringFound_counter s
  unfold ledgerLoad
  rw [h]
  dsimp only
  split
  · exact ⟨_, _, _, rfl⟩
  · exact ⟨_, _, _, rfl⟩

/-- What the newest counter record gives to a ledger that is ACTIVE. -/
structure CounterLoaded (r : CounterRec) (t : State) : Prop where
  st : t.ldg.st = .active
  cA : t.ldg.cA = r.bkt
  cB : t.ldg.cB = r.bkt
  eDis : t.mtr.eDis = r.eDis
  eChg : t.mtr.eChg = r.eChg
  h : t.ldg.h = r.h
  map : t.ldg.map = r.map
  rseq : t.ldg.rseq = r.rseq

theorem ledgerLoad_loads {s : State} {r : CounterRec} (hr : startCounter s = some r) (h1 : 1 ≤ lcState s) (h3 : lcState s ≤ 3)
    (ht : s.fl.newTicket = none) : CounterLoaded r (ledgerLoad s) := by
  obtain ⟨f, h, hc, htk⟩ := ringFound_counter s
  have hlife : chainLife { s with fl := f } = true := by
    have hn : ({ s with fl := f } : State).fl.newTicket = none := htk.trans ht
    have hl : lcState { s with fl := f } = lcState s := rfl
    unfold chainLife
    rw [hn]
    dsimp only
    rw [hl]
    simp [h1, h3]
  unfold ledgerLoad
  rw [h]
  dsimp only
  rw [hc, hr]
  dsimp only
  rw [hlife, htk, ht]
  exact ⟨rfl, rfl, rfl, rfl, rfl, rfl, rfl, rfl⟩

theorem CounterLoaded.loss {r : CounterRec} {s t : State} (h : CounterLoaded r s) (k : LossOnly s t) : CounterLoaded r t := by
  obtain ⟨_, _, _, _, _, _, rfl⟩ := k
  obtain ⟨h1, h2, h3, h4, h5, h6, h7, h8⟩ := h
  exact ⟨h1, h2, h3, h4, h5, h6, h7, h8⟩

theorem countArea_flt (s : State) (area : Nat) : ∃ f, countArea s area = { s with flt := f } := ⟨_, rfl⟩

/-- The state from which METER loads: the flash errors of its areas are counted. -/
def meterFound (s : State) : State := countArea (countArea (countArea s 3) 5) 6

theorem meterFound_reads (s : State) : (∃ f, meterFound s = { s with flt := f }) ∧ startCounter (meterFound s) = startCounter s ∧
    lcState (meterFound s) = lcState s ∧ (meterFound s).fl = s.fl := by
  obtain ⟨f1, h1⟩ := countArea_flt s 3
  obtain ⟨f2, h2⟩ := countArea_flt { s with flt := f1 } 5
  obtain ⟨f3, h3⟩ := countArea_flt { s with flt := f2 } 6
  have h : meterFound s = { s with flt := f3 } := by
    unfold meterFound
    rw [h1, h2, h3]
  rw [h]
  exact ⟨⟨f3, rfl⟩, rfl, rfl, rfl⟩

theorem meterReady_loaded (s : State) : LossOnly (ledgerLoad (meterFound s)) (meterReady s) :=
  (journalRecover_lossOnly (ledgerLoad (meterFound s))).trans (flushStartRecs_lossOnly _)

theorem meterReady_still (s : State) : (meterReady s).clk = s.clk ∧ (meterReady s).pwr.doms = s.pwr.doms := by
  obtain ⟨⟨f, hf⟩, -, -, -⟩ := meterFound_reads s
  obtain ⟨m, g, k, hl⟩ := ledgerLoad_frame (meterFound s)
  obtain ⟨_, _, _, _, _, _, h⟩ := meterReady_loaded s
  rw [h, hl, hf]
  exact ⟨rfl, rfl⟩

theorem meterReady_loads {s : State} {r : CounterRec} (hr : startCounter s = some r) (h1 : 1 ≤ lcState s) (h3 : lcState s ≤ 3)
    (ht : s.fl.newTicket = none) : CounterLoaded r (meterReady s) := by
  obtain ⟨-, hc, hl, hfl⟩ := meterFound_reads s
  exact (ledgerLoad_loads (hc.trans hr) (by rwa [hl]) (by rwa [hl]) (by rwa [hfl])).loss (meterReady_loaded s)

/-! ### The keeper's restart (R23, R24) -/

/-- What the release of the held work leaves: time, ledger, and nothing held again. -/
structure Released (s t : State) : Prop where
  clk : t.clk = s.clk
  ldg : t.ldg = s.ldg
  flt : t.flt = s.flt
  events : t.ring.restartEv = s.ring.restartEv
  completions : t.ring.restartCp = s.ring.restartCp
  deferred : t.ring.deferred = s.ring.deferred

namespace Released

theorem refl (s : State) : Released s s := ⟨rfl, rfl, rfl, rfl, rfl, rfl⟩

theorem trans {s t u : State} (h : Released s t) (k : Released t u) : Released s u :=
  ⟨k.clk.trans h.clk, k.ldg.trans h.ldg, k.flt.trans h.flt, k.events.trans h.events, k.completions.trans h.completions,
    k.deferred.trans h.deferred⟩

theorem ite {s t u : State} {c : Prop} [Decidable c] (h : Released s t) (k : Released s u) : Released s (if c then t else u) := by
  split
  · exact h
  · exact k

/-- A step that releases while the keeper is back. -/
theorem foldl {α : Type} {f : State → α → State} (hf : ∀ s a, s.flt.restarting = false → Released s (f s a)) (l : List α) :
    ∀ s : State, s.flt.restarting = false → Released s (l.foldl f s) := by
  induction l with
  | nil => exact fun s _ => .refl s
  | cons a l ih =>
    intro s hs
    have h := hf s a hs
    exact h.trans (ih (f s a) (by rw [h.flt]; exact hs))

end Released

theorem emit_released (s : State) (o : BusOut) : Released s (emit s o) := by
  unfold emit
  exact .ite ⟨rfl, rfl, rfl, rfl, rfl, rfl⟩ ⟨rfl, rfl, rfl, rfl, rfl, rfl⟩

theorem sendVector_released (s : State) (v : Nat) : Released s (sendVector s v) := by
  unfold sendVector
  exact .ite (.refl s) (.ite ⟨rfl, rfl, rfl, rfl, rfl, rfl⟩ (emit_released s _))

theorem setCq_released (s : State) (n : Nat) (q : Cq) : Released s (setCq s n q) := ⟨rfl, rfl, rfl, rfl, rfl, rfl⟩

theorem setEq_released (s : State) (q : Eq) : Released s { s with ring := { s.ring with eq := q } } := ⟨rfl, rfl, rfl, rfl, rfl, rfl⟩

theorem eqIrq_released (s : State) : Released s (eqIrq s) := by
  unfold eqIrq
  dsimp only
  exact .ite ((setEq_released s _).trans (sendVector_released _ _)) (setEq_released s _)

theorem cqIrq_released (s : State) (n : Nat) : Released s (cqIrq s n) := by
  unfold cqIrq
  dsimp only
  exact .ite ((setCq_released s n _).trans (sendVector_released _ _)) (setCq_released s n _)

theorem writeEvent_released (s : State) (e : Event) : Released s (writeEvent s e) := by
  unfold writeEvent
  dsimp only
  refine .ite ?_ ⟨rfl, rfl, rfl, rfl, rfl, rfl⟩
  have h := emit_released s (.event (s.ring.eq.base + BitVec.ofNat 64 (16 * s.ring.eq.tail)) s.ring.eq.tail s.ring.eq.phase s.ring.eq.lost e)
  generalize emit s _ = z at h
  exact (h.trans (setEq_released z _)).trans (eqIrq_released _)

theorem writeCompletion_released (s : State) (n : Nat) (c : Completion) : Released s (writeCompletion s n c) := by
  unfold writeCompletion
  dsimp only
  generalize hy : setCq (emit s _) n _ = y
  have hyr : Released s y := by
    rw [← hy]
    exact (emit_released s _).trans (setCq_released _ n _)
  have hz : Released s { y with ring := { y.ring with posted := sat 32 (y.ring.posted + 1) } } := hyr.trans ⟨rfl, rfl, rfl, rfl, rfl, rfl⟩
  exact .ite hz (hz.trans (cqIrq_released _ n))

theorem postCompletion_released (s : State) (n : Nat) (c : Completion) (h : s.flt.restarting = false) : Released s (postCompletion s n c) := by
  unfold postCompletion
  dsimp only
  refine .ite (.refl s) ?_
  rw [h, if_neg Bool.false_ne_true]
  exact .ite (writeCompletion_released s n c) (setCq_released s n _)

theorem swapTable_released (s : State) : Released s (swapTable s) := by
  unfold swapTable
  exact .ite (.refl s) ⟨rfl, rfl, rfl, rfl, rfl, rfl⟩

theorem appendEntry_released (s : State) (e : RetEntry) (h : s.flt.restarting = false) : Released s (appendEntry s e) := by
  unfold appendEntry
  rw [h, if_neg Bool.false_ne_true]
  dsimp only
  exact (swapTable_released s).trans ⟨rfl, rfl, rfl, rfl, rfl, rfl⟩

/-- The state in which the keeper is back and its queues are taken. -/
def resumed (s : State) : State := { s with
  flt := { s.flt with restarting := false, restartUids := [] }
  ring := { s.ring with restartEv := [], restartCp := [] } }

theorem flushLog_released (s : State) (h : s.flt.restarting = false) : Released { s with flt := { s.flt with logDue := [] } } (flushLog s) :=
  Released.foldl (fun z e hz => appendEntry_released z e hz) s.flt.logDue { s with flt := { s.flt with logDue := [] } } h

theorem flushLog_none {s : State} (h : s.flt.logDue = []) : flushLog s = s := by
  unfold flushLog
  rw [h, List.foldl_nil, ← h]

theorem runDeferred_none {s : State} (h : s.ring.deferred = []) : runDeferred s = s := by
  unfold runDeferred
  rw [h, List.foldl_nil, ← h]

theorem restartDone_eq {s : State} (hr : s.flt.restarting = true) (hu : s.flt.restartUids = []) : restartDone s =
    runDeferred (s.ring.restartCp.foldl (fun s p => postCompletion s p.1 p.2) (s.ring.restartEv.foldl writeEvent (flushLog (resumed s)))) := by
  unfold restartDone
  rw [hr, if_neg (by decide), hu]
  rfl

/-- A restart with nothing deferred ends with nothing held. -/
theorem restartDone_releases {s : State} (hr : s.flt.restarting = true) (hd : s.ring.deferred = []) (hu : s.flt.restartUids = []) :
    Released { resumed s with flt := { (resumed s).flt with logDue := [] } } (restartDone s) := by
  rw [restartDone_eq hr hu]
  have h1 := flushLog_released (resumed s) rfl
  generalize flushLog (resumed s) = a at h1
  have ha : a.flt.restarting = false := by rw [h1.flt]; rfl
  have h2 := Released.foldl (fun z e _ => writeEvent_released z e) s.ring.restartEv a ha
  generalize s.ring.restartEv.foldl writeEvent a = b at h2
  have h3 := Released.foldl (f := fun s (p : Nat × Completion) => postCompletion s p.1 p.2) (fun z p hz => postCompletion_released z p.1 p.2 hz)
    s.ring.restartCp b (by rw [h2.flt]; exact ha)
  generalize s.ring.restartCp.foldl (fun s p => postCompletion s p.1 p.2) b = c at h3
  have h := (h1.trans h2).trans h3
  rw [runDeferred_none (h.deferred.trans hd)]
  exact h

theorem restartDone_idle {s : State} (hr : s.flt.restarting = true) (hl : s.flt.logDue = []) (he : s.ring.restartEv = [])
    (hc : s.ring.restartCp = []) (hu : s.flt.restartUids = []) (hd : s.ring.deferred = []) :
    restartDone s = { s with flt := { s.flt with restarting := false } } := by
  have h : resumed s = { s with flt := { s.flt with restarting := false } } := by
    unfold resumed
    rw [← he]
    conv_lhs => rw [he, ← hc]
    rw [← hu, ← he]
  rw [restartDone_eq hr hu, he, hc, List.foldl_nil, List.foldl_nil, flushLog_none (s := resumed s) hl, runDeferred_none (s := resumed s) hd, h]

theorem laneReturns_slu (s : State) (l : LaneId) : ∃ u, laneReturns s l = { s with slu := u } := by
  unfold laneReturns
  cases l
  all_goals
    dsimp only
    split
    · exact ⟨s.slu, rfl⟩
    · exact ⟨_, rfl⟩

theorem domReady_setDom (s : State) (d : Nat) {x : Dom} (hon : x.on = true) : domReady (setDom s d { x with ready := true }) d = true := by
  unfold domReady
  rw [getDom_setDom]
  exact Bool.and_eq_true_iff.2 ⟨hon, rfl⟩

/-- A domain below the banks is ready, in time that stands. -/
theorem domainReady_ready {s : State} {d : Nat} (hon : (getDom s d).on = true) (hr : (getDom s d).ready = false) (hd : d < 13) :
    domReady (domainReady s d) d = true ∧ (domainReady s d).clk = s.clk := by
  rw [domainReady_now hon hr, if_neg (by omega)]
  have hset := domReady_setDom s d hon
  have hclk : (setDom s d { getDom s d with ready := true }).clk = s.clk := rfl
  generalize setDom s d { getDom s d with ready := true } = z at hset hclk
  rw [← hclk]
  split
  · obtain ⟨u, h⟩ := laneReturns_slu z .b
    rw [h]
    exact ⟨hset, rfl⟩
  · split
    · obtain ⟨hc, hp⟩ := meterReady_still z
      refine ⟨?_, hc⟩
      rw [← hset]
      unfold domReady getDom
      rw [hp]
    · split
      · exact ⟨hset, rfl⟩
      · exact ⟨hset, rfl⟩

theorem domainOff_off {s : State} {d : Nat} (h0 : d ≠ 0) (hon : (getDom s d).on = true) (hh : domHeld s d = false)
    (hi : regF s .pwrCfg 8 8 < (getDom s d).idle) : domainOff s d = domainLost s d := by
  unfold domainOff
  refine if_neg ?_
  rintro (h | h | h | h)
  · exact h0 h
  · rw [hon] at h
    cases h
  · rw [hh] at h
    cases h
  · exact absurd h (Nat.not_le.2 hi)

theorem domainOff_stays {s : State} {d : Nat} (h : (getDom s d).on = false ∨ domHeld s d = true ∨ (getDom s d).idle ≤ regF s .pwrCfg 8 8) :
    domainOff s d = s := by
  unfold domainOff
  refine if_pos (.inr ?_)
  rcases h with h | h | h
  · exact .inl (by rw [h]; rfl)
  · exact .inr (.inl h)
  · exact .inr (.inr h)

theorem keeperDown_stops {s : State} (hk : s.pwr.keeperRunning = true) (hr : s.flt.restarting = false) (hd : domReady s dKEEPER = true) :
    keeperDown s = { s with flt := { s.flt with restarting := true, wdt := sat 16 (s.flt.wdt + 1) }, slu := { s.slu with prepare := none } } :=
  if_neg (by simp [hk, hr, hd])

theorem keeperDown_stays {s : State} (h : s.pwr.keeperRunning = false ∨ s.flt.restarting = true) : keeperDown s = s :=
  if_pos (h.imp (fun h => by rw [h]; rfl) .inl)

theorem restartDone_stays {s : State} (h : s.flt.restarting = false) : restartDone s = s := if_pos (by rw [h]; rfl)

theorem exec_domainSwitchOn (d : Fin 17) (s : State) : exec (.domainSwitchOn d) s = .next (domainOn s d.val) := rfl
theorem exec_domainReady (d : Fin 17) (s : State) : exec (.domainReady d) s = .next (domainReady s d.val) := rfl
theorem exec_domainSwitchOff (d : Fin 17) (s : State) : exec (.domainSwitchOff d) s = .next (domainOff s d.val) := rfl
theorem exec_keeperWatchdog (s : State) : exec .keeperWatchdog s = .next (keeperDown s) := rfl
theorem exec_keeperRestartDone (s : State) : exec .keeperRestartDone s = .next (restartDone s) := rfl

/-- Settles O50: switching on is `domainOn_on`, ready `domainReady_ready` with `meterReady_loads`, switching off
`domainLost_lostFrame`, and the restart's end `restartDone_releases`. -/
theorem domainsAndKeeperRestart : Obligations.DomainsAndKeeperRestart := by
  unfold Obligations.DomainsAndKeeperRestart
  refine ⟨fun s d hd => ?_, fun s => ⟨fun hk hr hd => ?_, fun h => ?_, fun hr hl he hc hu hd => ?_, fun hr hd hu => ?_, fun h => ?_⟩⟩
  · intro x
    rw [exec_domainSwitchOn, exec_domainReady, exec_domainSwitchOff]
    refine ⟨fun hon hr hh hs hp => ⟨_, rfl, ?_⟩, fun h => congrArg _ (domainOn_stays h), fun hon hr h13 => ⟨_, rfl, ?_⟩, fun hon hr h13 hs => ?_,
      fun h => congrArg _ (domainReady_stays h), fun hon hh hi => ⟨_, rfl, ?_⟩, fun h => congrArg _ (domainOff_stays h)⟩
    · rw [domainOn_on hd hon hr hh hs hp]
      by_cases he : d.val = dENTROPY
      · rw [if_pos he]
        exact ⟨getDom_setDom s d.val _, fun _ => ⟨rfl, rfl, rfl⟩, fun h => absurd he h⟩
      · rw [if_neg he]
        by_cases hl : d.val = dLINK
        · rw [if_pos hl]
          obtain ⟨l, r, e, a, hf⟩ := functionReset_workOnly (setDom s d.val ⟨true, false, 0⟩)
          rw [hf]
          exact ⟨getDom_setDom s d.val _, fun h => absurd h he, fun _ h => absurd hl h⟩
        · rw [if_neg hl]
          exact ⟨getDom_setDom s d.val _, fun h => absurd h he, fun _ _ => rfl⟩
    · obtain ⟨hready, hclk⟩ := domainReady_ready hon hr h13
      refine ⟨hready, hclk, fun h1 h2 h3 => ?_, fun hm r hc hlo hhi ht => ?_⟩
      · rw [domainReady_now hon hr, if_neg (by omega), if_neg h1, if_neg h2, if_neg h3]
      · have heq : domainReady s d.val = meterReady (setDom s d.val { getDom s d.val with ready := true }) := by
          rw [domainReady_now hon hr, if_neg (by omega), hm, if_neg (by decide), if_pos rfl]
        obtain ⟨h1, h2, h3, h4, h5, h6, h7, h8⟩ := meterReady_loads (s := setDom s d.val { getDom s d.val with ready := true }) hc hlo hhi ht
        rw [heq]
        exact ⟨h1, h2, h3, h4, h5, h6, h7, h8⟩
    · have hb : dBANK (d.val - 13) = d.val := by
        unfold dBANK
        omega
      have hk : 5 + (d.val - 13) = d.val - 8 := by omega
      rw [domainReady_now hon hr, if_pos h13, bankReadyNow, hb, hk]
      dsimp only
      rw [if_pos (Bool.and_eq_true_iff.2 ⟨hon, hs⟩)]
    · rw [domainOff_off hd hon hh hi]
      obtain ⟨hdom, hclk, hlcy⟩ := (domainLost_lostFrame s d.val).still
      refine ⟨hdom, hclk, congrArg Life.fuses hlcy, fun h => ?_, fun h => ?_, fun h => domainLost_bank s h⟩
      · rw [h]
        exact domainLost_entropy s
      · rw [h]
        exact domainLost_cipher s
  · rw [exec_keeperWatchdog, keeperDown_stops hk hr hd]
  · rw [exec_keeperWatchdog, keeperDown_stays h]
  · rw [exec_keeperRestartDone, restartDone_idle hr hl he hc hu hd]
  · obtain ⟨hclk, hldg, hflt, hev, hcp, -⟩ := restartDone_releases hr hd hu
    refine ⟨_, exec_keeperRestartDone s, ?_, hev, hcp, ?_, hclk, hldg⟩
    · rw [hflt]
      rfl
    · rw [hflt]
  · rw [exec_keeperRestartDone, restartDone_stays h]

end Sys2Proof.Machine
end
section
/-! ## Power states (R386 to R391) -/

namespace Sys2Proof.Machine
open Sys2Proof

/-! ### Performance levels, DOZE and the wait of an entry (R386, R389, R391) -/

theorem exec_vcoreRampCheck (reached : Bool) (s : State) : exec (.vcoreRampCheck reached) s = .next (rampCheck s reached) := rfl
theorem exec_dozeEntry (s : State) : exec .dozeEntry s = .next (dozeEnter s) := rfl
theorem exec_dozeExit (s : State) : exec .dozeExit s = .next (dozeLeave s) := rfl
theorem exec_entryWaitExpiry (s : State) : exec .entryWaitExpiry s = .next (entryExpire s) := rfl
theorem exec_powerDownEntry (s : State) : exec .powerDownEntry s = .next (powerDown s) := rfl

theorem rampCheck_ends {s : State} (reached : Bool) (h : s.pwr.ramp = true) : rampCheck s reached = { s with pwr :=
    if reached then { s.pwr with plEff := s.pwr.plTarget, ramp := false }
    else { s.pwr with plTarget := s.pwr.plEff, vsel := s.pwr.plEff, ramp := false, rampFail := true } } := by
  unfold rampCheck
  rw [h, if_neg (by decide)]
  cases reached <;> rfl

theorem rampCheck_stays {s : State} (reached : Bool) (h : s.pwr.ramp = false) : rampCheck s reached = s := if_pos (by rw [h]; rfl)

/-! ### The ledger parks (R232) -/

/-- What closing a session and parking leave: time, fuses, power and outputs; the session is closed. -/
structure Parked (s t : State) : Prop where
  clk : t.clk = { s.clk with fresh := t.clk.fresh }
  fuses : t.lcy.fuses = s.lcy.fuses
  dbg : t.lcy.dbg = .locked
  slu : t.slu = s.slu
  credit : s.ldg.st ≠ .active ∨ meterRuns s = false → t.ldg.cA = s.ldg.cA
  park : s.ldg.st = .active → t.ldg.st = .parked ∧ ∃ r, t.fl.counter = some r ∧ r.kind = 3 ∧ r.bkt = t.ldg.cA ∧ r.eDis = t.mtr.eDis

/-- The session's end leaves meter, ledger and power. -/
structure SessionClosed (s t : State) : Prop where
  frame : ∃ r j p l k, t = { s with ring := r, jrn := j, pwr := { s.pwr with startRecs := p }, lcy := l, key := k }
  fuses : t.lcy.fuses = s.lcy.fuses
  dbg : t.lcy.dbg = .locked

theorem closeSession_closed (s : State) : SessionClosed s (closeSession s) := by
  unfold closeSession
  split
  · next h => exact ⟨⟨s.ring, s.jrn, s.pwr.startRecs, s.lcy, s.key, rfl⟩, rfl, h⟩
  · next h =>
    obtain ⟨r, j, p, hs⟩ := stageLife_logOnly s 8 (dbgCode s.lcy.dbg) 0 3 (leBytes s.lcy.dbgToken.toNat 8)
    have hd : ∃ l k, debugClose s 3 = { s with ring := r, jrn := j, pwr := { s.pwr with startRecs := p }, lcy := l, key := k } ∧
        l.fuses = s.lcy.fuses ∧ l.dbg = .locked := by
      unfold debugClose
      rw [if_neg h, hs]
      exact ⟨_, _, rfl, rfl, rfl⟩
    obtain ⟨l, k, hd, hf, hl⟩ := hd
    rw [hd]
    unfold armReload
    dsimp only
    generalize hy : ({ s with ring := r, jrn := j, pwr := _, lcy := l, key := _ } : State) = y
    obtain ⟨r', q, hk⟩ := keyDone_done y
    rw [hk, ← hy]
    exact ⟨⟨_, _, _, _, _, rfl⟩, hf, hl⟩

theorem parkLedger_off {s : State} (h : s.ldg.st ≠ .active) : parkLedger s = s := if_neg h

/-- The PARK record holds the counters as the closed interval leaves them. -/
structure ParkRecord (s t : State) : Prop where
  frame : ∃ m g f n, t = { s with mtr := m, ldg := g, fl := f, clk := { s.clk with fresh := n } }
  credit : meterRuns s = false → t.ldg.cA = s.ldg.cA
  st : t.ldg.st = .parked
  record : ∃ r, t.fl.counter = some r ∧ r.kind = 3 ∧ r.bkt = t.ldg.cA ∧ r.eDis = t.mtr.eDis

theorem parkLedger_parks {s : State} (h : s.ldg.st = .active) : ParkRecord s (parkLedger s) := by
  unfold parkLedger drawBits
  rw [if_pos h]
  dsimp only
  generalize hy : (if meterRuns s then closePart { s with clk := { s.clk with fresh := s.clk.fresh + 1 } } (Config.freeBits s.clk.fresh) else s) = y
  have hf : ∃ m g n, y = { s with mtr := m, ldg := g, clk := { s.clk with fresh := n } } := by
    rw [← hy]
    split
    · obtain ⟨m, g, hc, -⟩ := closePart_frame { s with clk := { s.clk with fresh := s.clk.fresh + 1 } } (Config.freeBits s.clk.fresh)
      rw [hc]
      exact ⟨_, _, _, rfl⟩
    · exact ⟨s.mtr, s.ldg, s.clk.fresh, rfl⟩
  have hcredit : meterRuns s = false → y.ldg.cA = s.ldg.cA := fun hm => by
    rw [← hy, hm]
    rfl
  obtain ⟨m, g, n, hy'⟩ := hf
  refine ⟨?_, hcredit, rfl, _, rfl, rfl, rfl, rfl⟩
  rw [hy']
  exact ⟨_, _, _, _, rfl⟩

theorem parked_closed (s : State) : Parked s (parkLedger (closeSession s)) := by
  obtain ⟨⟨r, j, p, l, k, hf⟩, hfuses, hdbg⟩ := closeSession_closed s
  have hm : meterRuns (closeSession s) = meterRuns s := by rw [hf]; rfl
  have hl : (closeSession s).ldg = s.ldg := by rw [hf]
  have hc : (closeSession s).clk = s.clk := by rw [hf]
  have hs : (closeSession s).slu = s.slu := by rw [hf]
  generalize closeSession s = y at hf hfuses hdbg hm hl hc hs
  by_cases ha : y.ldg.st = .active
  · obtain ⟨⟨m, g, f, n, ht⟩, hcr, hst, hrec⟩ := parkLedger_parks ha
    generalize parkLedger y = t at ht hcr hst hrec
    refine ⟨?_, ?_, ?_, ?_, fun h => ?_, fun _ => ⟨hst, hrec⟩⟩
    · rw [ht, ← hc]
    · rw [ht]
      exact hfuses
    · rw [ht]
      exact hdbg
    · rw [ht]
      exact hs
    · rcases h with h | h
      · exact absurd (hl ▸ ha) h
      · rw [← hl]
        exact hcr (hm.trans h)
  · rw [parkLedger_off ha]
    refine ⟨?_, hfuses, hdbg, hs, fun _ => congrArg Ledger.cA hl, fun h => absurd (hl ▸ h) ha⟩
    rw [hc]

/-! ### The domains lose their power (R391) -/

theorem domainLost_armed (s : State) (d : Nat) {n : Nat} (hn : n < 4) : (getOut (domainLost s d) n).armed = (getOut s n).armed := by
  have hset : getOut (setDom s d Dom.off) n = getOut s n := rfl
  have hsame : ∀ {t : State}, t.slu = (setDom s d Dom.off).slu → (getOut t n).armed = (getOut s n).armed := fun h => by
    unfold getOut
    rw [h]
    rfl
  unfold domainLost
  dsimp only
  split
  · have hl := laneOff_stop (setDom s d Dom.off) .b
    generalize (if laneDead (setDom s d Dom.off) .b then setDom s d Dom.off else laneDown (setDom s d Dom.off) .b .off) = z at hl
    exact ((hl.outs n hn).armed).trans (congrArg SluOut.armed hset)
  · split
    · obtain ⟨l, r, e, a, hf⟩ := functionReset_workOnly (setDom s d Dom.off)
      rw [hf]
      exact hsame rfl
    · split
      · exact hsame rfl
      · split
        · exact hsame rfl
        · split
          · exact hsame rfl
          · split
            · exact hsame rfl
            · split
              · exact hsame rfl
              · exact hsame rfl

/-- Time, life-cycle, ledger, meter and flash stand, and the outputs stay as armed as they were. -/
structure Unmoved (s t : State) : Prop where
  clk : t.clk = s.clk
  lcy : t.lcy = s.lcy
  ldg : t.ldg = s.ldg
  mtr : t.mtr = s.mtr
  fl : t.fl = s.fl
  armed : ∀ n < 4, (getOut t n).armed = (getOut s n).armed

theorem Unmoved.refl (s : State) : Unmoved s s := ⟨rfl, rfl, rfl, rfl, rfl, fun _ _ => rfl⟩

theorem Unmoved.trans {s t u : State} (h : Unmoved s t) (k : Unmoved t u) : Unmoved s u :=
  ⟨k.clk.trans h.clk, k.lcy.trans h.lcy, k.ldg.trans h.ldg, k.mtr.trans h.mtr, k.fl.trans h.fl,
    fun n hn => (k.armed n hn).trans (h.armed n hn)⟩

theorem domainLost_unmoved (s : State) (d : Nat) : Unmoved s (domainLost s d) := by
  have ha := fun n => domainLost_armed s d (n := n)
  obtain ⟨l, r, e, a, u, j, f, c, h⟩ := domainLost_lostFrame s d
  generalize domainLost s d = t at ha h
  refine ⟨?_, ?_, ?_, ?_, ?_, ha⟩ <;> rw [h]

/-- The first domains are off. -/
structure Dark (k : Nat) (s t : State) : Prop where
  unmoved : Unmoved s t
  off : ∀ d, 1 ≤ d → d ≤ k → (getDom t d).on = false

theorem domains_dark (s : State) (k : Nat) :
    Dark k s ((List.range k).foldl (fun s i => if (getDom s (i + 1)).on then domainLost s (i + 1) else s) s) := by
  induction k with
  | zero => exact ⟨.refl s, fun d h1 h2 => by omega⟩
  | succ k ih =>
    rw [List.range_succ, List.foldl_append, List.foldl_cons, List.foldl_nil]
    obtain ⟨hu, hoff⟩ := ih
    generalize (List.range k).foldl _ s = z at hu hoff
    by_cases hon : (getDom z (k + 1)).on = true
    · rw [if_pos hon]
      obtain ⟨l, r, e, a, u, j, f, c, hf⟩ := domainLost_lostFrame z (k + 1)
      refine ⟨hu.trans (domainLost_unmoved z (k + 1)), fun d h1 h2 => ?_⟩
      rw [hf]
      change (getDom (setDom z (k + 1) Dom.off) d).on = false
      by_cases hd : d = k + 1
      · rw [hd, getDom_setDom]
        rfl
      · rw [getDom_setDom_ne z hd]
        exact hoff d h1 (by omega)
    · rw [if_neg hon]
      refine ⟨hu, fun d h1 h2 => ?_⟩
      by_cases hd : d = k + 1
      · rw [hd]
        exact Bool.eq_false_iff.2 hon
      · exact hoff d h1 (by omega)

/-! ### Every sluice is disarmed (R391) -/

def disarm (s : State) (n : Nat) : State := setOut s n { getOut s n with armed := false }

/-- The sluices `done` are disarmed. -/
structure Disarmed (s t : State) (done : List Nat) : Prop where
  frame : ∃ u, t = { s with slu := u }
  armed : ∀ n ∈ done, (getOut t n).armed = false

theorem Disarmed.step {s t : State} {done : List Nat} {n : Nat} (h : Disarmed s t done) : Disarmed s (disarm t n) (n :: done) := by
  obtain ⟨⟨u, ht⟩, ha⟩ := h
  refine ⟨?_, fun i hi => ?_⟩
  · rw [ht]
    exact ⟨_, rfl⟩
  · unfold disarm
    by_cases hin : i = n
    · rw [hin, getOut_setOut]
    · rw [getOut_setOut_ne t hin]
      exact ha i ((List.mem_cons.1 hi).resolve_left hin)

theorem disarm_all (s : State) : Disarmed s (sluList.foldl disarm s) [3, 2, 1, 0] :=
  sluFold (fun _ _ _ _ h => h.step) ⟨⟨s.slu, rfl⟩, fun _ h => absurd h List.not_mem_nil⟩

/-- The entry's end: step 5 and step 6 of R391 after the ledger has parked. -/
def poweredDown (s1 : State) (kind : Nat) : State :=
  let s2 := sealAll s1
  let s3 := postSluChanges (sluList.foldl disarm s2) (sluStates s2)
  let s4 := { s3 with rad := { s3.rad with wakeCfg := reg s3 .radWake, wakeCode := reg s3 .radWakeCode, preamble := false } }
  let s5 := functionReset s4
  let s6 := (List.range 16).foldl (fun s i => if (getDom s (i + 1)).on then domainLost s (i + 1) else s) s5
  setPwr s6 fun p => { p with
    st := if kind = 2 then .sleep else .hibernate
    entering := 0
    keeperRunning := false
    vsel := 0
    tc := false
    ramp := false
    wakePulses := 0
    startVotes := 0 }

theorem powerDown_eq {s : State} (h : s.pwr.entering ≠ 0) (hc : s.ring.cmds = []) :
    powerDown s = poweredDown (parkLedger (closeSession s)) s.pwr.entering := by
  have hn : ¬ (s.pwr.entering = 0 ∨ (!s.ring.cmds.isEmpty) = true) := by simp [h, hc]
  have hd : disarm = fun s n => setOut s n { getOut s n with armed := false } := rfl
  unfold powerDown poweredDown
  rw [if_neg hn, hd]

/-- What the power-down leaves of the state in which the ledger has parked. -/
structure PoweredDown (kind : Nat) (s t : State) : Prop where
  power : t.pwr.st = (if kind = 2 then .sleep else .hibernate) ∧ t.pwr.entering = 0 ∧ t.pwr.keeperRunning = false ∧ t.pwr.vsel = 0
  off : ∀ d, 1 ≤ d → d ≤ 16 → (getDom t d).on = false
  armed : ∀ n < 4, (getOut t n).armed = false
  still : t.clk = s.clk ∧ t.lcy = s.lcy ∧ t.ldg = s.ldg ∧ t.mtr = s.mtr ∧ t.fl.counter = s.fl.counter

theorem poweredDown_spec (s : State) (kind : Nat) : PoweredDown kind s (poweredDown s kind) := by
  unfold poweredDown
  dsimp only
  obtain ⟨⟨j, p, k, c, f, hseal⟩, ⟨-, hctr⟩, -, -⟩ := sealAll_sealFrame s
  generalize sealAll s = s2 at hseal hctr
  obtain ⟨⟨u, hd⟩, ha⟩ := disarm_all s2
  generalize sluList.foldl disarm s2 = d2 at hd ha
  obtain ⟨hof, houts⟩ := postSluChanges_outFrame d2 (sluStates s2)
  generalize postSluChanges d2 (sluStates s2) = s3 at hof houts
  have ha3 : ∀ n < 4, (getOut s3 n).armed = false := fun n hn => by
    obtain ⟨b, hb⟩ := houts n
    rw [hb]
    exact ha n (mem_sluFold hn)
  have h3 : s3.clk = s.clk ∧ s3.lcy = s.lcy ∧ s3.ldg = s.ldg ∧ s3.mtr = s.mtr ∧ s3.fl.counter = s.fl.counter := by
    have hfl : s3.fl = s2.fl := by rw [hof, hd]
    refine ⟨?_, ?_, ?_, ?_, ?_⟩
    · rw [hof, hd, hseal]
    · rw [hof, hd, hseal]
    · rw [hof, hd, hseal]
    · rw [hof, hd, hseal]
    · rw [hfl, hctr]
  generalize hr : ({ s3 with rad := _ } : State) = s4
  have h4 : Unmoved s3 s4 := by
    rw [← hr]
    exact ⟨rfl, rfl, rfl, rfl, rfl, fun _ _ => rfl⟩
  have h5 : Unmoved s4 (functionReset s4) := by
    obtain ⟨l, r, e, a, hf⟩ := functionReset_workOnly s4
    rw [hf]
    exact ⟨rfl, rfl, rfl, rfl, rfl, fun _ _ => rfl⟩
  generalize functionReset s4 = s5 at h5
  obtain ⟨h6, hoff⟩ := domains_dark s5 16
  generalize (List.range 16).foldl _ s5 = s6 at h6 hoff
  obtain ⟨hclk, hlcy, hldg, hmtr, hfl, harm⟩ := (h4.trans h5).trans h6
  obtain ⟨k1, k2, k3, k4, k5⟩ := h3
  exact ⟨⟨rfl, rfl, rfl, rfl⟩, hoff, fun n hn => (harm n hn).trans (ha3 n hn), hclk.trans k1, hlcy.trans k2, hldg.trans k3, hmtr.trans k4,
    (congrArg Flash.counter hfl).trans k5⟩

/-- Settles O51: each row acts under its own condition, and the power-down is `parked_closed` followed by `poweredDown_spec`. -/
theorem powerStatesChange : Obligations.PowerStatesChange := by
  unfold Obligations.PowerStatesChange
  intro s reached p
  rw [exec_vcoreRampCheck, exec_dozeEntry, exec_dozeExit, exec_entryWaitExpiry, exec_powerDownEntry]
  refine ⟨fun h => congrArg _ (rampCheck_ends reached h), fun h => congrArg _ (rampCheck_stays reached h),
    fun h1 h2 h3 h4 => congrArg _ (if_pos ⟨h1, h2, h3, h4⟩), fun h => congrArg _ (if_neg fun hc => ?_), fun h => congrArg _ (if_pos h),
    fun h => congrArg _ (if_neg h), fun h hc => congrArg _ (if_pos ⟨h, by simp [hc]⟩), fun h => congrArg _ (if_neg fun hc => ?_),
    fun h hc => ⟨_, rfl, ?_⟩, fun h => congrArg _ (if_pos ?_)⟩
  · obtain ⟨-, h2, h3, -⟩ := hc
    rcases h with h | h
    · exact absurd h2 (Nat.not_le.2 h)
    · rw [h] at h3
      cases h3
  · obtain ⟨h1, h2⟩ := hc
    rcases h with h | h
    · exact h1 h
    · rw [h] at h2
      cases h2
  · rw [powerDown_eq h hc]
    obtain ⟨kclk, kfuses, kdbg, -, kcredit, kpark⟩ := parked_closed s
    generalize parkLedger (closeSession s) = z at kclk kfuses kdbg kcredit kpark
    obtain ⟨⟨h1, h2, h3, h4⟩, hoff, harm, hclk, hlcy, hldg, hmtr, hctr⟩ := poweredDown_spec z s.pwr.entering
    generalize poweredDown z s.pwr.entering = t at h1 h2 h3 h4 hoff harm hclk hlcy hldg hmtr hctr
    refine ⟨h1, h2, h3, h4, hoff, harm, ?_, ?_, ?_, ?_, ?_⟩
    · rw [hclk]
      exact kclk
    · rw [hlcy]
      exact kfuses
    · rw [hlcy]
      exact kdbg
    · rw [hldg]
      exact kcredit
    · rw [hldg, hmtr, hctr]
      exact kpark
  · exact h.imp id fun hc => by simp [hc]

end Sys2Proof.Machine
end
section
/-! ## The registry (R132, R135, R140, R143) -/

namespace Sys2Proof.Machine
open Sys2Proof

/-- An entry is written, in flash too, one write on. -/
structure RegStored (i : Nat) (e : RegEntry) (s t : State) : Prop where
  entry : getReg t i = { e with wseq := ((getReg s i).wseq + 1) % 2 ^ 32 }
  copy : smGet t.fl.reg i RegEntry.free = getReg t i
  others : ∀ j, j ≠ i → getReg t j = getReg s j
  changes : t.tok.changes = s.tok.changes
  frame : t = { s with tok := { s.tok with reg := t.tok.reg }, fl := { rewritten s.fl t.fl with reg := t.fl.reg } }

theorem storeReg_stores (s : State) (i : Nat) (e : RegEntry) : RegStored i e s (storeReg s i e) := by
  have hset : getReg (storeReg s i e) i = { e with wseq := ((getReg s i).wseq + 1) % 2 ^ 32 } := getReg_setReg s i _
  have hcopy : smGet (storeReg s i e).fl.reg i RegEntry.free = { e with wseq := ((getReg s i).wseq + 1) % 2 ^ 32 } := smGet_smPut_self _ _ _ _
  exact ⟨hset, hcopy.trans hset.symm, fun j hj => getReg_setReg_ne s hj _, rfl, rfl⟩

theorem raiseSess_raises {s : State} {i : Nat} (hf : (getReg s i).st ≠ .free) (hm : (getReg s i).sessRes < 0xFFFFFFFF)
    (hs : (getReg s i).sessRes ≤ (getReg s i).sess + 512) :
    raiseSess s i = storeReg s i { getReg s i with sessRes := min ((getReg s i).sessRes + 1024) 0xFFFFFFFF } := if_pos ⟨hf, hm, hs⟩

theorem raiseSess_stays {s : State} {i : Nat} (h : (getReg s i).st = .free ∨ (getReg s i).sess + 512 < (getReg s i).sessRes) :
    raiseSess s i = s := by
  refine if_neg ?_
  rintro ⟨h1, -, h3⟩
  rcases h with h | h
  · exact h1 h
  · omega

/-! ### One change that waits -/

theorem applyDueWhere_one {sel : RegChange → Bool} {s : State} {c : RegChange} (hr : s.flt.restarting = false) (hc : s.tok.changes = [c])
    (hsel : sel c = true) : applyDueWhere sel s =
      if changeBlocked { s with tok := { s.tok with changes := [] } } c then s
      else finishChange (applyRegChange { s with tok := { s.tok with changes := [] } } c) c := by
  have hback : ({ s with tok := { s.tok with changes := [c] } } : State) = s := by rw [← hc]
  unfold applyDueWhere
  rw [hr, if_neg Bool.false_ne_true, hc]
  unfold applyChanges applyChanges
  dsimp only
  rw [hsel, List.any_nil, List.nil_append, hback]
  simp only [Bool.not_true, Bool.false_or, Bool.or_false]

theorem applyDueWhere_stays {sel : RegChange → Bool} {s : State} (h : s.flt.restarting = true ∨ s.tok.changes = []) :
    applyDueWhere sel s = s := by
  unfold applyDueWhere
  by_cases hr : s.flt.restarting = true
  · exact if_pos hr
  · have hc := h.resolve_left hr
    rw [if_neg hr, hc]
    unfold applyChanges
    rw [← hc]

theorem finishChange_rekey {c : RegChange} (s : State) (h : c.action = 6) : finishChange s c = s := by
  unfold finishChange
  split
  · rfl
  · exact if_pos (.inr h)

/-- What a confirmed re-key writes (R143). -/
structure Rekeyed (i : Nat) (x : RegEntry) (s t : State) : Prop where
  entry : getReg t i = { getReg s i with
    gen := x.gen
    pend := false
    sess := 1
    sessRes := 1024
    st := .active
    wseq := ((getReg s i).wseq + 1) % 2 ^ 32 }
  copy : smGet t.fl.reg i RegEntry.free = getReg t i
  others : ∀ j, j ≠ i → getReg t j = getReg s j
  count : t.lf.rekeys = sat 32 (s.lf.rekeys + 1)
  changes : t.tok.changes = s.tok.changes
  frame : t = { s with tok := t.tok, fl := { rewritten s.fl t.fl with reg := t.fl.reg }, lf := { s.lf with rekeys := t.lf.rekeys }, jrn := t.jrn }

theorem mergeEntry_rekey {c : RegChange} {cur e : RegEntry} (i : Nat) (h : c.action = 6) (hf : cur.st ≠ .free) (hid : cur.id = e.id) :
    mergeEntry c cur i e = { cur with gen := e.gen, pend := false, sess := 1, sessRes := 1024, st := .active } := by
  unfold mergeEntry
  rw [if_neg (by rw [h]; decide), if_pos h, if_neg]
  rintro (h1 | h1)
  · exact hf h1
  · exact h1 hid

theorem applyRegChange_rekeys {s : State} {c : RegChange} {i : Nat} {x : RegEntry} (ha : c.action = 6) (he : c.entries = [(i, x)])
    (hr : c.recs = []) (hx : c.slotFx = []) (hf : (getReg s i).st ≠ .free) (hid : (getReg s i).id = x.id) :
    Rekeyed i x s (applyRegChange s c) := by
  obtain ⟨hentry, hcopy, hothers, hchanges, hframe⟩ := storeReg_stores s i { getReg s i with
    gen := x.gen
    pend := false
    sess := 1
    sessRes := 1024
    st := .active }
  have h3 : ¬ c.action = 3 := by
    rw [ha]
    decide
  unfold applyRegChange
  rw [he, hr, hx]
  simp only [List.foldl_cons, List.foldl_nil, List.filter_nil]
  rw [mergeEntry_rekey i ha hf hid, if_pos ha, if_neg h3]
  generalize storeReg s i _ = y at hentry hcopy hothers hchanges hframe
  have hlf : y.lf = s.lf := by rw [hframe]
  generalize hw : ({ y with lf := { y.lf with rekeys := sat 32 (y.lf.rekeys + 1) } } : State) = w
  have hbase : Rekeyed i x s w := by
    rw [← hw]
    refine ⟨hentry, hcopy, hothers, ?_, hchanges, ?_⟩
    · rw [hlf]
    · rw [hframe]
      rfl
  split
  · obtain ⟨j, hj⟩ := stageRec_jrn w 0x21 c.source w.clk.beat (payload [(20, leBytes c.action 1), (22, leBytes c.reg 2),
      (24, leBytes (getReg w c.reg).id.toNat 8), (32, leBytes (getReg w c.reg).gen.toNat 2)]) 0
    unfold stageEntry stage
    rw [hj]
    obtain ⟨h1, h2, h3, h4, h5, h6⟩ := hbase
    refine ⟨h1, h2, h3, h4, h5, ?_⟩
    rw [h6]
    rfl
  · exact hbase

theorem exec_sessResRaise (i : Fin 4096) (s : State) : exec (.sessResRaise i) s = .next (if keeperUp s then raiseSess s i.val else s) := rfl
theorem exec_rekeyConfirm (i : Fin 4096) (s : State) : exec (.rekeyConfirm i) s =
    .next (applyDueWhere (fun c => decide (c.action = 6) && decide (c.reg = i.val)) s) := rfl
theorem exec_registryChangeApply (s : State) : exec .registryChangeApply s = .next (applyDueWhere (fun _ => true) s) := rfl

/-- Settles O57: a raise is `storeReg_stores`, a change that waits alone is `applyDueWhere_one` with `applyRegChange_rekeys`. -/
theorem registryChangesApply : Obligations.RegistryChangesApply := by
  unfold Obligations.RegistryChangesApply
  intro s i c x e
  refine ⟨fun hk hf hm hs => ?_, fun h => ?_, fun hr hc ha hreg he hrec hfx hf hid => ?_, fun h => ?_⟩
  · rw [exec_sessResRaise, if_pos hk, raiseSess_raises hf hm hs]
    obtain ⟨h1, h2, h3, -, h5⟩ := storeReg_stores s i.val { e with sessRes := min (e.sessRes + 1024) 0xFFFFFFFF }
    exact ⟨_, rfl, h1, h2, h3, h5⟩
  · rw [exec_sessResRaise]
    split
    · next hk =>
      refine congrArg _ (raiseSess_stays (h.resolve_left fun h => ?_))
      rw [hk] at h
      cases h
    · rfl
  · have hone : ∀ sel : RegChange → Bool, sel c = true → applyDueWhere sel s = _ := fun sel h => applyDueWhere_one hr hc h
    rw [exec_rekeyConfirm, exec_registryChangeApply, hone _ (by simp [ha, hreg]), hone _ rfl]
    refine ⟨fun hb => ?_, fun hb => ?_⟩
    · rw [hb, if_neg Bool.false_ne_true, finishChange_rekey _ ha]
      obtain ⟨h1, h2, h3, h4, h5, h6⟩ := applyRegChange_rekeys (s := { s with tok := { s.tok with changes := [] } }) ha he hrec hfx hf hid
      generalize applyRegChange { s with tok := { s.tok with changes := [] } } c = t at h1 h2 h3 h4 h5 h6
      exact ⟨t, rfl, rfl, h1, h2, h3, h5, h4, h6⟩
    · rw [hb, if_pos rfl]
      exact ⟨rfl, rfl⟩
  · rw [exec_rekeyConfirm, exec_registryChangeApply, applyDueWhere_stays h, applyDueWhere_stays h]
    exact ⟨rfl, rfl⟩

end Sys2Proof.Machine
end
section
/-! ## The entropy block (R309 to R317) -/

namespace Sys2Proof.Machine
open Sys2Proof

/-! ### A completion drops its command alone -/

theorem sendVector_cmds (s : State) (v : Nat) : (sendVector s v).ring.cmds = s.ring.cmds := by
  unfold sendVector
  split
  · rfl
  · split
    · rfl
    · exact emit_keeps_cmds s _

theorem cqIrq_cmds (s : State) (n : Nat) : (cqIrq s n).ring.cmds = s.ring.cmds := by
  unfold cqIrq
  dsimp only
  split
  · exact sendVector_cmds _ _
  · rfl

theorem writeCompletion_cmds (s : State) (n : Nat) (c : Completion) : (writeCompletion s n c).ring.cmds = s.ring.cmds := by
  unfold writeCompletion
  dsimp only
  generalize hy : setCq (emit s _) n _ = y
  have h : y.ring.cmds = s.ring.cmds := by
    rw [← hy, setCq_ring_cmds, emit_keeps_cmds]
  split
  · exact h
  · exact (cqIrq_cmds _ n).trans h

theorem postCompletion_cmds (s : State) (n : Nat) (c : Completion) : (postCompletion s n c).ring.cmds = s.ring.cmds := by
  unfold postCompletion
  dsimp only
  split
  · rfl
  · split
    · rfl
    · split
      · exact writeCompletion_cmds s n c
      · rfl

theorem settleSq_cmds (s : State) (n : Nat) : (settleSq s n).ring.cmds = s.ring.cmds := by
  unfold settleSq
  dsimp only
  split <;> rfl

theorem finishNow_drops (s : State) (c : Cmd) (st : Status) (result : Nat) (out : List Byte) :
    ∀ d ∈ (finishNow s c st result out).ring.cmds, d.uid ≠ c.uid := by
  have hdrop : ∀ d ∈ (dropCmd (emitData s c out) c.uid).ring.cmds, d.uid ≠ c.uid := fun d hd => by
    have h := (List.mem_filter.1 hd).2
    simpa using h
  unfold finishNow finishCmd
  dsimp only
  split
  · exact hdrop
  · rw [settleSq_cmds, postCompletion_cmds]
    exact hdrop

/-! ### Windows of a noise source (R309 to R311) -/

/-- The window's verdict, before the pool: its repetition run and its proportion test. -/
def windowVerdict (s : State) (srcB : Bool) (l : List Bool) (run : (Nat × Bool) × Bool) (apt : Bool) : State :=
  setEnt s fun e =>
    let e1 := { e with
      winOn := e.winOn + 1
      windows := sat 32 (e.windows + 1)
      failRep := if run.2 then sat 32 (e.failRep + 1) else e.failRep
      failApt := if apt then sat 32 (e.failApt + 1) else e.failApt }
    if srcB then { e1 with bPass := !run.2 && !apt, biasB := biasOf l, corrB := corrOf l, runB := run.1 }
    else { e1 with aPass := !run.2 && !apt, biasA := biasOf l, corrA := corrOf l, runA := run.1 }

/-- The verdict on the window that has ended. -/
def windowJudged (s : State) (srcB : Bool) (bits : BitVec 1024) : State :=
  windowVerdict s srcB (windowBits bits) (runThrough (windowBits bits) (if srcB then s.ent.runB else s.ent.runA) false) (aptFails (windowBits bits))

/-- What the verdict leaves. -/
structure WindowJudged (s t : State) (srcB rep apt : Bool) : Prop where
  frame : t = { s with ent := t.ent }
  windows : t.ent.windows = sat 32 (s.ent.windows + 1)
  winOn : t.ent.winOn = s.ent.winOn + 1
  pool : t.ent.pool = s.ent.pool
  credited : t.ent.credited = s.ent.credited
  st : t.ent.st = s.ent.st
  waiting : t.ent.waiting = s.ent.waiting
  pass : (if srcB then t.ent.bPass else t.ent.aPass) = (!rep && !apt)
  failRep : t.ent.failRep = if rep then sat 32 (s.ent.failRep + 1) else s.ent.failRep
  failApt : t.ent.failApt = if apt then sat 32 (s.ent.failApt + 1) else s.ent.failApt

theorem windowVerdict_judged (s : State) (srcB : Bool) (l : List Bool) (run : (Nat × Bool) × Bool) (apt : Bool) :
    WindowJudged s (windowVerdict s srcB l run apt) srcB run.2 apt := by
  cases srcB
  · exact ⟨rfl, rfl, rfl, rfl, rfl, rfl, rfl, rfl, rfl, rfl⟩
  · exact ⟨rfl, rfl, rfl, rfl, rfl, rfl, rfl, rfl, rfl, rfl⟩

theorem windowJudged_spec (s : State) (srcB : Bool) (bits : BitVec 1024) : WindowJudged s (windowJudged s srcB bits) srcB
    (runThrough (windowBits bits) (if srcB then s.ent.runB else s.ent.runA) false).2 (aptFails (windowBits bits)) :=
  windowVerdict_judged s srcB _ _ _

/-- A block of a window that passes goes to the pool. -/
def windowPooled (s : State) (srcB : Bool) (bits : BitVec 1024) : State := setEnt s fun e => { e with
  pool := poolPut e.pool (condition srcB e.winOn bits)
  credited := if e.st = .warmup then e.credited + 128 else e.credited }

theorem windowEndNow_eq {s : State} (srcB : Bool) (bits : BitVec 1024) (hon : (getDom s dENTROPY).on = true) (hoff : s.ent.st ≠ .off)
    (hrun : s.pwr.st = .run) : windowEndNow s srcB bits =
      if !(!(runThrough (windowBits bits) (if srcB then s.ent.runB else s.ent.runA) false).2 && !aptFails (windowBits bits)) then windowJudged s srcB bits
      else match (windowPooled (windowJudged s srcB bits) srcB bits).ent.st with
        | .warmup =>
          if 3 ≤ (warmProgress (windowPooled (windowJudged s srcB bits) srcB bits)).ent.pool.length then
            serveWaiting (drbgInstantiate (warmProgress (windowPooled (windowJudged s srcB bits) srcB bits)))
          else warmProgress (windowPooled (windowJudged s srcB bits) srcB bits)
        | .starved =>
          if 3 ≤ (windowPooled (windowJudged s srcB bits) srcB bits).ent.pool.length then
            serveWaiting (drbgReseed (windowPooled (windowJudged s srcB bits) srcB bits))
          else windowPooled (windowJudged s srcB bits) srcB bits
        | _ => windowPooled (windowJudged s srcB bits) srcB bits := by
  have hn : ¬ ((!(getDom s dENTROPY).on) = true ∨ s.ent.st = .off ∨ s.pwr.st ≠ .run) := by simp [hon, hoff, hrun]
  unfold windowEndNow
  exact if_neg hn

theorem warmProgress_warms (s : State) : ∃ r p, warmProgress s = { s with ring := r, ent := { s.ent with prog := p } } := by
  unfold warmProgress
  dsimp only
  obtain ⟨r, h⟩ := postProgress_ringOnly s 6 srcEntropy s.ent.prog.progress (1000 * min 384 s.ent.credited / 384) (min 384 s.ent.credited)
  rw [h]
  exact ⟨r, _, rfl⟩

theorem poolPut_room {l : List (BitVec 128)} (b : BitVec 128) (h : l.length < 8) : poolPut l b = l ++ [b] := by
  unfold poolPut
  refine if_neg ?_
  rw [List.length_append, List.length_singleton]
  omega

theorem serveWaiting_none {s : State} (h : s.ent.waiting = []) : serveWaiting s = s := serveGo_idle h

theorem drbgReseed_reseeds {s : State} (h : s.ent.st = .ready) : (drbgReseed s).ent.st = .ready ∧ (drbgReseed s).ent.pool = s.ent.pool.drop 3 ∧
    (drbgReseed s).ent.reqs = 0 ∧ (drbgReseed s).ent.seedUs = s.clk.nowUs ∧ (drbgReseed s).ent.reseeds = sat 32 (s.ent.reseeds + 1) ∧
      drbgReseed s = { s with ent := (drbgReseed s).ent } := by
  unfold drbgReseed
  rw [if_neg (by rw [h]; decide)]
  exact ⟨rfl, rfl, rfl, rfl, rfl, rfl⟩

/-- A window that passes both tests, as the generator's state takes it. -/
structure WindowPassed (s t : State) (srcB : Bool) (bits : BitVec 1024) : Prop where
  frame : t = { s with ent := t.ent }
  windows : t.ent.windows = sat 32 (s.ent.windows + 1)
  winOn : t.ent.winOn = s.ent.winOn + 1
  pool : t.ent.pool = poolPut s.ent.pool (condition srcB (s.ent.winOn + 1) bits)
  credited : t.ent.credited = if s.ent.st = .warmup then s.ent.credited + 128 else s.ent.credited
  st : t.ent.st = s.ent.st
  waiting : t.ent.waiting = s.ent.waiting
  pass : (if srcB then t.ent.bPass else t.ent.aPass) = true

theorem windowPooled_passed {s : State} {srcB : Bool} {bits : BitVec 1024}
    (hr : (runThrough (windowBits bits) (if srcB then s.ent.runB else s.ent.runA) false).2 = false) (ha : aptFails (windowBits bits) = false) :
    WindowPassed s (windowPooled (windowJudged s srcB bits) srcB bits) srcB bits := by
  obtain ⟨h1, h2, h3, h4, h5, h6, h7, h8, -, -⟩ := windowJudged_spec s srcB bits
  rw [hr, ha] at h8
  generalize windowJudged s srcB bits = y at h1 h2 h3 h4 h5 h6 h7 h8
  refine ⟨?_, h2, h3, ?_, ?_, h6, h7, h8⟩
  · rw [h1]
    rfl
  · rw [← h4, ← h3]
    rfl
  · rw [← h5, ← h6]
    rfl

/-- The window that passes goes on by the generator's state. -/
theorem windowEndNow_passes {s : State} {srcB : Bool} {bits : BitVec 1024} (hon : (getDom s dENTROPY).on = true) (hoff : s.ent.st ≠ .off)
    (hrun : s.pwr.st = .run) (hr : (runThrough (windowBits bits) (if srcB then s.ent.runB else s.ent.runA) false).2 = false)
    (ha : aptFails (windowBits bits) = false) : ∃ t, WindowPassed s t srcB bits ∧
      (s.ent.st = .ready → windowEndNow s srcB bits = t) ∧
      (s.ent.st = .warmup → windowEndNow s srcB bits =
        if 3 ≤ (warmProgress t).ent.pool.length then serveWaiting (drbgInstantiate (warmProgress t)) else warmProgress t) := by
  refine ⟨_, windowPooled_passed hr ha, ?_⟩
  have hp := (windowPooled_passed hr ha).st
  have heq := windowEndNow_eq srcB bits hon hoff hrun
  rw [hr, ha, if_neg (by decide)] at heq
  rw [heq]
  generalize windowPooled (windowJudged s srcB bits) srcB bits = t at hp
  exact ⟨fun h => by rw [hp, h], fun h => by rw [hp, h]⟩

theorem windowEndNow_fails {s : State} {srcB : Bool} {bits : BitVec 1024} (hon : (getDom s dENTROPY).on = true) (hoff : s.ent.st ≠ .off)
    (hrun : s.pwr.st = .run) (h : (runThrough (windowBits bits) (if srcB then s.ent.runB else s.ent.runA) false).2 = true ∨
      aptFails (windowBits bits) = true) : windowEndNow s srcB bits = windowJudged s srcB bits := by
  rw [windowEndNow_eq srcB bits hon hoff hrun]
  refine if_pos ?_
  rcases h with h | h
  · rw [h]
    rfl
  · rw [h, Bool.not_true, Bool.and_false]
    rfl

theorem windowEndNow_idle {s : State} (srcB : Bool) (bits : BitVec 1024)
    (h : ¬ ((getDom s dENTROPY).on = true ∧ s.ent.st ≠ .off ∧ s.pwr.st = .run)) : windowEndNow s srcB bits = s := by
  refine if_pos ?_
  by_contra hc
  simp only [not_or, Bool.not_eq_true', Bool.not_eq_false, not_not] at hc
  exact h hc

/-! ### Limits and waiting requests (R315 to R317) -/

theorem hardLimit_reseeds {s : State} (hr : s.ent.st = .ready) (hp : s.pwr.st = .run) (hh : hardDue s = true) : hardLimit s =
    if 3 ≤ s.ent.pool.length then drbgReseed s else postEntFail { s with ent := { s.ent with st := .starved } } 1 := by
  unfold hardLimit
  rw [if_pos ⟨hr, hh, hp⟩]
  unfold drbgLimits
  rw [if_pos ⟨hr, .inr hh⟩, if_pos hh]

/-- What gives up a request leaves of it. -/
theorem timeoutOne_gives_up {s : State} {q : WaitReq} {uid : Nat} {c : Cmd} (hw : q.who = .cmd uid) (hc : findCmd s uid = some c)
    (ho : descOpcode c.desc = 0x60) : (timeoutOne s q).ent.timeouts = sat 32 (s.ent.timeouts + 1) ∧
      (∀ r ∈ (timeoutOne s q).ent.waiting, r.who ≠ .cmd uid) ∧ ∀ d ∈ (timeoutOne s q).ring.cmds, d.uid ≠ uid := by
  unfold timeoutOne
  dsimp only
  generalize hy : setEnt (removeWait s q) _ = y
  have hcy : findCmd y uid = some c := by
    rw [← hy]
    exact hc
  have hty : y.ent.timeouts = sat 32 (s.ent.timeouts + 1) := by
    rw [← hy]
    rfl
  rw [hw]
  dsimp only
  rw [hcy]
  dsimp only
  rw [if_pos ho]
  obtain ⟨r, he⟩ := emitData_ringOnly y c (List.replicate (descLenOut c.desc) 0#8)
  rw [he]
  generalize hz : dropWait { y with ring := r } (.cmd uid) = z
  have htz : z.ent.timeouts = y.ent.timeouts := by
    rw [← hz]
    rfl
  have hwz : ∀ r ∈ z.ent.waiting, r.who ≠ .cmd uid := fun r hr => by
    rw [← hz] at hr
    have h := (List.mem_filter.1 hr).2
    simpa using h
  have hent := (finishNow_ringOnly z c .entropyTimeout 0 []).logOnly.ent
  have hdrop := finishNow_drops z c .entropyTimeout 0 []
  rw [findCmd_uid hc] at hdrop
  rw [hent]
  exact ⟨htz.trans hty, hwz, hdrop⟩

theorem exec_entropyWindowEnd (srcB : Bool) (w : BitVec 1024) (s : State) : exec (.entropyWindowEnd srcB w) s = .next (windowEndNow s srcB w) := rfl
theorem exec_entropyWarmupTimeout (s : State) : exec .entropyWarmupTimeout s = .next (warmupTimeout s) := rfl
theorem exec_softReseedLimit (s : State) : exec .softReseedLimit s = .next (softLimit s) := rfl
theorem exec_hardReseedLimit (s : State) : exec .hardReseedLimit s = .next (hardLimit s) := rfl
theorem exec_entropyWaitTimeout (s : State) : exec .entropyWaitTimeout s = .next (waitTimeout s) := rfl

/-- Settles O58: a window is `windowEndNow_fails` or `windowEndNow_passes`, a limit reseeds or starves, and a request given up is
`timeoutOne_gives_up`. -/
theorem entropyIsHeld : Obligations.EntropyIsHeld := by
  unfold Obligations.EntropyIsHeld
  intro s srcB w q uid c e bits rep apt run block only reseeded
  rw [exec_entropyWindowEnd, exec_entropyWarmupTimeout, exec_softReseedLimit, exec_hardReseedLimit, exec_entropyWaitTimeout]
  refine ⟨fun ⟨hon, hoff, hrun⟩ h => ⟨_, rfl, ?_⟩, fun ⟨hon, hoff, hrun⟩ hrep hapt => ?_, fun h => congrArg _ (windowEndNow_idle srcB w h),
    fun h => congrArg _ (if_pos h), fun h => congrArg _ (if_neg h), fun hr hp => ⟨fun hs hl => ⟨_, rfl, ?_⟩, fun hh hl => ⟨_, rfl, ?_⟩, fun hh hl => ?_⟩,
    fun h => congrArg _ (if_neg fun hc => ?_), fun h => congrArg _ (if_neg fun hc => ?_), fun hq hw hc ho => ⟨_, rfl, ?_⟩, fun h => ?_⟩
  · rw [windowEndNow_fails hon hoff hrun h]
    obtain ⟨h1, h2, h3, h4, h5, h6, -, h8, h9, h10⟩ := windowJudged_spec s srcB w
    refine ⟨⟨h1, h2, h3⟩, h4, h5, h6, h8.trans ?_, h9, h10⟩
    change (!rep && !apt) = false
    rcases h with h | h
    · rw [h]
      rfl
    · rw [h, Bool.not_true, Bool.and_false]
  · obtain ⟨t, ⟨h1, h2, h3, h4, h5, h6, h7, h8⟩, hready, hwarm⟩ := windowEndNow_passes hon hoff hrun hrep hapt
    refine ⟨fun hst => ⟨t, congrArg _ (hready hst), ⟨h1, h2, h3⟩, h4, h8, h6.trans hst⟩, fun hst hl => ?_, fun hst hl hwt => ?_⟩
    all_goals
      obtain ⟨r, p, hwp⟩ := warmProgress_warms t
      have hlen : s.ent.pool.length < 8 := by
        change e.pool.length < 8
        omega
      have hpool : t.ent.pool = e.pool ++ [block] := h4.trans (poolPut_room _ hlen)
      have hplen : (warmProgress t).ent.pool.length = e.pool.length + 1 := by
        rw [hwp]
        change t.ent.pool.length = _
        rw [hpool, List.length_append, List.length_singleton]
      rw [hwarm hst]
    · rw [if_neg (by omega), hwp]
      refine ⟨_, rfl, hpool, ?_, h6.trans hst, ?_, ?_⟩
      · change t.ent.credited = _
        rw [h5, if_pos hst]
      · change t.ldg = s.ldg
        rw [h1]
      · change t.key = s.key
        rw [h1]
    · rw [if_pos (by omega), serveWaiting_none (by rw [hwp]; exact h7.trans hwt), hwp]
      refine ⟨_, rfl, rfl, ?_, rfl, ?_, ?_⟩
      · change t.ent.pool.drop 3 = []
        refine List.drop_eq_nil_of_le ?_
        rw [hpool, List.length_append, List.length_singleton]
        omega
      · change t.ldg = s.ldg
        rw [h1]
      · change t.key = s.key
        rw [h1]
  · rw [softLimit, if_pos ⟨hr, hs, hl, hp⟩]
    exact drbgReseed_reseeds hr
  · rw [hardLimit_reseeds hr hp hh, if_pos hl]
    exact drbgReseed_reseeds hr
  · rw [hardLimit_reseeds hr hp hh, if_neg (Nat.not_le.2 hl)]
    rfl
  · obtain ⟨-, h2, -⟩ := hc
    rw [h] at h2
    cases h2
  · obtain ⟨-, h2, -⟩ := hc
    rw [h] at h2
    cases h2
  · have heq : waitTimeout s = timeoutOne s q := by
      unfold waitTimeout
      dsimp only
      rw [hq]
    rw [heq]
    exact timeoutOne_gives_up hw hc ho
  · have hnone : s.ent.waiting.find? (fun r => decide (r.us + 1000 * regF s .entCfg 16 10 ≤ nextBoundUs s)) = none :=
      List.find?_eq_none.2 fun r hr => by simpa using h r hr
    unfold waitTimeout
    dsimp only
    rw [hnone]

end Sys2Proof.Machine
end
section
/-! ## Life-cycle advances and debug sessions (R243, R265 to R275) -/

namespace Sys2Proof.Machine
open Sys2Proof

/-! ### What journal and checkpoints leave of the life-cycle -/

/-- Tickets, plinth and the ledger's state are as they were. -/
structure LifeKept (s t : State) : Prop where
  newTicket : t.fl.newTicket = s.fl.newTicket
  ticket : t.fl.ticket = s.fl.ticket
  plinth : t.key.plinth = s.key.plinth
  st : t.ldg.st = s.ldg.st

namespace LifeKept

theorem refl (s : State) : LifeKept s s := ⟨rfl, rfl, rfl, rfl⟩

theorem trans {s t u : State} (h : LifeKept s t) (k : LifeKept t u) : LifeKept s u :=
  ⟨k.newTicket.trans h.newTicket, k.ticket.trans h.ticket, k.plinth.trans h.plinth, k.st.trans h.st⟩

theorem of_logOnly {s t : State} (h : LogOnly s t) : LifeKept s t := by
  obtain ⟨r, j, p, rfl⟩ := h
  exact ⟨rfl, rfl, rfl, rfl⟩

theorem of_rewrites {s t : State} (h : Rewrites s t) : LifeKept s t := by
  obtain ⟨d, w, b, rfl⟩ := h
  exact ⟨rfl, rfl, rfl, rfl⟩

end LifeKept

theorem raiseUses_lifeKept (s : State) (i : Nat) : LifeKept s (raiseUses s i) := by
  obtain ⟨m, h⟩ := raiseUses_mark s i
  rw [h]
  exact ⟨rfl, rfl, rfl, rfl⟩

theorem setNode_lifeKept (s : State) (i : Nat) (n : Node) : LifeKept s (setNode s i n) := ⟨rfl, rfl, rfl, rfl⟩

theorem noteUse_lifeKept (s : State) (i : Nat) : LifeKept s (noteUse s i) := by
  unfold noteUse
  dsimp only
  have h := setNode_lifeKept s i { getNode s i with uses := (getNode s i).uses + 1 }
  generalize setNode s i { getNode s i with uses := (getNode s i).uses + 1 } = z at h
  split
  · exact h
  · exact h.trans (raiseUses_lifeKept z i)

theorem markRetired_lifeKept (s : State) (i : Nat) : LifeKept s (markRetired s i) := by
  unfold markRetired stageNode
  dsimp only
  refine LifeKept.trans ?_ (.of_logOnly (stageLife_logOnly _ _ _ _ _ _))
  exact ⟨rfl, rfl, rfl, rfl⟩

theorem nextTr_lifeKept (s : State) (n : Node) : LifeKept s (nextTr s n) := by
  unfold nextTr nextInst
  dsimp only
  refine (noteUse_lifeKept s 0).trans ?_
  generalize noteUse s 0 = z
  exact ⟨rfl, rfl, rfl, rfl⟩

theorem retireNode_lifeKept (s : State) (i : Nat) : LifeKept s (retireNode s i) := by
  rw [retireNode_eq]
  refine (markRetired_lifeKept s i).trans ?_
  generalize markRetired s i = z
  split
  · exact ⟨rfl, rfl, rfl, rfl⟩
  · split
    · exact nextTr_lifeKept z _
    · exact .refl z

theorem countUse_lifeKept (s : State) (i : Nat) : LifeKept s (countUse s i) := by
  unfold countUse
  dsimp only
  generalize hy : setNode (addBlocks s (useBlocks i)) i _ = y
  have h : LifeKept s y := by
    rw [← hy]
    exact ⟨rfl, rfl, rfl, rfl⟩
  have hr : LifeKept s (if y.flt.restarting then y else raiseUses y i) := by
    split
    · exact h
    · exact h.trans (raiseUses_lifeKept y i)
  split
  · exact hr.trans (retireNode_lifeKept _ i)
  · exact hr

theorem sealInto_lifeKept (s : State) (r : JRec) : LifeKept s (sealInto s r).1 := by
  unfold sealInto
  dsimp only
  refine (countUse_lifeKept s 3).trans ?_
  generalize countUse s 3 = z
  exact ⟨rfl, rfl, rfl, rfl⟩

theorem sealList_lifeKept (l : List JRec) : ∀ s, LifeKept s (sealList s l).1 := by
  induction l with
  | nil => exact LifeKept.refl
  | cons r l ih =>
    intro s
    unfold sealList
    split
    · exact (sealInto_lifeKept s r).trans (ih _)
    · exact ih s

theorem chainCatchup_lifeKept (s : State) : LifeKept s (chainCatchup s) := by
  unfold chainCatchup
  split
  · dsimp only
    have h := sealList_lifeKept s.fl.journal s
    generalize sealList s s.fl.journal = x at h
    have hx : LifeKept s { x.1 with fl := { x.1.fl with journal := x.2 } } := h.trans ⟨rfl, rfl, rfl, rfl⟩
    exact hx.trans (.of_rewrites (programChains_rewrites _ _ 0))
  · exact .refl s

theorem journalSealOne_lifeKept (s : State) : LifeKept s (journalSealOne s) := by
  unfold journalSealOne
  split
  · exact .refl s
  · next r rest _ =>
    split
    · exact .refl s
    · dsimp only
      generalize hy : ({ chainCatchup s with jrn := { (chainCatchup s).jrn with staged := rest } } : State) = y
      have h : LifeKept s y := by
        rw [← hy]
        exact (chainCatchup_lifeKept s).trans ⟨rfl, rfl, rfl, rfl⟩
      have hx : LifeKept s (if kjHeld y then sealInto y r else (y, r)).1 := by
        split
        · exact h.trans (sealInto_lifeKept y r)
        · exact h
      generalize (if kjHeld y then sealInto y r else (y, r)) = x at hx
      have hw : LifeKept s { x.1 with fl := { x.1.fl with journal := x.1.fl.journal ++ [x.2] } } := hx.trans ⟨rfl, rfl, rfl, rfl⟩
      exact hw.trans (.of_rewrites (flashRenew_rewrites _ _ _ _))

theorem sealAllGo_lifeKept (k : Nat) : ∀ s, LifeKept s (sealAllGo k s) := by
  induction k with
  | zero => exact LifeKept.refl
  | succ k ih => exact fun s => (journalSealOne_lifeKept s).trans (ih _)

theorem sealAll_lifeKept (s : State) : LifeKept s (sealAll s) := (sealAllGo_lifeKept _ s).trans (chainCatchup_lifeKept _)

theorem compactCkpts_fl (s : State) : ∃ f, compactCkpts s = { s with fl := f } ∧ f.newTicket = s.fl.newTicket ∧ f.ticket = s.fl.ticket := by
  unfold compactCkpts
  split
  · exact ⟨_, rfl, rfl, rfl⟩
  · exact ⟨s.fl, rfl, rfl, rfl⟩

/-- What a checkpoint leaves, whatever room there is. -/
structure CkptLeaves (type : Nat) (s t : State) : Prop where
  newest : ∃ l c, t.fl.ckpts = l ++ [c] ∧ c.type = type
  credit : t.ldg.cA = s.ldg.cA
  kept : LifeKept s t

theorem storeCkpt_leaves (s : State) (type disp : Nat) (ctr : Option (List Byte)) : CkptLeaves type s (storeCkpt s type disp ctr).1 := by
  obtain ⟨⟨j, p, k, ci, f, hz⟩, -, -, -⟩ := sealAll_sealFrame s
  have hkept := sealAll_lifeKept s
  have hldg : (sealAll s).ldg = s.ldg := by rw [hz]
  unfold storeCkpt
  dsimp only
  generalize sealAll s = z at hkept hldg
  obtain ⟨g, hc, hn, ht⟩ := compactCkpts_fl z
  have hw : LifeKept s (compactCkpts z) ∧ (compactCkpts z).ldg = s.ldg := by
    rw [hc]
    exact ⟨hkept.trans ⟨hn, ht, rfl, rfl⟩, hldg⟩
  generalize compactCkpts z = w at hw
  obtain ⟨hw, hwl⟩ := hw
  generalize ckptHead w type w.jrn.ckptNext disp 0 (ctr.getD (ckptCounters w)) = head
  generalize BitVec.ofNat 128 (beN (ckptTag w head)) = tag
  have hu := countUse_lifeKept w 4
  obtain ⟨j', p', k', c', ks', hy⟩ := (countUse_counted w 4).use
  have hyl : (countUse w 4).ldg = w.ldg := by rw [hy]
  generalize countUse w 4 = y at hu hyl
  refine ⟨⟨_, _, rfl, rfl⟩, ?_, (hw.trans hu).trans ⟨rfl, rfl, rfl, rfl⟩⟩
  have hA : y.ldg.cA = s.ldg.cA := by rw [hyl, hwl]
  exact hA

theorem writeCounter_lifeKept (s : State) (kind : Nat) : LifeKept s (writeCounter s kind) := ⟨rfl, rfl, rfl, rfl⟩

theorem stageCkpt_logOnly (s : State) (type number : Nat) (tag : BitVec 128) : LogOnly s (stageCkpt s type number tag) := stage_logOnly _ _ _ _

theorem storeAndRecord_lifeKept (s : State) (type disp : Nat) (ctr : Option (List Byte)) : LifeKept s (storeAndRecord s type disp ctr) := by
  unfold storeAndRecord
  dsimp only
  exact ((storeCkpt_leaves s type disp ctr).kept.trans (.of_logOnly (stageCkpt_logOnly _ _ _ _))).trans (writeCounter_lifeKept _ 4)

theorem stageRoll_logOnly (s : State) (reason : Nat) (old new : BitVec 16) : LogOnly s (stageRoll s reason old new) := stage_logOnly _ _ _ _

theorem postRoll_logOnly (s : State) (reason : Nat) (new : BitVec 16) : LogOnly s (postRoll s reason new) := (postEvent_ringOnly _ _ _ _).logOnly

theorem rollTwo_lifeKept (s : State) : LifeKept s (rollTwo s) := by
  unfold rollTwo
  dsimp only
  exact ((sealAll_lifeKept s).trans (.of_logOnly (stageRoll_logOnly _ _ _ _))).trans (.of_logOnly (postRoll_logOnly _ _ _))

/-! ### Progress and records of an advance (R269, R279) -/

theorem stageAdvance_logOnly (s : State) (event phase : Nat) (k : Ticket) : LogOnly s (stageAdvance s event phase k) := stageLife_logOnly _ _ _ _ _ _

/-- LCY_PROGRESS and the rings move. -/
def Progressed (s t : State) : Prop := ∃ r p, t = { s with ring := r, lcy := { s.lcy with prog := p } }

theorem Progressed.trans {s t u : State} (h : Progressed s t) (k : Progressed t u) : Progressed s u := by
  obtain ⟨_, _, rfl⟩ := h
  obtain ⟨r, p, rfl⟩ := k
  exact ⟨r, p, rfl⟩

theorem advProgress_progressed (s : State) (v pos : Nat) : Progressed s (advProgress s v pos) ∧ (advProgress s v pos).lcy.prog.progress = v := by
  unfold advProgress
  dsimp only
  obtain ⟨r, h⟩ := postProgress_ringOnly { s with lcy := { s.lcy with prog := ⟨v, pos, decide (v < 1000)⟩ } } 3 srcLife s.lcy.prog.progress v pos
  rw [h]
  exact ⟨⟨r, _, rfl⟩, rfl⟩

theorem advSteps_progressed (f w n : Nat) (l : List Nat) : ∀ s, Progressed s (advSteps s f w n l) := by
  induction l with
  | nil => exact fun s => ⟨s.ring, s.lcy.prog, rfl⟩
  | cons p l ih => exact fun s => (advProgress_progressed s (f + w * p / n) p).1.trans (ih _)

/-- A phase that runs to its end reads its upper bound. -/
theorem advSteps_end (s : State) (f w n k : Nat) (g : Nat → Nat) :
    (advSteps s f w n ((List.range (k + 1)).map g)).lcy.prog.progress = f + w * g k / n := by
  rw [List.range_succ, List.map_append, advSteps, List.foldl_append]
  exact (advProgress_progressed _ _ _).2

/-! ### Phase 1 (R243) -/

theorem closeBuckets_closes (b : Buckets) (disp : Nat) : (closeBuckets b disp).reserved = 0 ∧ (closeBuckets b disp).consumed = b.consumed ∧
    (closeBuckets b disp).accepted = b.accepted ∧
    (closeBuckets b disp).balance + (closeBuckets b disp).settled = b.balance + b.reserved + b.settled ∧
    (disp = 1 → (closeBuckets b disp).settled = b.settled) := by
  unfold closeBuckets
  dsimp only
  split
  · next h =>
    refine ⟨rfl, rfl, rfl, ?_, fun h1 => ?_⟩
    · change (0 : Int) + (b.settled + (b.balance + b.reserved)) = _
      omega
    · omega
  · exact ⟨rfl, rfl, rfl, rfl, fun _ => rfl⟩

/-- Boundary c: the buckets close behind an LC_CLOSE checkpoint and an ADVANCE counter record. -/
structure BooksClosed (disp : Nat) (s t : State) : Prop where
  credit : t.ldg.cA = closeBuckets s.ldg.cA disp
  record : ∃ r, t.fl.counter = some r ∧ r.kind = 5 ∧ r.bkt = t.ldg.cA
  newest : ∃ c, t.fl.ckpts.getLast? = some c ∧ c.type = 2

theorem closeLedger_cA (s : State) (disp frm dest : Nat) : (closeLedger s disp frm dest).ldg.cA = closeBuckets s.ldg.cA disp := by
  unfold closeLedger stage
  dsimp only
  obtain ⟨j, h⟩ := stageRec_jrn (moveBkt s fun b => closeBuckets b disp) 0x05 0 (moveBkt s fun b => closeBuckets b disp).clk.beat
    (payload [(20, leBytes disp 1), (21, leBytes frm 1), (22, leBytes dest 1),
      (24, leBytes (wrapInt 64 (moveBkt s fun b => closeBuckets b disp).ldg.cA.balance) 8),
      (32, leBytes (wrapInt 64 ((moveBkt s fun b => closeBuckets b disp).ldg.cA.settled - s.ldg.cA.settled)) 8),
      (40, leBytes (wrapInt 64 s.ldg.cA.reserved) 8)]) 0
  rw [h]
  rfl

theorem closeRecords_closes (s : State) (k : Ticket) : BooksClosed k.disposition s (closeRecords s k) := by
  have hseal : (sealAll s).ldg = s.ldg := by
    obtain ⟨⟨j, p, ke, ci, f, hz⟩, -, -, -⟩ := sealAll_sealFrame s
    rw [hz]
  have hclose := closeLedger_cA (sealAll s) k.disposition k.frm k.dest
  rw [hseal] at hclose
  unfold closeRecords
  dsimp only
  generalize closeLedger (sealAll s) k.disposition k.frm k.dest = y at hclose
  obtain ⟨⟨l, c, hl, hty⟩, hcA, -⟩ := storeCkpt_leaves y 2 k.disposition none
  generalize storeCkpt y 2 k.disposition none = x at hl hcA
  generalize hw : ({ x.1 with jrn := _ } : State) = w
  have hwA : w.ldg.cA = closeBuckets s.ldg.cA k.disposition := by
    rw [← hw]
    exact hcA.trans hclose
  have hwc : w.fl.ckpts = l ++ [c] := by
    rw [← hw]
    exact hl
  have hlog := stageCkpt_logOnly w 2 x.2.1 x.2.2
  have hvA : (stageCkpt w 2 x.2.1 x.2.2).ldg = w.ldg := hlog.ldg
  have hvc : (stageCkpt w 2 x.2.1 x.2.2).fl = w.fl := hlog.fl
  generalize stageCkpt w 2 x.2.1 x.2.2 = v at hvA hvc
  have hA : (writeCounter (writeCounter v 4) 5).ldg.cA = v.ldg.cA := rfl
  have hC : (writeCounter (writeCounter v 4) 5).fl.ckpts = v.fl.ckpts := rfl
  refine ⟨?_, ⟨_, rfl, rfl, rfl⟩, c, ?_, hty⟩
  · rw [hA, hvA, hwA]
  · rw [hC, hvc, hwc, List.getLast?_append_of_ne_nil _ (List.cons_ne_nil _ _)]
    rfl

/-- The end of a phase: its mark, its progress and its record. -/
theorem phaseEnd_spec (s : State) (x : Option Advance) (v pos event phase : Nat) (k : Ticket) :
    ∃ r j p g, stageAdvance (advProgress (setAdv s x) v pos) event phase k = { s with
      ring := r
      jrn := j
      pwr := { s.pwr with startRecs := p }
      lcy := { s.lcy with adv := x, prog := g } } ∧ g.progress = v := by
  obtain ⟨⟨r, g, hp⟩, hv⟩ := advProgress_progressed (setAdv s x) v pos
  rw [hp] at hv ⊢
  obtain ⟨r', j, p, hs⟩ := stageAdvance_logOnly { setAdv s x with ring := r, lcy := { (setAdv s x).lcy with prog := g } } event phase k
  rw [hs]
  exact ⟨_, _, _, g, rfl, hv⟩

/-- What the close of an advance leaves. -/
structure AdvanceClosed (a : Advance) (s t : State) : Prop where
  adv : t.lcy.adv = some { a with closeDone := true }
  progress : t.lcy.prog.progress = 200
  shut : s.jrn.isOpen = false → t.ldg = s.ldg
  books : s.jrn.isOpen = true → BooksClosed a.ticket.disposition s t

theorem BooksClosed.of_eq {disp : Nat} {s t u : State} (h : BooksClosed disp s t) (hl : u.ldg = t.ldg) (hf : u.fl = t.fl) : BooksClosed disp s u := by
  obtain ⟨h1, h2, h3⟩ := h
  refine ⟨?_, ?_, ?_⟩
  · rw [hl]
    exact h1
  · rw [hl, hf]
    exact h2
  · rw [hf]
    exact h3

theorem advanceCloseNow_closes {s : State} {a : Advance} (ha : s.lcy.adv = some a) (hk : keeperUp s = true) (h1 : a.phase = 1)
    (hd : a.closeDone = false) (hr : closeReady s = true) : AdvanceClosed a s (advanceCloseNow s) := by
  have hn : ¬ (a.phase ≠ 1 ∨ a.closeDone = true ∨ (!closeReady s) = true ∨ (!keeperUp s) = true) := by simp [h1, hd, hr, hk]
  unfold advanceCloseNow
  rw [ha]
  dsimp only
  rw [if_neg hn]
  obtain ⟨r, p, hz⟩ := advSteps_progressed 0 200 (max s.jrn.staged.length 1) ((List.range s.jrn.staged.length).map (· + 1)) s
  have hzl : (advSteps s 0 200 (max s.jrn.staged.length 1) ((List.range s.jrn.staged.length).map (· + 1))).ldg = s.ldg := by rw [hz]
  generalize advSteps s 0 200 (max s.jrn.staged.length 1) ((List.range s.jrn.staged.length).map (· + 1)) = z at hzl
  have hy : (s.jrn.isOpen = false → (if s.jrn.isOpen then closeRecords z a.ticket else z).ldg = s.ldg) ∧
      (s.jrn.isOpen = true → BooksClosed a.ticket.disposition s (if s.jrn.isOpen then closeRecords z a.ticket else z)) := by
    refine ⟨fun h => ?_, fun h => ?_⟩
    · rw [h, if_neg Bool.false_ne_true, hzl]
    · rw [h, if_pos rfl]
      obtain ⟨hA, hrec, hnew⟩ := closeRecords_closes z a.ticket
      exact ⟨by rw [hA, hzl], hrec, hnew⟩
  generalize (if s.jrn.isOpen then closeRecords z a.ticket else z) = y at hy
  obtain ⟨r', j, p', g, he, hg⟩ := phaseEnd_spec y (some { a with closeDone := true }) 200 s.jrn.staged.length 1 1 a.ticket
  rw [he]
  exact ⟨rfl, hg, hy.1, fun h => (hy.2 h).of_eq rfl rfl⟩

/-! ### Phases 2 and 3 (R257, R269) -/

/-- What the zeroed key RAM holds: nothing but nodes whose operation has not ended. -/
structure Emptied (s t : State) : Prop where
  use : KeyUse s t
  plinth : t.key.plinth = false
  nodes : ∀ i, (getNode t i).st = .free ∨ ((getNode t i).st = .invalid ∧ ((getNode s i).st = .invalid ∨ (nodeBusy s i = true ∧ (getNode t i).key = 0)))

theorem leftNode_empty (s : State) (i : Nat) : (leftNode s i).st = .free ∨ ((leftNode s i).st = .invalid ∧ nodeBusy s i = true ∧ (leftNode s i).key = 0) := by
  unfold leftNode
  split
  · next h => exact .inr ⟨rfl, h, rfl⟩
  · exact .inl rfl

theorem zeroArmature_empties (s : State) : Emptied s (zeroArmature s) := by
  unfold zeroArmature
  dsimp only
  obtain ⟨huse, -, -, hout, hgone, -⟩ := invalidateAll_removed (journal := false) (s.key.nodes.map (·.1)) s
  generalize invalidateAll s (s.key.nodes.map (·.1)) false = z at huse hout hgone
  refine ⟨huse.trans (setKey_keyUse _ _), rfl, fun i => ?_⟩
  change (getNode z i).st = .free ∨ ((getNode z i).st = .invalid ∧ ((getNode s i).st = .invalid ∨ (nodeBusy s i = true ∧ (getNode z i).key = 0)))
  by_cases ht : InTree s i
  · have hmem : i ∈ s.key.nodes.map (·.1) := by
      have hne : smGet s.key.nodes i Node.free ≠ Node.free := fun h => ht.1 (congrArg Node.st h)
      exact List.mem_map.2 ⟨_, smGet_entry hne, rfl⟩
    rw [(hgone i hmem ht).1]
    rcases leftNode_empty s i with h | ⟨h1, h2, h3⟩
    · exact .inl h
    · exact .inr ⟨h1, .inr ⟨h2, h3⟩⟩
  · rw [hout i ht]
    by_cases hf : (getNode s i).st = .free
    · exact .inl hf
    · have hinv : (getNode s i).st = .invalid := by
        by_contra h
        exact ht ⟨hf, h⟩
      exact .inr ⟨hinv, .inl hinv⟩

/-- The state that phase 3 zeroes at the commit. -/
def fused (s : State) (a : Advance) : State :=
  let s1 := mirrorOptions { s with lcy := { s.lcy with fuses := s.lcy.fuses ||| fuseBits a.ticket.dest } } a.ticket.dest
  stageAdvance (advProgress (setAdv s1 (some { a with phase := 2 })) 300 0) 2 2 a.ticket

theorem fused_spec (s : State) (a : Advance) : ∃ r j p l f, fused s a = { s with
    ring := r
    jrn := j
    pwr := { s.pwr with startRecs := p }
    lcy := l
    fl := f } ∧ l.fuses = s.lcy.fuses ||| fuseBits a.ticket.dest ∧ l.adv = some { a with phase := 2 } ∧
      f.optA.lcCode = a.ticket.dest ∧ f.optB.lcCode = a.ticket.dest := by
  unfold fused
  dsimp only
  generalize hm : mirrorOptions _ a.ticket.dest = m
  have hf : ∃ f, m = { s with lcy := { s.lcy with fuses := s.lcy.fuses ||| fuseBits a.ticket.dest }, fl := f } ∧
      f.optA.lcCode = a.ticket.dest ∧ f.optB.lcCode = a.ticket.dest := by
    rw [← hm]
    exact ⟨_, rfl, rfl, rfl⟩
  obtain ⟨f, hf, hA, hB⟩ := hf
  obtain ⟨r, j, p, g, he, -⟩ := phaseEnd_spec m (some { a with phase := 2 }) 300 0 2 2 a.ticket
  rw [he, hf]
  exact ⟨_, _, _, _, f, rfl, rfl, rfl, hA, hB⟩

theorem advanceCommitNow_eq {s : State} {a : Advance} (ha : s.lcy.adv = some a) (hk : keeperUp s = true) (h1 : a.phase = 1)
    (hd : a.closeDone = true) : advanceCommitNow s = zeroArmature (fused s a) := by
  have hn : ¬ (a.phase ≠ 1 ∨ (!a.closeDone) = true ∨ (!keeperUp s) = true) := by simp [h1, hd, hk]
  unfold advanceCommitNow
  rw [ha]
  exact if_neg hn

/-- What the zeroed key RAM holds, as seen before the commit's other marks. -/
theorem Emptied.before {s y t : State} (h : Emptied y t) (hkey : y.key = s.key) (hb : ∀ i, nodeBusy y i = nodeBusy s i) (i : Nat) :
    (getNode t i).st = .free ∨ ((getNode t i).st = .invalid ∧ ((getNode s i).st = .invalid ∨ (nodeBusy s i = true ∧ (getNode t i).key = 0))) := by
  have hn : getNode y i = getNode s i := by
    unfold getNode
    rw [hkey]
  have h := h.nodes i
  rwa [hb i, hn] at h

/-- The key store is gone, and the registry where it is not kept. -/
def destroyed (s : State) (a : Advance) : State :=
  let s1 := zeroArmature s
  let s2 := { s1 with key := { s1.key with usesMark := [] }, fl := { s1.fl with keyStore := [] } }
  if a.ticket.keepRegistry && decide (a.ticket.dest ≠ 5) then s2 else eraseRegistry s2

theorem pairSlots_slu (l : List Nat) (f : SlotEnt → SlotEnt) : ∀ s : State, ∃ u, l.foldl (fun s c => pairSlot s c f) s = { s with slu := u } := by
  induction l with
  | nil => exact fun s => ⟨s.slu, rfl⟩
  | cons c l ih =>
    intro s
    obtain ⟨u, h⟩ := ih (pairSlot s c f)
    exact ⟨u, h⟩

theorem eraseRegistry_erases (s : State) : ∃ u k f, eraseRegistry s = { s with slu := u, tok := k, fl := f } ∧ k.reg = [] ∧ k.recs = [] ∧
    f.reg = [] ∧ f.recs = [] ∧ f.keyStore = s.fl.keyStore := by
  unfold eraseRegistry
  dsimp only
  obtain ⟨d, w, b, h⟩ := flashRenew_rewrites { s with
    tok := { s.tok with reg := [], recs := [], changes := [] }
    fl := { s.fl with reg := [], recs := [] } } 2 0 (ticketOff 0)
  rw [h]
  dsimp only
  obtain ⟨u, hu⟩ := pairSlots_slu (s.tok.recs.map (·.1)) (fun e => if e.st = .unverifiable then e else SlotEnt.reset) { s with
    tok := { s.tok with reg := [], recs := [], changes := [] }
    fl := { s.fl with reg := [], recs := [], dbgBytes := d, weak := w, bad := b } }
  rw [hu]
  exact ⟨u, _, _, rfl, rfl, rfl, rfl, rfl, rfl⟩

/-- What the destruction leaves. -/
structure Destroyed (a : Advance) (s t : State) : Prop where
  adv : t.lcy.adv = some { a with phase := 3 }
  progress : t.lcy.prog.progress = 900
  store : t.fl.keyStore = []
  nodes : ∀ i, (getNode t i).st = .free ∨ ((getNode t i).st = .invalid ∧ ((getNode s i).st = .invalid ∨ (nodeBusy s i = true ∧ (getNode t i).key = 0)))
  erased : a.ticket.keepRegistry = false ∨ a.ticket.dest = 5 → t.tok.reg = [] ∧ t.fl.reg = [] ∧ t.tok.recs = [] ∧ t.fl.recs = []
  kept : a.ticket.keepRegistry = true → a.ticket.dest ≠ 5 → t.tok = s.tok ∧ t.fl.reg = s.fl.reg
  credit : t.ldg.cA = s.ldg.cA

theorem destroyed_spec (s : State) (a : Advance) : ∃ u k f m, destroyed s a = { zeroArmature s with slu := u, tok := k, fl := f, key := m } ∧
    m.nodes = (zeroArmature s).key.nodes ∧ f.keyStore = [] ∧
    (a.ticket.keepRegistry = false ∨ a.ticket.dest = 5 → k.reg = [] ∧ f.reg = [] ∧ k.recs = [] ∧ f.recs = []) ∧
    (a.ticket.keepRegistry = true → a.ticket.dest ≠ 5 → k = (zeroArmature s).tok ∧ f.reg = (zeroArmature s).fl.reg) := by
  unfold destroyed
  dsimp only
  generalize zeroArmature s = e
  by_cases hk : (a.ticket.keepRegistry && decide (a.ticket.dest ≠ 5)) = true
  · rw [if_pos hk]
    obtain ⟨h1, h2⟩ := Bool.and_eq_true_iff.1 hk
    refine ⟨e.slu, e.tok, _, _, rfl, rfl, rfl, fun h => ?_, fun _ _ => ⟨rfl, rfl⟩⟩
    rcases h with h | h
    · rw [h1] at h
      cases h
    · exact absurd h (of_decide_eq_true h2)
  · rw [if_neg hk]
    obtain ⟨u, k, f, he, hreg, hrecs, hfreg, hfrecs, hks⟩ := eraseRegistry_erases { e with
      key := { e.key with usesMark := [] }
      fl := { e.fl with keyStore := [] } }
    rw [he]
    refine ⟨u, k, f, _, rfl, rfl, hks, fun _ => ⟨hreg, hfreg, hrecs, hfrecs⟩, fun h1 h2 => absurd ?_ hk⟩
    rw [h1, Bool.true_and]
    exact decide_eq_true h2

/-- The end of phase 3, with all its units done. -/
theorem destroyEnd_spec (s : State) (x : Option Advance) (n : Nat) (k : Ticket) :
    ∃ r j p g, stageAdvance (advSteps (setAdv s x) 300 600 (4 * (n + 1)) ((List.range (n + 1)).map fun k => 4 * (k + 1))) 3 3 k = { s with
      ring := r
      jrn := j
      pwr := { s.pwr with startRecs := p }
      lcy := { s.lcy with adv := x, prog := g } } ∧ g.progress = 900 := by
  have hend := advSteps_end (setAdv s x) 300 600 (4 * (n + 1)) n fun k => 4 * (k + 1)
  rw [Nat.mul_div_cancel _ (by omega : 0 < 4 * (n + 1))] at hend
  obtain ⟨r, g, hp⟩ := advSteps_progressed 300 600 (4 * (n + 1)) ((List.range (n + 1)).map fun k => 4 * (k + 1)) (setAdv s x)
  rw [hp] at hend ⊢
  obtain ⟨r', j, p, hs⟩ := stageAdvance_logOnly { setAdv s x with ring := r, lcy := { (setAdv s x).lcy with prog := g } } 3 3 k
  rw [hs]
  exact ⟨_, _, _, g, rfl, hend⟩

theorem advanceDestroyNow_eq {s : State} {a : Advance} (ha : s.lcy.adv = some a) (hk : keeperUp s = true) (h2 : a.phase = 2) :
    ∃ n, advanceDestroyNow s = stageAdvance (advSteps (setAdv (destroyed s a) (some { a with phase := 3 })) 300 600 (4 * (n + 1))
      ((List.range (n + 1)).map fun k => 4 * (k + 1))) 3 3 a.ticket := by
  have hn : ¬ (a.phase ≠ 2 ∨ (!keeperUp s) = true) := by simp [h2, hk]
  have hunits : ∃ n, (if (a.ticket.keepRegistry && decide (a.ticket.dest ≠ 5)) = true then 15 else 81) = n + 1 := by
    split
    · exact ⟨14, rfl⟩
    · exact ⟨80, rfl⟩
  obtain ⟨n, hunits⟩ := hunits
  refine ⟨n, ?_⟩
  unfold advanceDestroyNow destroyed
  rw [ha]
  dsimp only
  rw [if_neg hn, hunits]

theorem advanceDestroyNow_destroys {s : State} {a : Advance} (ha : s.lcy.adv = some a) (hk : keeperUp s = true) (h2 : a.phase = 2) :
    Destroyed a s (advanceDestroyNow s) := by
  obtain ⟨n, he⟩ := advanceDestroyNow_eq ha hk h2
  have hempty := zeroArmature_empties s
  obtain ⟨u, k, f, m, hd, hnodes, hstore, herased, hkept⟩ := destroyed_spec s a
  have huse := hempty.use
  have hemptied := hempty.nodes
  obtain ⟨r, j, p, g, hend, hg⟩ := destroyEnd_spec (destroyed s a) (some { a with phase := 3 }) n a.ticket
  rw [he, hend, hd]
  generalize zeroArmature s = e at hnodes hkept huse hemptied
  obtain ⟨j', p', k', c', ks, rfl⟩ := huse
  refine ⟨rfl, hg, hstore, fun i => ?_, herased, hkept, rfl⟩
  have hi := hemptied i
  unfold getNode at hi ⊢
  dsimp only at hi hnodes ⊢
  rw [hnodes]
  exact hi

/-! ### Phase 4 (R217, R269) -/

/-- What the installation leaves of the ticket, and the life that begins or ends. -/
structure Installed (k : Ticket) (t : State) : Prop where
  newTicket : t.fl.newTicket = none
  ticket : t.fl.ticket = some k
  life : 1 ≤ k.dest ∧ k.dest ≤ 3 → t.ldg.st = .active ∧ t.key.plinth = true
  ends : ¬ (1 ≤ k.dest ∧ k.dest ≤ 3) → t.ldg.st = .closed ∧ t.key.plinth = false

/-- The ticket, the plinth and the ACTIVE ledger of a new life. -/
def lifeOpened (s1 : State) (k : Ticket) : State :=
  let s2 := flashRenew { s1 with
    key := { s1.key with plinth := true, iseq := 0 }
    fl := { s1.fl with ticket := some k, newTicket := none } } 2 (ticketOff 0) 128
  { s2 with ldg := { s2.ldg with st := .active } }

/-- The records of the life that begins. -/
def lifeRecorded (s3 : State) (k : Ticket) : State :=
  let s5 := stageAdvance (if k.frm = 0 then s3 else rollTwo s3) 4 4 k
  armThresholds (storeAndRecord s5 3 0 (if k.frm = 0 then none else countersAtClose s5))

theorem installLife_eq (s : State) (k : Ticket) : installLife s k = lifeRecorded (lifeOpened
    (installSystem (installRoot (if k.frm = 0 then openLedger s else s) (plinthKey k.dest (nBe k.pseed.toNat 32)))) k) k := rfl

theorem lifeRecorded_lifeKept (s : State) (k : Ticket) : LifeKept s (lifeRecorded s k) := by
  unfold lifeRecorded
  dsimp only
  have h1 : LifeKept s (if k.frm = 0 then s else rollTwo s) := by
    split
    · exact .refl s
    · exact rollTwo_lifeKept s
  generalize (if k.frm = 0 then s else rollTwo s) = y at h1
  have h2 := h1.trans (.of_logOnly (stageAdvance_logOnly y 4 4 k))
  generalize stageAdvance y 4 4 k = z at h2
  have h3 := h2.trans (storeAndRecord_lifeKept z 3 0 (if k.frm = 0 then none else countersAtClose z))
  generalize storeAndRecord z 3 0 _ = w at h3
  exact h3.trans ⟨rfl, rfl, rfl, rfl⟩

theorem lifeOpened_opens (s : State) (k : Ticket) : (lifeOpened s k).fl.newTicket = none ∧ (lifeOpened s k).fl.ticket = some k ∧
    (lifeOpened s k).key.plinth = true ∧ (lifeOpened s k).ldg.st = .active := ⟨rfl, rfl, rfl, rfl⟩

theorem installLife_installs (s : State) (k : Ticket) (hd : 1 ≤ k.dest ∧ k.dest ≤ 3) : Installed k (installLife s k) := by
  rw [installLife_eq]
  generalize installSystem _ = y
  obtain ⟨h1, h2, h3, h4⟩ := lifeOpened_opens y k
  obtain ⟨k1, k2, k3, k4⟩ := lifeRecorded_lifeKept (lifeOpened y k) k
  exact ⟨k1.trans h1, k2.trans h2, fun _ => ⟨k4.trans h4, k3.trans h3⟩, fun h => absurd hd h⟩

theorem installEnd_installs (s : State) (k : Ticket) (wasActive : Bool) (hd : ¬ (1 ≤ k.dest ∧ k.dest ≤ 3)) : Installed k (installEnd s k wasActive) := by
  unfold installEnd
  dsimp only
  generalize (if (chainFrom k && s.jrn.isOpen) = true then _ else stageAdvance s 4 4 k) = y
  exact ⟨rfl, rfl, fun h => absurd h hd, fun _ => ⟨rfl, rfl⟩⟩

theorem Installed.of_ringOnly {k : Ticket} {s t : State} (h : Installed k s) (hr : RingOnly s t) : Installed k t := by
  obtain ⟨r, rfl⟩ := hr
  exact ⟨h.newTicket, h.ticket, h.life, h.ends⟩

theorem advanceInstallNow_installs {s : State} {a : Advance} (ha : s.lcy.adv = some a) (hk : keeperUp s = true) (he : engineFailed s = false)
    (hm : s.cip.mode ≠ .kat) (h3 : a.phase = 3) : Installed a.ticket (advanceInstallNow s) ∧ (advanceInstallNow s).lcy.adv = none ∧
      (advanceInstallNow s).lcy.prog.progress = 1000 := by
  have hn : ¬ (a.phase ≠ 3 ∨ (!keeperUp s) = true ∨ engineFailed s = true ∨ s.cip.mode = .kat) := by simp [h3, hk, he, hm]
  unfold advanceInstallNow
  rw [ha]
  dsimp only
  rw [if_neg hn]
  have hi : Installed a.ticket (if 1 ≤ a.ticket.dest ∧ a.ticket.dest ≤ 3 then installLife s a.ticket else installEnd s a.ticket a.ledgerWasActive) := by
    split
    · next h => exact installLife_installs s a.ticket h
    · next h => exact installEnd_installs s a.ticket _ h
  generalize (if 1 ≤ a.ticket.dest ∧ a.ticket.dest ≤ 3 then installLife s a.ticket else installEnd s a.ticket a.ledgerWasActive) = y at hi
  obtain ⟨⟨r, g, hp⟩, hv⟩ := advProgress_progressed y 1000 0
  generalize hz : setAdv (advProgress y 1000 0) none = z
  have hz' : Installed a.ticket z ∧ z.lcy.adv = none ∧ z.lcy.prog.progress = 1000 := by
    rw [← hz]
    refine ⟨?_, rfl, hv⟩
    rw [hp]
    exact ⟨hi.newTicket, hi.ticket, hi.life, hi.ends⟩
  split
  · next c _ =>
    have hr := finishNow_ringOnly z c .ok a.ticket.dest []
    have hl : (finishNow z c .ok a.ticket.dest []).lcy = z.lcy := hr.logOnly.lcy
    refine ⟨hz'.1.of_ringOnly hr, ?_, ?_⟩
    · rw [hl]
      exact hz'.2.1
    · rw [hl]
      exact hz'.2.2
  · exact hz'

/-! ### What does not act, and what resumes (R270) -/

theorem advance_idle {s : State} (h : s.lcy.adv = none) : advanceCloseNow s = s ∧ advanceCommitNow s = s ∧ advanceDestroyNow s = s ∧
    advanceInstallNow s = s := by
  refine ⟨?_, ?_, ?_, ?_⟩
  · rw [advanceCloseNow, h]
  · rw [advanceCommitNow, h]
  · rw [advanceDestroyNow, h]
  · rw [advanceInstallNow, h]

theorem advanceInstallNow_tested {s : State} {a : Advance} (ha : s.lcy.adv = some a) (hm : s.cip.mode = .kat) : advanceInstallNow s = s := by
  unfold advanceInstallNow
  rw [ha]
  exact if_pos (.inr (.inr (.inr hm)))

/-- An advance that power loss cut short is under way again. -/
theorem advanceResumeNow_resumes {s : State} {k : Ticket} (ha : s.lcy.adv = none) (hk : s.fl.newTicket = some k)
    (hp : s.pwr.phase = .started ∨ (inSpillway s = true ∧ k.dest = 5)) : ∃ b, (advanceResumeNow s).lcy.adv = some b ∧ b.ticket = k ∧ b.uid = 0 ∧
      b.phase = (if lcState s = k.dest then 2 else 1) ∧ (advanceResumeNow s).lcy.fuses = s.lcy.fuses ∧ (advanceResumeNow s).ldg = s.ldg := by
  have hn : ¬ (s.pwr.phase ≠ .started ∧ (!(inSpillway s && decide (k.dest = 5))) = true) := by
    rintro ⟨h1, h2⟩
    rcases hp with h | ⟨h3, h4⟩
    · exact h1 h
    · rw [h3, decide_eq_true h4] at h2
      cases h2
  unfold advanceResumeNow
  rw [ha, hk]
  dsimp only
  rw [if_neg hn]
  generalize hy : ({ s with lcy := _ } : State) = y
  have hl : ∃ b, y.lcy.adv = some b ∧ b.ticket = k ∧ b.uid = 0 ∧ b.phase = (if lcState s = k.dest then 2 else 1) ∧
      y.lcy.fuses = s.lcy.fuses ∧ y.ldg = s.ldg := by
    rw [← hy]
    refine ⟨_, rfl, rfl, rfl, ?_, rfl, rfl⟩
    simp only [decide_eq_true_eq]
  have hlog := stageAdvance_logOnly y 5 (if decide (lcState s = k.dest) then 3 else 1) k
  rw [hlog.lcy, hlog.ldg]
  exact hl

theorem advanceResumeNow_waits {s : State} {k : Ticket} (hk : s.fl.newTicket = some k) (hp : s.pwr.phase ≠ .started)
    (h : inSpillway s = false ∨ k.dest ≠ 5) : advanceResumeNow s = s := by
  unfold advanceResumeNow
  rw [hk]
  split
  · next k' _ hk' =>
    cases hk'
    refine if_pos ⟨hp, ?_⟩
    rcases h with h | h
    · rw [h]
      rfl
    · rw [decide_eq_false h, Bool.and_false]
      rfl
  · rfl

theorem advanceResumeNow_none {s : State} (h : s.lcy.adv ≠ none ∨ s.fl.newTicket = none) : advanceResumeNow s = s := by
  unfold advanceResumeNow
  split
  · next k ha hk =>
    rcases h with h | h
    · exact absurd ha h
    · rw [hk] at h
      cases h
  · rfl

/-! ### Debug sessions (R274, R275) -/

/-- What the opening of a session leaves. -/
structure DebugOpened (s t : State) (st : DbgState) (tok : BitVec 64) (win : Nat) : Prop where
  dbg : t.lcy.dbg = st
  token : t.lcy.dbgToken = tok
  window : t.lcy.dbgEndUs = s.clk.nowUs + win * 60000000
  due : t.lcy.dbgDue = none
  opens : t.lcy.dbgOpens = sat 32 (s.lcy.dbgOpens + 1)
  nodes : t.key.nodes = s.key.nodes.map fun p => (p.1, if p.1 = 0 ∨ p.1 = 3 ∨ p.1 = 4 then p.2 else { p.2 with loaded := false })
  fuses : t.lcy.fuses = s.lcy.fuses
  ldg : t.ldg = s.ldg

theorem DebugOpened.of_logOnly {s t u : State} {st : DbgState} {tok : BitVec 64} {win : Nat} (h : DebugOpened s t st tok win) (k : LogOnly t u) :
    DebugOpened s u st tok win := by
  obtain ⟨r, j, p, rfl⟩ := k
  obtain ⟨h1, h2, h3, h4, h5, h6, h7, h8⟩ := h
  exact ⟨h1, h2, h3, h4, h5, h6, h7, h8⟩

theorem debugOpenNow_opens {s : State} {st : DbgState} {tok : BitVec 64} {win : Nat} (h : s.lcy.dbgDue = some (st, tok, win)) :
    DebugOpened s (debugOpenNow s) st tok win := by
  unfold debugOpenNow
  rw [h]
  dsimp only
  generalize hy : ({ s with key := _, lcy := _ } : State) = y
  have ho : DebugOpened s y st tok win := by
    rw [← hy]
    exact ⟨rfl, rfl, rfl, rfl, rfl, rfl, rfl, rfl⟩
  have hz := ho.of_logOnly (stageLife_logOnly y 7 0 (dbgCode st) 0 (leBytes tok.toNat 8))
  split
  · exact hz.of_logOnly (finishNow_ringOnly _ _ _ _ _).logOnly
  · exact hz

/-- What the end of a session leaves. -/
theorem debugWindow_closes {s : State} (hd : s.lcy.dbg ≠ .locked) (hw : s.lcy.dbgEndUs ≤ s.clk.nowUs) : (debugWindow s).lcy.dbg = .locked ∧
    (debugWindow s).lcy.dbgLastClose = 1 ∧ (debugWindow s).lcy.dbgToken = 0 ∧ (debugWindow s).key.ready = false ∧
    (debugWindow s).key.nodes = s.key.nodes ∧ (debugWindow s).lcy.fuses = s.lcy.fuses ∧ (debugWindow s).ldg = s.ldg := by
  unfold debugWindow
  rw [if_pos ⟨hd, hw⟩]
  unfold debugClose
  rw [if_neg hd]
  obtain ⟨r, j, p, h⟩ := stageLife_logOnly s 8 (dbgCode s.lcy.dbg) 0 1 (leBytes s.lcy.dbgToken.toNat 8)
  rw [h]
  exact ⟨rfl, rfl, rfl, rfl, rfl, rfl, rfl⟩

theorem debugWindow_stays {s : State} (h : s.lcy.dbg = .locked ∨ s.clk.nowUs < s.lcy.dbgEndUs) : debugWindow s = s := by
  refine if_neg ?_
  rintro ⟨h1, h2⟩
  rcases h with h | h
  · exact h1 h
  · omega

/-- After the reload every node is present. -/
theorem armReload_loads (s : State) : (armReload s).key.ready = true ∧
    (armReload s).key.nodes.map (fun p => (p.1, p.2.st, p.2.key, p.2.uses)) = s.key.nodes.map (fun p => (p.1, p.2.st, p.2.key, p.2.uses)) ∧
    (∀ p ∈ (armReload s).key.nodes, p.2.st ≠ .invalid → p.2.loaded = true) ∧ (armReload s).ldg = s.ldg := by
  unfold armReload
  dsimp only
  generalize hy : ({ s with key := _ } : State) = y
  obtain ⟨r, g, hk⟩ := keyDone_done y
  rw [hk, ← hy]
  refine ⟨rfl, ?_, fun p hp hst => ?_, rfl⟩
  · exact List.map_map
  · obtain ⟨q, -, rfl⟩ := List.mem_map.1 hp
    exact decide_eq_true hst

theorem armLoaded_reloads {s : State} (ok : Bool) (hr : s.key.ready = false) (h1 : s.pwr.phase ≠ .aonInit) (h2 : s.pwr.phase ≠ .optLoad)
    (hn : s.key.nodes ≠ []) : armLoaded s ok = releaseHeld (armReload s) := by
  have h : ¬ (s.key.ready = true ∨ s.pwr.phase = .aonInit ∨ s.pwr.phase = .optLoad) := by simp [hr, h1, h2]
  unfold armLoaded
  rw [if_neg h, if_neg (by simpa using hn)]

theorem exec_advanceClose (s : State) : exec .advanceClose s = .next (advanceCloseNow s) := rfl
theorem exec_advanceCommit (s : State) : exec .advanceCommit s = .next (advanceCommitNow s) := rfl
theorem exec_advanceDestroy (s : State) : exec .advanceDestroy s = .next (advanceDestroyNow s) := rfl
theorem exec_advanceInstall (s : State) : exec .advanceInstall s = .next (advanceInstallNow s) := rfl
theorem exec_advanceResume (s : State) : exec .advanceResume s = .next (advanceResumeNow s) := rfl
theorem exec_debugOpen (s : State) : exec .debugOpen s = .next (debugOpenNow s) := rfl
theorem exec_debugWindowEnd (s : State) : exec .debugWindowEnd s = .next (debugWindow s) := rfl

/-- Settles O59, phase by phase: `advanceCloseNow_closes`, `fused_spec` with `zeroArmature_empties`, `advanceDestroyNow_destroys`,
`advanceInstallNow_installs`; a session opens by `debugOpenNow_opens` and ends by `debugWindow_closes`. -/
theorem advanceAndDebug : Obligations.AdvanceAndDebug := by
  unfold Obligations.AdvanceAndDebug
  refine ⟨fun s a k => ?_, fun s st tok win => ?_⟩
  · intro emptied
    rw [exec_advanceClose, exec_advanceCommit, exec_advanceDestroy, exec_advanceInstall, exec_advanceResume]
    refine ⟨fun ha hk h1 hd hr => ⟨_, rfl, ?_⟩, fun ha hk h1 hd => ⟨_, rfl, ?_⟩, fun ha hk h2 => ⟨_, rfl, ?_⟩,
      fun ha _ hm => congrArg _ (advanceInstallNow_tested ha hm), fun ha hk he hm h3 => ⟨_, rfl, ?_⟩, fun ha => ?_,
      fun ha hk hp => ?_, fun hk hp h => congrArg _ (advanceResumeNow_waits hk hp h), fun h => congrArg _ (advanceResumeNow_none h)⟩
    · have hf : (advanceCloseNow s).lcy.fuses = s.lcy.fuses := (advanceCloseNow_keeps (Keeps.refl s)).fuses
      obtain ⟨hadv, hprog, hshut, hbooks⟩ := advanceCloseNow_closes ha hk h1 hd hr
      refine ⟨hadv, hprog, hf, hshut, fun ho => ?_⟩
      obtain ⟨hA, hrec, hnew⟩ := hbooks ho
      obtain ⟨b1, b2, b3, b4, b5⟩ := closeBuckets_closes s.ldg.cA a.ticket.disposition
      refine ⟨?_, ?_, ?_, ?_, ?_, hrec, hnew⟩ <;> rw [hA]
      · exact b1
      · exact b2
      · exact b3
      · exact b4
      · exact b5
    · rw [advanceCommitNow_eq ha hk h1 hd]
      have hempty := zeroArmature_empties (fused s a)
      obtain ⟨r, j, p, l, f, hf, hfuses, hadv, hA, hB⟩ := fused_spec s a
      have hbusy : ∀ i, nodeBusy (fused s a) i = nodeBusy s i := fun i => by
        rw [hf]
        rfl
      have hkey : (fused s a).key = s.key := by rw [hf]
      have hnodes := hempty.before hkey hbusy
      have hplinth := hempty.plinth
      obtain ⟨j', p', k', c', ks, hz⟩ := hempty.use
      generalize zeroArmature (fused s a) = t at hnodes hplinth hz
      rw [hf] at hz
      have hlcy : t.lcy = l := by rw [hz]
      have hoA : t.fl.optA = f.optA := by rw [hz]
      have hoB : t.fl.optB = f.optB := by rw [hz]
      have hldg : t.ldg = s.ldg := by rw [hz]
      rw [hlcy, hoA, hoB, hldg]
      exact ⟨hfuses, hadv, hplinth, hnodes, hA, hB, rfl⟩
    · obtain ⟨h1, h2, h3, h4, h5, h6, h7⟩ := advanceDestroyNow_destroys ha hk h2
      exact ⟨h1, h2, h3, h4, h5, h6, h7⟩
    · have hf : (advanceInstallNow s).lcy.fuses = s.lcy.fuses := (advanceInstallNow_keeps (Keeps.refl s)).fuses
      obtain ⟨⟨h1, h2, h3, h4⟩, hadv, hprog⟩ := advanceInstallNow_installs ha hk he hm h3
      refine ⟨hadv, hprog, h1, h2, hf, fun hlo hhi => h3 ⟨hlo, hhi⟩, fun h => h4 fun hc => ?_⟩
      omega
    · obtain ⟨h1, h2, h3, h4⟩ := advance_idle ha
      exact ⟨congrArg _ h1, congrArg _ h2, congrArg _ h3, congrArg _ h4⟩
    · obtain ⟨b, h⟩ := advanceResumeNow_resumes ha hk hp
      exact ⟨_, b, rfl, h⟩
  · rw [exec_debugOpen, exec_debugWindowEnd]
    refine ⟨fun h => ⟨_, rfl, ?_⟩, fun h => ?_, fun hd hw => ⟨_, rfl, debugWindow_closes hd hw⟩, fun h => congrArg _ (debugWindow_stays h),
      fun hr h1 h2 hn ok => ⟨armReload s, ?_, armReload_loads s⟩⟩
    · obtain ⟨h1, h2, h3, h4, h5, h6, h7, h8⟩ := debugOpenNow_opens h
      exact ⟨h1, h2, h3, h4, h5, h6, h7, h8⟩
    · rw [debugOpenNow, h]
    · rw [exec_armatureLoadDone, armLoaded_reloads ok hr h1 h2 hn]

end Sys2Proof.Machine
end
